-- ==== Sys2Proof/Word.lean ====
section
/-! DEFINITION. The word types of the machine and their plainest arithmetic. -/

namespace Sys2Proof

/-- A scalar register or a state word: 64 bits (R43). -/
abbrev Word := BitVec 64

/-- One byte of memory. -/
abbrev Byte := BitVec 8

/-- One of the two 32-bit words of a bundle (R29). -/
abbrev Half := BitVec 32

/-- The number of bytes in a cache line (R373). -/
abbrev lineBytes : Nat := 64

end Sys2Proof
end

