-- ==== Sys2Proof/Syntax.lean ====
section
/-! DEFINITION. The instructions and device events of the Shalith as syntax: the operands of every C-slot and A-slot
instruction of R38 and R39 as the encoding gives them, and one constructor for each event row of the opcode table,
with the operands that say which queue, thread or line the event is about. -/

namespace Sys2Proof

/-- The name of a thread: its tenant and its rank in that tenant (R268, R286). -/
structure ThreadId where
  tenant : BitVec 4
  rank : BitVec 24
deriving DecidableEq, Repr, Inhabited

/-- An immediate of an instruction marked L (R31): the short field of the form, or the literal of a lone bundle. -/
inductive Imm (n : Nat) where
  | short (v : BitVec n)
  | lit (v : BitVec 32)
deriving DecidableEq, Repr

/-- The access of `ld`, field Z (R184). -/
inductive LoadSize where
  | b | h | w | d | bu | hu | wu
deriving DecidableEq, Repr

/-- The size of `st`, `rst` and the element width EW of vector accesses: 1, 2, 4 or 8 bytes (R184, R188, R196). -/
inductive Size where
  | b | h | w | d
deriving DecidableEq, Repr

/-- The operations of atomics at the home, field FN (R191). -/
inductive AmoOp where
  | add | and | or | xor | min | max | minu | maxu | swap | fadd
deriving DecidableEq, Repr

/-- The size of an atomic, MOD bits 1:0 (R191). -/
inductive AmoSize where
  | w | d
deriving DecidableEq, Repr

/-- The element format of a commutative range (R194). -/
inductive RangeFmt where
  | s | b | i64
deriving DecidableEq, Repr

/-- The condition of a watch (R226). -/
inductive WatchCond where
  | any | eq | ne | geu
deriving DecidableEq, Repr

/-- Scalar floating-point types, field TY (R40). -/
inductive FpTy where
  | d | s | h | b
deriving DecidableEq, Repr

/-- The rounding field RM: 0 follows STS, 1 to 6 name a mode (R40). -/
inductive RmField where
  | sts | rne | rtz | rdn | rup | rna | sr
deriving DecidableEq, Repr

/-- Vector element types, field TY (R40). -/
inductive VTy where
  | s | d | h | b | i8 | i16 | i32 | i64
deriving DecidableEq, Repr

/-- The relations of `vcmp` (R103). -/
inductive CmpOp where
  | eq | ne | lt | le | ltu | leu
deriving DecidableEq, Repr

/-- The narrow formats of `vpack` and `vunpk` (R105). -/
inductive NarrowFmt where
  | e4m3 | e5m2 | d8 | e2m1 | i4
deriving DecidableEq, Repr

/-- The reductions of `vred` (R106). -/
inductive RedOp where
  | sum | min | max
deriving DecidableEq, Repr

/-- The source and destination codes of `fcvt` (R97). -/
inductive CvtTy where
  | d | s | h | b | i32 | i64
deriving DecidableEq, Repr

/-- The mechanisms of R312, in the order the table gives them. -/
inductive Mechanism where
  | dramEcc | secded | parity | crc | residue
deriving DecidableEq, Repr

/-- Where an error that is detected and not corrected lies (R313). -/
inductive ErrorSite where
  /-- a line of memory, by its physical address -/
  | line (addr : Nat)
  /-- the same in an L2 slice -/
  | l2Line (addr : Nat)
  /-- the state of a thread -/
  | thread (t : ThreadId)
  /-- a warp slot of a cluster's loom -/
  | warp (cl : BitVec 7) (w : BitVec 2)
  /-- the weft buffer of a cluster's loom -/
  | weft (cl : BitVec 7)
  /-- an accumulator tile of a cluster's loom, or its output -/
  | tile (cl : BitVec 7) (t : BitVec 3)
  /-- the logic of a core; `lost` says that a thread of it fails its checks -/
  | core (c : BitVec 10) (lost : List ThreadId)
  /-- a whole cluster -/
  | cluster (cl : BitVec 7)
  /-- the logic of a porter; `again` says that the fault recurs -/
  | porter (cl : BitVec 7) (n : BitVec 2) (again : Bool)
  /-- the logic of a loom; `again` says that the fault recurs -/
  | loom (cl : BitVec 7) (again : Bool)
  /-- a copy of a line, the only modified one, that an engine or another module held and lost (R305) -/
  | lostCopy (addr : Nat)
  /-- an error whose containment cannot run -/
  | uncontained
deriving DecidableEq, Repr

/-- One access of a host: a read, or a write with byte enables, inside one 64-byte line (R177). -/
inductive HostAccess where
  | read (addr len : Nat)
  /-- a byte that is `none` is not enabled -/
  | write (addr : Nat) (bytes : List (Option Byte)) (poisoned : Bool)
  /-- the same through CXL.io, on the selective stream of a tenant if `tee` names one (R295) -/
  | ioRead (tee : Option (BitVec 4)) (addr len : Nat)
  | ioWrite (tee : Option (BitVec 4)) (addr : Nat) (bytes : List (Option Byte))
deriving DecidableEq, Repr

/-- The faults that another module has found in a packet or an atomic sent to it: position, kind and detail (R170). -/
abbrev FarFaults := List (Nat × BitVec 8 × Nat)

/-- What an acknowledgement or a posted atomic of the queues is about: the n-th of this module's own, or the n-th of those that
another module has taken and now answers for, with the faults found there (R170, R193). -/
inductive Answered where
  | here (n : Nat)
  | far (n : Nat) (faults : FarFaults)
deriving DecidableEq, Repr

/-- A page of 2^`lg` bytes (R290), by the number of one of its 4 KiB pages. -/
structure PageSpan where
  vpage : Nat
  lg : Nat
deriving DecidableEq, Repr

/-- A link whose flits carry a CRC (R312). -/
inductive LinkId where
  | yv (l : BitVec 4)
  /-- of the mesh, between two clusters -/
  | mesh (a b : BitVec 7)
  /-- between two dies -/
  | die (a b : BitVec 3)
deriving DecidableEq, Repr

/-- An access to a word of BAR 0 that has no event of its own (R322). -/
inductive BarAccess where
  | write (v : Word)
  | write4 (v : BitVec 32)
  | read (len : Nat)
deriving DecidableEq, Repr

/-- One migration command of the weighmaster (R238). -/
structure MoveCmd where
  src : BitVec 10
  dst : BitVec 10
  count : Nat
deriving DecidableEq, Repr

/-- A dray element or a posted atomic from another module: `none` is `rst` (R165, R334). -/
structure FarElem where
  va : Nat
  size : Size
  op : Option AmoOp
  val : Word
deriving DecidableEq, Repr

/-- What another module asks for at an address here (R333, R334): `none` is a compare-and-swap. -/
inductive FabricOp where
  | read (len : Nat)
  | write (bytes : List Byte)
  | atomic (op : Option AmoOp) (z : AmoSize) (expect new : Word)
  | packet (elems : List FarElem)
deriving DecidableEq, Repr

/-- The colour that a packet or a flit carries: a tenant and its generation (R287, R332). -/
structure Colour where
  tn : BitVec 4
  gen : BitVec 4
deriving DecidableEq, Repr

/-- One access of a thread or engine of another module, of the tenant that its colour names there, to a range that tenant `tn`
of this module exports (R332, R333). -/
structure FabricAccess where
  modNum : BitVec 8
  colour : Colour
  tn : BitVec 4
  va : Nat
  op : FabricOp
deriving DecidableEq, Repr

/-- What comes back for an access that has left the module: its data, a refusal or a failure, or a poisoned line with its cause
(R333, R334, R361). -/
inductive FarAnswer where
  | data
  | refused
  | poisoned (cause : BitVec 16)
deriving DecidableEq, Repr

/-- The sensors of R338. -/
inductive Sensor where
  | power
  | inlet
  | health (word : BitVec 3)
deriving DecidableEq, Repr

/-- The operands OPER0 to OPER7 of a service request (R325, R327). -/
structure Opers where
  o0 : Word
  o1 : Word
  o2 : Word
  o3 : Word
  o4 : Word
  o5 : Word
  o6 : Word
  o7 : Word
deriving DecidableEq, Repr

/-- One constructor for each row of the opcode table. C-slot instructions stand first, then A-slot instructions, then
the device events. The P bit of word 0 is no operand: it says whether the bundle holds a second instruction (R29). -/
inductive Instr where
  /-- R83. Does nothing except advance PC. -/
  | nop
  /-- R84. Commits the chunk with this bundle as its last, writes a breakpoint record and stops the thread. -/
  | brk (n : BitVec 9)
  /-- R81. Branches PC-relative when xS1 equals xS2. -/
  | bEq (a b : BitVec 5) (off : Imm 15)
  /-- R81. Branches PC-relative when xS1 differs from xS2. -/
  | bNe (a b : BitVec 5) (off : Imm 15)
  /-- R81. Branches PC-relative when xS1 is less than xS2, signed. -/
  | bLt (a b : BitVec 5) (off : Imm 15)
  /-- R81. Branches PC-relative when xS1 is at least xS2, signed. -/
  | bGe (a b : BitVec 5) (off : Imm 15)
  /-- R81. Branches PC-relative when xS1 is less than xS2, unsigned. -/
  | bLtu (a b : BitVec 5) (off : Imm 15)
  /-- R81. Branches PC-relative when xS1 is at least xS2, unsigned. -/
  | bGeu (a b : BitVec 5) (off : Imm 15)
  /-- R82. Writes the return address to xD and jumps PC-relative. -/
  | jal (d : BitVec 5) (off : Imm 14)
  /-- R82. Writes the return address to xD and jumps to xS1 plus an offset. -/
  | jalr (d a : BitVec 5) (off : Imm 14)
  /-- R184. Loads 1, 2, 4 or 8 bytes into xD with sign or zero extension. -/
  | ld (z : LoadSize) (d a : BitVec 5) (off : Imm 12)
  /-- R184. Stores the low 1, 2, 4 or 8 bytes of xD within the chunk. -/
  | st (z : Size) (d a : BitVec 5) (off : Imm 12)
  /-- R185. Requests the line into the core's L1 without faulting. -/
  | prfL1 (a : BitVec 5) (off : Imm 12)
  /-- R185. Requests the line into the core's own L2 slice without faulting. -/
  | prfL2 (a : BitVec 5) (off : Imm 12)
  /-- R186. Writes zero to a whole 64-byte line and clears its poison at commit. -/
  | zline (a : BitVec 5) (off : Imm 12)
  /-- R188. Loads vector elements contiguously or with a stride. -/
  | vld (z : Size) (d a b : BitVec 5) (k : BitVec 3) (off : BitVec 32)
  /-- R188. Stores vector elements contiguously or with a stride. -/
  | vst (z : Size) (d a b : BitVec 5) (k : BitVec 3) (off : BitVec 32)
  /-- R189. Gathers vector elements through an index vector. -/
  | vldx (z : Size) (d a b : BitVec 5) (k : BitVec 3) (off : BitVec 32)
  /-- R189. Scatters vector elements through an index vector. -/
  | vstx (z : Size) (d a b : BitVec 5) (k : BitVec 3) (off : BitVec 32)
  /-- R190. Loads and decodes typed elements by the pointer tag, with block scales. -/
  | vldt (d a b : BitVec 5) (k : BitVec 3) (off : BitVec 32)
  /-- R190. Encodes and stores typed elements by the pointer tag, with block scales. -/
  | vstt (d a b : BitVec 5) (k : BitVec 3) (off : BitVec 32)
  /-- R191. Ends the chunk and performs a read-modify-write at the home, returning the old value. -/
  | amo (op : AmoOp) (z : AmoSize) (d a b : BitVec 5)
  /-- R192. Ends the chunk and performs a compare-and-swap at the home, returning the old value. -/
  | cas (z : AmoSize) (d a b : BitVec 5)
  /-- R193. Ends the chunk and posts an atomic to the home's write queue, returning nothing. -/
  | amop (op : AmoOp) (z : AmoSize) (a b : BitVec 5)
  /-- R194. Declares or removes a commutative range after the commit. -/
  | crange (f : RangeFmt) (d a b : BitVec 5)
  /-- R195. Adds an operand into the core's partial of a commutative range element at commit. -/
  | radd (f : RangeFmt) (a b : BitVec 5)
  /-- R196. Makes a remote store element that enters a dray at commit. -/
  | rst (z : Size) (a b : BitVec 5)
  /-- R197. Ends the chunk and makes every dray holding the thread's elements depart. -/
  | dflush
  /-- R196. Makes a remote atomic element that enters a dray at commit. -/
  | ramo (op : AmoOp) (z : AmoSize) (a b : BitVec 5)
  /-- R198. Ends the chunk with no other effect. -/
  | chunk
  /-- R172. Makes the thread's drays depart and parks until its elements are applied or faulted. -/
  | fenceD
  /-- R172. Parks until every earlier engine command of the thread has completed. -/
  | fenceE
  /-- R172. Parks until drays, engines, amops, host atomics and I/O stores are all done. -/
  | fenceA
  /-- R200. Ends the prior chunk, snapshots state and opens an explicit region. -/
  | xbegin
  /-- R201. Commits the explicit region and writes its status to xD. -/
  | xend (d : BitVec 5)
  /-- R202. Fails the explicit region at once with a given code. -/
  | xabort (n : BitVec 4)
  /-- R205. Binds or unbinds a queue handle to a descriptor after the commit. -/
  | qbind (q : BitVec 3) (a : BitVec 5)
  /-- R206. Reserves a producer slot and waits until it is free. -/
  | qwaitF (q : BitVec 3)
  /-- R206. Reserves a consumer slot and waits until it holds an element. -/
  | qwaitE (q : BitVec 3)
  /-- R208. Releases a consumed slot by writing its stamp. -/
  | qadvH (q : BitVec 3)
  /-- R208. Publishes a produced slot by writing its stamp. -/
  | qadvT (q : BitVec 3)
  /-- R207. Loads a doubleword of the reserved queue slot. -/
  | qld (d : BitVec 5) (q : BitVec 3) (i : BitVec 6)
  /-- R207. Stores a doubleword into the reserved queue slot. -/
  | qst (d : BitVec 5) (q : BitVec 3) (i : BitVec 6)
  /-- R209. Returns the state of a queue handle. -/
  | qstat (d : BitVec 5) (q : BitVec 3)
  /-- R212. Pushes a byte copy command to a porter. -/
  | pcopy (d a : BitVec 5) (n : BitVec 2)
  /-- R212. Pushes a format-converting copy command to a porter. -/
  | pcopyt (d a : BitVec 5) (n : BitVec 2)
  /-- R212. Pushes an indexed gather command to a porter. -/
  | pgath (d a : BitVec 5) (n : BitVec 2)
  /-- R212. Pushes an indexed scatter command to a porter. -/
  | pscat (d a : BitVec 5) (n : BitVec 2)
  /-- R212. Pushes an indexed scatter-add command to a porter. -/
  | pscadd (d a : BitVec 5) (n : BitVec 2)
  /-- R212. Pushes a pattern fill command to a porter. -/
  | pfill (d a : BitVec 5) (n : BitVec 2)
  /-- R120. Pushes a command that loads a warp slot from memory. -/
  | twarp (w : BitVec 2) (a b : BitVec 5)
  /-- R121. Pushes a command that makes an accumulator tile clear. -/
  | tzero (t : BitVec 3)
  /-- R120. Pushes a command that loads the weft buffer from memory. -/
  | tlda (a b : BitVec 5)
  /-- R122. Pushes a command that multiplies weft by warp into a tile. -/
  | tmul (t : BitVec 3) (w : BitVec 2)
  /-- R122. Pushes a command that multiplies weft by the transposed warp. -/
  | tmult (t : BitVec 3) (w : BitVec 2)
  /-- R123. Pushes an outer-product accumulation command. -/
  | touter (t : BitVec 3) (a b : BitVec 5)
  /-- R124. Pushes a command adding a vector to every row of a tile. -/
  | tewBias (t : BitVec 3) (a : BitVec 5)
  /-- R124. Pushes a command scaling every tile element. -/
  | tewScale (t : BitVec 3) (a : BitVec 5)
  /-- R124. Pushes a relu command on a tile. -/
  | tewRelu (t : BitVec 3)
  /-- R124. Pushes a gelu command on a tile. -/
  | tewGelu (t : BitVec 3)
  /-- R124. Pushes a silu command on a tile. -/
  | tewSilu (t : BitVec 3)
  /-- R124. Pushes a clamp command on a tile. -/
  | tewClamp (t : BitVec 3) (a b : BitVec 5)
  /-- R125. Pushes a command writing the column sums of a tile to memory. -/
  | tred (t : BitVec 3) (a : BitVec 5)
  /-- R126. Pushes a command storing part of a tile in a chosen format. -/
  | tst (t : BitVec 3) (a b : BitVec 5)
  /-- R127. Pushes a command that writes its sequence number once earlier commands complete. -/
  | tsync (a : BitVec 5)
  /-- R145. Pushes a command that latches POLICY and turns daybook recording on. -/
  | trecOn
  /-- R145. Pushes a command that turns daybook recording off. -/
  | trecOff
  /-- R147. Pushes a command that runs the recorded adjoints backwards into gradients. -/
  | unwind (a : BitVec 5)
  /-- R146. Pushes a command that formats the daybook. -/
  | tdrop
  /-- R251. Arms a watch slot on a doubleword with a condition. -/
  | watch (c : WatchCond) (n : BitVec 2) (a b : BitVec 5)
  /-- R252. Disarms a watch slot and clears its latch. -/
  | unwatch (n : BitVec 2)
  /-- R253. Parks until a watch latch is set, a deadline passes or a tstart. -/
  | wait (d a : BitVec 5)
  /-- R254. Commits the chunk and sets the thread's yield state. -/
  | yield
  /-- R256. Ends the thread after its chunk commits. -/
  | halt
  /-- R256. Ends the thread and keeps its state in a retained docket. -/
  | haltRetain
  /-- R255. Sets LIVE and clears the unmarked x registers. -/
  | live (a : BitVec 5)
  /-- R257. Creates a child thread in the parent's crew with full rights over it. -/
  | spawn (d a b : BitVec 5)
  /-- R258. Parks until the launch's predecessor is complete. -/
  | pwait
  /-- R258. Records that the launch permits its successors to start early. -/
  | smay
  /-- R259. Arrives at a barrier word and parks until its phase changes. -/
  | bar (d a b : BitVec 5)
  /-- R260. Joins or leaves a domain in one of four domain slots. -/
  | dmem (d a : BitVec 5)
  /-- R261. Arrives at a domain barrier and parks until the phase completes. -/
  | dbar (d a : BitVec 5)
  /-- R264. Claims lane groups for a vector context. -/
  | vclaim (d a : BitVec 5)
  /-- R264. Returns every lane group of the vector context. -/
  | vrel
  /-- R264. Grows or shrinks the vector context. -/
  | vreneg (d a : BitVec 5)
  /-- R265. Wakes a thread through a watch slot latch and optionally waits. -/
  | xchg (d a b : BitVec 5)
  /-- R266. Appends a launch record to the caller's host queue and writes its notify word. -/
  | launch (d a : BitVec 5)
  /-- R277. Stops a target thread when the indenture grants STOP. -/
  | tstop (d a : BitVec 5)
  /-- R279. Resumes, releases from a wait or frees a target thread by its state. -/
  | tstart (d a : BitVec 5)
  /-- R280. Reads a register or state word of a stopped or retained thread. -/
  | trds (d a : BitVec 5) (item : BitVec 6)
  /-- R281. Writes a register or state word of a stopped thread. -/
  | twrs (d a b : BitVec 5) (item : BitVec 6)
  /-- R282. Appends an indenture entry to a grantee's table. -/
  | igrant (d a : BitVec 5)
  /-- R283. Removes one indenture entry by moving the last entry into its place. -/
  | irevoke (d a : BitVec 5)
  /-- R284. Returns a rank's state and the caller's rights over it. -/
  | iquery (d a : BitVec 5)
  /-- R85. Writes a sign-extended immediate to xD. -/
  | movi (d : BitVec 5) (imm : Imm 20)
  /-- R85. Writes an immediate into the high 32 bits of xD. -/
  | movhi (d : BitVec 5) (imm : Imm 20)
  /-- R86. Reads a state word into xD. -/
  | srd (d i : BitVec 5)
  /-- R86. Writes a checked value to a state word. -/
  | swr (a i : BitVec 5)
  /-- R87. Writes the module time in nanoseconds to xD. -/
  | time (d : BitVec 5)
  /-- R88. Adds two registers modulo 2^64. -/
  | add (d a b : BitVec 5)
  /-- R88. Subtracts two registers modulo 2^64. -/
  | sub (d a b : BitVec 5)
  /-- R88. Bitwise AND of two registers. -/
  | and (d a b : BitVec 5)
  /-- R88. Bitwise OR of two registers. -/
  | or (d a b : BitVec 5)
  /-- R88. Bitwise XOR of two registers. -/
  | xor (d a b : BitVec 5)
  /-- R88. Shifts left by the register count mod 64. -/
  | shl (d a b : BitVec 5)
  /-- R88. Shifts right logically by the register count mod 64. -/
  | shr (d a b : BitVec 5)
  /-- R88. Shifts right arithmetically by the register count mod 64. -/
  | sar (d a b : BitVec 5)
  /-- R88. Sets 1 when a is less than b, signed. -/
  | slt (d a b : BitVec 5)
  /-- R88. Sets 1 when a is less than b, unsigned. -/
  | sltu (d a b : BitVec 5)
  /-- R88. Signed minimum of two registers. -/
  | min (d a b : BitVec 5)
  /-- R88. Signed maximum of two registers. -/
  | max (d a b : BitVec 5)
  /-- R88. Unsigned minimum of two registers. -/
  | minu (d a b : BitVec 5)
  /-- R88. Unsigned maximum of two registers. -/
  | maxu (d a b : BitVec 5)
  /-- R88. Selects a or b by whether c is nonzero. -/
  | sel (d a b c : BitVec 5)
  /-- R88. Low 64 bits of the product. -/
  | mul (d a b : BitVec 5)
  /-- R88. High 64 bits of the signed product. -/
  | mulh (d a b : BitVec 5)
  /-- R88. High 64 bits of the unsigned product. -/
  | mulhu (d a b : BitVec 5)
  /-- R89. Signed quotient rounded toward zero, never faulting. -/
  | div (d a b : BitVec 5)
  /-- R89. Unsigned quotient, never faulting. -/
  | divu (d a b : BitVec 5)
  /-- R89. Signed remainder, never faulting. -/
  | rem (d a b : BitVec 5)
  /-- R89. Unsigned remainder, never faulting. -/
  | remu (d a b : BitVec 5)
  /-- R88. Counts leading zero bits. -/
  | clz (d a : BitVec 5)
  /-- R88. Counts trailing zero bits. -/
  | ctz (d a : BitVec 5)
  /-- R88. Counts one bits. -/
  | popc (d a : BitVec 5)
  /-- R88. Reverses the byte order. -/
  | bswap (d a : BitVec 5)
  /-- R90. Extracts a zero-extended bit field. -/
  | ext (d a : BitVec 5) (pos lm : BitVec 6)
  /-- R90. Adds a sign-extended immediate. -/
  | addi (d a : BitVec 5) (imm : BitVec 16)
  /-- R90. ANDs a zero-extended immediate. -/
  | andi (d a : BitVec 5) (imm : BitVec 16)
  /-- R90. ORs a zero-extended immediate. -/
  | ori (d a : BitVec 5) (imm : BitVec 16)
  /-- R90. XORs a zero-extended immediate. -/
  | xori (d a : BitVec 5) (imm : BitVec 16)
  /-- R90. Shifts left by an immediate count. -/
  | shli (d a : BitVec 5) (sh : BitVec 6)
  /-- R90. Shifts right logically by an immediate count. -/
  | shri (d a : BitVec 5) (sh : BitVec 6)
  /-- R90. Shifts right arithmetically by an immediate count. -/
  | sari (d a : BitVec 5) (sh : BitVec 6)
  /-- R90. Sets 1 when a is less than the immediate, signed. -/
  | slti (d a : BitVec 5) (imm : BitVec 16)
  /-- R90. Sets 1 when a is less than the sign-extended immediate, unsigned. -/
  | sltiu (d a : BitVec 5) (imm : BitVec 16)
  /-- R91. Adds a byte offset to a fat pointer keeping its tag. -/
  | padd (d a b : BitVec 5)
  /-- R92. Adds an index scaled by the tag's element size. -/
  | pidx (d a b : BitVec 5)
  /-- R94. Returns the format, block and element size of a pointer tag. -/
  | pfmt (d a : BitVec 5)
  /-- R94. Clears the tag bits of a pointer. -/
  | pclr (d a : BitVec 5)
  /-- R93. Sets a pointer's format and block tag from the encoding. -/
  | ptag (d a : BitVec 5) (fmt : BitVec 4) (blk : BitVec 3)
  /-- R95. Scalar floating-point add with one rounding. -/
  | fadd (ty : FpTy) (rm : RmField) (d a b : BitVec 5)
  /-- R95. Scalar floating-point subtract. -/
  | fsub (ty : FpTy) (rm : RmField) (d a b : BitVec 5)
  /-- R95. Scalar floating-point multiply. -/
  | fmul (ty : FpTy) (rm : RmField) (d a b : BitVec 5)
  /-- R95. Scalar floating-point divide. -/
  | fdiv (ty : FpTy) (rm : RmField) (d a b : BitVec 5)
  /-- R95. Scalar floating-point square root. -/
  | fsqrt (ty : FpTy) (rm : RmField) (d a : BitVec 5)
  /-- R95. Fused multiply-add with one rounding. -/
  | fma (ty : FpTy) (rm : RmField) (d a b c : BitVec 5)
  /-- R95. Negated fused multiply-add with one rounding. -/
  | fnma (ty : FpTy) (rm : RmField) (d a b c : BitVec 5)
  /-- R96. Floating-point minimum by R62. -/
  | fmin (ty : FpTy) (d a b : BitVec 5)
  /-- R96. Floating-point maximum by R62. -/
  | fmax (ty : FpTy) (d a b : BitVec 5)
  /-- R96. Floating-point equality compare. -/
  | feq (ty : FpTy) (d a b : BitVec 5)
  /-- R96. Floating-point less-than compare. -/
  | flt (ty : FpTy) (d a b : BitVec 5)
  /-- R96. Floating-point less-or-equal compare. -/
  | fle (ty : FpTy) (d a b : BitVec 5)
  /-- R96. Returns a one-bit class mask of a value. -/
  | fcls (ty : FpTy) (d a : BitVec 5)
  /-- R96. Replaces the sign bit of a with that of b. -/
  | fsgn (ty : FpTy) (d a b : BitVec 5)
  /-- R97. Converts between scalar float and integer types. -/
  | fcvt (dst src : CvtTy) (rm : RmField) (d a : BitVec 5)
  /-- R102. Element-wise vector add. -/
  | vadd (ty : VTy) (d a b : BitVec 5) (h1 h2 : Bool) (k : BitVec 3)
  /-- R102. Element-wise vector subtract. -/
  | vsub (ty : VTy) (d a b : BitVec 5) (h1 h2 : Bool) (k : BitVec 3)
  /-- R102. Element-wise vector multiply. -/
  | vmul (ty : VTy) (d a b : BitVec 5) (h1 h2 : Bool) (k : BitVec 3)
  /-- R102. Element-wise fused multiply-add into vD. -/
  | vfma (ty : VTy) (d a b : BitVec 5) (h1 h2 : Bool) (k : BitVec 3)
  /-- R102. Element-wise negated fused multiply-add into vD. -/
  | vfnma (ty : VTy) (d a b : BitVec 5) (h1 h2 : Bool) (k : BitVec 3)
  /-- R102. Element-wise vector divide. -/
  | vdiv (ty : VTy) (d a b : BitVec 5) (h1 h2 : Bool) (k : BitVec 3)
  /-- R102. Element-wise vector square root. -/
  | vsqrt (ty : VTy) (d a : BitVec 5) (h1 : Bool) (k : BitVec 3)
  /-- R102. Element-wise minimum. -/
  | vmin (ty : VTy) (d a b : BitVec 5) (h1 h2 : Bool) (k : BitVec 3)
  /-- R102. Element-wise maximum. -/
  | vmax (ty : VTy) (d a b : BitVec 5) (h1 h2 : Bool) (k : BitVec 3)
  /-- R102. Element-wise bitwise AND. -/
  | vand (ty : VTy) (d a b : BitVec 5) (h1 h2 : Bool) (k : BitVec 3)
  /-- R102. Element-wise bitwise OR. -/
  | vor (ty : VTy) (d a b : BitVec 5) (h1 h2 : Bool) (k : BitVec 3)
  /-- R102. Element-wise bitwise XOR. -/
  | vxor (ty : VTy) (d a b : BitVec 5) (h1 h2 : Bool) (k : BitVec 3)
  /-- R102. Element-wise shift left. -/
  | vshl (ty : VTy) (d a b : BitVec 5) (h1 h2 : Bool) (k : BitVec 3)
  /-- R102. Element-wise logical shift right. -/
  | vshr (ty : VTy) (d a b : BitVec 5) (h1 h2 : Bool) (k : BitVec 3)
  /-- R102. Element-wise arithmetic shift right. -/
  | vsar (ty : VTy) (d a b : BitVec 5) (h1 h2 : Bool) (k : BitVec 3)
  /-- R103. Compares elements into a mask register. -/
  | vcmp (c : CmpOp) (ty : VTy) (d : BitVec 3) (a b : BitVec 5) (h1 h2 : Bool) (k : BitVec 3)
  /-- R103. Selects every element from vA1 or vA2 by the mask. -/
  | vsel (ty : VTy) (d a b : BitVec 5) (h1 h2 : Bool) (k : BitVec 3)
  /-- R104. Converts elements between vector types, zeroing the rest of vD. -/
  | vcvt (dst src : VTy) (d a : BitVec 5) (h1 : Bool) (k : BitVec 3)
  /-- R105. Packs elements into narrow codes. -/
  | vpack (f : NarrowFmt) (ty : VTy) (inf : Bool) (d a : BitVec 5) (h1 : Bool) (k : BitVec 3)
  /-- R105. Unpacks narrow codes exactly into a wide type. -/
  | vunpk (f : NarrowFmt) (ty : VTy) (d a : BitVec 5) (h1 : Bool) (k : BitVec 3)
  /-- R106. Reduces elements in a pairwise tree into xD. -/
  | vred (op : RedOp) (ty : VTy) (d a : BitVec 5) (h1 : Bool) (k : BitVec 3)
  /-- R106. Computes a sequential prefix sum. -/
  | vscan (ty : VTy) (d a : BitVec 5) (h1 : Bool) (k : BitVec 3)
  /-- R107. Permutes elements through an index vector. -/
  | vperm (ty : VTy) (d a b : BitVec 5) (h1 h2 : Bool) (k : BitVec 3)
  /-- R107. Slides elements up by a register count. -/
  | vslideUp (ty : VTy) (d a b : BitVec 5) (h1 : Bool) (k : BitVec 3)
  /-- R107. Slides elements down by a register count. -/
  | vslideDn (ty : VTy) (d a b : BitVec 5) (h1 : Bool) (k : BitVec 3)
  /-- R107. Broadcasts an x register into active elements. -/
  | vbcast (ty : VTy) (d a : BitVec 5) (k : BitVec 3)
  /-- R107. Extracts one element into an x register. -/
  | vext (ty : VTy) (d a b : BitVec 5) (h1 : Bool)
  /-- R107. Inserts an x register into one element. -/
  | vins (ty : VTy) (d a b : BitVec 5)
  /-- R107. Moves active elements. -/
  | vmv (ty : VTy) (d a : BitVec 5) (h1 : Bool) (k : BitVec 3)
  /-- R108. Approximate reciprocal of each element. -/
  | vrcp (ty : VTy) (d a : BitVec 5) (h1 : Bool) (k : BitVec 3)
  /-- R108. Approximate reciprocal square root of each element. -/
  | vrsq (ty : VTy) (d a : BitVec 5) (h1 : Bool) (k : BitVec 3)
  /-- R108. Approximate base-2 exponential of each element. -/
  | vexp2 (ty : VTy) (d a : BitVec 5) (h1 : Bool) (k : BitVec 3)
  /-- R108. Approximate base-2 logarithm of each element. -/
  | vlog2 (ty : VTy) (d a : BitVec 5) (h1 : Bool) (k : BitVec 3)
  /-- R108. Approximate hyperbolic tangent of each element. -/
  | vtanh (ty : VTy) (d a : BitVec 5) (h1 : Bool) (k : BitVec 3)
  /-- R109. Bitwise AND of two mask registers. -/
  | vmand (d a b : BitVec 3)
  /-- R109. Bitwise OR of two mask registers. -/
  | vmor (d a b : BitVec 3)
  /-- R109. Bitwise XOR of two mask registers. -/
  | vmxor (d a b : BitVec 3)
  /-- R109. Bitwise NOT of a mask register. -/
  | vmnot (d a : BitVec 3)
  /-- R109. Counts the one bits of a mask register. -/
  | vmpop (d : BitVec 5) (a : BitVec 3)
  /-- R109. Returns the index of the lowest one bit of a mask. -/
  | vmfirst (d : BitVec 5) (a : BitVec 3)
  /-- R107. Writes each active element's index. -/
  | vid (ty : VTy) (d : BitVec 5) (k : BitVec 3)
  /-- R155. A chunk commits as one event when no conflict hit its read or write set. -/
  | chunkCommit (t : ThreadId)
  /-- R158. A solo chunk takes holds on its lines in ascending order, waiting for each. -/
  | heldChunk
  /-- R162. A third region attempt takes leases on its lines one at a time. -/
  | leaseAcquire
  /-- R162. LEASEMAX cycles after the first lease the region can no longer commit. -/
  | leaseExpiry
  /-- R163. A failed region restores its snapshot and scans to its xend. -/
  | fallThrough
  /-- R167. DAGE cycles after its first element a dray departs. -/
  | drayAgeExpiry (cl : BitVec 7) (n : Nat)
  /-- R168. A packet arrives at its home and its elements apply one per cycle. -/
  | drayPacketApply (n : Nat)
  /-- R170. The home's acknowledgement of a packet reaches the source cluster, or that of another module. -/
  | drayAcknowledgement (a : Answered)
  /-- R174. An amo or cas is performed at the line's home and returns the old value. -/
  | amoPerform (t : ThreadId)
  /-- R174. A posted atomic is performed at the home's write queue, or another module answers for one. -/
  | amopPerform (a : Answered)
  /-- R176. A partial line evicted from a core's slice goes to the home tagged with the core. -/
  | partialEviction (core : BitVec 10) (line : Nat)
  /-- R177. A host CXL.mem access to a device-homed line is one atomic event. -/
  | hostCxlMemAccess (head : BitVec 1) (acc : HostAccess)
  /-- R177. A host write invalidates the device's CXL.cache copy of a line. -/
  | hostLineInvalidate (head : BitVec 1) (acc : HostAccess)
  /-- R172. A fenced thread becomes ready once the last awaited event is observed. -/
  | fenceRelease (t : ThreadId)
  /-- R227. The home links a watch and tests its condition against the present value. -/
  | watchArmEvent (t : ThreadId)
  /-- R230. A wake reaches the watcher's home cluster and readies the thread. -/
  | wakeDelivery (n : Nat)
  /-- R229. Every 2,048 cycles the home re-reads a degraded host-line watch. -/
  | hostWatchRecheck (t : ThreadId) (n : BitVec 2)
  /-- R253. A timed wait's deadline passes and the thread is readied with CODE 2. -/
  | waitTimeout (t : ThreadId)
  /-- R223. A ready thread's wait count reaches 4,096 and rule 1 serves it. -/
  | starvationLimit (core : BitVec 10)
  /-- R234. Packing a parked thread into a docket completes after 40 cycles and frees its slot. -/
  | packComplete (t : ThreadId)
  /-- R237. A woken docket is given a free slot on its home cluster. -/
  | docketResume (t : ThreadId)
  /-- R238. Every 4,096 cycles the weighmaster reads occupancy and may issue moves. -/
  | weighmasterSample (moves : List MoveCmd)
  /-- R238. A docket move completes and held wakes and thread-state actions act. -/
  | moveComplete (t : ThreadId)
  /-- R324. A write to a queue's notify word wakes its factor thread, which starts reading a record. -/
  | notifyWrite (q : BitVec 6)
  /-- R240. The factor's read of a launch record's two lines completes. -/
  | launchRecordRead (q : BitVec 6)
  /-- R346. Validation ends, the record is accepted or refused and its status written. -/
  | launchValidated (q : BitVec 6)
  /-- R241. The foreman chooses a cluster for the first pending crew that may start. -/
  | crewPlacement
  /-- R240. A crew start reaches its cluster and its threads' slots are set up. -/
  | crewStart (n : Nat)
  /-- R347. The foreman observes an smay 100 cycles after its event. -/
  | smayObserved (n : Nat)
  /-- R242. All threads, commands and elements of a launch are done and DONE is written. -/
  | launchComplete (tn : BitVec 4) (lid : Nat)
  /-- R348. A predecessor completion reaches a cluster and releases pwait threads. -/
  | pwaitRelease (n : Nat)
  /-- R259. A bar arrival is performed at the barrier word's home. -/
  | barArrival (t : ThreadId)
  /-- R259. At a bar deadline the arrival is withdrawn and the waiter readied with TO. -/
  | barTimeout (t : ThreadId)
  /-- R261. A member arrives at a domain phase and its drays depart. -/
  | dbarArrival (t : ThreadId)
  /-- R262. A core raises its arrival on the row-and-column wires. -/
  | wireRaise (t : ThreadId)
  /-- R262. 24 cycles after the last raise the wire domain completes. -/
  | wireComplete (tn : BitVec 4) (n : Nat)
  /-- R263. A cluster begins a crier phase 8 cycles after its last member arrives. -/
  | crierBegin (tn : BitVec 4) (n : Nat) (cl : BitVec 7)
  /-- R263. A dissemination round message reaches its cluster. -/
  | crierMessage (n : Nat)
  /-- R263. An abort message breaks the phase and releases members with outcome 3. -/
  | crierAbort (n : Nat)
  /-- R261. A dbar deadline passes, withdrawing the arrival or breaking the phase. -/
  | dbarTimeout (t : ThreadId)
  /-- R246. A tenant whose every thread waits with no way to wake gets a deadlock record. -/
  | deadlockDetect (tn : BitVec 4)
  /-- R247. A silent pulse period writes a watchdog record, and a second stops the tenant. -/
  | pulsePeriodExpiry (tn : BitVec 4)
  /-- R276. A thread-state or indenture request acts at the target or table home. -/
  | threadStateAction (n : Nat)
  /-- R276. The result of a thread-state instruction reaches the caller. -/
  | threadStateResult (n : Nat)
  /-- R131. A pushed command arrives at the loom 12 cycles after issue. -/
  | loomCommandArrival (cl : BitVec 7)
  /-- R131. A loom command starts once arrival, side and dependences allow. -/
  | loomCommandStart (cl : BitVec 7)
  /-- R117. A loom command completes and LDONE is written. -/
  | loomCommandComplete (cl : BitVec 7) (seq : Nat)
  /-- R113. When the crew has halted and the queue is empty the loom writes STATE 3 and clears. -/
  | loomRelease (cl : BitVec 7)
  /-- R113. 64 cycles later the loom writes STATE 0 and the context is free. -/
  | loomReleaseComplete (cl : BitVec 7)
  /-- R130. LRES 1 reruns the stopped command from its start. -/
  | lresRetry (cl : BitVec 7)
  /-- R130. LRES 2 treats the stopped command as complete. -/
  | lresSkip (cl : BitVec 7)
  /-- R130. LRES 3 completes the stopped and every queued command without effect. -/
  | lresFlush (cl : BitVec 7)
  /-- R130. LRES 4 reruns the stopped command with the NaN check off. -/
  | lresRetryNoNan (cl : BitVec 7)
  /-- R132. Each 1,024-cycle window the governor admits cold looms and withholds cycles. -/
  | governorWindow (withheld : List (BitVec 7 × Nat))
  /-- R213. A porter starts a command and reads its index-list header. -/
  | porterCommandStart (cl : BitVec 7) (n : BitVec 2)
  /-- R211. A porter command completes with its completion write and PDONE. -/
  | porterCommandComplete (cl : BitVec 7) (n : BitVec 2)
  /-- R216. PRES 1 continues the stopped command from PFPOS. -/
  | presContinue (cl : BitVec 7) (n : BitVec 2)
  /-- R216. PRES 2 completes the stopped command with ABANDON. -/
  | presAbandon (cl : BitVec 7) (n : BitVec 2)
  /-- R216. PRES 3 abandons the stopped and every queued command. -/
  | presAbandonAll (cl : BitVec 7) (n : BitVec 2)
  /-- R206. A producer or consumer reservation is made at the descriptor's home. -/
  | queueReservation (t : ThreadId)
  /-- R208. A qadv writes its slot stamp after the commit. -/
  | stampWrite (t : ThreadId)
  /-- R299. A held record is written after its line is freed. -/
  | pendingRecordDelivery (tn : BitVec 4) (n : Nat)
  /-- R312. ECC or SECDED corrects an error and counts it. -/
  | correctedError (mech : Mechanism) (at_ : Nat)
  /-- R313. A detected uncorrected storage error is contained. -/
  | uncorrectableError (site : ErrorSite)
  /-- R313. A logic fault in a core or engine is detected and contained. -/
  | logicFault (site : ErrorSite)
  /-- R314. A failed DRAM row is remapped to a spare row. -/
  | dramRowRemap (region : Nat)
  /-- R312. Patrol scrub reads DRAM and SRAM to find latent faults. -/
  | patrolScrub (found : Option ErrorSite)
  /-- R312. A bus parity error replays the transfer or maps out the bus. -/
  | parityReplay (unit : ErrorSite) (failed : Bool)
  /-- R312. A flit CRC error replays the flit or sends the link to recovery. -/
  | flitReplay (link : LinkId) (failed : Bool)
  /-- R332. A YV link in recovery moves its lines to remaining links. -/
  | linkRecovery (link : LinkId) (failed : Bool)
  /-- R332. Lane failures halve a link or take it down. -/
  | laneFailure (link : BitVec 4) (lane : BitVec 3)
  /-- R308. A region drain completes, the bias or home changes and parked threads wake. -/
  | drainComplete (region : Nat)
  /-- R310. Every 2^20 cycles access counts halve and regions may migrate. -/
  | epochEnd
  /-- R310. The line-by-line copy of a migrating region completes. -/
  | regionMigrationComplete (region : Nat)
  /-- R316. A host write of the freeze value stops every clock but the security engine's. -/
  | freezeWord (head : BitVec 1) (v : BitVec 32)
  /-- R317. A head's link down for 200,000 cycles makes its host lost. -/
  | hostLinkDownTimeout (head : BitVec 1)
  /-- R317. The standby host declares the other host lost. -/
  | adoptionWord (head : BitVec 1) (v : BitVec 32)
  /-- R290. An ATS translation completion fills a TLB entry or faults the access. -/
  | atsCompletion (tn : BitVec 4) (core : BitVec 10) (page : PageSpan)
  /-- R291. A PRI response re-executes the parked chunk or faults it. -/
  | priResponse (t : ThreadId) (ok : Bool)
  /-- R292. Matching TLB entries are removed and the invalidation completed. -/
  | atsInvalidationRequest (tn : BitVec 4) (va : Nat) (size : Nat)
  /-- R331. A peer write through the peer window is performed per 64-byte part. -/
  | peerWrite (tn : BitVec 4) (off : Nat) (bytes : List Byte) (bad : Bool)
  /-- R331. A peer read through the peer window is performed as an event. -/
  | peerRead (tn : BitVec 4) (off : Nat) (len : Nat)
  /-- R183. A PCIe completion returns an I/O load's data. -/
  | ioCompletion (t : ThreadId) (ans : FarAnswer) (data : Word)
  /-- R361. An I/O load times out after 50 ms and returns all ones. -/
  | ioCompletionTimeout (t : ThreadId)
  /-- R333. A remote module performs an access to an exported range. -/
  | fabricRemoteAccess (acc : FabricAccess)
  /-- R293. The SPDM responder returns SHA3-512 measurement blocks. -/
  | getMeasurements (head : BitVec 1)
  /-- R294. Sets a tenant's IDE stream keys inside an SPDM session. -/
  | ideKm (head : BitVec 1) (tn : BitVec 4)
  /-- R294. An IDE integrity failure sends tenants to ERROR. -/
  | ideIntegrityFailure (head : BitVec 1) (tn : Option (BitVec 4))
  /-- R296. A missed heartbeat or failed key update ends the session and errors its tenants. -/
  | sessionExpiry (head : BitVec 1)
  /-- R295. Returns the TDISP version. -/
  | getTdispVersion (head : BitVec 1) (tn : BitVec 4)
  /-- R295. Returns the TDISP capabilities. -/
  | getTdispCapabilities (head : BitVec 1) (tn : BitVec 4)
  /-- R296. Moves a tenant from CONFIG_UNLOCKED to CONFIG_LOCKED. -/
  | lockInterfaceRequest (head : BitVec 1) (tn : BitVec 4)
  /-- R295. Returns the tenant's rectangle, regions and queue ranges. -/
  | getDeviceInterfaceReport (head : BitVec 1) (tn : BitVec 4)
  /-- R295. Returns the tenant's TDISP state. -/
  | getDeviceInterfaceState (head : BitVec 1) (tn : BitVec 4)
  /-- R296. Moves a locked tenant to RUN with the lock nonce. -/
  | startInterfaceRequest (head : BitVec 1) (tn : BitVec 4) (nonce : Nat)
  /-- R297. Stops, drains and scrubs a tenant back to CONFIG_UNLOCKED. -/
  | stopInterfaceRequest (head : BitVec 1) (tn : BitVec 4)
  /-- R322. A 4-byte write updates a host queue's notify word through its owning head. -/
  | doorbell (head : BitVec 1) (q : BitVec 6) (v : BitVec 32)
  /-- R329. Sets the service queue ring, only while it holds no unserved record. -/
  | svring (head : BitVec 1) (v : Word)
  /-- R329. Sets the service queue report line and vector, only while idle. -/
  | svrep (head : BitVec 1) (v : Word)
  /-- R322. Writes the module time, writable until stage 6. -/
  | timeset (head : BitVec 1) (v : Word)
  /-- R322. A write to any other BAR 0 word is performed or discarded; a read returns what stands there. -/
  | registerWrite (head : BitVec 1) (off : BitVec 24) (acc : BarAccess)
  /-- R336. Module reset starts bring-up. -/
  | reset
  /-- R336. BSTAT advances to the next bring-up stage or reports failure. -/
  | bringUpStage (ok : Bool)
  /-- R337. Enters D3hot when every tenant is CONFIG_UNLOCKED. -/
  | d3hotEntry
  /-- R337. Returns from D3hot straight to stage 6 with memory kept. -/
  | d0Return
  /-- R338. A PLDM monitoring request over MCTP is answered. -/
  | pldmRequest (head : BitVec 1) (sensor : Sensor)
  /-- R327. Service function 1 sets up a host queue bound to this head. -/
  | queueSetup (head : BitVec 1) (o : Opers)
  /-- R286. Service function 2 configures a tenant's rectangle and resources. -/
  | tenantSetup (head : BitVec 1) (o : Opers)
  /-- R153. Service function 3 sets a region's owner, home descriptor and first place. -/
  | regionSetup (head : BitVec 1) (o : Opers)
  /-- R308. Service function 4 starts the drain that flips a region's bias. -/
  | biasFlip (head : BitVec 1) (o : Opers)
  /-- R164. Service function 5 sets DAGE and LEASEMAX. -/
  | orderingSetup (head : BitVec 1) (o : Opers)
  /-- R247. Service function 6 sets the pulse word and period. -/
  | pulseSetup (head : BitVec 1) (o : Opers)
  /-- R310. Service function 7 pins or unpins a region against migration. -/
  | pin (head : BitVec 1) (o : Opers)
  /-- R311. Service function 8 sets the hint ring and threshold. -/
  | hintsSetup (head : BitVec 1) (o : Opers)
  /-- R331. Service function 9 sets peer BAR ranges and the peer window. -/
  | peersSetup (head : BitVec 1) (o : Opers)
  /-- R333. Service function 10 sets a fabric window or export. -/
  | fabricSetup (head : BitVec 1) (o : Opers)
  /-- R312. Service function 11 turns patrol scrub on or off. -/
  | scrubControl (head : BitVec 1) (o : Opers)
  /-- R319. Service function 12 rebinds a queue or PASID to this head. -/
  | rebind (head : BitVec 1) (o : Opers)
  /-- R222. Service function 13 sets a tenant's issue policy. -/
  | issuePolicy (head : BitVec 1) (o : Opers)
  /-- R327. Service function 14 sets the module power limit. -/
  | powerLimit (head : BitVec 1) (o : Opers)
  /-- R328. Run control action 0 stops every thread of a tenant. -/
  | tenantStop (head : BitVec 1) (o : Opers)
  /-- R328. Run control action 1 starts the threads a tenant stop stopped. -/
  | tenantStart (head : BitVec 1) (o : Opers)
  /-- R288. Run control action 2 drains and saves a tenant off its rectangle. -/
  | switchOut (head : BitVec 1) (o : Opers)
  /-- R288. Run control action 3 restores a tenant with a new generation. -/
  | switchIn (head : BitVec 1) (o : Opers)
  /-- R317. The link of a host head goes down, which starts the 200,000-cycle count after which its host is lost and allows
  the adoption word. -/
  | hostLinkDown (head : BitVec 1)
  /-- R22. The link of a host head comes up, or comes back up, and the head becomes active or standby. -/
  | hostLinkUp (head : BitVec 1) (standby : Bool)
  /-- R335. A YV fabric link comes up, and capability entry 0x0007 is rebuilt. -/
  | linkUp (link : BitVec 4)
  /-- R296. An SPDM session is established with the security engine through a head's DOE mailbox. -/
  | spdmSessionStart (head : BitVec 1)
  /-- R319. An SPDM heartbeat message reaches the responder and keeps the session alive. -/
  | heartbeat (head : BitVec 1)
  /-- R296. An SPDM key update within a session succeeds or fails, and a failure expires the session. -/
  | keyUpdate (head : BitVec 1) (ok : Bool)
  /-- R296. A session is ended by request, which invalidates its IDE keys and sends its locked or running tenants to ERROR. -/
  | endSession (head : BitVec 1)
deriving DecidableEq, Repr

end Sys2Proof
end

