-- ==== Sys2Proof/Config.lean ====
section
/-! DEFINITION. What the part fixes, and the free values: opaque constants without a body, one for each value the spec
leaves open. Nothing in Lean can evaluate a free value, so a statement that mentions one holds whatever it is. -/

namespace Sys2Proof.Config

/-- Clusters along a row of the package mesh (R16). -/
def clusterCols : Nat := 16
/-- Cluster rows of the package mesh (R16). -/
def clusterRows : Nat := 8
/-- Hardware thread slots of a core (R17). -/
def slotsPerCore : Nat := 256
/-- Docket positions of a cluster's loft (R235). -/
def loftPositions : Nat := 16384
/-- Drays of a cluster's fabric interface (R16). -/
def drayCount : Nat := 64
/-- Positions of a dray packet (R167). -/
def packetPositions : Nat := 32
/-- Commands a loom queue holds (R112). -/
def loomQueue : Nat := 64
/-- Commands a porter queue holds (R210). -/
def porterQueue : Nat := 16
/-- Records of a tenant's pending store (R299). -/
def pendingStore : Nat := 4096
/-- Lines a chunk may store to, but for a bundle that forms a chunk of its own (R154, R187). -/
def chunkLines : Nat := 64
/-- Bundles of an explicit region (R161). -/
def regionBundles : Nat := 4096
/-- Lines of an explicit region (R161). -/
def regionLines : Nat := 256
/-- Lines of a core's slice of the L2: 2 MiB (R17, R26). -/
def l2Lines : Nat := 32768
/-- Those of them that hold the cluster's loft, 4 MiB over its eight slices (R16), in equal parts (log 109). -/
def loftLines : Nat := 8192
/-- Lines of memory that a slice holds. -/
def l2Room : Nat := l2Lines - loftLines
/-- Near memory of one die, in bytes (R12). -/
def nearBytes : Nat := 32 * 2 ^ 30
/-- Bytes of device memory: 8 near stacks and 48 far channels of 32 GiB (R20). -/
def deviceBytes : Nat := 56 * (32 * 2 ^ 30)
/-- Cycles a head's link is down before its host is lost (R317). -/
def hostLostCycles : Nat := 200000
/-- FREE VALUE (log 114). Cycles within which an SPDM session receives its heartbeat: no rule gives the number (R296, R319). -/
opaque heartbeatPeriod : Nat
/-- Cycles of the completion time-out of an I/O load (R361). -/
def ioTimeout : Nat := 100000000
/-- Cycles of an epoch of the access counters (R310). -/
def epochCycles : Nat := 2 ^ 20

/-- FREE VALUE (log 3). How many cycles pass between two steps of the model: the spec's timings are outside the model, so
nothing is known of the count. -/
opaque stepCycles : Nat → Nat
/-- FREE VALUE (log 4). `vrcp` of an operand code, as a code of the same format, where R108 gives only a bound. -/
opaque vrcp : FpTy → Word → Word
/-- FREE VALUE (log 4). `vrsq` of an operand code (R108). -/
opaque vrsq : FpTy → Word → Word
/-- FREE VALUE (log 4). `vexp2` of an operand code (R108). -/
opaque vexp2 : FpTy → Word → Word
/-- FREE VALUE (log 4). `vlog2` of an operand code (R108). -/
opaque vlog2 : FpTy → Word → Word
/-- FREE VALUE (log 4). `vtanh` of an operand code (R108). -/
opaque vtanh : FpTy → Word → Word
/-- FREE VALUE (log 5). `tew.gelu` of an element code, where R124 gives only a bound. -/
opaque gelu : FpTy → Word → Word
/-- FREE VALUE (log 5). `tew.silu` of an element code (R124). -/
opaque silu : FpTy → Word → Word
/-- FREE VALUE (log 5). The derivative of `tew.gelu` at an element code (R142). -/
opaque geluDeriv : FpTy → Word → Word
/-- FREE VALUE (log 5). The derivative of `tew.silu` at an element code (R142). -/
opaque siluDeriv : FpTy → Word → Word
/-- FREE VALUE (log 6). A byte of the 64 KiB of the capability list past the list's end. -/
opaque capByte : Nat → Byte
/-- FREE VALUE (log 6). Where an entry of the capability list places its fields, since R8 names them in order and no rule gives
their bits: how many bits, below 64, stand free before field `i` of entry `id`. -/
opaque capGap : Nat → Nat → Nat
/-- FREE VALUE (log 6). Byte `i` of the payload of entry `id` past the fields that R8 names. -/
opaque capPayload : Nat → Nat → Byte
/-- FREE VALUE (log 6). The units that an entry takes beyond those its fields need (R5). -/
opaque capUnits : Nat → Nat
/-- FREE VALUE (log 6). MAJ and MIN of an entry (R5). -/
opaque capVersion : Nat → Nat × Nat
/-- FREE VALUE (log 6). PREV, the part revision code (R4). -/
opaque partRevision : BitVec 32
/-- FREE VALUE (log 6). Whether the firmware build provides entry 0x8001 (R8). -/
opaque firmwareEntry : Bool
/-- FREE VALUE (log 6). What entries state that the spec gives no number for: the issue governor's step limit (R132), the
limit of a cellar (R235), the codes of the capabilities that a head uses and of the security algorithms (R8), by entry and
field. -/
opaque capFigure : Nat → Nat → Nat
/-- FREE VALUE (log 6). The far channel that holds a region (R20). -/
opaque farChannel : Nat → Nat
/-- FREE VALUE (log 92). The device address of the handover area (R318). -/
opaque handoverArea : Nat
/-- FREE VALUE (log 89). Which line of a full L2 slice is replaced (R17): by core and by the line that comes in. -/
opaque l2Victim : Nat → Nat → Nat
/-- FREE VALUE (log 100). The PKIND of a docket whose thread waits for something that R233 gives no PKIND: a result, a drain
or a page. -/
opaque docketKind : Nat → Nat
/-- FREE VALUE (log 100). The nine bits of an annex that state a queue handle's role, LESZ and LSLOT (R233). -/
opaque handleBits : Nat → Nat → Nat → BitVec 9
/-- FREE VALUE (log 7). A byte of the scan image that the host reads of a frozen module (R316). -/
opaque scanByte : Nat → Byte
/-- FREE VALUE (log 6). What a PLDM sensor reads for the module power or the inlet temperature (R338). -/
opaque sensorValue : Nat → Nat → Word
/-- FREE VALUE (log 6). A byte of the digest that a measurement block holds, by the block, what is measured, and the byte's
number (R293). -/
opaque measurement : Nat → List Nat → Nat → Byte
/-- FREE VALUE (log 6). A byte of the answer to GET_TDISP_CAPABILITIES (R295). -/
opaque tdispCaps : Nat → Byte
/-- FREE VALUE (log 11). The module number that bring-up sets (R332). -/
opaque moduleNumber : BitVec 8
/-- FREE VALUE (log 7). The data an engine or a host read returns from a line that is poisoned (R295, R306). -/
opaque poisonedByte : Nat → Byte
/-- FREE VALUE (log 7). A byte that an engine reads from another module through a fabric window (R333, R334). -/
opaque remoteByte : Nat → Nat → Byte
/-- FREE VALUE (log 8). Which of a word's pending addends is merged next when one of them is performed, or that none is
(R174). -/
opaque mergePick : Nat → Nat
/-- FREE VALUE (log 98). The cluster of another module in which an address there has its home (R165): by module and address. -/
opaque farCluster : Nat → Nat → BitVec 7
/-- FREE VALUE (log 106). The module at the far end of a YV link (R332): how modules are joined. -/
opaque farModule : Nat → BitVec 8
/-- FREE VALUE (log 106). Another module refuses an engine's access to a fabric window (R333, R334): its exports are its own. -/
opaque farRefuses : Nat → Bool
/-- FREE VALUE (log 26). Whether the signatures of two chunks that touch distinct lines meet (R155): by draw, and the thread
whose chunk is open. -/
opaque falseConflict : Nat → Nat → Bool
/-- FREE VALUE (log 9). The device address at which the device places the notify word of a service queue (R322), and
the address of a queue's device ring (R323). -/
opaque factorArea : Nat → Nat
/-- FREE VALUE (log 9). The lock nonce the device gives with a lock (R296). -/
opaque nonce : Nat → Nat
/-- FREE VALUE (log 15). What the host's page tables answer for a page (R289, R290): a physical page address and the
permission bits r, w, x and I/O, or no answer. -/
opaque hostPage : Nat → Option (Nat × BitVec 4)
/-- FREE VALUE (log 1). The choice among the events that can happen next, where the spec orders none before another. -/
opaque choice : Nat → Nat
/-- FREE VALUE (log 18). Whether the next bundle of a ready thread waits for a result that is not there yet (R27, R28): by
draw, and the thread's place in its core's list. -/
opaque stalled : Nat → Nat → Bool
/-- FREE VALUE (log 10). Whether the device gives up a host line that a watch is on, and whether a re-check of an .any watch
finds its line written (R229). -/
opaque freeBit : Nat → Bool

end Sys2Proof.Config
end

