-- ==== Sys2Proof/Machine/State.lean ====
section
/-! DEFINITION. The state of the module as plain data: the thread that issues, every other thread, memory, and the
registers and queues of every engine, tenant, host queue, head and link the spec names; the reasons a step can stop;
and the machine right after reset. -/

namespace Sys2Proof.Machine

/-- The reasons the machine stops. -/
inductive Fault where
  /-- Raised by `step` when bring-up has failed (BSTAT 15, R336) and nothing but a reset is left. Safe: the spec gives
  the module no further behaviour in that state. -/
  | bringUpFailed
deriving DecidableEq, Repr

/-- The reasons the model gives an instruction no meaning. -/
inductive Refusal where
  /-- Raised by a dispatch arm whose instruction has no meaning yet. Safe: nothing is claimed of it. -/
  | notModelled (mnemonic : String)
deriving DecidableEq, Repr

/-- Sparse data by key, keys strictly rising; a key that is not listed stands for the kind's own default. -/
abbrev Tab (α : Type) := List (Nat × α)

/-- The registers and state words that belong to a chunk (R43, R44): a squash gives them back their values at the
chunk's start. -/
structure Arch where
  /-- x0 to x31 (R43) -/
  x : Vector Word 32
  /-- m0 to m7 (R43) -/
  m : Vector (BitVec 2048) 8
  /-- v0 to v31 (R43, R99); a context of NGRP groups uses the low 1,024 × NGRP bits -/
  v : Vector (BitVec 16384) 32
  /-- state word 0 -/
  pc : Word
  /-- state word 1, mapped by R45; bits 19:18 are not held here -/
  sts : Word
  /-- state word 2 (R44) -/
  rngs : BitVec 32
  /-- state word 3 (R44) -/
  flta : Word
  /-- state words 8 to 15 (R46) -/
  swin : Vector Word 8
  /-- state word 16 (R46) -/
  dbk : Word
  /-- state word 17 (R44) -/
  dgo : Word
  /-- state word 18 (R44) -/
  live : BitVec 32
  /-- state word 19 (R47) -/
  why : BitVec 13
  /-- the operand buffer: the registers held and for how many more bundles with a vector instruction (R101) -/
  hold : List (BitVec 5 × Nat)
deriving DecidableEq, Repr

/-- What a fault record carries (R300); tenant, rank and generation are filled in from the fields named. -/
structure Record where
  kind : BitVec 8
  origin : BitVec 4
  tn : BitVec 4
  rank : BitVec 24
  rpc : Word
  raddr : Word
  reng : Word
  rseq : Word
  rpos : Word
  rtile : Word
  rdet : Word
deriving DecidableEq, Repr

/-- A record held for its line, with the cycle in which it was found (R299). -/
structure Held where
  line : Word
  body : Record
  found : Nat
deriving DecidableEq, Repr

/-- One `radd` of an open chunk, and one core's partial of a word (R176, R195). -/
structure Partial where
  pa : Nat
  core : BitVec 10
  fmt : RangeFmt
  val : Word
  /-- evicted from the core's slice and kept at the home (R176) -/
  atHome : Bool
deriving DecidableEq, Repr

/-- The operation of a dray element: `rst`, or a `ramo` of R196. -/
inductive ElemOp where
  | set
  | op (o : AmoOp)
deriving DecidableEq, Repr

/-- One dray element (R165). -/
structure Elem where
  tid : ThreadId
  /-- the launch of the thread (R242) -/
  lid : Nat
  flta : Word
  va : Nat
  pa : Nat
  size : Nat
  op : ElemOp
  val : Word
  /-- posted atomics that had been posted when it entered its dray: those of its thread to its line come first (R174) -/
  behind : Nat
deriving DecidableEq, Repr

/-- The first store of a chunk to a line: its PC, its address with the pointer's tag if it is typed, and the position of the
element (R184, R300, R302). -/
structure First where
  line : Nat
  pc : Word
  addr : Word
  pos : Nat
deriving DecidableEq, Repr

/-- The open chunk of a thread, or its explicit region (R154, R155, R161). -/
structure Chunk where
  /-- registers and state words as they stood at the chunk's start -/
  start : Arch
  /-- STS.CHUNKMAX as it governs this chunk (R86) -/
  max : Nat
  /-- bundles performed -/
  count : Nat
  /-- the read set: lines by physical line address -/
  reads : List Nat
  /-- the bytes stored and not yet committed -/
  buf : Tab Byte
  /-- the first store to each line, in program order (R184) -/
  firsts : List First
  /-- virtual addresses of lines touched through a translation, for R292 -/
  pages : List Nat
  radds : List Partial
  /-- the partials of the lines read, as the reads combined them (R176) -/
  seen : List Partial
  elems : List Elem
  /-- another event wrote a line of either set (R155) -/
  conflict : Bool
  /-- that event was a chunk's commit (R157, R158) -/
  byChunk : Bool
  /-- the last bundle has been performed -/
  ended : Bool
deriving DecidableEq, Repr

/-- An explicit region (R160 to R163). -/
structure XRegion where
  attempt : Nat
  /-- the lines the failed attempts touched -/
  touched : List Nat
  /-- the leases held, and when the first was taken -/
  leases : List Nat
  leaseFrom : Option Nat
  /-- code and XCODE of a failure that is to fall through (R163) -/
  failed : Option (Nat × Nat)
  /-- the scan has found the `xend` that PC now names (R163) -/
  scanned : Bool
deriving DecidableEq, Repr

/-- Solo and held re-execution (R157, R158). -/
structure Solo where
  /-- bundles of the squashed extent still to run -/
  left : Nat
  /-- squashes in a row by events that are no chunk commits -/
  others : Nat
  /-- the lines to hold, and those held -/
  want : List Nat
  held : List Nat
deriving DecidableEq, Repr

/-- An armed watch (R226). -/
structure Watch where
  cond : WatchCond
  va : Nat
  pa : Nat
  val : Word
  /-- degraded to periodic re-checks, and whether they go on (R229) -/
  deg : Bool
  again : Bool
deriving DecidableEq, Repr

/-- The role of a queue handle (R204). -/
inductive QRole where
  | none | producer | consumer
deriving DecidableEq, Repr

/-- A queue handle with the geometry read at the bind (R204, R205). -/
structure QHandle where
  /-- QBn (R44) -/
  qb : Word
  base : Nat
  stamps : Nat
  lslot : Nat
  lesz : Nat
  role : QRole
  r : Word
deriving DecidableEq, Repr

/-- A fault before it is a record: kind, detail, address and position (R301, R302). -/
structure Flt where
  kind : BitVec 8
  detail : Nat
  addr : Word
  pos : Nat
  /-- the word index of R41 -/
  widx : Nat
  /-- the bundle concerned, when it is not the one that runs (R184) -/
  pc : Option Word
deriving DecidableEq, Repr

/-- What a parked thread waits for (R220, R231). -/
inductive Park where
  | wait (d : BitVec 5) (deadline : Option Nat)
  | xchg (d : BitVec 5)
  | queue (q : BitVec 3) (pa : Nat) (want : Word)
  | bar (d : BitVec 5) (va pa : Nat) (phase : BitVec 32) (deadline : Option Nat) (pc : Word)
  | dbar (d : BitVec 5) (slot : BitVec 2) (phase : Nat) (deadline : Option Nat)
  | pwait
  | fence (dray engine all : Bool)
  | loom (cl : BitVec 7) (full : Bool)
  | drain (region : Nat)
  /-- a PRI response for a page; the fault is what a failure response makes of the access (R291) -/
  | pri (vpage : Nat) (f : Flt)
  /-- the result of a thread-state or indenture instruction, an I/O load or a fabric access -/
  | result
  /-- a wait that has ended, whose wake is under way, or that ended while the thread was stopped: its result and its code (R230,
  R259, R261, R278) -/
  | over (d : BitVec 5) (val : Word) (code : Nat)
deriving DecidableEq, Repr

/-- The state of a thread that is not about where it is held (R220). -/
inductive RunState where
  | ready
  | parked (p : Park)
  /-- after `halt.retain` (R256) -/
  | retained
  /-- no thread: its rank is freed -/
  | halted
deriving DecidableEq, Repr

/-- The wait has ended and its wake is under way, or it ended while the thread was stopped. -/
def RunState.isOver : RunState → Bool
  | .parked (.over _ _ _) => true
  | _ => false

/-- Why a thread is stopped (R277, R303, R328). -/
inductive StopCause where
  | fault | brk | tstop | tenant
deriving DecidableEq, Repr

/-- Where a thread is held (R220). -/
inductive Place where
  | slot (core : BitVec 10) (n : BitVec 8)
  | loft | cellar (pos : Nat) | save
  /-- a docket that the weighmaster is moving to another core (R238), or a thread that leaves a failed core (R314) -/
  | moving (dst : BitVec 10)
deriving DecidableEq, Repr

/-- The loft position of a thread of an early crew (R243, R349): none; one that is reserved for it and that its docket takes
when it waits in `pwait`; one that is kept unused because the thread was not eligible there; or one that its docket has taken. -/
inductive Spot where
  | none | held | barred | used
deriving DecidableEq, Repr

/-- The event a committed chunk has asked for and that has not been performed (R159). -/
inductive Post where
  | amo (op : AmoOp) (z : AmoSize) (d : BitVec 5) (va pa : Nat) (val : Word) (pc : Word)
  | cas (z : AmoSize) (d : BitVec 5) (va pa : Nat) (expect new : Word) (pc : Word)
  | reserve (q : BitVec 3) (prod : Bool)
  | stamp (q : BitVec 3) (va pa : Nat) (val : Word)
  | bar (d : BitVec 5) (va pa : Nat) (n : BitVec 32) (tout : Nat) (pc : Word)
  | dbar (d : BitVec 5) (slot : BitVec 2) (tout : Nat)
  | ioLoad (z : LoadSize) (d : BitVec 5) (pa : Nat) (sent : Option Nat)
  | fabLoad (z : LoadSize) (d : BitVec 5) (va pa : Nat) (pc : Word)
  | fabStore (va pa : Nat) (bytes : List Byte) (pc : Word)
deriving DecidableEq, Repr

/-- Why the last attempt of a thread at its next bundle issued nothing: a line that another thread holds or leases (R158,
R162), a page whose translation is asked for (R290), a link to another module (R332), or the chunk that ends before it (R154). -/
inductive Balk where
  | line (l : Nat)
  | page (v : Nat)
  | link (m : BitVec 8)
  | split
deriving DecidableEq, Repr

/-- The A slot of the bundle in progress (R30): nothing, awaiting its evaluation after `n` draws of the C slot (R79),
or evaluated, by a vector or mask instruction or by another. -/
inductive ASlot where
  | none
  | awaiting (draws : Nat)
  | done (a : Arch)
  | vec (a : Arch)
  | fault (f : Flt)
deriving DecidableEq, Repr

/-- A thread (R43, R44, R220, R232). -/
structure Thread where
  id : ThreadId
  /-- launch identifier and crew index (R239, R241) -/
  lid : Nat
  crew : Nat
  run : RunState
  stopped : Option StopCause
  place : Place
  /-- a docket that waits for a slot (R220), and when the wake came -/
  woken : Option Nat
  /-- the core whose slot it holds or to which its docket is assigned (R270) -/
  core : BitVec 10
  arch : Arch
  chunk : Chunk
  region : Option XRegion
  /-- consecutive conflict squashes of the chunk (R157) -/
  squashes : Nat
  solo : Option Solo
  /-- VCX.GMASK (R47) -/
  gmask : BitVec 16
  queues : Vector QHandle 8
  watches : Vector (Option Watch) 4
  /-- the fired latches (R227) -/
  latch : BitVec 4
  /-- the latches that fired because the host took the line (R229) -/
  took : BitVec 4
  /-- a watch was disarmed while the thread waited: its wait ends with CODE 12 (R231) -/
  lost : Bool
  /-- the armings that have been asked for and not been performed at their homes, first first (R251, R253) -/
  arms : List (BitVec 2 × Watch)
  post : Option Post
  aslot : ASlot
  /-- fault records held with the thread, oldest first, with their target lines (R299) -/
  records : List Held
  /-- the cycle in which it was given its slot (R222), or in which its docket entered the loft (R235) -/
  age : Nat
  /-- cycles ready without issuing (R223) -/
  waits : Nat
  yielded : Bool
  /-- its next bundle has met something that it must wait for -/
  balk : Option Balk
  /-- since when it is parked or stopped (R234, R364) -/
  since : Nat
  /-- its crew was placed by an early start (R243) -/
  early : Bool
  /-- its loft position (R243) -/
  spot : Spot
  /-- a root whose core or cluster failed with it: but for FLTA, IDT and PC its registers and state words read as 0 (R314) -/
  hollow : Bool
deriving DecidableEq, Repr

/-- One page of a tenant's translation, as the host page tables of its PASID give it (R289, R290). -/
structure Pte where
  /-- physical address of the page -/
  pa : Nat
  r : Bool
  w : Bool
  x : Bool
  /-- the I/O attribute (R182) -/
  io : Bool
deriving DecidableEq, Repr

/-- An entry of a core's or a cluster's TLB, tagged with the tenant and the PASID (R290). -/
structure TlbEntry where
  tn : BitVec 4
  pasid : Option (BitVec 20)
  /-- log2 of its size: 12, 16, 21 or 30; the page numbers are those of its first page -/
  lg : Nat
  cluster : BitVec 7
  /-- the core of a core TLB, or none for the cluster's -/
  core : Option (BitVec 10)
  vpage : Nat
  pte : Pte
deriving DecidableEq, Repr

/-- A rectangle of clusters (R286, R318). -/
structure Rect where
  ccol0 : BitVec 4
  wm1 : BitVec 4
  crow0 : BitVec 3
  hm1 : BitVec 3
deriving DecidableEq, Repr

/-- The TDISP states, in the order of R295. -/
inductive Tdisp where
  | unlocked | locked | run | error
deriving DecidableEq, Repr

/-- An indenture entry (R272). -/
structure IEntry where
  lo : BitVec 24
  hi : BitVec 24
  grantor : BitVec 24
  rights : BitVec 6
deriving DecidableEq, Repr

/-- A commutative range (R176, R194). -/
structure Range where
  base : Nat
  len : Nat
  fmt : RangeFmt
deriving DecidableEq, Repr

/-- One member of a domain (R260). -/
structure Member where
  rank : BitVec 24
  slot : BitVec 2
  /-- arrived in the present phase and still counted -/
  arrived : Bool
  /-- every element and `amop` of the member acknowledged (R262) -/
  raised : Bool
deriving DecidableEq, Repr

/-- The unit of a domain (R244, R260). -/
inductive DKind where
  | core (c : BitVec 10) (tag : BitVec 16)
  | crew (lid crew : Nat) (tag : BitVec 16)
  | launch (lid : Nat) (tag : BitVec 16)
  | rect (col0 : BitVec 6) (row0 : BitVec 4) (wm1 : BitVec 6) (hm1 : BitVec 4)
  | tenant (tag : BitVec 16)
deriving DecidableEq, Repr

/-- The crier's progress for one cluster of a domain in the present phase (R263). -/
structure CrierPos where
  cl : BitVec 7
  begun : Bool
  round : Nat
  /-- rounds whose message has been received -/
  got : List Nat
  finished : Bool
deriving DecidableEq, Repr

/-- A domain of the tenant's domain table (R260). -/
structure Domain where
  kind : DKind
  /-- the member count its first member gave (kinds 1, 2, 3 and 5) -/
  members : List Member
  /-- the N of the first member to arrive in the present phase -/
  n : Nat
  /-- the N each member joined with, by rank -/
  ns : List (BitVec 24 × Nat)
  /-- phases completed (R261) -/
  phases : Nat
  /-- the clusters among which the crier completes the present phase, once one has begun, and their progress (R263) -/
  ring : List (BitVec 7)
  crier : List CrierPos
  broken : Bool
  /-- how often the crier has started over: messages of an earlier start are void -/
  turn : Nat
deriving DecidableEq, Repr

/-- A launch the factor has accepted (R239, R241, R325). -/
structure Launch where
  lid : Nat
  /-- its place in the order in which the factor accepted launches (R241) -/
  acc : Nat
  q : BitVec 6
  entry : Word
  estart : Bool
  /-- 0 ANY, 1 N, 2 W -/
  kind : Nat
  prio : Nat
  crews : Nat
  csize : Nat
  argp : Word
  pred : Nat
  crewr : BitVec 6
  stata : Word
  irqe : Bool
  irqv : Nat
  base : Nat
  /-- crews handed to their clusters -/
  placed : Nat
  /-- slot reservations under R243: crew and cluster -/
  reserved : List (Nat × BitVec 7)
  smay : Bool
  smaySeen : Bool
  complete : Bool
deriving DecidableEq, Repr

/-- A tenant's pulse word (R247). -/
structure Pulse where
  pa : Nat
  va : Nat
  period : Nat
  opened : Nat
  silent : Nat
deriving DecidableEq, Repr

/-- A tenant's hint ring (R311). -/
structure Hints where
  ring : Nat
  n : Nat
  hintt : Nat
  drop : Nat
deriving DecidableEq, Repr

/-- A fabric window, or an export, of a tenant (R333). -/
structure FabWindow where
  va : Nat
  k : Nat
  modNum : BitVec 8
  rtenant : BitVec 4
  rva : Nat
  /-- an export to another module and not a window onto one -/
  exported : Bool
deriving DecidableEq, Repr

/-- A tenant (R286 to R297, R164, R247, R299). -/
structure Tenant where
  /-- set up by service function 2 -/
  valid : Bool
  rect : Rect
  gen : BitVec 4
  tdisp : Tdisp
  nonce : Option Nat
  keyed0 : Bool
  keyed1 : Bool
  pasid0 : Option (BitVec 20)
  pasid1 : Option (BitVec 20)
  /-- the host holding its page tables is lost, until the PASID is rebound (R317) -/
  hostLost : Bool
  stopped : Bool
  out : Bool
  /-- stopped before its switch out (R328) -/
  wasStopped : Bool
  /-- stopped and draining, 1 toward a switch out (R288), 2 toward CONFIG_UNLOCKED (R297); 0 otherwise -/
  leaving : Nat
  rr : Bool
  dage : Nat
  leasemax : Nat
  rmax : Nat
  pri : Bool
  /-- failure responses that no access of an engine has taken yet: the rank that pushed the command, and the page (R291) -/
  priNo : List (BitVec 24 × Nat)
  /-- cellar and save area, and the cellar ring's next page index -/
  cellar : Nat
  cellarPages : Nat
  cellarNext : Nat
  save : Nat
  ipool : Nat
  /-- what the host's tables have given for a page: they answer so until the host changes them (R289) -/
  ptab : Tab Pte
  /-- completions that gave no translation and that no access has taken yet: the core that asked, and the page (R291) -/
  refused : List (BitVec 10 × Nat)
  /-- the pages for which a Page Request of an engine command is under way, by the rank that pushed it (R291) -/
  priWait : List (BitVec 24 × Nat)
  /-- the indenture tables by rank (R271) -/
  indent : Tab (List IEntry)
  /-- the device's copy of the root's FLTA (R269) -/
  rootFlta : Word
  ranges : List Range
  domains : List Domain
  launches : List Launch
  nextLid : Nat
  /-- the queue that started the tenant's first launch (R318) -/
  firstQueue : Option (BitVec 6)
  /-- records that are not a thread's, pending for a line, oldest first; and the dropped count of each line (R299) -/
  pending : List Held
  dropped : List (Word × Nat)
  /-- records held for the host's report line (R330) -/
  reports : List Record
  pulse : Option Pulse
  hints : Option Hints
  peers : List (Nat × Nat)
  window : Option (Nat × Nat)
  fabric : List FabWindow
  /-- a deadlock record has been written and no thread has issued since (R246) -/
  deadlock : Bool
deriving DecidableEq, Repr

/-- A region descriptor (R153, R177, R286, R310, R374). -/
structure Region where
  owner : Option (BitVec 4)
  d0 : Word
  d1 : Word
  hostBias : Bool
  pinned : Bool
  /-- the drain in progress: the bias or the descriptor that it will set -/
  drain : Option (Option Bool × Option (Option (BitVec 4) × Word × Word))
  /-- 0 to 7 near memory of that die, 8 far; none until it is backed -/
  tier : Option Nat
  first : Nat
  /-- the L2 misses and write-backs that have reached its memory, by die, halved at each epoch (R310); of a region of host
  memory, the device's accesses through CXL.cache (R311) -/
  counts : List Nat
  /-- the host's CXL.mem accesses, halved at each epoch (R311) -/
  hostCount : Nat
  /-- a hint has been written for it in this epoch (R311) -/
  hinted : Bool
  /-- its row has failed: the memory that it leaves goes out of service (R314) -/
  retired : Bool
  moving : Option Nat
deriving DecidableEq, Repr

/-- A tile format (R114). -/
inductive TFmt where
  | clear | fp32 | fp64
deriving DecidableEq, Repr

/-- An accumulator tile: an element that is not listed is +0 (R114). The key of row i and column j is 512 × i + j. -/
structure Tile where
  fmt : TFmt
  e : Tab Word
deriving DecidableEq, Repr

/-- A warp slot or the weft buffer (R114, R120): codes with their scale bytes; an element that is not listed is +0.
The key of row r and element j is 1024 × r + j. -/
structure Operand where
  /-- FMT and BLK of the command that loaded it; none when empty -/
  fmt : Option (BitVec 4 × BitVec 3)
  e : Tab (Word × Byte)
deriving DecidableEq, Repr

/-- A loom command (R115, R134). -/
inductive LoomOp where
  | twarp (w : BitVec 2) | tlda | tzero (t : BitVec 3)
  | tmul (t : BitVec 3) (w : BitVec 2) | tmult (t : BitVec 3) (w : BitVec 2) | touter (t : BitVec 3)
  | bias (t : BitVec 3) | scale (t : BitVec 3) | relu (t : BitVec 3) | gelu (t : BitVec 3) | silu (t : BitVec 3)
  | clamp (t : BitVec 3) | tred (t : BitVec 3) | tst (t : BitVec 3) | tsync
  | trecOn | trecOff | unwind | tdrop
deriving DecidableEq, Repr

/-- Where a command stands (R131). -/
inductive CmdPhase where
  | sent | arrived | started | done
deriving DecidableEq, Repr

/-- A command in a loom's queue with what it captured (R115, R134). -/
structure LoomCmd where
  seq : Nat
  op : LoomOp
  opa : Word
  opb : Word
  id : ThreadId
  lid : Nat
  core : BitVec 10
  pc : Word
  rm : BitVec 3
  nanf : Bool
  rngs : BitVec 32
  swin : Vector Word 8
  flta : Word
  dbk : Word
  dgo : Word
  phase : CmdPhase
  /-- NaN check off for this command (R130) -/
  nanOff : Bool
  /-- elements stored so far; the step of the entry in progress in an `unwind` -/
  pos : Nat
  /-- the bytes of the operands read so far, by virtual address (R117, R120) -/
  buf : Tab Byte
  /-- FMTA and FMTB, and the mask or the tile that the daybook entry keeps, taken before the effect (R138) -/
  fmta : TFmt
  fmtb : TFmt
  payload : List Byte
  /-- skipped, flushed or abandoned: no entry is written (R136) -/
  dropped : Bool
  /-- the writes it has still to make, each within one line (R117) -/
  pend : List (Nat × List Byte)
  /-- an entry being written: DSTAT, the TAIL that it leaves and its index (R136) -/
  noting : Option (Word × Nat × Nat)
  /-- it stopped for a header that is not its own (R149) -/
  foreign : Bool
  /-- what an `unwind` has read of its header, DSTAT with RECON cleared and COUNT; and the offsets of the entries that its
  validation has passed, in the order of their indices, with that of the next (R147) -/
  hdr : Option (Word × Nat)
  marks : List Nat
  /-- an `unwind` that has passed validation: the entries it has still to process and their count; and the adjoint
  tiles -/
  swept : Option (Nat × Nat)
  dT : Tab Tile
  /-- the adjoint tiles that stand once the pending write is made (R142) -/
  next : Option (Tab Tile)
deriving DecidableEq, Repr

/-- A cluster's loom with its status line (R112, R118). -/
structure Loom where
  /-- 0 free, 1 owned, 2 stopped, 3 releasing -/
  st : Nat
  owner : Option (BitVec 4 × Nat × Nat)
  lown : BitVec 24
  ldone : Nat
  lacc : Nat
  lgov : Nat
  lfcmd : Nat
  frank : BitVec 24
  lres : Word
  /-- threads that wait for the context and their crews, first parked first (R112) -/
  waiting : List (ThreadId × BitVec 4 × Nat × Nat)
  queue : List LoomCmd
  warps : Tab Operand
  weft : Operand
  /-- the entry that last loaded each warp slot, and at 4 the weft buffer: its index, and the DBK of its daybook (R138) -/
  links : Tab (Nat × Word)
  tiles : Tab Tile
  /-- the cycle in which a command last started or ended (R132) -/
  lastRun : Nat
  mapped : Bool
deriving DecidableEq, Repr

/-- The porter commands (R212). -/
inductive PortKind where
  | copy | copyt | gath | scat | scadd | fill
deriving DecidableEq, Repr

/-- A write that a porter has still to make: its address and width in bits, the high nibble for 4-bit elements, its value;
whether it is that of a position, and of one out of bound (R212, R213). -/
structure PortOut where
  va : Nat
  bits : Nat
  high : Bool
  val : Nat
  counts : Bool
  oob : Bool
deriving DecidableEq, Repr

/-- A command in a porter's queue (R210 to R213). -/
structure PorterCmd where
  seq : Nat
  kind : PortKind
  w0 : Word
  w1 : Word
  w2 : Word
  w3 : Word
  id : ThreadId
  lid : Nat
  core : BitVec 10
  pc : Word
  rm : BitVec 3
  rngs : BitVec 32
  swin : Vector Word 8
  flta : Word
  phase : CmdPhase
  /-- positions or bytes done, positions out of bound, abandoned -/
  pos : Nat
  oob : Nat
  abandon : Bool
  /-- the lines of its index list, source or buffer that it has read and still uses, by virtual line (R173, R213) -/
  lines : Tab (List Byte)
  /-- the codes of the block in progress, with their scale bytes (R65, R66) -/
  raw : List (Nat × Option Nat)
  /-- what it has still to write: a destination line is written as one event (R173) -/
  pend : List PortOut
  /-- the header of the index list, once read: COUNT, IW, BOUND, FILL (R213) -/
  hdr : Option (Nat × Bool × Word × Word)
  /-- its writes to another module that are not acknowledged (R334) -/
  unacked : Nat
deriving DecidableEq, Repr

/-- One porter with its status line (R214). -/
structure Porter where
  /-- 0 idle, 1 running, 2 stopped -/
  st : Nat
  pacc : Nat
  pdone : Nat
  pfcmd : Nat
  pfpos : Nat
  frank : BitVec 24
  pres : Word
  queue : List PorterCmd
  mapped : Bool
deriving DecidableEq, Repr

/-- The destination of a dray: a cluster, or a cluster of another module (R165). -/
inductive Dest where
  | cluster (cl : BitVec 7)
  | remote (m : BitVec 8) (cl : BitVec 7)
deriving DecidableEq, Repr

/-- A dray that holds elements (R165, R167). -/
structure Dray where
  tn : BitVec 4
  dest : Dest
  since : Nat
  elems : List Elem
  /-- it departs in this cycle, once the elements of the cycle have entered (R167, R354) -/
  due : Bool
deriving DecidableEq, Repr

/-- A cluster: its loom, porters and drays, and whether the foreman may admit crews (R16, R236). -/
structure Cluster where
  mappedOut : Bool
  refused : Bool
  /-- the lane pool has refused a request with CODE 1 since groups were last returned (R264) -/
  pend : Bool
  loom : Loom
  porters : Tab Porter
  drays : List Dray
  /-- the last cycle in which elements entered its drays, and the least core in cluster whose elements can still enter in it
  (R354) -/
  entered : Nat × Nat
deriving DecidableEq, Repr

/-- A core: its issue history and its caches (R17, R222, R224, R341, R373). -/
structure Core where
  mappedOut : Bool
  lastSlot : BitVec 8
  lastThread : Option ThreadId
  /-- the cycle in which it issued last (R17) -/
  issuedAt : Option Nat
  /-- L1D and L1I lines, most recently used first -/
  l1d : List Nat
  l1i : List Nat
  /-- the L1D lines that are modified (R373) -/
  dirty : List Nat
  /-- the lines in its slice of the L2, each with whether memory has it only in an older form (R17) -/
  l2 : Tab Bool
deriving DecidableEq, Repr

/-- A packet on its way, or the acknowledgement of one (R167, R170). -/
structure Packet where
  tn : BitVec 4
  gen : BitVec 4
  src : BitVec 7
  dest : Dest
  elems : List Elem
  /-- positions applied or faulted at the home (R168), and the faults met: position, kind and detail (R170) -/
  pos : Nat
  bad : List (Nat × BitVec 8 × Nat)
deriving DecidableEq, Repr

/-- A posted atomic between its commit and its performance (R174). -/
structure Amop where
  id : ThreadId
  lid : Nat
  flta : Word
  op : AmoOp
  z : AmoSize
  va : Nat
  pa : Nat
  val : Word
  /-- how many had been posted before it -/
  seq : Nat
deriving DecidableEq, Repr

/-- A wake on its way to a thread (R230, R231): latched slots, or a code of its own. -/
structure Wake where
  id : ThreadId
  code : Nat
deriving DecidableEq, Repr

/-- The action of a thread-state or indenture instruction at its target (R276). -/
inductive TAct where
  | stop | start
  | read (item : BitVec 6)
  | write (item : BitVec 6) (v : Word)
  | grant (e : IEntry)
  | revoke (i : Nat)
deriving DecidableEq, Repr

/-- A request on its way to its target (R276). -/
structure TReq where
  caller : ThreadId
  d : BitVec 5
  target : BitVec 24
  act : TAct
deriving DecidableEq, Repr

/-- A result on its way back (R276), and whether the caller has stopped itself (R277). -/
structure TRes where
  caller : ThreadId
  d : BitVec 5
  val : Word
  halt : Bool
deriving DecidableEq, Repr

/-- A crew start on its way to its cluster (R240). -/
structure CrewGo where
  tn : BitVec 4
  lid : Nat
  crew : Nat
  cl : BitVec 7
  early : Bool
deriving DecidableEq, Repr

/-- A round message or an abort of a crier (R263). -/
structure CrierMsg where
  tn : BitVec 4
  dom : DKind
  dst : BitVec 7
  round : Nat
  abort : Bool
  turn : Nat
deriving DecidableEq, Repr

/-- Who asks for an access that comes from outside (R177, R322, R331, R333). -/
inductive Asker where
  /-- a host's CXL.mem access to device memory -/
  | host (h : BitVec 1)
  /-- the same through CXL.io, with the tenant whose stream's TEE bit it carries, if any -/
  | hostIo (h : BitVec 1) (tee : Option (BitVec 4))
  /-- a host that takes a line of its own memory from the device -/
  | snoop (h : BitVec 1)
  /-- the peer window of a tenant -/
  | peer (tn : BitVec 4)
  /-- another module -/
  | far (m : BitVec 8)
  /-- a doorbell -/
  | bell
deriving DecidableEq, Repr

/-- What an access from outside does: a read of `n` bytes, a write of the enabled bytes, whose data may be marked poisoned, or
an atomic of another module, where no operation is a compare-and-swap (R177, R331, R334). -/
inductive InOp where
  | read (n : Nat)
  | write (bs : List (Option Byte)) (bad : Bool)
  | atomic (op : Option AmoOp) (z : AmoSize) (expect new : Word)
deriving DecidableEq, Repr

/-- An access from outside to one line that waits at its home (R158, R162, R177, R309). -/
structure Inbound where
  asker : Asker
  pa : Nat
  what : InOp
  /-- the tenant's page through which it was translated (R292) -/
  page : Option (BitVec 4 × Nat)
  /-- it was held for a drain (R309) -/
  drained : Bool
deriving DecidableEq, Repr

/-- An access from outside to a tenant's virtual addresses that waits for a translation (R290, R331, R333). -/
structure Late where
  asker : Asker
  tn : BitVec 4
  va : Nat
  what : InOp
deriving DecidableEq, Repr

/-- A packet of dray elements or posted atomics from another module (R334): how many are applied or faulted, and the faults. -/
structure FarPacket where
  modNum : BitVec 8
  colour : Colour
  tn : BitVec 4
  elems : List FarElem
  pos : Nat
  bad : FarFaults
deriving DecidableEq, Repr

/-- An ATS Invalidation Request whose completion waits for the accesses that used a removed entry (R292): posted atomics, dray
elements, what committed chunks have asked for, armings of watches, and accesses of peers and other modules. -/
structure Inval where
  tn : BitVec 4
  va : Nat
  amops : List Amop
  elems : List Elem
  posts : List (ThreadId × Post)
  arms : List (ThreadId × BitVec 2 × Watch)
  inbound : List Inbound
deriving DecidableEq, Repr

/-- Everything that travels inside the package. -/
structure Net where
  packets : List Packet
  acks : List Packet
  /-- packets that have left for another module and are not acknowledged (R170) -/
  away : List Packet
  amops : List Amop
  /-- how many posted atomics there have been -/
  posted : Nat
  /-- posted atomics that have left for another module and are not performed -/
  awayAmops : List Amop
  /-- accesses from outside that wait, in the order of their arrival -/
  inbound : List Inbound
  /-- those that wait for a translation, in the order of their arrival -/
  late : List Late
  /-- packets from other modules, in the order of their arrival (R334) -/
  farPackets : List FarPacket
  /-- directed wakes for a thread whose docket is in transit (R238, R265) -/
  pokes : List (ThreadId × BitVec 2)
  /-- misses whose translation requests are outstanding or wait, in the order of their arrival (R290): tenant, the core that
  asks, and the page -/
  ats : List (BitVec 4 × BitVec 10 × Nat)
  invals : List Inval
  wakes : List Wake
  reqs : List TReq
  results : List TRes
  crewGos : List CrewGo
  smays : List (BitVec 4 × Nat)
  /-- completions of predecessors on their way to a cluster (R348): tenant, launch, cluster -/
  releases : List (BitVec 4 × Nat × BitVec 7)
  criers : List CrierMsg
deriving DecidableEq, Repr

/-- What a factor thread is doing with its queue (R240, R346). -/
inductive FState where
  | idle
  | reading (dev : Bool)
  | validating (dev : Bool) (rec : List Word)
  /-- a request that a region's drain completes (R308, R327) -/
  | draining (rec : List Word) (region : Nat)
deriving DecidableEq, Repr

/-- A host queue (R318, R323, R327, R329). -/
structure HostQueue where
  valid : Bool
  service : Bool
  lost : Bool
  owner : BitVec 4
  head : BitVec 1
  /-- physical addresses of the ring and of the report line; 0 for none -/
  ring : Nat
  n : Nat
  qhead : Nat
  devHead : Nat
  note : Nat
  devRing : Nat
  repLine : Nat
  repVec : BitVec 6
  /-- the HTAIL and DTAIL last seen, and the records published and not taken, in order, as runs: true for the device
  ring -/
  seenH : BitVec 32
  seenD : BitVec 32
  todo : List (Bool × Nat)
  st : FState
deriving DecidableEq, Repr

/-- A host head (R22, R293, R294, R317, R321, R329). -/
structure Head where
  up : Bool
  standby : Bool
  downAt : Nat
  lost : Bool
  /-- link CXL IDE keyed and active -/
  linkIde : Bool
  session : Bool
  beat : Nat
  svring : Word
  svrep : Word
  /-- MSI-X vector table (address, data, masked) and pending bits -/
  msix : Tab (Word × Word)
  pba : Word
deriving DecidableEq, Repr

/-- A YV link (R332, R335). -/
structure Link where
  up : Bool
  good : BitVec 8
  recovery : Bool
deriving DecidableEq, Repr

/-- The counters of the health record (R315). -/
structure Health where
  repl : Bool
  degraded : Bool
  corr : Nat
  unc : Nat
  coresOut : Nat
  clustersOut : Nat
  rows : Nat
  last : Word
  drops : Nat
  /-- health events of the peer window and of dropped packets told to the host -/
  events : Nat
deriving DecidableEq, Repr

/-- The PCIe stream of a tenant's CXL.io requests: the selective IDE stream of the tenant on a head, with the TEE bit that they
carry on it (R294). -/
structure IoStream where
  head : BitVec 1
  tn : BitVec 4
  tee : Bool
deriving DecidableEq, Repr

/-- A message that leaves the module: an answer to a request, an MSI-X message, or an I/O request (R293, R295, R326,
R331, R361). -/
inductive OutMsg where
  | bytes (head : BitVec 1) (bs : List Byte)
  /-- data for another module, or none when the line is poisoned (R333); a refusal; and the acknowledgement of a packet with the
  faults found (R170) -/
  | farBytes (m : BitVec 8) (bs : Option (List Byte))
  | farRefused (m : BitVec 8)
  | farAck (m : BitVec 8) (faults : FarFaults)
  /-- read data with the poison indication (R295, R306) -/
  | poisoned (head : BitVec 1) (n : Nat)
  | msix (head : BitVec 1) (v : BitVec 6)
  /-- requests of a tenant on its stream (R294) -/
  | ioWrite (st : IoStream) (pa : Nat) (bs : List Byte)
  | ioRead (st : IoStream) (pa : Nat) (n : Nat)
  /-- accesses to another module, with the tenant's colour (R332, R334): of an atomic its operation, or none for a
  compare-and-swap -/
  | fabRead (c : Colour) (pa : Nat) (n : Nat)
  | fabWrite (c : Colour) (pa : Nat) (bs : List Byte)
  | fabAtomic (c : Colour) (pa : Nat) (op : Option AmoOp) (z : AmoSize) (expect new : Word)
  /-- a packet of dray elements for another module (R165, R334) -/
  | fabPacket (p : Packet)
  | refused (head : BitVec 1)
  | priRequest (st : IoStream) (vpage : Nat)
  | atsRequest (st : IoStream) (vpage : Nat)
  | invalidated (tn : BitVec 4) (va : Nat)
  /-- an answer over the module's SMBus side band (R338) -/
  | side (bs : List Byte)
deriving DecidableEq, Repr

/-- An entry of the capability list: identifier, DEGR, and the fields of its payload, each a width in bits and a value (R5,
R8). -/
structure CapEntry where
  id : Nat
  degr : Bool
  fields : List (Nat × Nat)
deriving DecidableEq, Repr

/-- The capability list as it reads (R4, R7): its GEN, which is odd while the list is rewritten, and its entries. -/
structure CapList where
  gen : Nat
  entries : List CapEntry
  /-- the entries have been rewritten since GEN became odd -/
  fresh : Bool
deriving DecidableEq, Repr

/-- The handover area as it was last written, and how far an update has come (R318). -/
structure Handover where
  gen : Nat
  /-- the doublewords that are not 0, by index -/
  words : Tab Word
deriving DecidableEq, Repr

/-- The hub die's own state: bring-up, time, power, capability list, handover area, health (R2, R315, R316, R318, R336, R337). -/
structure Hub where
  stage : Nat
  failedAt : Option Nat
  timeset : Word
  /-- the module time and the cycle at which it was loaded (R87) -/
  timeBase : Word
  timeAt : Nat
  /-- the even GEN that the capability list reaches once every rebuild asked for has been done (R7) -/
  capGen : Nat
  caps : CapList
  /-- the entries of the list as it was first built, which are measured (R293) -/
  builtCaps : List CapEntry
  handover : Handover
  modNum : BitVec 8
  health : Health
  frozen : Bool
  d3 : Bool
  scrubOff : Bool
  powerLimit : Nat
  /-- launches accepted since reset (R241) -/
  accepted : Nat
  epochAt : Nat
  weighAt : Nat
  governAt : Nat
  /-- cold looms that have started a command in this window (R132) -/
  coldStarts : Nat
  /-- links of the mesh and between dies that are in recovery (R312) -/
  recovery : List LinkId
  /-- the places of 64 KiB that failed rows have cost: 0 to 7 of the near memory of that die, 8 and above of a far channel
  (R314) -/
  lostFrames : List Nat
  out : List OutMsg
deriving DecidableEq, Repr

/-- The whole module. -/
structure State where
  /-- the thread that issues now -/
  thr : Thread
  others : List Thread
  mem : List Host.Cell
  /-- poisoned lines by physical line address, with the cause (R305) -/
  poison : Tab (BitVec 16)
  partials : List Partial
  tenants : Tab Tenant
  clusters : Tab Cluster
  /-- what the save areas hold of the clusters of switched-out tenants (R288), by 128 × tenant + cluster -/
  saved : Tab Cluster
  cores : Tab Core
  regions : Tab Region
  tlb : List TlbEntry
  queues : Tab HostQueue
  head0 : Head
  head1 : Head
  links : Tab Link
  net : Net
  hub : Hub
  /-- CYC (R44) -/
  cyc : Nat
  /-- THE MODEL'S OWN: how many free values have been taken -/
  free : Nat
  /-- THE MODEL'S OWN: the device events and inputs that happen next, first first -/
  agenda : List Instr
deriving DecidableEq, Repr

/-- Registers and state words as R44 gives them at creation, with the RNGS of rank 0. -/
def Arch.zero : Arch where
  x := Vector.replicate 32 0
  m := Vector.replicate 8 0
  v := Vector.replicate 32 0
  pc := 0
  sts := 0x1000
  rngs := 1
  flta := 0
  swin := Vector.replicate 8 0
  dbk := 0
  dgo := 0
  live := 0x0000FFFE
  why := 0
  hold := []

/-- A chunk that begins with the registers `a`; CHUNKMAX is bits 15:4 of STS (R45, R86); a squash drops the operand
buffer (R101). -/
def Chunk.fresh (a : Arch) : Chunk where
  start := { a with hold := [] }
  max := (a.sts.extractLsb' 4 12).toNat
  count := 0
  reads := []
  buf := []
  firsts := []
  pages := []
  radds := []
  seen := []
  elems := []
  conflict := false
  byChunk := false
  ended := false

/-- An unbound handle (R204). -/
def QHandle.unbound : QHandle := ⟨0, 0, 0, 0, 0, .none, 0⟩

/-- A thread with the registers `a` in a slot, as R44 and R220 give it at creation. -/
def Thread.fresh (id : ThreadId) (a : Arch) (core : BitVec 10) (n : BitVec 8) : Thread where
  id := id
  lid := 0
  crew := 0
  run := .ready
  stopped := none
  place := .slot core n
  woken := none
  core := core
  arch := a
  chunk := Chunk.fresh a
  region := none
  squashes := 0
  solo := none
  gmask := 0
  queues := Vector.replicate 8 QHandle.unbound
  watches := Vector.replicate 4 none
  latch := 0
  took := 0
  lost := false
  arms := []
  post := none
  aslot := .none
  records := []
  age := 0
  waits := 0
  yielded := false
  balk := none
  since := 0
  early := false
  spot := .none
  hollow := false

/-- No thread: what stands in `thr` while no thread issues. -/
def Thread.void : Thread := { Thread.fresh ⟨0, 0⟩ Arch.zero 0 0 with run := .halted }

/-- An empty operand store (R113). -/
def Operand.empty : Operand := ⟨none, []⟩

/-- A clear tile (R113). -/
def Tile.clear : Tile := ⟨.clear, []⟩

/-- A loom at reset (R118). -/
def Loom.reset : Loom :=
  ⟨0, none, 0, 0, 0, 0, 0, 0, 0, [], [], [], Operand.empty, [], [], 0, false⟩

/-- A porter at reset (R214). -/
def Porter.reset : Porter := ⟨0, 0, 0, 0, 0, 0, 0, [], false⟩

/-- A cluster at reset. -/
def Cluster.reset : Cluster := ⟨false, false, false, Loom.reset, [], [], (0, 0)⟩

/-- A core at reset: the round-robin slot number is 255 (R341). -/
def Core.reset : Core := ⟨false, 255, none, none, [], [], [], []⟩

/-- A region at reset: no owner, MODE 0, device bias, not backed (R153, R177, R374). -/
def Region.reset : Region := ⟨none, 0, 0, false, false, none, none, 15, [], 0, false, false, none⟩

/-- A tenant at reset: not set up; DAGE 1,024 and LEASEMAX 20,000 (R164), RMAX 2^24 (R269), no indenture pool (R271). -/
def Tenant.reset : Tenant where
  valid := false
  rect := ⟨0, 0, 0, 0⟩
  gen := 0
  tdisp := .unlocked
  nonce := none
  keyed0 := false
  keyed1 := false
  pasid0 := none
  pasid1 := none
  hostLost := false
  stopped := false
  out := false
  wasStopped := false
  leaving := 0
  rr := false
  dage := 1024
  leasemax := 20000
  rmax := 2 ^ 24
  pri := false
  priNo := []
  cellar := 0
  cellarPages := 0
  cellarNext := 0
  save := 0
  ipool := 0
  ptab := []
  refused := []
  priWait := []
  indent := []
  rootFlta := 0
  ranges := []
  domains := []
  launches := []
  nextLid := 1
  firstQueue := none
  pending := []
  dropped := []
  reports := []
  pulse := none
  hints := none
  peers := []
  window := none
  fabric := []
  deadlock := false

/-- A host queue at reset: not set up (R327). -/
def HostQueue.reset : HostQueue := ⟨false, false, false, 0, 0, 0, 0, 0, 0, 0, 0, 0, 0, 0, 0, [], .idle⟩

/-- The service queue of a head at reset: it exists and has no ring (R329). -/
def HostQueue.serviceReset (h : BitVec 1) : HostQueue :=
  { HostQueue.reset with valid := true, service := true, head := h }

/-- A head at reset: link down until the host brings it up (R22, R329). -/
def Head.reset : Head := ⟨false, false, 0, false, false, false, 0, 0, 0, [], 0⟩

/-- A YV link at reset: not up (R23). -/
def Link.reset : Link := ⟨false, 0xFF, false⟩

/-- The health record at reset (R315). -/
def Health.reset : Health := ⟨false, false, 0, 0, 0, 0, 0, 0, 0, 0⟩

/-- The hub die at reset: bring-up has passed no stage (R336); the power limit is 3,400 W (R25). -/
def Hub.reset : Hub := ⟨0, none, 0, 0, 0, 0, ⟨0, [], false⟩, [], ⟨0, []⟩, 0, Health.reset, false, false, false, 3400, 0, 0, 0, 0, 0, [], [], []⟩

/-- Nothing travels at reset. -/
def Net.reset : Net := ⟨[], [], [], [], 0, [], [], [], [], [], [], [], [], [], [], [], [], [], []⟩

/-- The module right after reset (R336): no thread, no tenant, nothing in memory. -/
def State.reset : State where
  thr := Thread.void
  others := []
  mem := []
  poison := []
  partials := []
  tenants := []
  clusters := []
  saved := []
  cores := []
  regions := []
  tlb := []
  queues := [(0, HostQueue.serviceReset 0), (32, HostQueue.serviceReset 1)]
  head0 := Head.reset
  head1 := Head.reset
  links := []
  net := Net.reset
  hub := Hub.reset
  cyc := 0
  free := 0
  agenda := []

end Sys2Proof.Machine
end

