-- ==== Sys2Proof/Machine/Map.lean ====
section
/-! DEFINITION. Sparse data by key and the accessors of fixed rows of registers: the read and the write of a key, which
keeps the keys strictly rising, and small list helpers. -/

namespace Sys2Proof.Machine

/-- The value at key `k`, or the kind's default `d`. -/
def tget {α : Type} (d : α) : Tab α → Nat → α
  | [], _ => d
  | (i, v) :: t, k => if i = k then v else tget d t k

/-- The value at key `k`, if it is listed. -/
def tfind {α : Type} : Tab α → Nat → Option α
  | [], _ => none
  | (i, v) :: t, k => if i = k then some v else tfind t k

/-- Writes the value at key `k`. -/
def tset {α : Type} : Tab α → Nat → α → Tab α
  | [], k, v => [(k, v)]
  | (i, w) :: t, k, v =>
    if k < i then (k, v) :: (i, w) :: t
    else if k = i then (k, v) :: t
    else (i, w) :: tset t k v

/-- Removes key `k`. -/
def tdel {α : Type} (t : Tab α) (k : Nat) : Tab α := t.filter (fun p => p.1 != k)

/-- Writes `v` at key `k`, or removes the key when `v` is the kind's default `d`. -/
def tput {α : Type} [DecidableEq α] (d : α) (t : Tab α) (k : Nat) (v : α) : Tab α :=
  if v = d then tdel t k else tset t k v

/-- The keys rise strictly. -/
def twf {α : Type} : Tab α → Bool
  | [] => true
  | [_] => true
  | (i, _) :: (j, w) :: t => decide (i < j) && twf ((j, w) :: t)

/-- The register a five-bit field names. -/
def xat {α : Type} (v : Vector α 32) (i : BitVec 5) : α := v[i.toNat]'(by have := i.isLt; omega)

/-- Writes the register a five-bit field names. -/
def xput {α : Type} (v : Vector α 32) (i : BitVec 5) (a : α) : Vector α 32 :=
  v.set i.toNat a (by have := i.isLt; omega)

/-- The entry a three-bit field names. -/
def oat {α : Type} (v : Vector α 8) (i : BitVec 3) : α := v[i.toNat]'(by have := i.isLt; omega)

/-- Writes the entry a three-bit field names. -/
def oput {α : Type} (v : Vector α 8) (i : BitVec 3) (a : α) : Vector α 8 :=
  v.set i.toNat a (by have := i.isLt; omega)

/-- The entry a two-bit field names. -/
def qat {α : Type} (v : Vector α 4) (i : BitVec 2) : α := v[i.toNat]'(by have := i.isLt; omega)

/-- Writes the entry a two-bit field names. -/
def qput {α : Type} (v : Vector α 4) (i : BitVec 2) (a : α) : Vector α 4 :=
  v.set i.toNat a (by have := i.isLt; omega)

/-- Adds a key to a list without repeats. -/
def ladd (l : List Nat) (n : Nat) : List Nat := if l.contains n then l else n :: l

/-- Adds every key of a list. -/
def laddAll (l ks : List Nat) : List Nat := ks.foldl ladd l

/-- Whether two lists share a key. -/
def lmeets (l ks : List Nat) : Bool := l.any ks.contains

/-- Inserts a key into an ascending list. -/
def linsert : List Nat → Nat → List Nat
  | [], n => [n]
  | i :: t, n => if n < i then n :: i :: t else if n = i then i :: t else i :: linsert t n

/-- A list of keys in ascending order, without repeats. -/
def lsort (l : List Nat) : List Nat := l.foldl linsert []

/-- The list without its `n`-th entry. -/
def ldrop {α : Type} (l : List α) (n : Nat) : List α := l.take n ++ l.drop (n + 1)

end Sys2Proof.Machine
end

