-- ==== Sys2Proof/WellFormed.lean ====
section
/-! DEFINITION. Which terms of the syntax are instructions: the checks of R38 to R41 and R44 that the types of the
operands do not already make. -/

namespace Sys2Proof

/-- Whether a vector element type is a floating-point type (R40). -/
def VTy.isFp : VTy → Bool
  | .s => true
  | .d => true
  | .h => true
  | .b => true
  | _ => false

/-- Whether a format code of a pointer tag is reserved (R48). -/
def fmtReserved (f : BitVec 4) : Bool := decide (14 ≤ f.toNat)

/-- Whether R48 allows BLK for FMT. -/
def blkAllowed (f : BitVec 4) (b : BitVec 3) : Bool :=
  if f.toNat = 9 || f.toNat = 10 || f.toNat = 12 then true
  else if f.toNat = 11 then b.toNat = 5
  else b.toNat = 0

/-- Whether `swr` may write the state word of this index: PC, IDT, RANK, TENANT, VCX, CYC and QB0 to QB7 are read only
(R44). -/
def wordWritable (i : BitVec 5) : Bool :=
  !(i.toNat = 0 || (decide (4 ≤ i.toNat) && decide (i.toNat ≤ 7)) || (decide (20 ≤ i.toNat) && decide (i.toNat ≤ 28)))

/-- Whether `twrs` may write the item FN names: every x register, and the state words that `swr` may write (R274). -/
def itemWritable (f : BitVec 6) : Bool := decide (f.toNat < 32) || wordWritable (f.setWidth 5)

/-- The types `vcmp` takes with each relation (R103). -/
def cmpTyOk (c : CmpOp) (t : VTy) : Bool :=
  match c with
  | .ltu => !t.isFp
  | .leu => !t.isFp
  | _ => true

/-- The wide types `vpack` and `vunpk` take with each narrow format (R105). -/
def packTyOk (f : NarrowFmt) (t : VTy) : Bool :=
  match f with
  | .i4 => t = .i8 || t = .i16 || t = .i32
  | _ => t = .s || t = .h || t = .b

/-- The narrow formats `vpack` takes with .inf (R69, R105). -/
def infOk (f : NarrowFmt) : Bool := f = .e4m3 || f = .e5m2 || f = .d8

/-- The types of `vred` and `vscan` (R40, R106). -/
def redTyOk (t : VTy) : Bool := t.isFp || t = .i32 || t = .i64

/-- A literal that carries an immediate is not zero (R31). -/
def Imm.ok {n : Nat} : Imm n → Bool
  | .short _ => true
  | .lit v => v != 0

/-- Whether a term is an instruction. A device event always is. -/
def Instr.wf : Instr → Bool
  | .nop => true
  | .brk _ => true
  | .bEq _ _ off => off.ok
  | .bNe _ _ off => off.ok
  | .bLt _ _ off => off.ok
  | .bGe _ _ off => off.ok
  | .bLtu _ _ off => off.ok
  | .bGeu _ _ off => off.ok
  | .jal _ off => off.ok
  | .jalr _ _ off => off.ok
  | .ld _ _ _ off => off.ok
  | .st _ _ _ off => off.ok
  | .prfL1 _ off => off.ok
  | .prfL2 _ off => off.ok
  | .zline _ off => off.ok
  | .vld _ _ _ _ _ _ => true
  | .vst _ _ _ _ _ _ => true
  | .vldx _ _ _ _ _ _ => true
  | .vstx _ _ _ _ _ _ => true
  | .vldt _ _ _ _ _ => true
  | .vstt _ _ _ _ _ => true
  | .amo _ _ _ _ _ => true
  | .cas _ _ _ _ => true
  | .amop op _ _ _ => decide (op ≠ .swap)
  | .crange _ _ _ _ => true
  | .radd _ _ _ => true
  | .rst _ _ _ => true
  | .dflush => true
  | .ramo op _ _ _ => decide (op ≠ .swap)
  | .chunk => true
  | .fenceD => true
  | .fenceE => true
  | .fenceA => true
  | .xbegin => true
  | .xend _ => true
  | .xabort _ => true
  | .qbind _ _ => true
  | .qwaitF _ => true
  | .qwaitE _ => true
  | .qadvH _ => true
  | .qadvT _ => true
  | .qld _ _ _ => true
  | .qst _ _ _ => true
  | .qstat _ _ => true
  | .pcopy _ _ _ => true
  | .pcopyt _ _ _ => true
  | .pgath _ _ _ => true
  | .pscat _ _ _ => true
  | .pscadd _ _ _ => true
  | .pfill _ _ _ => true
  | .twarp _ _ _ => true
  | .tzero _ => true
  | .tlda _ _ => true
  | .tmul _ _ => true
  | .tmult _ _ => true
  | .touter _ _ _ => true
  | .tewBias _ _ => true
  | .tewScale _ _ => true
  | .tewRelu _ => true
  | .tewGelu _ => true
  | .tewSilu _ => true
  | .tewClamp _ _ _ => true
  | .tred _ _ => true
  | .tst _ _ _ => true
  | .tsync _ => true
  | .trecOn => true
  | .trecOff => true
  | .unwind _ => true
  | .tdrop => true
  | .watch _ _ _ _ => true
  | .unwatch _ => true
  | .wait _ _ => true
  | .yield => true
  | .halt => true
  | .haltRetain => true
  | .live _ => true
  | .spawn _ _ _ => true
  | .pwait => true
  | .smay => true
  | .bar _ _ _ => true
  | .dmem _ _ => true
  | .dbar _ _ => true
  | .vclaim _ _ => true
  | .vrel => true
  | .vreneg _ _ => true
  | .xchg _ _ _ => true
  | .launch _ _ => true
  | .tstop _ _ => true
  | .tstart _ _ => true
  | .trds _ _ item => decide (item.toNat < 61)
  | .twrs _ _ _ item => decide (item.toNat < 61) && itemWritable item
  | .igrant _ _ => true
  | .irevoke _ _ => true
  | .iquery _ _ => true
  | .movi _ imm => imm.ok
  | .movhi _ imm => imm.ok
  | .srd _ i => decide (i.toNat < 29)
  | .swr _ i => decide (i.toNat < 29) && wordWritable i
  | .time _ => true
  | .add _ _ _ => true
  | .sub _ _ _ => true
  | .and _ _ _ => true
  | .or _ _ _ => true
  | .xor _ _ _ => true
  | .shl _ _ _ => true
  | .shr _ _ _ => true
  | .sar _ _ _ => true
  | .slt _ _ _ => true
  | .sltu _ _ _ => true
  | .min _ _ _ => true
  | .max _ _ _ => true
  | .minu _ _ _ => true
  | .maxu _ _ _ => true
  | .sel _ _ _ _ => true
  | .mul _ _ _ => true
  | .mulh _ _ _ => true
  | .mulhu _ _ _ => true
  | .div _ _ _ => true
  | .divu _ _ _ => true
  | .rem _ _ _ => true
  | .remu _ _ _ => true
  | .clz _ _ => true
  | .ctz _ _ => true
  | .popc _ _ => true
  | .bswap _ _ => true
  | .ext _ _ pos lm => decide (pos.toNat + lm.toNat + 1 ≤ 64)
  | .addi _ _ _ => true
  | .andi _ _ _ => true
  | .ori _ _ _ => true
  | .xori _ _ _ => true
  | .shli _ _ _ => true
  | .shri _ _ _ => true
  | .sari _ _ _ => true
  | .slti _ _ _ => true
  | .sltiu _ _ _ => true
  | .padd _ _ _ => true
  | .pidx _ _ _ => true
  | .pfmt _ _ => true
  | .pclr _ _ => true
  | .ptag _ _ fmt blk => !fmtReserved fmt && blkAllowed fmt blk
  | .fadd _ _ _ _ _ => true
  | .fsub _ _ _ _ _ => true
  | .fmul _ _ _ _ _ => true
  | .fdiv _ _ _ _ _ => true
  | .fsqrt _ _ _ _ => true
  | .fma _ _ _ _ _ _ => true
  | .fnma _ _ _ _ _ _ => true
  | .fmin _ _ _ _ => true
  | .fmax _ _ _ _ => true
  | .feq _ _ _ _ => true
  | .flt _ _ _ _ => true
  | .fle _ _ _ _ => true
  | .fcls _ _ _ => true
  | .fsgn _ _ _ _ => true
  | .fcvt dst src _ _ _ => decide (src ≠ dst)
  | .vadd _ _ _ _ _ _ _ => true
  | .vsub _ _ _ _ _ _ _ => true
  | .vmul _ _ _ _ _ _ _ => true
  | .vfma ty _ _ _ _ _ _ => ty.isFp
  | .vfnma ty _ _ _ _ _ _ => ty.isFp
  | .vdiv ty _ _ _ _ _ _ => ty.isFp
  | .vsqrt ty _ _ _ _ => ty.isFp
  | .vmin _ _ _ _ _ _ _ => true
  | .vmax _ _ _ _ _ _ _ => true
  | .vand ty _ _ _ _ _ _ => !ty.isFp
  | .vor ty _ _ _ _ _ _ => !ty.isFp
  | .vxor ty _ _ _ _ _ _ => !ty.isFp
  | .vshl ty _ _ _ _ _ _ => !ty.isFp
  | .vshr ty _ _ _ _ _ _ => !ty.isFp
  | .vsar ty _ _ _ _ _ _ => !ty.isFp
  | .vcmp c ty _ _ _ _ _ _ => cmpTyOk c ty
  | .vsel _ _ _ _ _ _ _ => true
  | .vcvt dst src _ _ _ _ => decide (src ≠ dst)
  | .vpack f ty inf _ _ _ _ => packTyOk f ty && (!inf || infOk f)
  | .vunpk f ty _ _ _ _ => packTyOk f ty
  | .vred _ ty _ _ _ _ => redTyOk ty
  | .vscan ty _ _ _ _ => redTyOk ty
  | .vperm _ _ _ _ _ _ _ => true
  | .vslideUp _ _ _ _ _ _ => true
  | .vslideDn _ _ _ _ _ _ => true
  | .vbcast _ _ _ _ => true
  | .vext _ _ _ _ _ => true
  | .vins _ _ _ _ => true
  | .vmv _ _ _ _ _ => true
  | .vrcp ty _ _ _ _ => ty.isFp
  | .vrsq ty _ _ _ _ => ty.isFp
  | .vexp2 ty _ _ _ _ => ty.isFp
  | .vlog2 ty _ _ _ _ => ty.isFp
  | .vtanh ty _ _ _ _ => ty.isFp
  | .vmand _ _ _ => true
  | .vmor _ _ _ => true
  | .vmxor _ _ _ => true
  | .vmnot _ _ => true
  | .vmpop _ _ => true
  | .vmfirst _ _ => true
  | .vid ty _ _ => !ty.isFp
  | .chunkCommit _ => true
  | .heldChunk => true
  | .leaseAcquire => true
  | .leaseExpiry => true
  | .fallThrough => true
  | .drayAgeExpiry _ _ => true
  | .drayPacketApply _ => true
  | .drayAcknowledgement _ => true
  | .amoPerform _ => true
  | .amopPerform _ => true
  | .partialEviction _ _ => true
  | .hostCxlMemAccess _ _ => true
  | .hostLineInvalidate _ _ => true
  | .fenceRelease _ => true
  | .watchArmEvent _ => true
  | .wakeDelivery _ => true
  | .hostWatchRecheck _ _ => true
  | .waitTimeout _ => true
  | .starvationLimit _ => true
  | .packComplete _ => true
  | .docketResume _ => true
  | .weighmasterSample _ => true
  | .moveComplete _ => true
  | .notifyWrite _ => true
  | .launchRecordRead _ => true
  | .launchValidated _ => true
  | .crewPlacement => true
  | .crewStart _ => true
  | .smayObserved _ => true
  | .launchComplete _ _ => true
  | .pwaitRelease _ => true
  | .barArrival _ => true
  | .barTimeout _ => true
  | .dbarArrival _ => true
  | .wireRaise _ => true
  | .wireComplete _ _ => true
  | .crierBegin _ _ _ => true
  | .crierMessage _ => true
  | .crierAbort _ => true
  | .dbarTimeout _ => true
  | .deadlockDetect _ => true
  | .pulsePeriodExpiry _ => true
  | .threadStateAction _ => true
  | .threadStateResult _ => true
  | .loomCommandArrival _ => true
  | .loomCommandStart _ => true
  | .loomCommandComplete _ _ => true
  | .loomRelease _ => true
  | .loomReleaseComplete _ => true
  | .lresRetry _ => true
  | .lresSkip _ => true
  | .lresFlush _ => true
  | .lresRetryNoNan _ => true
  | .governorWindow _ => true
  | .porterCommandStart _ _ => true
  | .porterCommandComplete _ _ => true
  | .presContinue _ _ => true
  | .presAbandon _ _ => true
  | .presAbandonAll _ _ => true
  | .queueReservation _ => true
  | .stampWrite _ => true
  | .pendingRecordDelivery _ _ => true
  | .correctedError _ _ => true
  | .uncorrectableError _ => true
  | .logicFault _ => true
  | .dramRowRemap _ => true
  | .patrolScrub _ => true
  | .parityReplay _ _ => true
  | .flitReplay _ _ => true
  | .linkRecovery _ _ => true
  | .laneFailure _ _ => true
  | .drainComplete _ => true
  | .epochEnd => true
  | .regionMigrationComplete _ => true
  | .freezeWord _ _ => true
  | .hostLinkDownTimeout _ => true
  | .adoptionWord _ _ => true
  | .atsCompletion _ _ _ => true
  | .priResponse _ _ => true
  | .atsInvalidationRequest _ _ _ => true
  | .peerWrite _ _ _ _ => true
  | .peerRead _ _ _ => true
  | .ioCompletion _ _ _ => true
  | .ioCompletionTimeout _ => true
  | .fabricRemoteAccess _ => true
  | .getMeasurements _ => true
  | .ideKm _ _ => true
  | .ideIntegrityFailure _ _ => true
  | .sessionExpiry _ => true
  | .getTdispVersion _ _ => true
  | .getTdispCapabilities _ _ => true
  | .lockInterfaceRequest _ _ => true
  | .getDeviceInterfaceReport _ _ => true
  | .getDeviceInterfaceState _ _ => true
  | .startInterfaceRequest _ _ _ => true
  | .stopInterfaceRequest _ _ => true
  | .doorbell _ _ _ => true
  | .svring _ _ => true
  | .svrep _ _ => true
  | .timeset _ _ => true
  | .registerWrite _ _ _ => true
  | .reset => true
  | .bringUpStage _ => true
  | .d3hotEntry => true
  | .d0Return => true
  | .pldmRequest _ _ => true
  | .queueSetup _ _ => true
  | .tenantSetup _ _ => true
  | .regionSetup _ _ => true
  | .biasFlip _ _ => true
  | .orderingSetup _ _ => true
  | .pulseSetup _ _ => true
  | .pin _ _ => true
  | .hintsSetup _ _ => true
  | .peersSetup _ _ => true
  | .fabricSetup _ _ => true
  | .scrubControl _ _ => true
  | .rebind _ _ => true
  | .issuePolicy _ _ => true
  | .powerLimit _ _ => true
  | .tenantStop _ _ => true
  | .tenantStart _ _ => true
  | .switchOut _ _ => true
  | .switchIn _ _ => true
  | .hostLinkDown _ => true
  | .hostLinkUp _ _ => true
  | .linkUp _ => true
  | .spdmSessionStart _ => true
  | .heartbeat _ => true
  | .keyUpdate _ _ => true
  | .endSession _ => true

/-- Whether an instruction has words: a C-slot or an A-slot instruction, and not a device event. -/
def Instr.encodable : Instr → Bool
  | .nop => true
  | .brk _ => true
  | .bEq _ _ _ => true
  | .bNe _ _ _ => true
  | .bLt _ _ _ => true
  | .bGe _ _ _ => true
  | .bLtu _ _ _ => true
  | .bGeu _ _ _ => true
  | .jal _ _ => true
  | .jalr _ _ _ => true
  | .ld _ _ _ _ => true
  | .st _ _ _ _ => true
  | .prfL1 _ _ => true
  | .prfL2 _ _ => true
  | .zline _ _ => true
  | .vld _ _ _ _ _ _ => true
  | .vst _ _ _ _ _ _ => true
  | .vldx _ _ _ _ _ _ => true
  | .vstx _ _ _ _ _ _ => true
  | .vldt _ _ _ _ _ => true
  | .vstt _ _ _ _ _ => true
  | .amo _ _ _ _ _ => true
  | .cas _ _ _ _ => true
  | .amop _ _ _ _ => true
  | .crange _ _ _ _ => true
  | .radd _ _ _ => true
  | .rst _ _ _ => true
  | .dflush => true
  | .ramo _ _ _ _ => true
  | .chunk => true
  | .fenceD => true
  | .fenceE => true
  | .fenceA => true
  | .xbegin => true
  | .xend _ => true
  | .xabort _ => true
  | .qbind _ _ => true
  | .qwaitF _ => true
  | .qwaitE _ => true
  | .qadvH _ => true
  | .qadvT _ => true
  | .qld _ _ _ => true
  | .qst _ _ _ => true
  | .qstat _ _ => true
  | .pcopy _ _ _ => true
  | .pcopyt _ _ _ => true
  | .pgath _ _ _ => true
  | .pscat _ _ _ => true
  | .pscadd _ _ _ => true
  | .pfill _ _ _ => true
  | .twarp _ _ _ => true
  | .tzero _ => true
  | .tlda _ _ => true
  | .tmul _ _ => true
  | .tmult _ _ => true
  | .touter _ _ _ => true
  | .tewBias _ _ => true
  | .tewScale _ _ => true
  | .tewRelu _ => true
  | .tewGelu _ => true
  | .tewSilu _ => true
  | .tewClamp _ _ _ => true
  | .tred _ _ => true
  | .tst _ _ _ => true
  | .tsync _ => true
  | .trecOn => true
  | .trecOff => true
  | .unwind _ => true
  | .tdrop => true
  | .watch _ _ _ _ => true
  | .unwatch _ => true
  | .wait _ _ => true
  | .yield => true
  | .halt => true
  | .haltRetain => true
  | .live _ => true
  | .spawn _ _ _ => true
  | .pwait => true
  | .smay => true
  | .bar _ _ _ => true
  | .dmem _ _ => true
  | .dbar _ _ => true
  | .vclaim _ _ => true
  | .vrel => true
  | .vreneg _ _ => true
  | .xchg _ _ _ => true
  | .launch _ _ => true
  | .tstop _ _ => true
  | .tstart _ _ => true
  | .trds _ _ _ => true
  | .twrs _ _ _ _ => true
  | .igrant _ _ => true
  | .irevoke _ _ => true
  | .iquery _ _ => true
  | .movi _ _ => true
  | .movhi _ _ => true
  | .srd _ _ => true
  | .swr _ _ => true
  | .time _ => true
  | .add _ _ _ => true
  | .sub _ _ _ => true
  | .and _ _ _ => true
  | .or _ _ _ => true
  | .xor _ _ _ => true
  | .shl _ _ _ => true
  | .shr _ _ _ => true
  | .sar _ _ _ => true
  | .slt _ _ _ => true
  | .sltu _ _ _ => true
  | .min _ _ _ => true
  | .max _ _ _ => true
  | .minu _ _ _ => true
  | .maxu _ _ _ => true
  | .sel _ _ _ _ => true
  | .mul _ _ _ => true
  | .mulh _ _ _ => true
  | .mulhu _ _ _ => true
  | .div _ _ _ => true
  | .divu _ _ _ => true
  | .rem _ _ _ => true
  | .remu _ _ _ => true
  | .clz _ _ => true
  | .ctz _ _ => true
  | .popc _ _ => true
  | .bswap _ _ => true
  | .ext _ _ _ _ => true
  | .addi _ _ _ => true
  | .andi _ _ _ => true
  | .ori _ _ _ => true
  | .xori _ _ _ => true
  | .shli _ _ _ => true
  | .shri _ _ _ => true
  | .sari _ _ _ => true
  | .slti _ _ _ => true
  | .sltiu _ _ _ => true
  | .padd _ _ _ => true
  | .pidx _ _ _ => true
  | .pfmt _ _ => true
  | .pclr _ _ => true
  | .ptag _ _ _ _ => true
  | .fadd _ _ _ _ _ => true
  | .fsub _ _ _ _ _ => true
  | .fmul _ _ _ _ _ => true
  | .fdiv _ _ _ _ _ => true
  | .fsqrt _ _ _ _ => true
  | .fma _ _ _ _ _ _ => true
  | .fnma _ _ _ _ _ _ => true
  | .fmin _ _ _ _ => true
  | .fmax _ _ _ _ => true
  | .feq _ _ _ _ => true
  | .flt _ _ _ _ => true
  | .fle _ _ _ _ => true
  | .fcls _ _ _ => true
  | .fsgn _ _ _ _ => true
  | .fcvt _ _ _ _ _ => true
  | .vadd _ _ _ _ _ _ _ => true
  | .vsub _ _ _ _ _ _ _ => true
  | .vmul _ _ _ _ _ _ _ => true
  | .vfma _ _ _ _ _ _ _ => true
  | .vfnma _ _ _ _ _ _ _ => true
  | .vdiv _ _ _ _ _ _ _ => true
  | .vsqrt _ _ _ _ _ => true
  | .vmin _ _ _ _ _ _ _ => true
  | .vmax _ _ _ _ _ _ _ => true
  | .vand _ _ _ _ _ _ _ => true
  | .vor _ _ _ _ _ _ _ => true
  | .vxor _ _ _ _ _ _ _ => true
  | .vshl _ _ _ _ _ _ _ => true
  | .vshr _ _ _ _ _ _ _ => true
  | .vsar _ _ _ _ _ _ _ => true
  | .vcmp _ _ _ _ _ _ _ _ => true
  | .vsel _ _ _ _ _ _ _ => true
  | .vcvt _ _ _ _ _ _ => true
  | .vpack _ _ _ _ _ _ _ => true
  | .vunpk _ _ _ _ _ _ => true
  | .vred _ _ _ _ _ _ => true
  | .vscan _ _ _ _ _ => true
  | .vperm _ _ _ _ _ _ _ => true
  | .vslideUp _ _ _ _ _ _ => true
  | .vslideDn _ _ _ _ _ _ => true
  | .vbcast _ _ _ _ => true
  | .vext _ _ _ _ _ => true
  | .vins _ _ _ _ => true
  | .vmv _ _ _ _ _ => true
  | .vrcp _ _ _ _ _ => true
  | .vrsq _ _ _ _ _ => true
  | .vexp2 _ _ _ _ _ => true
  | .vlog2 _ _ _ _ _ => true
  | .vtanh _ _ _ _ _ => true
  | .vmand _ _ _ => true
  | .vmor _ _ _ => true
  | .vmxor _ _ _ => true
  | .vmnot _ _ => true
  | .vmpop _ _ => true
  | .vmfirst _ _ => true
  | .vid _ _ _ => true
  | .chunkCommit _ => false
  | .heldChunk => false
  | .leaseAcquire => false
  | .leaseExpiry => false
  | .fallThrough => false
  | .drayAgeExpiry _ _ => false
  | .drayPacketApply _ => false
  | .drayAcknowledgement _ => false
  | .amoPerform _ => false
  | .amopPerform _ => false
  | .partialEviction _ _ => false
  | .hostCxlMemAccess _ _ => false
  | .hostLineInvalidate _ _ => false
  | .fenceRelease _ => false
  | .watchArmEvent _ => false
  | .wakeDelivery _ => false
  | .hostWatchRecheck _ _ => false
  | .waitTimeout _ => false
  | .starvationLimit _ => false
  | .packComplete _ => false
  | .docketResume _ => false
  | .weighmasterSample _ => false
  | .moveComplete _ => false
  | .notifyWrite _ => false
  | .launchRecordRead _ => false
  | .launchValidated _ => false
  | .crewPlacement => false
  | .crewStart _ => false
  | .smayObserved _ => false
  | .launchComplete _ _ => false
  | .pwaitRelease _ => false
  | .barArrival _ => false
  | .barTimeout _ => false
  | .dbarArrival _ => false
  | .wireRaise _ => false
  | .wireComplete _ _ => false
  | .crierBegin _ _ _ => false
  | .crierMessage _ => false
  | .crierAbort _ => false
  | .dbarTimeout _ => false
  | .deadlockDetect _ => false
  | .pulsePeriodExpiry _ => false
  | .threadStateAction _ => false
  | .threadStateResult _ => false
  | .loomCommandArrival _ => false
  | .loomCommandStart _ => false
  | .loomCommandComplete _ _ => false
  | .loomRelease _ => false
  | .loomReleaseComplete _ => false
  | .lresRetry _ => false
  | .lresSkip _ => false
  | .lresFlush _ => false
  | .lresRetryNoNan _ => false
  | .governorWindow _ => false
  | .porterCommandStart _ _ => false
  | .porterCommandComplete _ _ => false
  | .presContinue _ _ => false
  | .presAbandon _ _ => false
  | .presAbandonAll _ _ => false
  | .queueReservation _ => false
  | .stampWrite _ => false
  | .pendingRecordDelivery _ _ => false
  | .correctedError _ _ => false
  | .uncorrectableError _ => false
  | .logicFault _ => false
  | .dramRowRemap _ => false
  | .patrolScrub _ => false
  | .parityReplay _ _ => false
  | .flitReplay _ _ => false
  | .linkRecovery _ _ => false
  | .laneFailure _ _ => false
  | .drainComplete _ => false
  | .epochEnd => false
  | .regionMigrationComplete _ => false
  | .freezeWord _ _ => false
  | .hostLinkDownTimeout _ => false
  | .adoptionWord _ _ => false
  | .atsCompletion _ _ _ => false
  | .priResponse _ _ => false
  | .atsInvalidationRequest _ _ _ => false
  | .peerWrite _ _ _ _ => false
  | .peerRead _ _ _ => false
  | .ioCompletion _ _ _ => false
  | .ioCompletionTimeout _ => false
  | .fabricRemoteAccess _ => false
  | .getMeasurements _ => false
  | .ideKm _ _ => false
  | .ideIntegrityFailure _ _ => false
  | .sessionExpiry _ => false
  | .getTdispVersion _ _ => false
  | .getTdispCapabilities _ _ => false
  | .lockInterfaceRequest _ _ => false
  | .getDeviceInterfaceReport _ _ => false
  | .getDeviceInterfaceState _ _ => false
  | .startInterfaceRequest _ _ _ => false
  | .stopInterfaceRequest _ _ => false
  | .doorbell _ _ _ => false
  | .svring _ _ => false
  | .svrep _ _ => false
  | .timeset _ _ => false
  | .registerWrite _ _ _ => false
  | .reset => false
  | .bringUpStage _ => false
  | .d3hotEntry => false
  | .d0Return => false
  | .pldmRequest _ _ => false
  | .queueSetup _ _ => false
  | .tenantSetup _ _ => false
  | .regionSetup _ _ => false
  | .biasFlip _ _ => false
  | .orderingSetup _ _ => false
  | .pulseSetup _ _ => false
  | .pin _ _ => false
  | .hintsSetup _ _ => false
  | .peersSetup _ _ => false
  | .fabricSetup _ _ => false
  | .scrubControl _ _ => false
  | .rebind _ _ => false
  | .issuePolicy _ _ => false
  | .powerLimit _ _ => false
  | .tenantStop _ _ => false
  | .tenantStart _ _ => false
  | .switchOut _ _ => false
  | .switchIn _ _ => false
  | .hostLinkDown _ => false
  | .hostLinkUp _ _ => false
  | .linkUp _ => false
  | .spdmSessionStart _ => false
  | .heartbeat _ => false
  | .keyUpdate _ _ => false
  | .endSession _ => false

/-- Whether an instruction stands in the A slot. -/
def Instr.isA : Instr → Bool
  | .nop => false
  | .brk _ => false
  | .bEq _ _ _ => false
  | .bNe _ _ _ => false
  | .bLt _ _ _ => false
  | .bGe _ _ _ => false
  | .bLtu _ _ _ => false
  | .bGeu _ _ _ => false
  | .jal _ _ => false
  | .jalr _ _ _ => false
  | .ld _ _ _ _ => false
  | .st _ _ _ _ => false
  | .prfL1 _ _ => false
  | .prfL2 _ _ => false
  | .zline _ _ => false
  | .vld _ _ _ _ _ _ => false
  | .vst _ _ _ _ _ _ => false
  | .vldx _ _ _ _ _ _ => false
  | .vstx _ _ _ _ _ _ => false
  | .vldt _ _ _ _ _ => false
  | .vstt _ _ _ _ _ => false
  | .amo _ _ _ _ _ => false
  | .cas _ _ _ _ => false
  | .amop _ _ _ _ => false
  | .crange _ _ _ _ => false
  | .radd _ _ _ => false
  | .rst _ _ _ => false
  | .dflush => false
  | .ramo _ _ _ _ => false
  | .chunk => false
  | .fenceD => false
  | .fenceE => false
  | .fenceA => false
  | .xbegin => false
  | .xend _ => false
  | .xabort _ => false
  | .qbind _ _ => false
  | .qwaitF _ => false
  | .qwaitE _ => false
  | .qadvH _ => false
  | .qadvT _ => false
  | .qld _ _ _ => false
  | .qst _ _ _ => false
  | .qstat _ _ => false
  | .pcopy _ _ _ => false
  | .pcopyt _ _ _ => false
  | .pgath _ _ _ => false
  | .pscat _ _ _ => false
  | .pscadd _ _ _ => false
  | .pfill _ _ _ => false
  | .twarp _ _ _ => false
  | .tzero _ => false
  | .tlda _ _ => false
  | .tmul _ _ => false
  | .tmult _ _ => false
  | .touter _ _ _ => false
  | .tewBias _ _ => false
  | .tewScale _ _ => false
  | .tewRelu _ => false
  | .tewGelu _ => false
  | .tewSilu _ => false
  | .tewClamp _ _ _ => false
  | .tred _ _ => false
  | .tst _ _ _ => false
  | .tsync _ => false
  | .trecOn => false
  | .trecOff => false
  | .unwind _ => false
  | .tdrop => false
  | .watch _ _ _ _ => false
  | .unwatch _ => false
  | .wait _ _ => false
  | .yield => false
  | .halt => false
  | .haltRetain => false
  | .live _ => false
  | .spawn _ _ _ => false
  | .pwait => false
  | .smay => false
  | .bar _ _ _ => false
  | .dmem _ _ => false
  | .dbar _ _ => false
  | .vclaim _ _ => false
  | .vrel => false
  | .vreneg _ _ => false
  | .xchg _ _ _ => false
  | .launch _ _ => false
  | .tstop _ _ => false
  | .tstart _ _ => false
  | .trds _ _ _ => false
  | .twrs _ _ _ _ => false
  | .igrant _ _ => false
  | .irevoke _ _ => false
  | .iquery _ _ => false
  | .movi _ _ => false
  | .movhi _ _ => false
  | .srd _ _ => false
  | .swr _ _ => false
  | .time _ => false
  | .add _ _ _ => true
  | .sub _ _ _ => true
  | .and _ _ _ => true
  | .or _ _ _ => true
  | .xor _ _ _ => true
  | .shl _ _ _ => true
  | .shr _ _ _ => true
  | .sar _ _ _ => true
  | .slt _ _ _ => true
  | .sltu _ _ _ => true
  | .min _ _ _ => true
  | .max _ _ _ => true
  | .minu _ _ _ => true
  | .maxu _ _ _ => true
  | .sel _ _ _ _ => true
  | .mul _ _ _ => true
  | .mulh _ _ _ => true
  | .mulhu _ _ _ => true
  | .div _ _ _ => true
  | .divu _ _ _ => true
  | .rem _ _ _ => true
  | .remu _ _ _ => true
  | .clz _ _ => true
  | .ctz _ _ => true
  | .popc _ _ => true
  | .bswap _ _ => true
  | .ext _ _ _ _ => true
  | .addi _ _ _ => true
  | .andi _ _ _ => true
  | .ori _ _ _ => true
  | .xori _ _ _ => true
  | .shli _ _ _ => true
  | .shri _ _ _ => true
  | .sari _ _ _ => true
  | .slti _ _ _ => true
  | .sltiu _ _ _ => true
  | .padd _ _ _ => true
  | .pidx _ _ _ => true
  | .pfmt _ _ => true
  | .pclr _ _ => true
  | .ptag _ _ _ _ => true
  | .fadd _ _ _ _ _ => true
  | .fsub _ _ _ _ _ => true
  | .fmul _ _ _ _ _ => true
  | .fdiv _ _ _ _ _ => true
  | .fsqrt _ _ _ _ => true
  | .fma _ _ _ _ _ _ => true
  | .fnma _ _ _ _ _ _ => true
  | .fmin _ _ _ _ => true
  | .fmax _ _ _ _ => true
  | .feq _ _ _ _ => true
  | .flt _ _ _ _ => true
  | .fle _ _ _ _ => true
  | .fcls _ _ _ => true
  | .fsgn _ _ _ _ => true
  | .fcvt _ _ _ _ _ => true
  | .vadd _ _ _ _ _ _ _ => true
  | .vsub _ _ _ _ _ _ _ => true
  | .vmul _ _ _ _ _ _ _ => true
  | .vfma _ _ _ _ _ _ _ => true
  | .vfnma _ _ _ _ _ _ _ => true
  | .vdiv _ _ _ _ _ _ _ => true
  | .vsqrt _ _ _ _ _ => true
  | .vmin _ _ _ _ _ _ _ => true
  | .vmax _ _ _ _ _ _ _ => true
  | .vand _ _ _ _ _ _ _ => true
  | .vor _ _ _ _ _ _ _ => true
  | .vxor _ _ _ _ _ _ _ => true
  | .vshl _ _ _ _ _ _ _ => true
  | .vshr _ _ _ _ _ _ _ => true
  | .vsar _ _ _ _ _ _ _ => true
  | .vcmp _ _ _ _ _ _ _ _ => true
  | .vsel _ _ _ _ _ _ _ => true
  | .vcvt _ _ _ _ _ _ => true
  | .vpack _ _ _ _ _ _ _ => true
  | .vunpk _ _ _ _ _ _ => true
  | .vred _ _ _ _ _ _ => true
  | .vscan _ _ _ _ _ => true
  | .vperm _ _ _ _ _ _ _ => true
  | .vslideUp _ _ _ _ _ _ => true
  | .vslideDn _ _ _ _ _ _ => true
  | .vbcast _ _ _ _ => true
  | .vext _ _ _ _ _ => true
  | .vins _ _ _ _ => true
  | .vmv _ _ _ _ _ => true
  | .vrcp _ _ _ _ _ => true
  | .vrsq _ _ _ _ _ => true
  | .vexp2 _ _ _ _ _ => true
  | .vlog2 _ _ _ _ _ => true
  | .vtanh _ _ _ _ _ => true
  | .vmand _ _ _ => true
  | .vmor _ _ _ => true
  | .vmxor _ _ _ => true
  | .vmnot _ _ => true
  | .vmpop _ _ => true
  | .vmfirst _ _ => true
  | .vid _ _ _ => true
  | .chunkCommit _ => false
  | .heldChunk => false
  | .leaseAcquire => false
  | .leaseExpiry => false
  | .fallThrough => false
  | .drayAgeExpiry _ _ => false
  | .drayPacketApply _ => false
  | .drayAcknowledgement _ => false
  | .amoPerform _ => false
  | .amopPerform _ => false
  | .partialEviction _ _ => false
  | .hostCxlMemAccess _ _ => false
  | .hostLineInvalidate _ _ => false
  | .fenceRelease _ => false
  | .watchArmEvent _ => false
  | .wakeDelivery _ => false
  | .hostWatchRecheck _ _ => false
  | .waitTimeout _ => false
  | .starvationLimit _ => false
  | .packComplete _ => false
  | .docketResume _ => false
  | .weighmasterSample _ => false
  | .moveComplete _ => false
  | .notifyWrite _ => false
  | .launchRecordRead _ => false
  | .launchValidated _ => false
  | .crewPlacement => false
  | .crewStart _ => false
  | .smayObserved _ => false
  | .launchComplete _ _ => false
  | .pwaitRelease _ => false
  | .barArrival _ => false
  | .barTimeout _ => false
  | .dbarArrival _ => false
  | .wireRaise _ => false
  | .wireComplete _ _ => false
  | .crierBegin _ _ _ => false
  | .crierMessage _ => false
  | .crierAbort _ => false
  | .dbarTimeout _ => false
  | .deadlockDetect _ => false
  | .pulsePeriodExpiry _ => false
  | .threadStateAction _ => false
  | .threadStateResult _ => false
  | .loomCommandArrival _ => false
  | .loomCommandStart _ => false
  | .loomCommandComplete _ _ => false
  | .loomRelease _ => false
  | .loomReleaseComplete _ => false
  | .lresRetry _ => false
  | .lresSkip _ => false
  | .lresFlush _ => false
  | .lresRetryNoNan _ => false
  | .governorWindow _ => false
  | .porterCommandStart _ _ => false
  | .porterCommandComplete _ _ => false
  | .presContinue _ _ => false
  | .presAbandon _ _ => false
  | .presAbandonAll _ _ => false
  | .queueReservation _ => false
  | .stampWrite _ => false
  | .pendingRecordDelivery _ _ => false
  | .correctedError _ _ => false
  | .uncorrectableError _ => false
  | .logicFault _ => false
  | .dramRowRemap _ => false
  | .patrolScrub _ => false
  | .parityReplay _ _ => false
  | .flitReplay _ _ => false
  | .linkRecovery _ _ => false
  | .laneFailure _ _ => false
  | .drainComplete _ => false
  | .epochEnd => false
  | .regionMigrationComplete _ => false
  | .freezeWord _ _ => false
  | .hostLinkDownTimeout _ => false
  | .adoptionWord _ _ => false
  | .atsCompletion _ _ _ => false
  | .priResponse _ _ => false
  | .atsInvalidationRequest _ _ _ => false
  | .peerWrite _ _ _ _ => false
  | .peerRead _ _ _ => false
  | .ioCompletion _ _ _ => false
  | .ioCompletionTimeout _ => false
  | .fabricRemoteAccess _ => false
  | .getMeasurements _ => false
  | .ideKm _ _ => false
  | .ideIntegrityFailure _ _ => false
  | .sessionExpiry _ => false
  | .getTdispVersion _ _ => false
  | .getTdispCapabilities _ _ => false
  | .lockInterfaceRequest _ _ => false
  | .getDeviceInterfaceReport _ _ => false
  | .getDeviceInterfaceState _ _ => false
  | .startInterfaceRequest _ _ _ => false
  | .stopInterfaceRequest _ _ => false
  | .doorbell _ _ _ => false
  | .svring _ _ => false
  | .svrep _ _ => false
  | .timeset _ _ => false
  | .registerWrite _ _ _ => false
  | .reset => false
  | .bringUpStage _ => false
  | .d3hotEntry => false
  | .d0Return => false
  | .pldmRequest _ _ => false
  | .queueSetup _ _ => false
  | .tenantSetup _ _ => false
  | .regionSetup _ _ => false
  | .biasFlip _ _ => false
  | .orderingSetup _ _ => false
  | .pulseSetup _ _ => false
  | .pin _ _ => false
  | .hintsSetup _ _ => false
  | .peersSetup _ _ => false
  | .fabricSetup _ _ => false
  | .scrubControl _ _ => false
  | .rebind _ _ => false
  | .issuePolicy _ _ => false
  | .powerLimit _ _ => false
  | .tenantStop _ _ => false
  | .tenantStart _ _ => false
  | .switchOut _ _ => false
  | .switchIn _ _ => false
  | .hostLinkDown _ => false
  | .hostLinkUp _ _ => false
  | .linkUp _ => false
  | .spdmSessionStart _ => false
  | .heartbeat _ => false
  | .keyUpdate _ _ => false
  | .endSession _ => false

end Sys2Proof
end

