-- ==== Sys2Proof/Machine/Numbers.lean ====
section
/-! DEFINITION. The number formats, their exact values, the one rounding function, and exact arithmetic (R58 to R72).
A value is a sign, a natural significand and a power of two, so every sum and product is exact; a quotient and a root
carry more bits than any rounding can see and one sticky bit. -/

namespace Sys2Proof.Machine

/-- The formats of R58 and R60; `int n` is an n-bit two's complement integer. -/
inductive Fmt where
  | fp64 | fp32 | fp16 | bf16 | e4m3 | e5m2 | e2m1 | d8
  | int (n : Nat)
deriving DecidableEq, Repr

/-- The rounding modes in the order of STS.RM (R45, R68). -/
inductive Mode where
  | rne | rtz | rdn | rup | rna | sr
deriving DecidableEq, Repr

/-- An exact value: NaN, an infinity, or (−1)^neg × m × 2^e, where a zero keeps its sign. -/
inductive Val where
  | nan
  | inf (neg : Bool)
  | fin (neg : Bool) (m : Nat) (e : Int)
deriving DecidableEq, Repr

/-- +0. -/
def Val.zero : Val := .fin false 0 0

/-- −0, the identity of floating-point addition (R73). -/
def Val.negZero : Val := .fin true 0 0

/-- The exact value of an integer. -/
def Val.ofInt (i : Int) : Val := .fin (decide (i < 0)) i.natAbs 0

/-- 2^e. -/
def Val.pow2 (e : Int) : Val := .fin false 1 e

/-- Whether the value is NaN. -/
def Val.isNan : Val → Bool
  | .nan => true
  | _ => false

/-- Whether the value is a zero of either sign. -/
def Val.isZero : Val → Bool
  | .fin _ 0 _ => true
  | _ => false

/-- The value with its sign reversed. -/
def Val.neg : Val → Val
  | .nan => .nan
  | .inf s => .inf (!s)
  | .fin s m e => .fin (!s) m e

/-- The mode a code of STS.RM names (R45). -/
def Mode.ofCode (n : Nat) : Mode :=
  match n with
  | 0 => .rne
  | 1 => .rtz
  | 2 => .rdn
  | 3 => .rup
  | 4 => .rna
  | _ => .sr

/-- Precision in bits, smallest and largest exponent, of a binary format (R60, R61). -/
def Fmt.shape : Fmt → Nat × Int × Int
  | .fp64 => (53, -1022, 1023)
  | .fp32 => (24, -126, 127)
  | .fp16 => (11, -14, 15)
  | .bf16 => (8, -126, 127)
  | .e4m3 => (4, -6, 8)
  | .e5m2 => (3, -14, 15)
  | .e2m1 => (2, 0, 2)
  | .d8 => (1, -6, 5)
  | .int n => (n, 0, n)

/-- The width of a code in bits (R58, R60). -/
def Fmt.bits : Fmt → Nat
  | .fp64 => 64
  | .fp32 => 32
  | .fp16 => 16
  | .bf16 => 16
  | .e4m3 => 8
  | .e5m2 => 8
  | .e2m1 => 4
  | .d8 => 8
  | .int n => n

/-- The largest finite value as a significand and a power of two (R61). -/
def Fmt.maxFin : Fmt → Nat × Int
  | .fp64 => (2 ^ 53 - 1, 971)
  | .fp32 => (2 ^ 24 - 1, 104)
  | .fp16 => (2 ^ 11 - 1, 5)
  | .bf16 => (2 ^ 8 - 1, 120)
  | .e4m3 => (14, 5)
  | .e5m2 => (7, 13)
  | .e2m1 => (3, 1)
  | .d8 => (1, 5)
  | .int n => (2 ^ (n - 1) - 1, 0)

/-- Whether the format is one of FP64, FP32, FP16 and BF16 (R62). -/
def Fmt.wide : Fmt → Bool
  | .fp64 => true
  | .fp32 => true
  | .fp16 => true
  | .bf16 => true
  | _ => false

/-- The exponent of the spacing of the values of a format around m × 2^e, m not zero (R63, R68): the top binade's
spacing goes on above the largest value and the lowest binade's goes on to 0. -/
def Fmt.spacing (f : Fmt) (m : Nat) (e : Int) : Int :=
  let top : Int := (m.log2 : Int) + e
  match f with
  | .int _ => 0
  | .d8 =>
    if top ≥ 5 then 5
    else if top ≥ 0 then 2 * top - 5
    else -6
  | _ =>
    let (p, lo, hi) := f.shape
    max lo (min top hi) - ((p : Int) - 1)

/-- m × 2^e in whole units of 2^k, rounded under the mode; `z` is RNGS bits 31:16 (R68). -/
def roundMag (mode : Mode) (neg : Bool) (z m : Nat) (e k : Int) : Nat :=
  if k ≤ e then m * 2 ^ (e - k).toNat
  else
    let w := 2 ^ (k - e).toNat
    let lo := m / w
    let r := m % w
    if r = 0 then lo
    else
      match mode with
      | .rne => if 2 * r > w then lo + 1 else if 2 * r < w then lo else lo + lo % 2
      | .rtz => lo
      | .rdn => if neg then lo + 1 else lo
      | .rup => if neg then lo else lo + 1
      | .rna => if 2 * r ≥ w then lo + 1 else lo
      | .sr => if r * 65536 + z * w ≥ 65536 * w then lo + 1 else lo

/-- Whether a × 2^ea < b × 2^eb. -/
def magLt (a : Nat) (ea : Int) (b : Nat) (eb : Int) : Bool :=
  let k := min ea eb
  decide (a * 2 ^ (ea - k).toNat < b * 2 ^ (eb - k).toNat)

/-- Overflow of R69. `inf` is the .inf suffix of `vpack`. -/
def overflow (f : Fmt) (mode : Mode) (inf neg : Bool) : Val :=
  let big : Val := .fin neg f.maxFin.1 f.maxFin.2
  match f with
  | .int n => if neg then .fin true (2 ^ (n - 1)) 0 else big
  | .e4m3 => if inf then .nan else big
  | .e5m2 => if inf then .inf neg else big
  | .d8 => if inf then .inf neg else big
  | .e2m1 => big
  | _ =>
    match mode with
    | .rtz => big
    | .rdn => if neg then .inf true else big
    | .rup => if neg then big else .inf false
    | _ => .inf neg

/-- Whether a rounded magnitude lies beyond the largest finite value; the negative bound of an integer is one larger
(R59, R61). -/
def beyond (f : Fmt) (neg : Bool) (m : Nat) (e : Int) : Bool :=
  match f with
  | .int n => if neg then magLt (2 ^ (n - 1)) 0 m e else magLt (2 ^ (n - 1) - 1) 0 m e
  | _ => magLt f.maxFin.1 f.maxFin.2 m e

/-- `Round(fmt, mode, v)` of R68 and R69, as a value of the format. -/
def roundVal (f : Fmt) (mode : Mode) (z : Nat) (inf : Bool) : Val → Val
  | .nan =>
    match f with
    | .e2m1 => Val.zero
    | .int _ => Val.zero
    | _ => .nan
  | .inf s => if f.wide then .inf s else overflow f mode inf s
  | .fin s m e =>
    if m = 0 then .fin s 0 0
    else
      let k := f.spacing m e
      let n := roundMag mode s z m e k
      if beyond f s n k then overflow f mode inf s else .fin s n k

/-- The code of a value that the format holds (R60 to R64). -/
def encodeVal (f : Fmt) (v : Val) : Nat :=
  match f with
  | .int n =>
    match v with
    | .fin s m e =>
      let a := m * 2 ^ e.toNat / 2 ^ (-e).toNat
      if s then (2 ^ n - a % 2 ^ n) % 2 ^ n else a % 2 ^ n
    | _ => 0
  | .d8 =>
    match v with
    | .nan => 0x80
    | .inf s => if s then 0xC0 else 0x40
    | .fin s m e =>
      if m = 0 then 0
      else
        let top : Int := (m.log2 : Int) + e
        let g : Nat := if top ≥ 0 then 0 else 0x40
        let l : Nat := if top ≥ 0 then top.toNat else (-top - 1).toNat
        let sh : Int := e - top + ((5 - l : Nat) : Int)
        let t := m * 2 ^ sh.toNat / 2 ^ (-sh).toNat
        (if s then 0x80 else 0) + g + t
  | _ =>
    let (p, lo, _) := f.shape
    let sign (s : Bool) : Nat := if s then 2 ^ (f.bits - 1) else 0
    match v with
    | .nan =>
      match f with
      | .e4m3 => 0x7F
      | .e2m1 => 0
      | _ => 2 ^ (f.bits - 1) - 2 ^ (p - 2)
    | .inf s => sign s + (2 ^ (f.bits - 1) - 2 ^ (p - 1))
    | .fin s m e =>
      if m = 0 then sign s
      else
        let top : Int := (m.log2 : Int) + e
        if top < lo then
          let sh : Int := e - (lo - ((p : Int) - 1))
          sign s + m * 2 ^ sh.toNat / 2 ^ (-sh).toNat
        else
          let sh : Int := e - (top - ((p : Int) - 1))
          let frac := m * 2 ^ sh.toNat / 2 ^ (-sh).toNat
          sign s + ((top - lo).toNat + 1) * 2 ^ (p - 1) + (frac - 2 ^ (p - 1))

/-- The leading zeros of a 6-bit field that is not zero (R63). -/
def lead6 (t : Nat) : Nat := 5 - t.log2

/-- The value of a code (R58, R60, R63). -/
def decodeVal (f : Fmt) (c : Nat) : Val :=
  match f with
  | .int n =>
    if n = 0 then Val.zero
    else if c % 2 ^ n ≥ 2 ^ (n - 1) then .fin true (2 ^ n - c % 2 ^ n) 0 else .fin false (c % 2 ^ n) 0
  | .d8 =>
    let s := decide (c / 128 % 2 = 1)
    let g := c / 64 % 2
    let t := c % 64
    if t = 0 then
      if s then (if g = 1 then .inf true else .nan) else (if g = 1 then .inf false else Val.zero)
    else
      let l := lead6 t
      let e : Int := if g = 0 then l else -((l : Int) + 1)
      .fin s t (e - ((5 - l : Nat) : Int))
  | _ =>
    let (p, lo, _) := f.shape
    let w := f.bits
    let s := decide (c / 2 ^ (w - 1) % 2 = 1)
    let ex := c % 2 ^ (w - 1) / 2 ^ (p - 1)
    let fr := c % 2 ^ (p - 1)
    let ones := 2 ^ (w - p) - 1
    let special : Bool :=
      match f with
      | .e2m1 => false
      | .e4m3 => ex = ones && fr = 7
      | _ => ex = ones
    if special then
      match f with
      | .e4m3 => .nan
      | _ => if fr = 0 then .inf s else .nan
    else if ex = 0 then .fin s fr (lo - ((p : Int) - 1))
    else .fin s (2 ^ (p - 1) + fr) (lo + ((ex : Int) - 1) - ((p : Int) - 1))

/-- `Round` and the code in one (R68, R64). -/
def roundCode (f : Fmt) (mode : Mode) (z : Nat) (inf : Bool) (v : Val) : Nat :=
  encodeVal f (roundVal f mode z inf v)

/-- The exact sum. An exact zero of operands of unlike sign is +0, and −0 under RDN; two zeros of one sign keep it
(R62, IEEE 754-2019). -/
def addVal (mode : Mode) : Val → Val → Val
  | .nan, _ => .nan
  | _, .nan => .nan
  | .inf s, .inf t => if s = t then .inf s else .nan
  | .inf s, _ => .inf s
  | _, .inf t => .inf t
  | .fin s m e, .fin t n g =>
    let k := min e g
    let a := m * 2 ^ (e - k).toNat
    let b := n * 2 ^ (g - k).toNat
    if a = 0 && b = 0 && s = t then .fin s 0 0
    else if s = t then .fin s (a + b) k
    else if a = b then .fin (decide (mode = .rdn)) 0 0
    else if a > b then .fin s (a - b) k
    else .fin t (b - a) k

/-- The exact product; ∞ × 0 is NaN. -/
def mulVal : Val → Val → Val
  | .nan, _ => .nan
  | _, .nan => .nan
  | .inf s, .inf t => .inf (s != t)
  | .inf s, .fin t n _ => if n = 0 then .nan else .inf (s != t)
  | .fin s m _, .inf t => if m = 0 then .nan else .inf (s != t)
  | .fin s m e, .fin t n g => .fin (s != t) (m * n) (e + g)

/-- The quotient, exact or with 100 bits beyond the divisor's width and a sticky bit; x / 0 is an infinity and 0 / 0
NaN (R95). -/
def divVal : Val → Val → Val
  | .nan, _ => .nan
  | _, .nan => .nan
  | .inf _, .inf _ => .nan
  | .inf s, .fin t _ _ => .inf (s != t)
  | .fin s _ _, .inf t => .fin (s != t) 0 0
  | .fin s m e, .fin t n g =>
    if n = 0 then (if m = 0 then .nan else .inf (s != t))
    else if m = 0 then .fin (s != t) 0 0
    else
      let k := 100 + n.log2
      let q := m * 2 ^ k / n
      let r := m * 2 ^ k % n
      .fin (s != t) (2 * q + (if r = 0 then 0 else 1)) (e - g - k - 1)

/-- The integer square root, bit by bit from bit `b` − 1 down; `r` is the root so far. -/
def isqrtBits : Nat → Nat → Nat → Nat
  | 0, _, r => r
  | b + 1, n, r =>
    let c := r + 2 ^ b
    if c * c ≤ n then isqrtBits b n c else isqrtBits b n r

/-- The integer square root. -/
def isqrt (n : Nat) : Nat := isqrtBits (n.log2 / 2 + 1) n 0

/-- The square root, exact or with at least 100 bits and a sticky bit; √(−0) is −0, of a negative number NaN (R95). -/
def sqrtVal : Val → Val
  | .nan => .nan
  | .inf s => if s then .nan else .inf false
  | .fin s m e =>
    if m = 0 then .fin s 0 0
    else if s then .nan
    else
      let odd := e % 2 ≠ 0
      let m' := (if odd then 2 * m else m) * 2 ^ 220
      let e' : Int := (if odd then e - 1 else e) / 2 - 110
      let r := isqrt m'
      .fin false (2 * r + (if r * r = m' then 0 else 1)) (e' - 1)

/-- Whether a < b, for values that are not NaN; −0 equals +0. -/
def ltVal : Val → Val → Bool
  | .nan, _ => false
  | _, .nan => false
  | .inf s, .inf t => s && !t
  | .inf s, .fin _ _ _ => s
  | .fin _ _ _, .inf t => !t
  | .fin s m e, .fin t n g =>
    if m = 0 && n = 0 then false
    else if m = 0 then !t
    else if n = 0 then s
    else if s != t then s
    else if s then magLt n g m e
    else magLt m e n g

/-- Whether a equals b, for values that are not NaN; −0 equals +0. -/
def eqVal (a b : Val) : Bool := !a.isNan && !b.isNan && !ltVal a b && !ltVal b a

/-- The sign of a value. -/
def Val.sign : Val → Bool
  | .nan => false
  | .inf s => s
  | .fin s _ _ => s

/-- The minimum rule of R62: the operand that is no NaN, canonical NaN for two, −0 below +0. -/
def minVal (a b : Val) : Val :=
  if a.isNan then b
  else if b.isNan then a
  else if ltVal a b then a
  else if ltVal b a then b
  else if a.sign then a else b

/-- The maximum rule of R62. -/
def maxVal (a b : Val) : Val :=
  if a.isNan then b
  else if b.isNan then a
  else if ltVal a b then b
  else if ltVal b a then a
  else if a.sign then b else a

/-- floor(log2 |v|) of a finite value that is not zero (R66). -/
def Val.top : Val → Int
  | .fin _ m e => (m.log2 : Int) + e
  | _ => 0

/-- v × 2^k. -/
def Val.scale (k : Int) : Val → Val
  | .fin s m e => .fin s m (e + k)
  | v => v

/-- One advance of the xorshift32 state (R71). -/
def rngStep (x : BitVec 32) : BitVec 32 :=
  let a := x ^^^ (x <<< 13)
  let b := a ^^^ (a >>> 17)
  b ^^^ (b <<< 5)

/-- `n` advances. -/
def rngSteps : Nat → BitVec 32 → BitVec 32
  | 0, x => x
  | n + 1, x => rngSteps n (rngStep x)

/-- RNGS bits 31:16, as stochastic rounding uses them (R68). -/
def rngZ (x : BitVec 32) : Nat := x.toNat / 65536

/-- emax of R66. -/
def Fmt.emax : Fmt → Int
  | .e2m1 => 2
  | .e4m3 => 8
  | .e5m2 => 15
  | .d8 => 5
  | _ => 0

/-- The value of an E8M0 scale byte: NaN for 0xFF (R60, R65). -/
def scaleVal (s : Byte) : Val := if s = 0xFF then .nan else .pow2 ((s.toNat : Int) - 127)

end Sys2Proof.Machine

namespace Sys2Proof

open Machine

/-- The format of a scalar floating-point type (R40). -/
def FpTy.fmt : FpTy → Fmt
  | .d => .fp64
  | .s => .fp32
  | .h => .fp16
  | .b => .bf16

/-- The format of a vector element type (R40). -/
def VTy.fmt : VTy → Fmt
  | .s => .fp32
  | .d => .fp64
  | .h => .fp16
  | .b => .bf16
  | .i8 => .int 8
  | .i16 => .int 16
  | .i32 => .int 32
  | .i64 => .int 64

/-- The width of a vector element type in bits (R99). -/
def VTy.bits : VTy → Nat
  | .s => 32
  | .d => 64
  | .h => 16
  | .b => 16
  | .i8 => 8
  | .i16 => 16
  | .i32 => 32
  | .i64 => 64

/-- The format of a narrow format of `vpack` (R105). -/
def NarrowFmt.fmt : NarrowFmt → Fmt
  | .e4m3 => .e4m3
  | .e5m2 => .e5m2
  | .d8 => .d8
  | .e2m1 => .e2m1
  | .i4 => .int 4

/-- The format of an `fcvt` code (R97). -/
def CvtTy.fmt : CvtTy → Fmt
  | .d => .fp64
  | .s => .fp32
  | .h => .fp16
  | .b => .bf16
  | .i32 => .int 32
  | .i64 => .int 64

end Sys2Proof
end

