-- ==== Sys2Proof/Machine/Flags.lean ====
section
/-! DEFINITION. The fields of the state words and the rules of their values (R44 to R47), the fields of a fat pointer
(R48, R49), and the condition codes of branches. -/

namespace Sys2Proof.Machine

/-- STS.RM (R45). -/
def stsRm (sts : Word) : Nat := (sts.extractLsb' 0 3).toNat

/-- STS.NANF (R45). -/
def stsNanf (sts : Word) : Bool := sts.extractLsb' 3 1 == 1

/-- STS.CHUNKMAX (R45). -/
def stsChunkMax (sts : Word) : Nat := (sts.extractLsb' 4 12).toNat

/-- The rounding mode of STS (R70). -/
def stsMode (sts : Word) : Mode := Mode.ofCode (stsRm sts)

/-- The mode of a scalar floating-point instruction: its RM field, or STS (R40, R70). -/
def rmMode (r : RmField) (sts : Word) : Mode :=
  match r with
  | .sts => stsMode sts
  | .rne => .rne
  | .rtz => .rtz
  | .rdn => .rdn
  | .rup => .rup
  | .rna => .rna
  | .sr => .sr

/-- Bits 63:57 and 5:0 are zero: a line address (R44). -/
def lineWordOk (v : Word) : Bool := v.extractLsb' 57 7 == 0 && v.extractLsb' 0 6 == 0

/-- A window of R46 whose pages do not wrap past address 2^57. -/
def windowOk (v : Word) : Bool :=
  decide ((v.extractLsb' 0 45).toNat * 4096 + (v.extractLsb' 45 19).toNat * 4096 ≤ 2 ^ 57)

/-- Whether `v` keeps the field rules of the state word of index `i` (R44 to R47). -/
def wordOk (i : BitVec 5) (v : Word) : Bool :=
  match i.toNat with
  | 1 => v.extractLsb' 20 44 == 0 && decide ((v.extractLsb' 16 2).toNat < 3)
      && decide (16 ≤ stsChunkMax v) && decide (stsChunkMax v ≤ 1024) && decide (stsRm v < 6)
  | 2 => v.extractLsb' 32 32 == 0
  | 3 => lineWordOk v
  | 8 => windowOk v
  | 9 => lineWordOk v
  | 10 => windowOk v
  | 11 => lineWordOk v
  | 12 => windowOk v
  | 13 => lineWordOk v
  | 14 => windowOk v
  | 15 => lineWordOk v
  | 16 => true
  | 17 => true
  | 18 => v.extractLsb' 32 32 == 0 && v.extractLsb' 0 1 == 0
  | 19 => v.extractLsb' 13 51 == 0
  | _ => false

/-- A zero written to RNGS stores 1 (R44). -/
def rngsStored (v : Word) : BitVec 32 := if v.setWidth 32 = 0#32 then 1 else v.setWidth 32

/-- STS with bits 19:18 cleared (R45). -/
def stsStored (v : Word) : Word := v &&& 0xFFFFFFFFFFF3FFFF#64

/-- The registers with the state word of index `i` set to `v` (R44, R45, R86). -/
def setWord (i : BitVec 5) (v : Word) (a : Arch) : Arch :=
  match i.toNat with
  | 1 => { a with sts := stsStored v }
  | 2 => { a with rngs := rngsStored v }
  | 3 => { a with flta := v }
  | 16 => { a with dbk := v }
  | 17 => { a with dgo := v }
  | 18 => { a with live := v.setWidth 32 }
  | 19 => { a with why := v.setWidth 13 }
  | n => if 8 ≤ n ∧ n ≤ 15 then { a with swin := oput a.swin (BitVec.ofNat 3 (n - 8)) v } else a

/-- NPG of a window, daybook or table word (R46). -/
def wNpg (v : Word) : Nat := (v.extractLsb' 45 19).toNat

/-- The base byte address of a window or daybook (R46). -/
def wBase (v : Word) : Nat := (v.extractLsb' 0 45).toNat * 4096

/-- VA of a fat pointer (R48). -/
def pVa (p : Word) : Nat := (p.extractLsb' 0 57).toNat

/-- FMT of a fat pointer (R48). -/
def pFmt (p : Word) : BitVec 4 := p.extractLsb' 60 4

/-- BLK of a fat pointer (R48). -/
def pBlk (p : Word) : BitVec 3 := p.extractLsb' 57 3

/-- The tag of a pointer over a new address (R91, R92). -/
def pWith (p : Word) (va : Nat) : Word := (p.extractLsb' 57 7) ++ BitVec.ofNat 57 va

/-- Element bits of a format code; raw counts 8 (R48, R92). -/
def fmtBits (f : BitVec 4) : Nat :=
  match f.toNat with
  | 2 => 16
  | 3 => 32
  | 4 => 64
  | 5 => 64
  | 6 => 32
  | 7 => 16
  | 8 => 16
  | 11 => 4
  | 13 => 4
  | _ => 8

/-- The number format of a format code (R48). -/
def fmtOf (f : BitVec 4) : Fmt :=
  match f.toNat with
  | 2 => .int 16
  | 3 => .int 32
  | 4 => .int 64
  | 5 => .fp64
  | 6 => .fp32
  | 7 => .bf16
  | 8 => .fp16
  | 9 => .e4m3
  | 10 => .e5m2
  | 11 => .e2m1
  | 12 => .d8
  | 13 => .int 4
  | _ => .int 8

/-- The register type of a typed access (R190). -/
def regTyOf (f : BitVec 4) : VTy :=
  match f.toNat with
  | 1 => .i32
  | 2 => .i32
  | 3 => .i32
  | 13 => .i32
  | 4 => .i64
  | 5 => .d
  | _ => .s

/-- A tag that a typed access takes: FMT is not 0 and BLK is allowed (R49). -/
def tagOk (p : Word) : Bool := pFmt p != 0 && blkAllowed (pFmt p) (pBlk p)

/-- The low `n` bits of a word, sign-extended. -/
def sext (n : Nat) (v : Word) : Word := (v.setWidth n).signExtend 64

/-- The low `n` bits of a word, zero-extended. -/
def zext (n : Nat) (v : Word) : Word := (v.setWidth n).setWidth 64

/-- An immediate as a word (R31, R85). -/
def immValue {n : Nat} : Imm n → Word
  | .short v => v.signExtend 64
  | .lit v => v.signExtend 64

/-- An address taken modulo 2^57 (R81, R180). -/
def va57 (v : Word) : Nat := (v.extractLsb' 0 57).toNat

/-- The effective address: bits 56:0 of the base plus the offset, modulo 2^57 (R180). -/
def effAddr (base off : Word) : Nat := va57 (base + off)

/-- An address as a word. -/
def addrWord (a : Nat) : Word := BitVec.ofNat 64 (a % 2 ^ 57)

/-- 0 or 1. -/
def boolWord (b : Bool) : Word := if b then 1 else 0

/-- Bytes of a size (R184, R188). -/
def sizeBytes : Size → Nat
  | .b => 1
  | .h => 2
  | .w => 4
  | .d => 8

/-- Bytes of a load (R184). -/
def loadBytes : LoadSize → Nat
  | .b => 1
  | .h => 2
  | .w => 4
  | .d => 8
  | .bu => 1
  | .hu => 2
  | .wu => 4

/-- The value `ld` writes, from the bytes read as a number (R184). -/
def loadExtend (z : LoadSize) (v : Word) : Word :=
  match z with
  | .b => sext 8 v
  | .h => sext 16 v
  | .w => sext 32 v
  | .d => v
  | .bu => zext 8 v
  | .hu => zext 16 v
  | .wu => zext 32 v

/-- Bytes of an atomic (R191). -/
def amoBytes : AmoSize → Nat
  | .w => 4
  | .d => 8

/-- The format of `.fadd` at a size (R191). -/
def amoFmt : AmoSize → Fmt
  | .w => .fp32
  | .d => .fp64

/-- The low bits of a word at the size of an atomic. -/
def amoCut (z : AmoSize) (v : Word) : Word :=
  match z with
  | .w => zext 32 v
  | .d => v

/-- The old value as an atomic returns it: sign-extended for .w, and by R43 for `.fadd.w` (R191, R192). -/
def amoOld (z : AmoSize) (fp : Bool) (v : Word) : Word :=
  match z with
  | .w => if fp then zext 32 v else sext 32 v
  | .d => v

/-- The sign-extended value at the size of an atomic. -/
def amoSigned (z : AmoSize) (v : Word) : Word :=
  match z with
  | .w => sext 32 v
  | .d => v

/-- The new value of an atomic (R191): `old` and `v` hold the low bits of the size. -/
def amoNew (op : AmoOp) (z : AmoSize) (old v : Word) : Word :=
  match op with
  | .add => amoCut z (old + v)
  | .and => amoCut z (old &&& v)
  | .or => amoCut z (old ||| v)
  | .xor => amoCut z (old ^^^ v)
  | .min => amoCut z (if (amoSigned z v).slt (amoSigned z old) then v else old)
  | .max => amoCut z (if (amoSigned z old).slt (amoSigned z v) then v else old)
  | .minu => if (amoCut z v).ult (amoCut z old) then amoCut z v else amoCut z old
  | .maxu => if (amoCut z old).ult (amoCut z v) then amoCut z v else amoCut z old
  | .swap => amoCut z v
  | .fadd =>
    let f := amoFmt z
    BitVec.ofNat 64 (roundCode f .rne 0 false
      (addVal .rne (decodeVal f (amoCut z old).toNat) (decodeVal f (amoCut z v).toNat)))

/-- The formats of a commutative range: the element's bytes and the partial's format (R176, R194). -/
def rangeBytes : RangeFmt → Nat
  | .s => 4
  | .b => 2
  | .i64 => 8

/-- A partial's starting value: −0, or 0 for I64 (R176). -/
def partialZero : RangeFmt → Word
  | .s => 0x80000000
  | .b => 0x80000000
  | .i64 => 0

/-- One FP32 addition of two codes, rounded in RNE. -/
def fp32Add (a b : Word) : Word :=
  BitVec.ofNat 64 (roundCode .fp32 .rne 0 false (addVal .rne (decodeVal .fp32 a.toNat) (decodeVal .fp32 b.toNat)))

/-- A partial after one `radd` of `v` (R176, R195). -/
def partialAdd (f : RangeFmt) (p v : Word) : Word :=
  match f with
  | .s => fp32Add p (zext 32 v)
  | .b => fp32Add p (BitVec.ofNat 64 (encodeVal .fp32 (decodeVal .bf16 (zext 16 v).toNat)))
  | .i64 => p + v

/-- An element's memory value as the combine starts from it (R176). -/
def combineFrom (f : RangeFmt) (m : Word) : Word :=
  match f with
  | .b => BitVec.ofNat 64 (encodeVal .fp32 (decodeVal .bf16 (zext 16 m).toNat))
  | _ => m

/-- One partial combined in. -/
def combineAdd (f : RangeFmt) (m p : Word) : Word :=
  match f with
  | .i64 => m + p
  | _ => fp32Add m p

/-- The combined value as it is written back (R176). -/
def combineTo (f : RangeFmt) (m : Word) : Word :=
  match f with
  | .b => BitVec.ofNat 64 (roundCode .bf16 .rne 0 false (decodeVal .fp32 m.toNat))
  | _ => m

end Sys2Proof.Machine
end

