-- ==== Sys2Proof/Machine/Memory.lean ====
section
/-! DEFINITION. Where things are and what an address holds: the accessors of the state, the coordinates of R13, the homes
of R153, the physical address spaces, the device window (R289), translation (R290, R372), and the bytes of memory in
canonical form. -/

namespace Sys2Proof.Machine

/-! ## Accessors -/

/-- An x register as it reads: x0 is zero (R43). -/
def Arch.getX (a : Arch) (i : BitVec 5) : Word := if i = 0 then 0 else xat a.x i
/-- Writes an x register; a write to x0 is discarded (R43). -/
def Arch.setX (a : Arch) (i : BitVec 5) (v : Word) : Arch := if i = 0 then a else { a with x := xput a.x i v }
/-- A mask register as it reads: m0 is all ones (R43). -/
def Arch.getM (a : Arch) (i : BitVec 3) : BitVec 2048 := if i = 0 then BitVec.allOnes 2048 else oat a.m i
/-- Writes a mask register; a write to m0 is discarded (R43). -/
def Arch.setM (a : Arch) (i : BitVec 3) (v : BitVec 2048) : Arch := if i = 0 then a else { a with m := oput a.m i v }
/-- A vector register. -/
def Arch.getV (a : Arch) (i : BitVec 5) : BitVec 16384 := xat a.v i
/-- Writes a vector register; its operand buffer entry is dropped (R101). -/
def Arch.setV (a : Arch) (i : BitVec 5) (v : BitVec 16384) : Arch :=
  { a with v := xput a.v i v, hold := a.hold.filter (fun h => h.1 != i) }

/-- Groups of the vector context, VCX.NGRP (R47). -/
def popc16 (m : BitVec 16) : Nat := ((List.range 16).filter (fun i => m.getLsbD i)).length
/-- VCX.NGRP of a thread (R47). -/
def Thread.ngrp (t : Thread) : Nat := popc16 t.gmask

def State.tenant (s : State) (n : BitVec 4) : Tenant := tget Tenant.reset s.tenants n.toNat
def State.setTenant (s : State) (n : BitVec 4) (t : Tenant) : State := { s with tenants := tset s.tenants n.toNat t }
def State.cluster (s : State) (c : BitVec 7) : Cluster := tget Cluster.reset s.clusters c.toNat
def State.setCluster (s : State) (c : BitVec 7) (k : Cluster) : State := { s with clusters := tset s.clusters c.toNat k }
def State.core (s : State) (c : BitVec 10) : Core := tget Core.reset s.cores c.toNat
def State.setCore (s : State) (c : BitVec 10) (k : Core) : State := { s with cores := tset s.cores c.toNat k }
def State.region (s : State) (r : Nat) : Region := tget Region.reset s.regions r
def State.setRegion (s : State) (r : Nat) (k : Region) : State := { s with regions := tset s.regions r k }
def State.queue (s : State) (q : BitVec 6) : HostQueue := tget HostQueue.reset s.queues q.toNat
def State.setQueue (s : State) (q : BitVec 6) (k : HostQueue) : State := { s with queues := tset s.queues q.toNat k }
def State.link (s : State) (l : BitVec 4) : Link := tget Link.reset s.links l.toNat
def State.setLink (s : State) (l : BitVec 4) (k : Link) : State := { s with links := tset s.links l.toNat k }

/-- The head that a tenant's own requests use. -/
def Tenant.head (t : Tenant) : BitVec 1 := if t.pasid0.isSome then 0 else if t.pasid1.isSome then 1 else 0

/-- The colour of a tenant (R287). -/
def State.colour (s : State) (tn : BitVec 4) : Colour := ⟨tn, (s.tenant tn).gen⟩

/-- Some link carries what goes to a module or comes from it: one that is up and not in recovery (R332). -/
def State.carries (s : State) (m : BitVec 8) : Bool :=
  (List.range 16).any (fun i =>
    (s.link (BitVec.ofNat 4 i)).up && !(s.link (BitVec.ofNat 4 i)).recovery && Config.farModule i == m)
def State.head (s : State) (h : BitVec 1) : Head := if h = 0 then s.head0 else s.head1
def State.setHead (s : State) (h : BitVec 1) (k : Head) : State :=
  if h = 0 then { s with head0 := k } else { s with head1 := k }
def Cluster.porter (c : Cluster) (n : BitVec 2) : Porter := tget Porter.reset c.porters n.toNat
def Cluster.setPorter (c : Cluster) (n : BitVec 2) (p : Porter) : Cluster := { c with porters := tset c.porters n.toNat p }
def Loom.warp (l : Loom) (w : BitVec 2) : Operand := tget Operand.empty l.warps w.toNat
def Loom.setWarp (l : Loom) (w : BitVec 2) (o : Operand) : Loom := { l with warps := tset l.warps w.toNat o }
def Loom.tile (l : Loom) (t : BitVec 3) : Tile := tget Tile.clear l.tiles t.toNat
def Loom.setTile (l : Loom) (t : BitVec 3) (k : Tile) : Loom := { l with tiles := tset l.tiles t.toNat k }

/-- Every thread of the module, the one that issues first. -/
def State.threads (s : State) : List Thread := s.thr :: s.others

/-- Whether a thread exists: it is not halted. -/
def Thread.live (t : Thread) : Bool := t.run != .halted

/-- The thread of a name, if it is live or retained. -/
def State.find (s : State) (id : ThreadId) : Option Thread := s.threads.find? (fun t => t.live && t.id == id)

/-- Changes the thread of a name. -/
def State.upd (s : State) (id : ThreadId) (f : Thread → Thread) : State :=
  { s with thr := if s.thr.live && s.thr.id == id then f s.thr else s.thr,
           others := s.others.map (fun t => if t.live && t.id == id then f t else t) }

/-- Changes every thread. -/
def State.updAll (s : State) (f : Thread → Thread) : State :=
  { s with thr := f s.thr, others := s.others.map f }

/-- The threads of a tenant. -/
def State.ofTenant (s : State) (tn : BitVec 4) : List Thread := s.threads.filter (fun t => t.live && t.id.tenant == tn)

/-- CYC (R44). -/
def State.cycWord (s : State) : Word := BitVec.ofNat 64 s.cyc

/-- The module time: loaded at stage 6, then 1 more every 2 cycles (R87). -/
def State.time (s : State) : Word := s.hub.timeBase + BitVec.ofNat 64 ((s.cyc - s.hub.timeAt) / 2)

/-! ## Coordinates (R13, R14) -/

def coreCol (c : BitVec 10) : Nat := c.toNat % 64
def coreRow (c : BitVec 10) : Nat := c.toNat / 64
/-- The cluster of a core. -/
def clusterOf (c : BitVec 10) : BitVec 7 := BitVec.ofNat 7 (16 * (coreRow c / 2) + coreCol c / 4)
/-- Core in cluster. -/
def coreInCluster (c : BitVec 10) : Nat := coreCol c % 4 + 4 * (coreRow c % 2)
/-- The core at a position of a cluster. -/
def coreOf (cl : BitVec 7) (k : Nat) : BitVec 10 :=
  BitVec.ofNat 10 (64 * (2 * (cl.toNat / 16) + k / 4) + 4 * (cl.toNat % 16) + k % 4)
/-- The cores of a cluster, in ascending core in cluster. -/
def clusterCores (cl : BitVec 7) : List (BitVec 10) := (List.range 8).map (coreOf cl)
/-- The die of a cluster. -/
def dieOf (cl : BitVec 7) : Nat := 4 * (cl.toNat / 16 / 4) + cl.toNat % 16 / 4
/-- Whether a cluster is of kind W. -/
def isWide (cl : BitVec 7) : Bool :=
  let lx := cl.toNat % 4
  let ly := cl.toNat / 16 % 4
  (lx = 1 || lx = 2) && (ly = 1 || ly = 2)
/-- Whether a rectangle holds a cluster (R286). -/
def Rect.holds (r : Rect) (cl : BitVec 7) : Bool :=
  let c := cl.toNat % 16
  let w := cl.toNat / 16
  decide (r.ccol0.toNat ≤ c) && decide (c ≤ r.ccol0.toNat + r.wm1.toNat)
    && decide (r.crow0.toNat ≤ w) && decide (w ≤ r.crow0.toNat + r.hm1.toNat)
/-- The clusters of a rectangle. -/
def Rect.clusters (r : Rect) : List (BitVec 7) := ((List.range 128).map (BitVec.ofNat 7)).filter r.holds
/-- The rectangle stays inside the mesh. -/
def Rect.ok (r : Rect) : Bool :=
  decide (r.ccol0.toNat + r.wm1.toNat < 16) && decide (r.crow0.toNat + r.hm1.toNat < 8)
/-- Two rectangles overlap. -/
def Rect.meets (a b : Rect) : Bool :=
  decide (a.ccol0.toNat ≤ b.ccol0.toNat + b.wm1.toNat) && decide (b.ccol0.toNat ≤ a.ccol0.toNat + a.wm1.toNat)
    && decide (a.crow0.toNat ≤ b.crow0.toNat + b.hm1.toNat) && decide (b.crow0.toNat ≤ a.crow0.toNat + a.hm1.toNat)

/-! ## Physical address spaces -/

/-- Device memory lies at 0, by device physical address (R372). Host memory lies here. -/
def hostBase : Nat := 2 ^ 64
/-- Addresses with the I/O attribute. -/
def ioBase : Nat := 2 ^ 65
/-- The device window of each tenant, 2^57 bytes each; number 16 is the part that all tenants share. -/
def winBase : Nat := 2 ^ 66
/-- Fabric windows: the address on the other module, with the module number above it and the tenant there above that. -/
def fabBase : Nat := 2 ^ 72

/-- The line of an address. -/
def lineOf (pa : Nat) : Nat := pa / 64
/-- An address in the memory of a head's host. -/
def hostAddr (h : BitVec 1) (a : Nat) : Nat := hostBase + h.toNat * 2 ^ 63 + a
/-- The head of the host that homes an address of host memory. -/
def hostOf (pa : Nat) : BitVec 1 := BitVec.ofNat 1 ((pa - hostBase) / 2 ^ 63)
/-- Whether an address is in device memory. -/
def isDevice (pa : Nat) : Bool := decide (pa < Config.deviceBytes)
/-- Whether an address is in host memory. -/
def isHost (pa : Nat) : Bool := decide (hostBase ≤ pa) && decide (pa < ioBase)
/-- Whether an address has the I/O attribute. -/
def isIo (pa : Nat) : Bool := decide (ioBase ≤ pa) && decide (pa < winBase)
/-- Whether an address is in a device window. -/
def isWin (pa : Nat) : Bool := decide (winBase ≤ pa) && decide (pa < fabBase)
/-- Whether an address is in a fabric window. -/
def isFab (pa : Nat) : Bool := decide (fabBase ≤ pa)

/-- The module that an address behind a fabric window lies in (R333). -/
def farModuleOf (pa : Nat) : BitVec 8 := BitVec.ofNat 8 ((pa - fabBase) / 2 ^ 57)
/-- The 64 KiB region of a device physical address (R372). -/
def regionOf (pa : Nat) : Nat := pa / 65536

/-! ## Homes (R153) -/

/-- The cores that may home lines of a region with this owner. -/
def State.eligible (s : State) (owner : Option (BitVec 4)) (c : BitVec 10) : Bool :=
  !(s.core c).mappedOut && !(s.cluster (clusterOf c)).mappedOut &&
    match owner with
    | none => true
    | some t => (s.tenant t).rect.holds (clusterOf c)

/-- All core indices in ascending order. -/
def allCores : List (BitVec 10) := (List.range 1024).map (BitVec.ofNat 10)

/-- The core a bit of a group's mask names. -/
def groupCore (g b : Nat) : BitVec 10 :=
  BitVec.ofNat 10 (64 * (8 * (g / 2 / 4) + 4 * (g % 2) + b / 16) + 16 * (g / 2 % 4) + b % 16)

/-- The hash of a device physical address. -/
def homeHash (pa : Nat) : Nat :=
  let n := pa / 64
  (n ^^^ (n >>> 11) ^^^ (n >>> 22) ^^^ (n >>> 33) ^^^ (n >>> 44)) % 2048

/-- MODE of a home descriptor. -/
def homeMode (d0 : Word) : Nat := (d0.extractLsb' 62 2).toNat

/-- The cores a descriptor of MODE 2 names that are eligible, in the order of their bits. -/
def State.maskCores (s : State) (owner : Option (BitVec 4)) (d0 d1 : Word) : List (BitVec 10) :=
  (((List.range 64).filter (fun b => d1.getLsbD b)).map (groupCore (d0.extractLsb' 32 4).toNat)).filter (s.eligible owner)

/-- The cores that home the lines of a region with this owner and descriptor, in the order of R153. -/
def State.homesOf (s : State) (owner : Option (BitVec 4)) (d0 d1 : Word) : List (BitVec 10) :=
  match homeMode d0 with
  | 1 => [d0.extractLsb' 0 10]
  | 2 => s.maskCores owner d0 d1
  | _ => allCores.filter (s.eligible owner)

/-- The home among some cores of the line of an address; core 0 where no core is left, for which the spec names no home (log
90). -/
def homeAmong (l : List (BitVec 10)) (pa : Nat) : BitVec 10 := l.getD (homeHash pa % l.length) 0

/-- The home of a line of device memory (R153); a line of no device memory is served from core 0 of its cluster. -/
def State.homeCore (s : State) (pa : Nat) : BitVec 10 :=
  let r := s.region (regionOf pa)
  homeAmong (s.homesOf r.owner r.d0 r.d1) pa

/-! ## Tiers (R20, R374) -/

/-- Regions that lie in the near memory of a die or are on their way into it. -/
def State.nearTaken (s : State) (d : Nat) : Nat := (s.regions.filter (fun p => p.2.tier == some d || p.2.moving == some d)).length

/-- The near memory of a die can take one more region. -/
def State.nearRoom (s : State) (d : Nat) : Bool :=
  decide ((s.nearTaken d + s.hub.lostFrames.count d + 1) * 65536 ≤ Config.nearBytes)

/-- The die that holds the most homes of a region's lines, the lowest index among equals (R374). Where no core is eligible the
spec names no die, and the home of log 90 decides it. -/
def State.bestDie (s : State) (r : Nat) : Nat :=
  let k := s.region r
  let l := s.homesOf k.owner k.d0 k.d1
  let dies := (List.range 1024).map (fun i => dieOf (clusterOf (homeAmong l (65536 * r + 64 * i))))
  (List.range 8).foldl (fun b d => if dies.count b < dies.count d then d else b) 0

/-- The first place of a region (R374): 8 is far memory, which takes what near memory does not. The spec does not say what
happens when far memory is full as well; the model goes on placing regions there (log 91). -/
def State.firstTier (s : State) (r place : Nat) : Nat :=
  let d := if place = 15 then s.bestDie r else place
  if d < 8 ∧ s.nearRoom d then d else 8

/-- A region of device memory is backed, if it is not (R374). -/
def State.backRegion (s : State) (r : Nat) : State :=
  let k := s.region r
  match k.tier with
  | some _ => s
  | none => s.setRegion r { k with tier := some (s.firstTier r k.first) }

/-! ## The device window (R2, R118, R164, R214, R270, R271, R289) -/

def indentVa : Nat := 0x01FF_0000_0000_0000
def indentEnd : Nat := 0x01FF_0100_0000_0000
def rankVa : Nat := 0x01FF_FFFF_C000_0000
def rankEnd : Nat := 0x01FF_FFFF_C800_0000
def porterVa : Nat := 0x01FF_FFFF_FFFC_0000
def porterEnd : Nat := 0x01FF_FFFF_FFFC_8000
def orderVa : Nat := 0x01FF_FFFF_FFFD_0000
def orderEnd : Nat := 0x01FF_FFFF_FFFD_0040
def loomVa : Nat := 0x01FF_FFFF_FFFE_0000
def loomEnd : Nat := 0x01FF_FFFF_FFFE_2000
def capVa : Nat := 0x01FF_FFFF_FFFF_0000
def capEnd : Nat := 0x0200_0000_0000_0000

/-- Whether a virtual address lies in the device window. -/
def inWindow (va : Nat) : Bool := decide (indentVa ≤ va) && decide (va < capEnd)

/-- Whether a window address shows the same contents to every tenant (R372). -/
def winShared (va : Nat) : Bool :=
  (decide (porterVa ≤ va) && decide (va < porterEnd)) || (decide (loomVa ≤ va) && decide (va < loomEnd))
    || (decide (capVa ≤ va) && decide (va < capEnd))

/-- The physical address of a window address. -/
def winPa (tn : BitVec 4) (va : Nat) : Nat := winBase + (if winShared va then 16 else tn.toNat) * 2 ^ 57 + va

/-- A byte of a word, byte 0 lowest (R3). -/
def byteOf (v : Word) (i : Nat) : Byte := v.extractLsb' (8 * i) 8

/-- The first doubleword of an indenture entry (R272). -/
def IEntry.w0 (e : IEntry) : Word := (0#16 ++ e.hi ++ e.lo)
/-- The second doubleword of an indenture entry (R272). -/
def IEntry.w1 (e : IEntry) : Word := (0#16 ++ e.grantor ++ 0#18 ++ e.rights)

/-- An indenture table of a tenant. -/
def Tenant.table (t : Tenant) (rank : BitVec 24) : List IEntry := tget [] t.indent rank.toNat
def Tenant.setTable (t : Tenant) (rank : BitVec 24) (l : List IEntry) : Tenant :=
  { t with indent := tput [] t.indent rank.toNat l }
/-- Pages a table of `n` entries takes (R271). -/
def tablePages (n : Nat) : Nat := (n + 255) / 256
/-- Pages of the pool in use. -/
def Tenant.poolUsed (t : Tenant) : Nat := (t.indent.map (fun p => tablePages p.2.length)).sum
/-- Whether a table can take one more entry (R271). -/
def Tenant.hasRoom (t : Tenant) (rank : BitVec 24) : Bool :=
  let n := (t.table rank).length
  decide (n < 4096) && (n % 256 ≠ 0 || decide (t.poolUsed < t.ipool))

/-- IDT of a rank (R271). -/
def Tenant.idt (t : Tenant) (rank : BitVec 24) : Word :=
  BitVec.ofNat 19 (t.table rank).length ++ BitVec.ofNat 45 ((indentVa + rank.toNat * 65536) / 4096)

/-- The rights over rank `q` that a table gives (R272). -/
def rightsOver (l : List IEntry) (q : BitVec 24) : BitVec 6 :=
  l.foldl (fun r e => if e.lo.ule q && q.ule e.hi then r ||| e.rights else r) 0

/-- The state of a rank-table entry (R270). -/
def Thread.rankState (t : Thread) : Nat :=
  match t.place with
  | .moving _ => 2
  | _ => if t.run = .retained then 3 else 1

/-- A rank-table entry (R270). -/
def State.rankEntry (s : State) (tn : BitVec 4) (r : BitVec 24) : Word :=
  match s.find ⟨tn, r⟩ with
  | none => 0
  | some t => BitVec.ofNat 3 t.rankState ++ 0#44 ++ clusterOf t.core ++ t.core

/-- A command from which recording takes an entry (R136). -/
def LoomOp.records : LoomOp → Bool
  | .tsync => false
  | .trecOn => false
  | .trecOff => false
  | .unwind => false
  | .tdrop => false
  | _ => true

/-- A command that is counted without an entry of its own (R136). -/
def LoomCmd.unrecorded (c : LoomCmd) : Bool := c.dropped || wNpg c.dbk == 0 || !c.op.records

/-- A command has completed: it is done, and no entry of it is still to be written (R117, R136). -/
def LoomCmd.complete (c : LoomCmd) : Bool := c.phase == .done && c.unrecorded

/-- QCOUNT: the commands accepted and not completed (R118). -/
def Loom.qcount (l : Loom) : Nat := (l.queue.filter (fun c => !c.complete)).length

/-- The doublewords of a loom's status line (R118). -/
def Loom.word (l : Loom) (i : Nat) : Word :=
  match i with
  | 0 => 0#24 ++ l.frank ++ BitVec.ofNat 8 l.qcount ++ 0#5 ++ BitVec.ofNat 3 l.st
  | 1 => l.lown.setWidth 64
  | 2 => BitVec.ofNat 64 l.ldone
  | 3 => BitVec.ofNat 64 l.lacc
  | 4 => BitVec.ofNat 64 l.lgov
  | 5 => BitVec.ofNat 64 l.lfcmd
  | 7 => l.lres
  | _ => 0

/-- The doublewords of a porter's status line (R214). -/
def Porter.word (p : Porter) (i : Nat) : Word :=
  match i with
  | 0 => 0#24 ++ p.frank ++ BitVec.ofNat 8 p.queue.length ++ 0#6 ++ BitVec.ofNat 2 p.st
  | 1 => BitVec.ofNat 64 p.pacc
  | 2 => BitVec.ofNat 64 p.pdone
  | 3 => BitVec.ofNat 64 p.pfcmd
  | 4 => BitVec.ofNat 64 p.pfpos
  | 7 => p.pres
  | _ => 0

/-- The doublewords of a tenant's ordering parameter line (R164). -/
def Tenant.orderWord (t : Tenant) (i : Nat) : Word :=
  match i with
  | 0 => BitVec.ofNat 64 t.dage
  | 1 => BitVec.ofNat 64 t.leasemax
  | 2 => BitVec.ofNat 64 (t.dage + 3000)
  | 3 => BitVec.ofNat 64 (t.dage + 12000)
  | _ => 0

/-- The good lanes of a link. -/
def Link.lanes (l : Link) : Nat := ((List.range 8).filter (fun i => l.good.getLsbD i)).length

/-- LINKUP of R335. -/
def State.linkUp (s : State) : BitVec 16 :=
  (List.range 16).foldl (fun m i => if (s.link (BitVec.ofNat 4 i)).up then m ||| (1#16 <<< i) else m) 0
/-- HALF of R335. -/
def State.linkHalf (s : State) : BitVec 16 :=
  (List.range 16).foldl (fun m i =>
    let l := s.link (BitVec.ofNat 4 i)
    if l.up && decide (l.lanes < 8) then m ||| (1#16 <<< i) else m) 0

/-! ## The capability list (R2 to R8, R335) -/

/-- A set of numbers as a bitmap. -/
def bitmapOf (n : Nat) (p : Nat → Bool) : Nat := (List.range n).foldl (fun m i => if p i then m + 2 ^ i else m) 0

/-- MiB of a memory that are not whole in service: the places of it that failed rows have cost (R314), a part of a MiB counted
as one (log 6). -/
def State.lostMiB (s : State) (place : Nat) : Nat := (s.hub.lostFrames.count place + 15) / 16

/-- A mapped-out core, by index. -/
def State.coreGone (s : State) (i : Nat) : Bool := (tget Core.reset s.cores i).mappedOut
/-- A mapped-out cluster, by index. -/
def State.clusterGone (s : State) (i : Nat) : Bool := (tget Cluster.reset s.clusters i).mappedOut

/-- The state of a head in entry 0x0006: 1 active, 2 on standby (R22); the codes, and 0 for a head without a link, of which R22
says nothing, are the model's choice (log 6). -/
def Head.code (k : Head) : Nat := if !k.up then 0 else if k.standby then 2 else 1

/-- Where the handover area lies (R318): a device address that the device chooses (log 92). -/
def handoverAt : Nat := 64 * (Config.handoverArea % (Config.deviceBytes / 64 - 81))

/-- The cold looms that may start a command in one window, as entry 0x0005 gives it (R8, R132). -/
def stepLimit : Nat := max 1 (Config.capFigure 5 0 % 2 ^ 64)

/-- The pages that a cellar may have, as entry 0x0008 gives the limit: which no rule says (R8, R235); the operand of FUNC 2
takes at most 4,095. -/
def cellarLimit : Nat := max 1 (Config.capFigure 8 0 % 2 ^ 64)

/-- The figures of an entry that the spec gives no number for (log 6). -/
def capFigures (id n : Nat) : List (Nat × Nat) := (List.range n).map (fun i => (64, Config.capFigure id i % 2 ^ 64))

/-- Entry 0x0004 for one kind of loom: the bitmap of its multiplicand formats, by the codes of R48, and for each its K, N and
warp slots (R19). -/
def loomFields (l : List (Nat × Nat × Nat × Nat)) : List (Nat × Nat) :=
  (16, bitmapOf 16 (fun f => l.any (fun p => p.1 == f))) :: l.flatMap (fun p => [(16, p.2.1), (16, p.2.2.1), (4, p.2.2.2)])

/-- What entry 0x0006 says of a head: its state, the width and rate of its link, and the CXL and PCIe versions that it uses, 4.0
and 7.0 (R22, R321), each as a major and a minor number. -/
def Head.fields (k : Head) : List (Nat × Nat) := [(2, k.code), (8, 16), (8, 128), (4, 4), (4, 0), (4, 7), (4, 0)]

/-- The fields of each entry's payload, in the order R8 names them, each a width in bits and a value; a capacity is in MiB.
Entry 0x0009 gives SPDM 1.3, TDISP 1.0, the support of TDISP and of IDE (R293 to R295), and the codes of the signature
ML-DSA-87, of the digest SHA3-512, of the AEAD and of the key exchange, which are free (log 6). -/
def State.capFields (s : State) (id : Nat) : List (Nat × Nat) :=
  match id with
  | 1 => [(8, 64), (8, 16), (1024, bitmapOf 1024 s.coreGone), (64, rankVa)]
  | 2 => [(128, bitmapOf 128 (fun i => isWide (BitVec.ofNat 7 i))), (128, bitmapOf 128 s.clusterGone)]
  | 3 =>
    (List.range 8).map (fun d => (32, 32768 - s.lostMiB d))
      ++ (List.range 48).map (fun c => (32, 32768 - s.lostMiB (8 + c)))
      ++ [(16, 64)]
  | 4 =>
    loomFields [(11, 1024, 512, 4), (12, 512, 512, 4)]
      ++ loomFields [(5, 256, 256, 2), (7, 512, 512, 2), (9, 1024, 512, 2), (10, 1024, 512, 2)]
  | 5 => [(16, 2000), (16, 3400), (64, stepLimit)] ++ [(8, 10), (8, 45), (8, 30), (8, 40), (8, 60)]
  | 6 => s.head0.fields ++ s.head1.fields ++ capFigures 6 2 ++ [(64, handoverAt)]
  | 7 => [(16, s.linkUp.toNat), (16, s.linkHalf.toNat), (8, s.hub.modNum.toNat), (8, 8), (16, 224)]
  | 8 => [(8, 16), (32, 2 ^ 24), (32, Config.loftPositions), (64, cellarLimit), (8, 64)]
  | 9 => [(4, 1), (4, 3), (4, 1), (4, 0), (1, 1), (1, 1)] ++ capFigures 9 4
  | _ => capFigures id 1 ++ [(8, 64)]

/-- The feature of an entry runs degraded (R5, R314, R335). -/
def State.capDegr (s : State) (id : Nat) : Bool :=
  match id with
  | 1 => (List.range 1024).any s.coreGone
  | 2 => (List.range 128).any s.clusterGone
  | 3 => !s.hub.lostFrames.isEmpty
  | 7 => s.linkHalf != 0
  | _ => false

/-- The identifiers of the entries, in ascending order (R5, R8). -/
def capIds : List Nat := [1, 2, 3, 4, 5, 6, 7, 8, 9] ++ if Config.firmwareEntry then [0x8001] else []

/-- The entries as the module stands (R7). -/
def State.capEntries (s : State) : List CapEntry := capIds.map (fun i => ⟨i, s.capDegr i, s.capFields i⟩)

/-- The bits that stand free before field `i` of an entry; entry 0x0007 has none (R335). -/
def capSkip (id i : Nat) : Nat := if id = 7 then 0 else Config.capGap id i % 64

/-- Fields one after the other from bit 0, number `i` first, each after the bits that `gap` leaves free before it, which are
zero. -/
def packFields (gap : Nat → Nat) : Nat → List (Nat × Nat) → Nat
  | _, [] => 0
  | i, f :: l => 2 ^ gap i * (f.2 % 2 ^ f.1 + 2 ^ f.1 * packFields gap (i + 1) l)

/-- The bits that they take. -/
def packBits (gap : Nat → Nat) : Nat → List (Nat × Nat) → Nat
  | _, [] => 0
  | i, f :: l => gap i + f.1 + packBits gap (i + 1) l

/-- The bits of an entry's payload that its fields take. -/
def CapEntry.bits (e : CapEntry) : Nat := packBits (capSkip e.id) 0 e.fields

/-- UNITS of an entry: its fields, and what a layout may add (R5, R6); entry 0x0007 is one unit long (R335). -/
def CapEntry.units (e : CapEntry) : Nat :=
  if e.id = 7 then 1
  else
    let least := (e.bits + 64 + 127) / 128
    least + Config.capUnits e.id % (256 - least)

/-- The first doubleword of an entry (R5); entry 0x0007 has MAJ 1 and MIN 0 (R335). -/
def CapEntry.word0 (e : CapEntry) : Word :=
  let v := if e.id = 7 then (1, 0) else Config.capVersion e.id
  BitVec.ofNat 16 e.id ++ BitVec.ofNat 8 v.1 ++ BitVec.ofNat 8 v.2 ++ BitVec.ofNat 8 e.units ++ 0#7 ++ BitVec.ofBool e.degr ++ 0#16

/-- A byte of an entry: its first doubleword, then its fields, little-endian (R3, R335), and past them what a layout may add. -/
def CapEntry.byte (e : CapEntry) (o : Nat) : Byte :=
  if o < 8 then byteOf e.word0 o
  else if 8 * (o - 8) < e.bits then BitVec.ofNat 8 (packFields (capSkip e.id) 0 e.fields / 256 ^ (o - 8))
  else Config.capPayload e.id (o - 8)

/-- The length of the list in bytes, with its header (R4). -/
def CapList.bytes (l : CapList) : Nat := 32 + 16 * (l.entries.map CapEntry.units).sum

/-- A byte of the entries, at an offset from the first. -/
def entryByte : List CapEntry → Nat → Option Byte
  | [], _ => none
  | e :: l, o => if o < 16 * e.units then some (e.byte o) else entryByte l (o - 16 * e.units)

/-- A byte of the capability list (R4, R5); before the list is built it reads zero, and past its end it is a free value. -/
def State.capByte (s : State) (o : Nat) : Byte :=
  let l := s.hub.caps
  if l.gen = 0 then 0
  else if o < 4 then byteOf 0x4C535644 o
  else if o < 6 then byteOf 1 (o - 4)
  else if o < 8 then byteOf (BitVec.ofNat 64 l.entries.length) (o - 6)
  else if o < 12 then byteOf (BitVec.ofNat 64 l.bytes) (o - 8)
  else if o < 16 then byteOf (Config.partRevision.setWidth 64) (o - 12)
  else if o < 24 then byteOf (BitVec.ofNat 64 l.gen) (o - 16)
  else if o < 32 then 0
  else (entryByte l.entries (o - 32)).getD (Config.capByte o)

/-- A byte of the device window. -/
def State.windowByte (s : State) (pa : Nat) : Byte :=
  let tn := BitVec.ofNat 4 ((pa - winBase) / 2 ^ 57)
  let va := (pa - winBase) % 2 ^ 57
  if indentVa ≤ va ∧ va < indentEnd then
    let o := va - indentVa
    let e := ((s.tenant tn).table (BitVec.ofNat 24 (o / 65536)))[o % 65536 / 16]?
    match e with
    | none => 0
    | some e => byteOf (if o % 16 < 8 then e.w0 else e.w1) (o % 8)
  else if rankVa ≤ va ∧ va < rankEnd then
    byteOf (s.rankEntry tn (BitVec.ofNat 24 ((va - rankVa) / 8))) (va % 8)
  else if porterVa ≤ va ∧ va < porterEnd then
    let o := va - porterVa
    byteOf (((s.cluster (BitVec.ofNat 7 (o / 256))).porter (BitVec.ofNat 2 (o % 256 / 64))).word (o % 64 / 8)) (o % 8)
  else if orderVa ≤ va ∧ va < orderEnd then byteOf ((s.tenant tn).orderWord ((va - orderVa) / 8)) (va % 8)
  else if loomVa ≤ va ∧ va < loomEnd then
    let o := va - loomVa
    byteOf ((s.cluster (BitVec.ofNat 7 (o / 64))).loom.word (o % 64 / 8)) (o % 8)
  else if capVa ≤ va ∧ va < capEnd then s.capByte (va - capVa)
  else 0

/-! ## Memory -/

/-- What an address that nothing has written reads as (log 12). -/
def memDefault : Byte := 0

/-- Memory in canonical form: addresses strictly rising, and no entry equal to what an unlisted address reads as. -/
def Memory.wf (m : List Host.Cell) : Bool := twf m && m.all (fun c => c.2 != memDefault)

/-- One byte of a memory. -/
def memRead (m : List Host.Cell) (a : Nat) : Byte := tget memDefault m a

/-- One byte written to a memory. -/
def memWrite (m : List Host.Cell) (a : Nat) (b : Byte) : List Host.Cell := tput memDefault m a b

/-- Cells written to a memory, first first. -/
def memWriteAll (m : List Host.Cell) (cs : List Host.Cell) : List Host.Cell :=
  cs.foldl (fun m c => memWrite m c.1 c.2) m

/-- One byte at a physical address. -/
def State.readByte (s : State) (pa : Nat) : Byte := if isWin pa then s.windowByte pa else memRead s.mem pa

/-- The cells of the low `n` bytes of a word from address `a`, little-endian (R3). -/
def cellsOf (a n : Nat) (v : Word) : List Host.Cell := (List.range n).map (fun i => (a + i, byteOf v i))

/-- The cells of a list of bytes from address `a`. -/
def cellsFrom (a : Nat) : List Byte → List Host.Cell
  | [] => []
  | b :: t => (a, b) :: cellsFrom (a + 1) t

/-- `n` bytes read through `rd` from address `a`, little-endian (R3). -/
def readLe (rd : Nat → Byte) (a : Nat) : Nat → Word
  | 0 => 0
  | n + 1 => ((readLe rd (a + 1) n) <<< 8) ||| (rd a).setWidth 64

/-- `n` bytes of memory from a physical address as a word. -/
def State.readN (s : State) (pa n : Nat) : Word := readLe s.readByte pa n

/-- A byte as the thread's open chunk reads it: what an earlier store of the chunk wrote, else memory (R152). -/
def State.chunkByte (s : State) (pa : Nat) : Byte :=
  match tfind s.thr.chunk.buf pa with
  | some b => b
  | none => s.readByte pa

/-! ## Translation (R289 to R292, R372) -/

/-- What an access asks for. -/
inductive Acc where
  | read | write | fetch
deriving DecidableEq, Repr

/-- Why an access stops the bundle. -/
inductive Stop where
  /-- a fault (R181) -/
  | flt (f : Flt)
  /-- the chunk is squashed and the thread parks (R112, R115, R291, R309) -/
  | park (p : Park)
  /-- a conflict of the chunk (R155) -/
  | conflict
  /-- the line is held or leased by another thread: the access waits (R158, R162) -/
  | wait (line : Nat)
  /-- the device has no translation of the page and asks the host for it: the access waits (R290) -/
  | ats (vpage : Nat)
  /-- no link carries the access to its module: it waits (R332) -/
  | link (m : BitVec 8)
  /-- the store begins the next chunk (R154) -/
  | split
  /-- the explicit region fails with a code and an XCODE (R163) -/
  | region (code xcode : Nat)
deriving DecidableEq, Repr

/-- A result that may stop. -/
abbrev Res (α : Type) := Except Stop α

/-- A fault at an address. -/
def fault {α : Type} (kind : BitVec 8) (detail : Nat) (addr : Word) : Res α := .error (.flt ⟨kind, detail, addr, 0, 0, none⟩)

/-- The page-fault detail of an access (R301). -/
def pageDetail : Acc → Nat
  | .read => 1
  | .write => 2
  | .fetch => 3

/-- A page fault. -/
def pageFault {α : Type} (k : Acc) (va : Nat) : Res α := fault 0x03 (pageDetail k) (addrWord va)

/-- A protection fault with a detail of R301. -/
def protFault {α : Type} (detail va : Nat) : Res α := fault 0x04 detail (addrWord va)

/-- Whether a window address is mapped for a tenant: indenture pages that are backed, status lines of its own clusters. -/
def State.winMapped (s : State) (tn : BitVec 4) (va : Nat) : Bool :=
  let t := s.tenant tn
  if indentVa ≤ va ∧ va < indentEnd then
    let o := va - indentVa
    decide (o % 65536 / 4096 < tablePages (t.table (BitVec.ofNat 24 (o / 65536))).length)
  else if rankVa ≤ va ∧ va < rankEnd then true
  else if porterVa ≤ va ∧ va < porterEnd then t.rect.holds (BitVec.ofNat 7 ((va - porterVa) / 256))
  else if orderVa ≤ va ∧ va < orderEnd then true
  else if loomVa ≤ va ∧ va < loomEnd then t.rect.holds (BitVec.ofNat 7 ((va - loomVa) / 64))
  else decide (capVa ≤ va ∧ va < capEnd)

/-- Whether a window address is the resume word of a loom or a porter (R118, R214). -/
def isResume (va : Nat) : Bool :=
  ((decide (porterVa ≤ va) && decide (va < porterEnd)) || (decide (loomVa ≤ va) && decide (va < loomEnd)))
    && decide (56 ≤ va % 64)

/-- The TEE bit of a tenant's CXL.io requests: set in CONFIG_LOCKED and RUN (R294). -/
def Tenant.teeBit (t : Tenant) : Bool := t.tdisp == .locked || t.tdisp == .run

/-- The PASID of a tenant's requests (R289). -/
def Tenant.pasid (t : Tenant) : Option (BitVec 20) := t.pasid0.orElse (fun _ => t.pasid1)

/-- A TLB entry holds a page of a tenant (R290). -/
def TlbEntry.holds (e : TlbEntry) (tn : BitVec 4) (pasid : Option (BitVec 20)) (vpage : Nat) : Bool :=
  e.tn == tn && e.pasid == pasid && vpage / 2 ^ (e.lg - 12) == e.vpage / 2 ^ (e.lg - 12)

/-- The translation of a page that an entry gives. -/
def TlbEntry.page (e : TlbEntry) (vpage : Nat) : Pte := { e.pte with pa := e.pte.pa + 4096 * (vpage - e.vpage) }

/-- The translation of a page, from the core's TLB or the cluster's (R290). -/
def State.lookup (s : State) (tn : BitVec 4) (core : BitVec 10) (vpage : Nat) : Option Pte :=
  let hit (c : Option (BitVec 10)) (e : TlbEntry) : Bool :=
    e.cluster == clusterOf core && e.core == c && e.holds tn (s.tenant tn).pasid vpage
  ((s.tlb.find? (hit (some core))).orElse (fun _ => s.tlb.find? (hit none))).map (fun e => e.page vpage)

/-- The fabric window of a tenant that holds an address (R333). -/
def Tenant.fabricAt (t : Tenant) (va : Nat) : Option FabWindow :=
  t.fabric.find? (fun w => !w.exported && decide (w.va ≤ va) && decide (va < w.va + 2 ^ w.k))

/-- The page lies in the tenant's cellar (R233). -/
def Tenant.cellarAt (t : Tenant) (pa : Nat) : Bool :=
  decide (t.cellar ≤ pa) && decide (pa < t.cellar + 4096 * t.cellarPages)

/-- Where the translation of an access leads, before the owner of the memory is looked at (R271, R289, R290, R291, R333, R372):
a page or protection fault, a park on a PRI response in PRI mode 1 (R291), or a wait for the host's answer. -/
def State.route (s : State) (tn : BitVec 4) (core : BitVec 10) (k : Acc) (va : Nat) : Res Nat :=
  let t := s.tenant tn
  if inWindow va then
    if k = .write ∧ va < indentEnd then protFault 3 va
    else if !s.winMapped tn va then pageFault k va
    else
      match k with
      | .read => .ok (winPa tn va)
      | .fetch => protFault 2 va
      | .write => if isResume va then .ok (winPa tn va) else protFault 4 va
  else
    match t.fabricAt va with
    | some w => .ok (fabBase + (w.rtenant.toNat * 256 + w.modNum.toNat) * 2 ^ 57 + (w.rva + (va - w.va)))
    | none =>
      if t.peers.any (fun p => decide (p.1 ≤ va) && decide (va < p.1 + p.2)) then
        match k with
        | .fetch => protFault 2 va
        | _ => .ok (ioBase + tn.toNat * 2 ^ 57 + va)
      else if t.hostLost then fault 0x05 3 (addrWord va)
      else
        let refuse (kind : BitVec 8) (d : Nat) : Res Nat :=
          let f : Flt := ⟨kind, d, addrWord va, 0, 0, none⟩
          if t.pri then .error (.park (.pri (va / 4096) f)) else .error (.flt f)
        match s.lookup tn core (va / 4096) with
        | none => if t.refused.contains (core, va / 4096) then refuse 0x03 (pageDetail k) else .error (.ats (va / 4096))
        | some p =>
          let bad : Option Nat :=
            match k with
            | .read => if p.r then none else some 9
            | .write => if p.w then none else some 1
            | .fetch => if p.x then none else some 2
          match bad with
          | some d => refuse 0x04 d
          | none =>
            if p.io then .ok (ioBase + tn.toNat * 2 ^ 57 + va)
            else if p.pa + va % 4096 < ioBase then .ok (p.pa + va % 4096)
            else protFault 6 va

/-- The checks of the memory that an access leads to: its owner, the tenant's cellar, and a drain (R233, R286, R309). -/
def State.guard (s : State) (tn : BitVec 4) (va pa : Nat) : Res Nat :=
  if isHost pa || decide (ioBase ≤ pa) then .ok pa
  else if !isDevice pa || (s.region (regionOf pa)).owner != some tn then protFault 6 va
  else if (s.tenant tn).cellarAt pa then protFault 8 va
  else if (s.region (regionOf pa)).drain.isSome then .error (.park (.drain (regionOf pa)))
  else .ok pa

/-- The physical address of a tenant's virtual address for an access. -/
def State.translate (s : State) (tn : BitVec 4) (core : BitVec 10) (k : Acc) (va : Nat) : Res Nat :=
  match s.route tn core k va with
  | .error e => .error e
  | .ok pa => s.guard tn va pa

/-- The cause for which a line is poisoned; a line homed in a lost host counts as poisoned with detail 3 (R305, R317). -/
def State.poisonOf (s : State) (pa : Nat) : Option (BitVec 16) :=
  (tfind s.poison (lineOf pa)).orElse (fun _ => if isHost pa && (s.head (hostOf pa)).lost then some 3 else none)

/-- A tenant's transfers to its host are aborted: it has left RUN and has not been scrubbed (R296, R297). -/
def Tenant.aborting (t : Tenant) : Bool := t.leaving == 2 || t.tdisp == .error

/-- The poison that an access of a tenant meets at the home of an address: a read of the host that is aborted completes poisoned
(R297). -/
def State.homePoison (s : State) (tn : BitVec 4) (pa : Nat) : Option (BitVec 16) :=
  if isHost pa && (s.tenant tn).aborting then some 4 else s.poisonOf pa

end Sys2Proof.Machine
end

