-- ==== Sys2Proof/Machine/Events.lean ====
section
/-! DEFINITION. What a write event does besides writing (R152, R155, R226): the chunks it squashes, the watches, barrier
words, stamps, notify words and pulse words it is an event on, the combine that comes before it (R176), the marking of
poison (R305); and the delivery of fault records (R299, R330). -/

namespace Sys2Proof.Machine

/-! ## Caches (R373) -/

/-- A line touched in a cache of `ways` ways a set: it becomes the most recently used of its set, whose least recently
used line is replaced. -/
def cacheTouch (ways : Nat) (l : List Nat) (line : Nat) : List Nat :=
  let set := (l.filter (fun k => k % 256 == line % 256 && k != line)).take (ways - 1)
  line :: l.filter (fun k => k != line && (k % 256 != line % 256 || set.contains k))

/-- One more access of a die in a list of counts by die. -/
def bumpDie (l : List Nat) (d : Nat) : List Nat := (List.range 8).map (fun i => l.getD i 0 + if i = d then 1 else 0)

/-- An access that reaches the memory of a line, or a host's, is counted for its region and die (R310, R311). -/
def State.countAccess (s : State) (die line : Nat) : State :=
  let r := regionOf (64 * line)
  s.setRegion r { s.region r with counts := bumpDie (s.region r).counts die }

/-- A line of a switched-out tenant: its home is the hub die, which has no L2 (R288). -/
def State.hubHomed (s : State) (pa : Nat) : Bool :=
  match (s.region (regionOf pa)).owner with
  | some tn => (s.tenant tn).out
  | none => false

/-- A line of device memory in the L2 slice of its home, read or, with `mod`, written there (R17): a line that is not there yet
comes from memory, and replaces a line of a full slice, which goes back to memory if it was written. -/
def State.l2Put (s : State) (die line : Nat) (mod : Bool) : State :=
  let h := s.homeCore (64 * line)
  let k := s.core h
  if s.hubHomed (64 * line) then s.countAccess die line
  else
  match tfind k.l2 line with
  | some b => if mod && !b then s.setCore h { k with l2 := tset k.l2 line true } else s
  | none =>
    let s1 := s.countAccess die line
    if k.l2.length < Config.l2Room then s1.setCore h { k with l2 := tset k.l2 line mod }
    else
      let v := k.l2.getD (Config.l2Victim h.toNat line % k.l2.length) (0, false)
      let s2 := if v.2 then s1.countAccess (dieOf (clusterOf h)) v.1 else s1
      s2.setCore h { k with l2 := tset (tdel k.l2 v.1) line mod }

/-- The die of a core. -/
def coreDie (c : BitVec 10) : Nat := dieOf (clusterOf c)

/-- A core asks the home of a line for it (R153, R311). -/
def State.askHome (s : State) (c : BitVec 10) (line : Nat) : State :=
  if isDevice (64 * line) then s.l2Put (coreDie c) line false
  else if isHost (64 * line) then s.countAccess (coreDie c) line
  else s

/-- A line that a core asks for in its own L2 slice, wherever its home is (R185). -/
def State.l2Own (s : State) (c : BitVec 10) (line : Nat) : State :=
  let s1 := s.askHome c line
  let k := s1.core c
  if !isDevice (64 * line) || (tfind k.l2 line).isSome then s1
  else
    let v := k.l2.getD (Config.l2Victim c.toNat line % max 1 k.l2.length) (0, false)
    let s2 := if decide (Config.l2Room ≤ k.l2.length) && v.2 then s1.countAccess (coreDie c) v.1 else s1
    let kept := if Config.l2Room ≤ k.l2.length then tdel k.l2 v.1 else k.l2
    s2.setCore c { s2.core c with l2 := tset kept line false }

/-- A core writes a modified line back to its home (R373). -/
def State.writeBack (s : State) (c : BitVec 10) (line : Nat) : State :=
  if isDevice (64 * line) then s.l2Put (coreDie c) line true else s

/-- A line read or written at its home, by an agent that is no core (R17). -/
def State.atHome (mod : Bool) (s : State) (line : Nat) : State :=
  if isDevice (64 * line) then s.l2Put (coreDie (s.homeCore (64 * line))) line mod else s

/-- A line allocated in the L1 data cache of a core, most recently used; a modified line that it replaces goes back to its
home (R373). -/
def State.touchD (c : BitVec 10) (s : State) (line : Nat) : State :=
  let k := s.core c
  let l1 := cacheTouch 8 k.l1d line
  let s1 := s.setCore c { k with l1d := l1, dirty := k.dirty.filter l1.contains }
  let s2 := if k.l1d.contains line then s1 else s1.askHome c line
  (k.dirty.filter (fun l => !l1.contains l)).foldl (fun s l => s.writeBack c l) s2

/-- Lines allocated in the L1 data cache of a core, the last one most recently used. -/
def State.allocD (s : State) (c : BitVec 10) (ls : List Nat) : State := ls.foldl (State.touchD c) s

/-- Lines that a chunk has stored to: they are allocated, and modified (R373). -/
def State.storeD (s : State) (c : BitVec 10) (ls : List Nat) : State :=
  let s1 := s.allocD c ls
  s1.setCore c { s1.core c with dirty := laddAll (s1.core c).dirty ls }

/-- A line allocated in the instruction cache of a core. -/
def State.allocI (s : State) (c : BitVec 10) (line : Nat) : State :=
  let s1 := s.setCore c { s.core c with l1i := cacheTouch 4 (s.core c).l1i line }
  if (s.core c).l1i.contains line then s1 else s1.askHome c line

/-- A core's L1 caches without the lines that `p` names. -/
def Core.without (k : Core) (p : Nat → Bool) : Core :=
  { k with l1d := k.l1d.filter (fun l => !p l), l1i := k.l1i.filter (fun l => !p l), dirty := k.dirty.filter (fun l => !p l) }

/-- Lines invalidated in the L1 caches of every core but `c`, and in every L2 slice that is not their home's. -/
def State.invalidate (s : State) (c : Option (BitVec 10)) (ls : List Nat) : State :=
  { s with cores := s.cores.map (fun p =>
      let k : Core := { p.2 with l2 := p.2.l2.filter (fun q => !ls.contains q.1 || (s.homeCore (64 * q.1)).toNat == p.1) }
      if c.map BitVec.toNat == some p.1 then (p.1, k) else (p.1, k.without ls.contains)) }

/-- The lines of a region leave every cache; what was modified is written back to memory (R308, R373). -/
def State.flushRegion (s : State) (r : Nat) : State :=
  let mine (l : Nat) : Bool := l / 1024 == r
  let back := s.cores.flatMap (fun p => ((p.2.dirty.filter mine) ++ (p.2.l2.filter (fun q => q.2 && mine q.1)).map Prod.fst).map
    (fun l => (coreDie (BitVec.ofNat 10 p.1), l)))
  let s1 : State := { s with cores := s.cores.map (fun p =>
    (p.1, { p.2.without mine with l2 := p.2.l2.filter (fun q => !mine q.1) })) }
  back.foldl (fun s p => s.countAccess p.1 p.2) s1

/-- The caches of some cores are written back to memory, and are empty (R288). -/
def State.flushCores (s : State) (p : BitVec 10 → Bool) : State :=
  let mine := s.cores.filter (fun q => p (BitVec.ofNat 10 q.1))
  let back := mine.flatMap (fun q => (q.2.dirty ++ (q.2.l2.filter (fun l => l.2)).map Prod.fst).map
    (fun l => (coreDie (BitVec.ofNat 10 q.1), l)))
  let s1 : State := { s with cores := s.cores.map (fun q =>
    if p (BitVec.ofNat 10 q.1) then (q.1, { q.2 with l1d := [], l1i := [], dirty := [], l2 := [] }) else q) }
  back.foldl (fun s q => s.countAccess q.1 q.2) s1

/-! ## Holds and leases (R158, R162) -/

/-- The lines a thread holds or leases. -/
def Thread.owns (t : Thread) : List Nat :=
  (match t.solo with | some o => o.held | none => []) ++ (match t.region with | some r => r.leases | none => [])

/-- A line is held or leased by a thread other than `me`: every other request for it waits. A later access of a thread to
the line of its own posted atomic waits for that atomic (R174). -/
def State.blocked (s : State) (me : Option ThreadId) (line : Nat) : Bool :=
  s.threads.any (fun t => t.live && some t.id != me && t.owns.contains line)
    || s.net.amops.any (fun a => some a.id == me && lineOf a.pa == line)

/-- A line that drains: accesses at its home wait (R309). -/
def State.draining (s : State) (pa : Nat) : Bool := isDevice pa && (s.region (regionOf pa)).drain.isSome

/-- An access of an agent at the home of an address is granted. -/
def State.granted (s : State) (me : Option ThreadId) (pa : Nat) : Bool :=
  !s.blocked me (lineOf pa) && !s.draining pa

/-- Time passes until a deadline. -/
def State.reach (s : State) (c : Nat) : State := { s with cyc := max s.cyc c }

/-- The lines of an open chunk's read and write sets. -/
def Chunk.lines (c : Chunk) : List Nat := laddAll c.reads (c.firsts.map (fun f => f.line))

/-! ## Squash and stop -/

/-- A region at its first attempt (R160). -/
def XRegion.first : XRegion := ⟨1, [], [], none, none, false⟩

/-- A squash that is no conflict: registers and state words as at the chunk's start; a region starts again at its first
attempt (R44, R156, R160). -/
def Thread.squash (t : Thread) : Thread :=
  { t with
    arch := t.chunk.start
    chunk := Chunk.fresh t.chunk.start
    region := t.region.map (fun _ => XRegion.first)
    squashes := 0
    solo := t.solo.map (fun o => { o with others := 0, want := [], held := [] })
    aslot := .none }

/-- Stops a thread; stops do not nest (R277). -/
def Thread.stop (cause : StopCause) (now : Nat) (t : Thread) : Thread :=
  if t.stopped.isSome || !t.live || t.run = .retained then t
  else { t.squash with stopped := some cause, since := now }

/-- Step 1 of R288: every thread of the tenant stops and the foreman admits no crew. -/
def State.stopTenant (s : State) (tn : BitVec 4) : State :=
  (s.setTenant tn { s.tenant tn with stopped := true }).updAll
    (fun t => if t.id.tenant = tn then t.stop .tenant s.cyc else t)

/-! ## What an event on a line does -/

/-- Marks the open chunks, other than the source's own, that hold one of the lines (R155). -/
def Thread.strike (src : Option ThreadId) (byChunk : Bool) (ls : List Nat) (t : Thread) : Thread :=
  if !t.live || some t.id == src || t.chunk.conflict || !lmeets t.chunk.lines ls then t
  else { t with chunk := { t.chunk with conflict := true, byChunk := byChunk } }

/-- Whether a watch fires on an event that wrote the bytes `bs` (R226). -/
def State.watchFires (s : State) (bs : List Nat) (w : Watch) : Bool :=
  bs.any (fun b => lineOf b == lineOf w.pa) &&
    match w.cond with
    | .any => bs.any (fun b => decide (w.pa ≤ b) && decide (b < w.pa + 8))
    | .eq => s.readN w.pa 8 == w.val
    | .ne => s.readN w.pa 8 != w.val
    | .geu => w.val.ule (s.readN w.pa 8)

/-- The watch slots of a thread that fire. -/
def State.fired (s : State) (bs : List Nat) (t : Thread) : BitVec 4 :=
  (List.range 4).foldl (fun m i =>
    match t.watches.toList[i]? with
    | some (some w) => if s.watchFires bs w then m ||| (1#4 <<< i) else m
    | _ => m) 0

/-- The slots of a thread that `f` names fire with a code: their latches are set, and their re-checks stop (R227, R229, R231). -/
def Thread.light (f : Thread → BitVec 4) (code : Nat) (t : Thread) : Thread :=
  if !t.live || f t = 0 then t
  else
    { t with
      latch := t.latch ||| f t
      took := if code = 10 then t.took ||| f t else t.took
      watches := (t.watches.zipIdx).map (fun p => if (f t).getLsbD p.2 then p.1.map (fun w => { w with again := false }) else p.1) }

/-- The thread waits on its latches. -/
def Thread.inWait (t : Thread) : Bool :=
  match t.run with
  | .parked (.wait _ _) => true
  | .parked (.xchg _) => true
  | _ => false

/-- PHASE of a barrier word (R259). -/
def barPhase (w : Word) : BitVec 32 := w.extractLsb' 32 32

/-- The result of a `bar` (R259). -/
def barResult (out last : Bool) (p : BitVec 32) : Word := BitVec.ofBool out ++ BitVec.ofBool last ++ 0#30 ++ p

/-- A write event to its word that leaves another PHASE releases a waiter of `bar`, whose wake is under way (R230, R259). -/
def State.barSeen (s : State) (bs : List Nat) (t : Thread) : Thread :=
  match t.run with
  | .parked (.bar d _ pa ph _ _) =>
    if t.live && t.stopped.isNone && bs.any (fun b => lineOf b == lineOf pa) && barPhase (s.readN pa 8) != ph then
      { t with run := .parked (.over d (barResult false false ph) 4) }
    else t
  | _ => t

/-- The wakes an event on the bytes `bs` sends to a thread whose watches `f` names fire with a code (R206, R227, R259). -/
def State.wakesFor (s : State) (bs : List Nat) (f : Thread → BitVec 4) (code : Nat) (t : Thread) : List Wake :=
  if !t.live || t.stopped.isSome then []
  else
    match t.run with
    | .parked (.wait _ _) => if f t = 0 then [] else [⟨t.id, code⟩]
    | .parked (.xchg _) => if f t = 0 then [] else [⟨t.id, code⟩]
    | .parked (.queue _ pa _) => if bs.any (fun b => lineOf b == lineOf pa) then [⟨t.id, 3⟩] else []
    | .parked (.bar _ va pa ph _ _) =>
      if bs.any (fun b => lineOf b == lineOf pa)
          && (barPhase (s.readN pa 8) != ph || (s.poisonOf pa).isSome || s.translate t.id.tenant t.core .write va != .ok pa)
      then [⟨t.id, 4⟩] else []
    | _ => []

/-- The records a write of a notify word publishes (R323, R324); a service queue without a ring has none (R329). -/
def HostQueue.publish (q : HostQueue) (w : Word) : HostQueue :=
  let h := w.extractLsb' 0 32
  let d := w.extractLsb' 32 32
  let dh := (h - q.seenH).toNat
  let dd := (d - q.seenD).toNat
  let kept := if 2 ^ 31 ≤ dd then q.todo.filter (fun p => !p.1) else q.todo
  let withH := if dh = 0 ∨ 2 ^ 31 ≤ dh ∨ (q.service && q.ring == 0) then kept else kept ++ [(false, dh)]
  let withD := if dd = 0 ∨ 2 ^ 31 ≤ dd then withH else withH ++ [(true, dd)]
  { q with seenH := h, seenD := d, todo := withD }

/-- Whether an event that wrote the bytes `bs` wrote a byte of the doubleword at `a`. -/
def hits (bs : List Nat) (a : Nat) : Bool := bs.any (fun b => decide (a ≤ b) && decide (b < a + 8))

/-- After an event has written the bytes `bs`: it squashes chunks, fires the watches that `f` names with a code, wakes those
who wait on the lines, publishes records and opens pulse periods (R155, R206, R226, R247, R259, R324). -/
def State.writtenBy (s : State) (src : Option ThreadId) (byChunk : Bool) (bs : List Nat) (f : Thread → BitVec 4) (code : Nat) :
    State :=
  let ls := lsort (bs.map lineOf)
  let wakes := s.threads.flatMap (s.wakesFor bs f code)
  let s1 : State := s.updAll (fun t => s.barSeen bs ((t.strike src byChunk ls).light f code))
  let s2 : State := { s1 with
    net := { s.net with wakes := s.net.wakes ++ wakes }
    queues := s.queues.map (fun p =>
      if p.2.valid && p.2.note != 0 && hits bs p.2.note then (p.1, p.2.publish (s.readN p.2.note 8)) else p)
    tenants := s.tenants.map (fun p =>
      match p.2.pulse with
      | some u => if hits bs u.pa then (p.1, { p.2 with pulse := some { u with opened := s.cyc, silent := 0 } }) else p
      | none => p) }
  s2.invalidate (src.bind (fun id => (s.find id).map (fun t : Thread => t.core))) ls

/-- After an event has written the bytes `bs`, with the watches whose conditions hold (R226). -/
def State.written (s : State) (src : Option ThreadId) (byChunk : Bool) (bs : List Nat) : State :=
  s.writtenBy src byChunk bs (s.fired bs) 1

/-- The bytes of a line. -/
def lineCells (line : Nat) : List Nat := (List.range 64).map (fun i => 64 * line + i)

/-- A status line, a table entry or another word of a device window has been written as one event. -/
def State.winWritten (s : State) (pa n : Nat) : State := s.written none false ((List.range n).map (fun i => pa + i))

/-! ## Combine (R176) -/

/-- The partials of one element in ascending core index. -/
def sortCores (ps : List Partial) : List Partial :=
  ps.foldl (fun l p => l.takeWhile (fun q => q.core.ule p.core) ++ p :: l.dropWhile (fun q => q.core.ule p.core)) []

/-- The cells a combine of one element writes. -/
def State.combineCells (s : State) (ps : List Partial) (a : Nat) : List Host.Cell :=
  match ps.find? (fun p => p.pa == a) with
  | none => []
  | some e =>
    let m := (sortCores (ps.filter (fun p => p.pa == a))).foldl (fun m p => combineAdd e.fmt m p.val)
      (combineFrom e.fmt (s.readN a (rangeBytes e.fmt)))
    cellsOf a (rangeBytes e.fmt) (combineTo e.fmt m)

/-- The cells that the combine of a line writes: none without partials on it, none when it is poisoned (R176, R306). -/
def State.lineSum (s : State) (line : Nat) : List Host.Cell :=
  if (tfind s.poison line).isSome then []
  else
    let ps := s.partials.filter (fun p => lineOf p.pa == line)
    (lsort (ps.map (fun p => p.pa))).flatMap (s.combineCells ps)

/-- Combines a line (R176). -/
def State.combineLine (s : State) (src : Option ThreadId) (line : Nat) : State :=
  let cells := s.lineSum line
  if cells.isEmpty then s
  else
    let s1 : State := { s with
      mem := memWriteAll s.mem cells
      partials := s.partials.filter (fun p => lineOf p.pa != line) }
    (State.atHome true s1 line).written src false (cells.map (fun c => c.1))

/-- Combines every line of a list. -/
def State.combineAll (s : State) (src : Option ThreadId) (ls : List Nat) : State :=
  ls.foldl (fun s l => s.combineLine src l) s

/-! ## Write events -/

/-- The cells cover all 64 bytes of a line. -/
def coversLine (cells : List Host.Cell) (line : Nat) : Bool :=
  (lineCells line).all (fun a => cells.any (fun c => c.1 == a))

/-- A byte of a word replaced. -/
def putByte (w : Word) (i : Nat) (b : Byte) : Word :=
  (w &&& ~~~(0xFF#64 <<< (8 * i))) ||| (b.setWidth 64 <<< (8 * i))

/-- A byte stored to a resume word: it is kept while the engine is stopped and ignored otherwise (R130, R216, R304). -/
def State.storeResume (s : State) (c : Host.Cell) : State :=
  let va := (c.1 - winBase) % 2 ^ 57
  if porterVa ≤ va ∧ va < porterEnd then
    let cl := BitVec.ofNat 7 ((va - porterVa) / 256)
    let n := BitVec.ofNat 2 ((va - porterVa) % 256 / 64)
    let p := (s.cluster cl).porter n
    if p.st = 2 then s.setCluster cl ((s.cluster cl).setPorter n { p with pres := putByte p.pres (va % 8) c.2 }) else s
  else if loomVa ≤ va ∧ va < loomEnd then
    let cl := BitVec.ofNat 7 ((va - loomVa) / 64)
    let k := s.cluster cl
    if k.loom.st = 2 then s.setCluster cl { k with loom := { k.loom with lres := putByte k.loom.lres (va % 8) c.2 } } else s
  else s

/-- The bytes of a write event: the lines are combined first, and a line written whole loses its poison (R307). -/
def State.putCells (s : State) (src : Option ThreadId) (cells : List Host.Cell) : State :=
  let ls := lsort (cells.map (fun c => lineOf c.1))
  let s1 := s.combineAll src ls
  let clean := ls.filter (fun l => (tfind s1.poison l).isSome && coversLine cells l)
  let s2 : State := { s1 with
    mem := memWriteAll s1.mem (cells.filter (fun c => !isWin c.1))
    poison := s1.poison.filter (fun p => !clean.contains p.1) }
  (cells.filter (fun c => isWin c.1)).foldl State.storeResume s2

/-- What an event that writes lines leaves besides the bytes: regions of device memory are backed (R374), and lines that no core
writes are written at their homes (R17). -/
def State.settleLines (s : State) (byChunk : Bool) (ls : List Nat) : State :=
  let dev := ls.filter (fun l => isDevice (64 * l))
  let s1 := (lsort (dev.map (fun l => regionOf (64 * l)))).foldl State.backRegion s
  if byChunk then s1 else dev.foldl (State.atHome true) s1

/-- One write event of some cells: the bytes are written, and the event acts on chunks and waiters. -/
def State.writeEvent (s : State) (src : Option ThreadId) (byChunk : Bool) (cells : List Host.Cell) : State :=
  ((s.putCells src cells).settleLines byChunk (lsort (cells.map (fun c => lineOf c.1)))).written src byChunk
    (cells.map (fun c => c.1))

/-! ## Host-homed lines (R229, R317) -/

/-- The slots of a thread whose armed watch `p` names. -/
def Thread.slotsOf (p : Watch → Bool) (t : Thread) : BitVec 4 :=
  (List.range 4).foldl (fun m i =>
    match t.watches.toList[i]? with
    | some (some w) => if p w then m ||| (1#4 <<< i) else m
    | _ => m) 0

/-- The watches of a thread on the lines that `p` names, those degraded to re-checks too if `all` says so. -/
def Thread.watching (all : Bool) (p : Nat → Bool) : Thread → BitVec 4 :=
  Thread.slotsOf (fun w => (all || !w.deg) && p (lineOf w.pa))

/-- The host takes lines away: every watch that the device holds on them fires with CODE 10, whatever its condition (R229). -/
def State.hostTakes (s : State) (p : Nat → Bool) (bs : List Nat) : State :=
  s.writtenBy none false bs (Thread.watching false p) 10

/-- The host takes a line away to read it: the watches fire, and no chunk is squashed, since nothing is written (R156, R229). -/
def State.hostReads (s : State) (line : Nat) : State :=
  let f := Thread.watching false (fun l => l == line)
  let wakes := s.threads.flatMap (s.wakesFor (lineCells line) f 10)
  (({ s with net := { s.net with wakes := s.net.wakes ++ wakes } } : State).updAll (Thread.light f 10)).invalidate none [line]

/-! ## Poison (R305) -/

/-- The slots of a thread that a mask names are disarmed and their latches end; a thread that waits will see CODE 12 (R227,
R231). THE MODEL'S CHOICE (log 110): a thread that is not waiting when it loses a watch gets the record, and no CODE 12 at a
later `wait`. -/
def Thread.disarm (m : BitVec 4) (t : Thread) : Thread :=
  if m = 0 then t
  else
    { t with
      latch := t.latch &&& ~~~m
      took := t.took &&& ~~~m
      lost := t.lost || t.inWait
      watches := (t.watches.zipIdx).map (fun p => if m.getLsbD p.2 then none else p.1) }

/-- Slots of the threads are disarmed, and a thread that waits wakes with CODE 12 (R231). -/
def State.disarmAll (s : State) (f : Thread → BitVec 4) : State :=
  let wakes := s.threads.filterMap (fun t =>
    if t.live && t.stopped.isNone && t.inWait && f t != 0 then some (⟨t.id, 12⟩ : Wake) else none)
  ({ s with net := { s.net with wakes := s.net.wakes ++ wakes } } : State).updAll (fun t => if t.live then t.disarm (f t) else t)

/-- Marks a line poisoned with a cause: a write event of the line, on which .any watches fire; watches with another condition
are disarmed (R305, R306). A line that is already poisoned is not marked again. -/
def State.markPoison (s : State) (line : Nat) (cause : BitVec 16) : State :=
  if (tfind s.poison line).isSome then s
  else
    let on (any : Bool) : Thread → BitVec 4 := Thread.slotsOf (fun w => lineOf w.pa == line && (w.cond == .any) == any)
    (({ s with poison := tset s.poison line cause } : State).writtenBy none false (lineCells line) (on true) 1).disarmAll (on false)

/-! ## Asking the host (R290) -/

/-- The misses of a die, in the order of their arrival. -/
def State.dieMisses (s : State) (core : BitVec 10) : List (BitVec 4 × BitVec 10 × Nat) :=
  s.net.ats.filter (fun q => coreDie q.2.1 == coreDie core)

/-- Those whose requests are outstanding: at most 32 of a die, the earliest. -/
def State.asked (s : State) (core : BitVec 10) : List (BitVec 4 × BitVec 10 × Nat) := (s.dieMisses core).take 32

/-- The stream of a tenant's CXL.io requests: its head, and the TEE bit (R294). -/
def State.stream (s : State) (tn : BitVec 4) : IoStream := ⟨(s.tenant tn).head, tn, (s.tenant tn).teeBit⟩

/-- A message leaves the module. -/
def State.send (s : State) (m : OutMsg) : State := { s with hub := { s.hub with out := s.hub.out ++ [m] } }

/-- The translation of a page is not on its way to a core yet. -/
def State.mayAsk (s : State) (tn : BitVec 4) (core : BitVec 10) (vpage : Nat) : Bool := !s.net.ats.contains (tn, core, vpage)

/-- A miss: an ATS Translation Request leaves the device, or waits while the die has 32 outstanding (R290). -/
def State.askPage (s : State) (tn : BitVec 4) (core : BitVec 10) (vpage : Nat) : State :=
  if s.mayAsk tn core vpage then
    let s1 : State := { s with net := { s.net with ats := s.net.ats ++ [(tn, core, vpage)] } }
    if (s.dieMisses core).length < 32 then s1.send (.atsRequest (s.stream tn) vpage) else s1
  else s

/-- A request has been answered: the earliest miss of the die that waits leaves now (R290). -/
def State.askedDone (s : State) (tn : BitVec 4) (core : BitVec 10) (vpage : Nat) : State :=
  let s1 : State := { s with net := { s.net with ats := s.net.ats.filter (fun q => q != (tn, core, vpage)) } }
  match (s.dieMisses core)[32]? with
  | some q => s1.send (.atsRequest (s.stream q.1) q.2.2)
  | none => s1

/-- An access has taken the completion that gave its page no translation: a later access sends a request of its own. -/
def State.forget (s : State) (tn : BitVec 4) (core : BitVec 10) (va : Nat) : State :=
  let t := s.tenant tn
  if t.refused.contains (core, va / 4096) then
    s.setTenant tn { t with refused := t.refused.filter (fun q => q != (core, va / 4096)) }
  else s

/-- The core from which the device itself reaches a tenant's memory: core 0 of the first cluster of its rectangle. -/
def State.baseCore (s : State) (tn : BitVec 4) : BitVec 10 := coreOf ((s.tenant tn).rect.clusters.headD 0) 0

/-- The page for whose translation an access would wait. -/
def State.pageMissing (s : State) (tn : BitVec 4) (core : BitVec 10) (k : Acc) (va : Nat) : Option Nat :=
  match s.translate tn core k va with
  | .error (.ats v) => some v
  | _ => none

/-- An access of the device's own to a tenant's address has to wait: its page is not known, its region drains, or its line is
held. -/
def State.mustWait (s : State) (tn : BitVec 4) (k : Acc) (va : Nat) : Bool :=
  match s.translate tn (s.baseCore tn) k va with
  | .error (.ats _) => true
  | .error (.park (.drain _)) => true
  | .error _ => false
  | .ok pa => s.blocked none (lineOf pa)

/-- What such a wait does: a page that is not known is asked for. -/
def State.askAddr (s : State) (tn : BitVec 4) (core : BitVec 10) (k : Acc) (va : Nat) : State :=
  match s.pageMissing tn core k va with
  | some v => s.askPage tn core v
  | none => s

/-- What an engine, or the home of a line, does about an access for a thread that has to wait: it asks the host for the
translation, or for the page, once (R290, R291). -/
def State.askFor (s : State) (id : ThreadId) (core : BitVec 10) : Stop → State
  | .ats v => s.askPage id.tenant core v
  | .park (.pri v _) =>
    let t := s.tenant id.tenant
    if t.priWait.contains (id.rank, v) then s
    else (s.setTenant id.tenant { t with priWait := t.priWait ++ [(id.rank, v)] }).send (.priRequest (s.stream id.tenant) v)
  | _ => s

/-- A fault of an engine's access, or of an access at its home, is taken: what the host answered for it is used up (R291). -/
def State.tookFault (s : State) (id : ThreadId) (core : BitVec 10) (f : Flt) : State :=
  let v := f.addr.toNat % 2 ^ 57
  let s1 := s.forget id.tenant core v
  let t := s1.tenant id.tenant
  if t.priNo.contains (id.rank, v / 4096) then
    s1.setTenant id.tenant { t with priNo := t.priNo.filter (fun q => q != (id.rank, v / 4096)) }
  else s1

/-! ## Records (R299, R300, R330) -/

/-- The eight words of a record as it is written (R300). -/
def Record.words (r : Record) (gen : BitVec 4) (drop : Nat) : List Word :=
  [r.kind ++ r.origin ++ r.tn ++ r.rank ++ gen ++ BitVec.ofNat 12 drop ++ 0#7 ++ 1#1,
   r.rpc, r.raddr, r.reng, r.rseq, r.rpos, r.rtile, r.rdet]

/-- The bytes of words, each little-endian (R3). -/
def wordsBytes (ws : List Word) : List Byte := ws.flatMap (fun w => (List.range 8).map (byteOf w))

/-- A doubleword of a list of bytes, little-endian; bytes past the end read zero (R3). -/
def bytesWord (bs : List Byte) (i : Nat) : Word :=
  (List.range 8).foldl (fun w k => w ||| ((bs.getD (8 * i + k) 0).setWidth 64 <<< (8 * k))) 0

/-- An MSI-X message of a head's vector, or its pending bit while the vector is masked (R322). -/
def State.sendMsix (s : State) (h : BitVec 1) (v : BitVec 6) : State :=
  let k := s.head h
  if (tget (0, 0x100000000) k.msix v.toNat).2.getLsbD 32 then s.setHead h { k with pba := k.pba ||| (1 <<< v.toNat) }
  else { s with hub := { s.hub with out := s.hub.out ++ [.msix h v] } }


/-- The line a record may be written to: its address and, unless its region drains, where it lies (R299). -/
def State.target (s : State) (tn : BitVec 4) (core : BitVec 10) (line : Word) : Option (Word × Option Nat) :=
  if line = 0 then none
  else
    match s.translate tn core .write (va57 line) with
    | .ok pa => if isDevice pa || isHost pa then some (line, some pa) else none
    | .error (.park (.drain _)) => some (line, none)
    | .error (.ats _) => some (line, none)
    | .error _ => none

/-- The dropped count of a line. -/
def Tenant.drops (t : Tenant) (line : Word) : Nat :=
  match t.dropped.find? (fun p => p.1 == line) with
  | some p => p.2
  | none => 0

/-- Sets the dropped count of a line. -/
def Tenant.setDrops (t : Tenant) (line : Word) (n : Nat) : Tenant :=
  let rest := t.dropped.filter (fun p => p.1 != line)
  { t with dropped := if n = 0 then rest else (line, n) :: rest }

/-- The pending store of a tenant has a place left; the reports held for the host stand in it too (R299, R330). -/
def Tenant.storeRoom (t : Tenant) : Bool := decide (t.pending.length + t.reports.length < Config.pendingStore)

/-- One more record of a line is dropped; the count saturates. -/
def Tenant.countDrop (t : Tenant) (line : Word) : Tenant := t.setDrops line (min 4095 (t.drops line + 1))

/-- A record goes to its tenant's pending store, or is counted as dropped. -/
def State.storeRecord (s : State) (h : Held) : State :=
  let t := s.tenant h.body.tn
  s.setTenant h.body.tn (if t.storeRoom then { t with pending := t.pending ++ [h] } else t.countDrop h.line)

/-- Holds a record for its line: with the thread, or in the tenant's pending store. -/
def State.holdRecord (s : State) (who : Option ThreadId) (line : Word) (r : Record) : State :=
  match who with
  | some id => s.upd id (fun t => { t with records := t.records ++ [⟨line, r, s.cyc⟩] })
  | none => s.storeRecord ⟨line, r, s.cyc⟩

/-- The name under which the dropped count of a report line is kept: no fault line has it. -/
def reportKey (pa : Nat) : Word := BitVec.ofNat 64 pa ||| (1#64 <<< 63)

/-- A report for the host is held in the tenant's pending store, or dropped (R330). -/
def State.holdReport (s : State) (line : Nat) (r : Record) : State :=
  let t := s.tenant r.tn
  s.setTenant r.tn (if t.storeRoom then { t with reports := t.reports ++ [r] } else t.countDrop (reportKey line))

/-- An address in the memory of a lost host (R317). -/
def State.hostGone (s : State) (pa : Nat) : Bool := isHost pa && (s.head (hostOf pa)).lost

/-- A report to the host: a copy of the record on the report line of the queue that started the tenant's first launch,
held while that line is full; nothing leaves for a lost host (R330, R317). -/
def State.report (s : State) (r : Record) : State :=
  let t := s.tenant r.tn
  match t.firstQueue with
  | none => s
  | some q =>
    let k := s.queue q
    if k.lost || k.repLine = 0 || s.hostGone k.repLine then s
    else if s.blocked none (lineOf k.repLine) then s.holdReport k.repLine r
    else
      let s1 := s.combineLine none (lineOf k.repLine)
      if (s1.readN k.repLine 8).getLsbD 0 then s1.holdReport k.repLine r
      else
        let s2 := s1.setTenant r.tn ((s1.tenant r.tn).setDrops (reportKey k.repLine) 0)
        (s2.writeEvent none false (cellsFrom k.repLine (wordsBytes (r.words t.gen (t.drops (reportKey k.repLine)))))).sendMsix
          k.head k.repVec

/-- Writes a record to its line as one event. -/
def State.writeRecord (s : State) (line : Word) (pa : Nat) (r : Record) : State :=
  let t := s.tenant r.tn
  (s.setTenant r.tn (t.setDrops line 0)).writeEvent none false (cellsFrom pa (wordsBytes (r.words t.gen (t.drops line))))

/-- `Deliver` of R299. A line that is held or leased is written once it is free (R158, R162). -/
def State.deliver (s0 : State) (who : Option ThreadId) (core : BitVec 10) (line : Word) (r : Record) : State :=
  let s := (s0.forget r.tn core (va57 line)).forget r.tn core (va57 (s0.tenant r.tn).rootFlta)
  match (s0.target r.tn core line).orElse (fun _ => s0.target r.tn core (s0.tenant r.tn).rootFlta) with
  | none => (s.stopTenant r.tn).report r
  | some (l, none) => (s.askAddr r.tn core .write (va57 l)).holdRecord who l r
  | some (l, some pa) =>
    if s.blocked none (lineOf pa) then s.holdRecord who l r
    else
      let s1 := s.combineLine none (lineOf pa)
      if (s1.readN pa 8).getLsbD 0 then s1.holdRecord who l r else s1.writeRecord l pa r

/-- RENG (R300). -/
def rengWord (kind : BitVec 8) (unit : BitVec 2) (cl : BitVec 7) : Word := kind ++ 0#6 ++ unit ++ 0#41 ++ cl

/-- A record that a device detector writes to the tenant root's line (R299, R302). -/
def State.detector (s : State) (tn : BitVec 4) (kind : BitVec 8) (eng addr seq pos det : Word) : State :=
  s.deliver none (s.baseCore tn) (s.tenant tn).rootFlta ⟨kind, 5, tn, 0, 0, addr, eng, seq, pos, 0, det⟩

/-! ## Watches whose page goes away (R231, R251) -/

/-- What a thread would meet at the page of an armed watch. -/
def State.watchFault (s : State) (t : Thread) (w : Watch) : Option Flt :=
  match s.translate t.id.tenant t.core .read w.va with
  | .error (.flt f) => some f
  | .error (.park (.pri _ f)) => some f
  | _ => none

/-- The watches of a thread whose page is unmapped or forbidden now: each slot with its fault. -/
def State.lostWatches (s : State) (t : Thread) : List (Nat × Flt) :=
  (List.range 4).filterMap (fun i =>
    match t.watches.toList[i]? with
    | some (some w) => (s.watchFault t w).map (fun f => (i, f))
    | _ => none)

/-- A watch whose page has gone is disarmed, a fault record is written, and its thread wakes with CODE 12 (R231, R251). -/
def State.dropWatches (s : State) (t : Thread) : State :=
  match s.lostWatches t with
  | [] => s
  | (i, f) :: l =>
    let m := l.foldl (fun m p => m ||| (1#4 <<< p.1)) (1#4 <<< i)
    let s1 := s.upd t.id (Thread.disarm m)
    let s2 : State := if t.stopped.isSome || !t.inWait then s1 else { s1 with net := { s1.net with wakes := s1.net.wakes ++ [⟨t.id, 12⟩] } }
    ((i, f) :: l).foldl (fun s p => (s.forget t.id.tenant t.core (p.2.addr.toNat % 2 ^ 57)).deliver (some t.id) t.core t.arch.flta
      ⟨p.2.kind, 1, t.id.tenant, t.id.rank, t.arch.pc, p.2.addr, 0, 0, 0, 0, BitVec.ofNat 64 (p.2.detail % 65536)⟩) s2

/-- Pages, regions or hosts of a tenant have changed: its watches are looked at again. -/
def State.checkWatches (s : State) (tn : BitVec 4) : State := (s.ofTenant tn).foldl State.dropWatches s

/-- The translations of the armed watches of a tenant that lie on the pages that `hit` names are asked for again, so that a
watch whose page is gone is found (R231, R251). -/
def State.askWatches (s : State) (tn : BitVec 4) (hit : Nat → Bool) : State :=
  (s.ofTenant tn).foldl (fun s t =>
    (t.watches.toList.filterMap id).foldl (fun s w => if hit (w.va / 4096) then s.askAddr tn t.core .read w.va else s) s) s

end Sys2Proof.Machine
end

