-- ==== Sys2Proof/Machine/Ops.lean ====
section
/-! DEFINITION. The named operations of a thread: what a bundle puts into its chunk (R30, R154), the commit (R155, R165),
the squash (R156 to R160), taking a fault (R303) and the start that returns from one (R278), becoming ready, and how the
two slots of a bundle come together. -/

namespace Sys2Proof.Machine

/-- One step's outcome. -/
abbrev Out := Host.Outcome State Fault Refusal

/-! ## Drays (R165 to R167) -/

/-- The destination of an element that enters a dray of cluster `cl` (R165). One that names a line of another owner faults
without leaving its cluster (R286, log 104). -/
def State.destOf (s : State) (tn : BitVec 4) (cl : BitVec 7) (pa : Nat) : Dest :=
  if isFab pa then
    let m := (pa - fabBase) / 2 ^ 57 % 256
    .remote (BitVec.ofNat 8 m) (Config.farCluster m pa)
  else if (s.region (regionOf pa)).owner != some tn then .cluster cl
  else .cluster (clusterOf (s.homeCore pa))

/-- A dray leaves as one packet. -/
def State.packetOf (s : State) (cl : BitVec 7) (d : Dray) : Packet := ⟨d.tn, (s.tenant d.tn).gen, cl, d.dest, d.elems, 0, []⟩

/-- The drays of a cluster that satisfy `p` depart. -/
def State.depart (s : State) (cl : BitVec 7) (p : Dray → Bool) : State :=
  let c := s.cluster cl
  { s.setCluster cl { c with drays := c.drays.filter (fun d => !p d) } with
    net := { s.net with packets := s.net.packets ++ (c.drays.filter p).map (s.packetOf cl) } }

/-- The drays of a cluster that satisfy `p` depart in this cycle, after all elements that enter in it (R167, R354). -/
def State.callDrays (s : State) (cl : BitVec 7) (p : Dray → Bool) : State :=
  let c := s.cluster cl
  s.setCluster cl { c with drays := c.drays.map (fun d => if p d then { d with due := true } else d) }

/-- The drays whose cycle of departure ends leave. -/
def State.sendDrays (s : State) : State := s.clusters.foldl (fun s c => s.depart (BitVec.ofNat 7 c.1) Dray.due) s

/-- Every dray that holds an element of the thread departs. -/
def State.departFor (s : State) (t : Thread) : State :=
  s.callDrays (clusterOf t.core) (fun d => d.elems.any (fun e => e.tid == t.id))

/-- No element enters a cluster's drays any more in this cycle: a dray has left. -/
def State.shutDrays (s : State) (cl : BitVec 7) : State := s.setCluster cl { s.cluster cl with entered := (s.cyc, 8) }

/-- The commit of a core enters its elements: of commits in one cycle in ascending core in cluster, so one out of this order is
of the next cycle (R354). -/
def State.enterTurn (s : State) (core : BitVec 10) : State :=
  let cl := clusterOf core
  let k := coreInCluster core
  let c := s.cluster cl
  let s1 : State := if c.entered.1 = s.cyc ∧ k < c.entered.2 then { s.sendDrays with cyc := s.cyc + 1 } else s
  s1.setCluster cl { s1.cluster cl with entered := (s1.cyc, k) }

/-- The operation of an element, `rst` for a swap. -/
def ElemOp.norm : ElemOp → ElemOp
  | .op .swap => .set
  | o => o

/-- The merge of an entering element with an earlier one of the same address and size (R166). -/
def mergeElem (p e : Elem) : Option Elem :=
  if p.pa = e.pa ∧ p.size = e.size then
    match p.op.norm, e.op.norm with
    | .set, .set => some { p with val := e.val, behind := e.behind }
    | .op .fadd, .op _ => none
    | .op a, .op b =>
      if a = b then some { p with val := amoNew a (if e.size = 8 then .d else .w) p.val e.val, behind := e.behind } else none
    | _, _ => none
  else none

/-- Two elements share a byte. -/
def overlaps (p e : Elem) : Bool := decide (p.pa < e.pa + e.size) && decide (e.pa < p.pa + p.size)

/-- The elements of a dray after `e` enters: it merges with the thread's last element when R166 allows, and else takes a
new position. The list is read from its last element. -/
def enterRev (e : Elem) : List Elem → Option (List Elem)
  | [] => none
  | p :: l =>
    if p.tid = e.tid then (mergeElem p e).map (fun q => q :: l)
    else if overlaps p e then none
    else (enterRev e l).map (fun l => p :: l)

/-- The positions of a dray after `e` enters. -/
def enterElems (l : List Elem) (e : Elem) : List Elem :=
  match enterRev e l.reverse with
  | some r => r.reverse
  | none => l ++ [e]

/-- The dray whose first element entered earliest. -/
def oldestDray : List Dray → Option Dray
  | [] => none
  | d :: l => match oldestDray l with
    | none => some d
    | some e => if d.since ≤ e.since then some d else some e

/-- A dray after `e` enters: with 32 positions it departs (R167). -/
def Dray.take (d : Dray) (e : Elem) : Dray :=
  let l := enterElems d.elems e
  { d with elems := l, due := d.due || decide (Config.packetPositions ≤ l.length) }

/-- An element enters the dray of its destination. A dray whose 32 positions are full when one more is needed in its last cycle
leaves at once, since a packet holds no more (R165 to R167, R354). -/
def State.enterDray (s : State) (cl : BitVec 7) (e0 : Elem) : State :=
  let e : Elem := { e0 with behind := s.net.posted }
  let dest := s.destOf e.tid.tenant cl e.pa
  let mine (d : Dray) : Bool := d.dest == dest && d.tn == e.tid.tenant
  let c := s.cluster cl
  if c.drays.any (fun d => mine d && decide ((enterElems d.elems e).length ≤ Config.packetPositions)) then
    s.setCluster cl { c with drays := c.drays.map (fun d => if mine d then d.take e else d) }
  else
    let s0 := s.depart cl mine
    let s1 :=
      if (s0.cluster cl).drays.length < Config.drayCount then s0
      else
        match oldestDray (s0.cluster cl).drays with
        | some o => s0.depart cl (fun d => d == o)
        | none => s0
    s1.setCluster cl { s1.cluster cl with drays := (s1.cluster cl).drays ++ [⟨e.tid.tenant, dest, s.cyc, [e], false⟩] }

/-! ## A bundle's effect on its chunk -/

/-- What the C slot of a bundle does to its thread's chunk. -/
structure Eff where
  /-- the registers it writes, over the A slot's result (R30) -/
  upd : Arch → Arch
  /-- where control goes, or the next bundle (R33) -/
  npc : Option Word
  /-- the lines read -/
  reads : List Nat
  /-- the stores: virtual address, physical address, bytes and value -/
  stores : List (Nat × Nat × Nat × Word)
  /-- the pages whose translations were used (R292) -/
  pages : List Nat
  radds : List Partial
  elems : List Elem
  /-- of stores that a fault would name otherwise than by their address: its RADDR and RPOS (R300, R302) -/
  spots : List (Nat × Word × Nat)

/-- A bundle that only writes registers. -/
def Eff.regs (upd : Arch → Arch) : Eff := ⟨upd, none, [], [], [], [], [], []⟩

/-- A bundle that does nothing but advance PC. -/
def Eff.none : Eff := .regs id

/-- The address of the next bundle (R33). -/
def nextPc (pc : Word) : Word := addrWord (pc.toNat + 8)

/-- The registers the C slot's results are laid over: the A slot's result, if the bundle has one (R30). -/
def Thread.pending (t : Thread) : Arch :=
  match t.aslot with
  | .done a => a
  | .vec a => a
  | _ => t.arch

/-- A region is open: begun, and not failed (R161). -/
def Thread.inRegion (t : Thread) : Bool :=
  match t.region with
  | some r => r.failed.isNone
  | none => false

/-- STS as it reads: XREG and SOLO stand in bits 19 and 18 (R45). -/
def Thread.stsWord (t : Thread) : Word :=
  t.arch.sts ||| (boolWord t.inRegion <<< 19) ||| (boolWord t.solo.isSome <<< 18)

/-- The cells of the stores of a bundle, first first. -/
def storeCells (l : List (Nat × Nat × Nat × Word)) : List Host.Cell := l.flatMap (fun p => cellsOf p.2.1 p.2.2.1 p.2.2.2)

/-- What a poison fault of a store would name (R184, R300, R302). -/
def Eff.first (e : Eff) (pc : Word) (p : Nat × Nat × Nat × Word) : First :=
  match e.spots.find? (fun q => q.1 == p.1) with
  | some q => ⟨lineOf p.2.1, pc, q.2.1, q.2.2⟩
  | .none => ⟨lineOf p.2.1, pc, addrWord p.1, 0⟩

/-- The first stores of the lines that a bundle adds to a write set (R184). -/
def addFirsts (pc : Word) (f : List First) (e : Eff) : List First :=
  e.stores.foldl (fun f p => if f.any (fun q => q.line == lineOf p.2.1) then f else f ++ [e.first pc p]) f

/-- The registers after a bundle. -/
def Thread.after (t : Thread) (e : Eff) : Arch :=
  { e.upd t.pending with pc := e.npc.getD (nextPc t.arch.pc) }

/-- The chunk after a bundle (R154, R155, R187). -/
def Thread.chunkAfter (t : Thread) (e : Eff) : Chunk :=
  let c := t.chunk
  let firsts := addFirsts t.arch.pc c.firsts e
  { c with
    count := c.count + 1
    reads := laddAll c.reads e.reads
    buf := (storeCells e.stores).foldl (fun b p => tset b p.1 p.2) c.buf
    firsts := firsts
    pages := laddAll c.pages e.pages
    radds := c.radds ++ e.radds
    elems := c.elems ++ e.elems
    ended := c.ended || (!t.inRegion &&
      (decide (c.max ≤ c.count + 1) || t.solo.isSome || decide (Config.chunkLines < firsts.length))) }

/-- The partials of lines that the chunk reads, each line's as its first read found them (R176). -/
def State.sums (s : State) (ls : List Nat) : List Partial :=
  s.thr.chunk.seen ++ s.partials.filter (fun p => ls.contains (lineOf p.pa) && !s.thr.chunk.reads.contains (lineOf p.pa))

/-- The chunk after a bundle, with what its reads have combined. -/
def State.chunkAfter (s : State) (e : Eff) : Chunk := { s.thr.chunkAfter e with seen := s.sums e.reads }

/-- A bundle is performed within its chunk: a store that would bring the write set past 64 lines begins the next chunk
(R154), and a region past its limits fails with capacity (R161). -/
def State.retire (s : State) (e : Eff) : Res State :=
  let t := s.thr
  let c := s.chunkAfter e
  if t.inRegion then
    if decide (Config.regionBundles < c.count) || decide (Config.regionLines < c.lines.length) then .error (.region 2 0)
    else .ok { s with thr := { t with arch := t.after e, chunk := c, aslot := .none } }
  else if decide (Config.chunkLines < c.firsts.length) && t.chunk.count != 0 && !e.stores.isEmpty then .error .split
  else .ok { s with thr := { t with arch := t.after e, chunk := c, aslot := .none } }

/-! ## Commit -/

/-- A partial takes one `radd` more (R176, R195). -/
def addPartial (ps : List Partial) (r : Partial) : List Partial :=
  if ps.any (fun p => p.pa == r.pa && p.core == r.core) then
    ps.map (fun p => if p.pa == r.pa && p.core == r.core then { p with val := partialAdd p.fmt p.val r.val } else p)
  else ps ++ [{ r with val := partialAdd r.fmt (partialZero r.fmt) r.val }]

/-- The thread after its chunk has committed: holds and leases are released and a new chunk begins (R157, R158, R162). -/
def Thread.committed (t : Thread) : Thread :=
  { t with
    chunk := Chunk.fresh t.arch
    region := none
    squashes := 0
    solo := match t.solo with
      | some o => if o.left ≤ 1 then none else some ⟨o.left - 1, 0, [], []⟩
      | none => none }

/-- The lines whose contents the commit of a chunk changes: those it stores to, and those its `radd`s add to (R155, R176). -/
def Chunk.changes (c : Chunk) : List Nat := c.firsts.map (fun f => f.line) ++ c.radds.map (fun p => lineOf p.pa)

/-- The commit would change a line that another thread's solo chunk holds (R157). -/
def State.meetsSolo (s : State) : Bool :=
  s.thr.solo.isNone && s.others.any (fun t => t.live && t.solo.isSome && lmeets t.chunk.lines s.thr.chunk.changes)

/-- The lease of an explicit region has expired (R162). -/
def State.leaseOver (s : State) : Bool :=
  match s.thr.region with
  | some r => r.failed.isNone && (match r.leaseFrom with
    | some c => decide (c + (s.tenant s.thr.id.tenant).leasemax ≤ s.cyc)
    | none => false)
  | none => false

/-- A held chunk, or a leased region, has touched a line it does not hold (R158, R162). -/
def Thread.stray (t : Thread) : Bool :=
  match t.solo, t.region with
  | some o, _ => decide (2 ≤ o.others) && !t.chunk.lines.all o.held.contains
  | none, _ => false

/-- A line of the read set holds a partial that a `radd` committed since the load has added or changed (R176). -/
def State.staleSum (s : State) : Bool :=
  s.partials.any (fun p => s.thr.chunk.reads.contains (lineOf p.pa)
    && !s.thr.chunk.seen.any (fun q => { q with atHome := p.atHome } == p))

/-- The first store, in program order, to a poisoned line that the chunk does not cover (R184). -/
def State.poisonedStore (s : State) : Option Flt :=
  match s.thr.chunk.firsts.find? (fun f => (s.poisonOf (64 * f.line)).isSome && !coversLine s.thr.chunk.buf f.line) with
  | some f => some ⟨0x05, ((s.poisonOf (64 * f.line)).getD 0).toNat, f.addr, f.pos, 0, some f.pc⟩
  | none => none

/-- The device's copy of the root's FLTA follows the word (R269). -/
def State.copyRoot (s : State) : State :=
  if s.thr.id.rank = 0 then
    s.setTenant s.thr.id.tenant { s.tenant s.thr.id.tenant with rootFlta := s.thr.arch.flta }
  else s

/-- The crew of a thread. -/
def Thread.crewKey (t : Thread) : BitVec 4 × Nat × Nat := (t.id.tenant, t.lid, t.crew)

/-- A thread that has committed a chunk waits for its cluster's loom no more (R112). -/
def State.leaveLine (s : State) (t : Thread) : State :=
  let k := s.cluster (clusterOf t.core)
  if k.loom.waiting.any (fun w => w.1 == t.id) then
    s.setCluster (clusterOf t.core) { k with loom := { k.loom with waiting := k.loom.waiting.filter (fun w => w.1 != t.id) } }
  else s

/-- A false conflict of two chunks' signatures: open chunks that the commit of `t` squashes though it wrote none of their lines
(R155); a solo chunk is never squashed by the commit of one that is not solo (R157), nor a held chunk by any (R158). -/
def Thread.mistaken (t : Thread) (f : Nat) (u : Thread) : Thread :=
  let open_ : Bool := match u.solo with
    | some o => t.solo.isSome && decide (o.others < 2)
    | none => true
  if u.live && u.id != t.id && !u.chunk.conflict && !u.chunk.lines.isEmpty && open_
      && Config.falseConflict f (u.id.rank.toNat + 2 ^ 24 * u.id.tenant.toNat) then
    { u with chunk := { u.chunk with conflict := true, byChunk := true } }
  else u

/-- The commit of a chunk with stores may meet others in their signatures (R155). -/
def State.mistakes (s : State) (t : Thread) : State :=
  { s.updAll (t.mistaken s.free) with free := s.free + 1 }

/-- What the commit event does: the lines read are combined, the stores are written, and the `radd`s and dray elements enter
(R155, R165, R176). -/
def State.commitNow (s : State) : State :=
  let t := s.thr
  let c := t.chunk
  let s0 := if c.elems.isEmpty then s else s.enterTurn t.core
  let s1 := ({ s0 with thr := t.committed } : State).combineAll (some t.id) c.reads
  let s2 := if c.buf.isEmpty then s1
    else ((s1.writeEvent (some t.id) true c.buf).storeD t.core (c.firsts.map (fun f => f.line))).mistakes t
  let s3 : State := { s2 with partials := c.radds.foldl addPartial s2.partials }
  ((c.elems.foldl (fun s e => s.enterDray (clusterOf t.core) e) s3).leaveLine t).copyRoot

/-- The commit of the open chunk (R155), with the checks that stop it. -/
def State.commit (s : State) : Res State :=
  if s.thr.chunk.conflict || s.meetsSolo || s.thr.stray || s.staleSum then .error .conflict
  else if s.leaseOver then .error (.region 5 0)
  else
    match s.poisonedStore with
    | some f => .error (.flt f)
    | none =>
      match (s.thr.chunk.lines ++ s.thr.chunk.changes).find? (s.blocked (some s.thr.id)) with
      | some l => .error (.wait l)
      | none => .ok s.commitNow

/-! ## Squash by a conflict (R157, R158, R160) -/

/-- A conflict squash: a region goes to its next attempt or falls through after the third; a chunk goes solo after four,
and a solo chunk is held after two by events that are no commits. The extent of a chunk whose last bundle is not known when the
conflict is found is taken to end with the bundle that was to run next (R157, log 99). -/
def Thread.conflictSquash (t : Thread) : Thread :=
  let c := t.chunk
  let base := { t with arch := c.start, chunk := Chunk.fresh c.start, aslot := .none }
  let plain : Thread :=
    match t.solo with
    | some o =>
      if 2 ≤ o.others then { base with solo := some { o with want := lsort (laddAll o.want c.lines), held := [] } }
      else if c.byChunk then { base with solo := some { o with others := 0, want := [] } }
      else { base with solo := some { o with others := o.others + 1, want := lsort (laddAll o.want c.lines) } }
    | none =>
      if 4 ≤ t.squashes + 1 then
        { base with squashes := 0, solo := some ⟨if c.ended then c.count else c.count + 1, 0, [], []⟩ }
      else { base with squashes := t.squashes + 1 }
  match t.region with
  | some r =>
    if r.failed.isSome then { plain with region := some { r with scanned := false } }
    else if r.attempt < 3 then
      { base with region := some ⟨r.attempt + 1, lsort (laddAll r.touched c.lines), [], none, none, false⟩ }
    else { base with region := some { r with leases := [], leaseFrom := none, failed := some (1, 0) } }
  | none => plain

/-- The open chunk of the thread that issues is squashed by a conflict. -/
def State.squashConflict (s : State) : State := { s with thr := s.thr.conflictSquash }

/-- An explicit region fails and is to fall through (R163). -/
def Thread.failRegion (code xcode : Nat) (t : Thread) : Thread :=
  { t with
    arch := t.chunk.start
    chunk := Chunk.fresh t.chunk.start
    aslot := .none
    region := t.region.map (fun r => { r with leases := [], leaseFrom := none, failed := some (code, xcode) }) }

/-! ## Faults (R181, R303) -/

/-- RDET (R300). -/
def rdetWord (detail widx cdet : Nat) : Word :=
  BitVec.ofNat 64 (detail % 65536 + 65536 * (widx % 2) + 2 ^ 24 * (cdet % 256))

/-- The record of a thread's fault (R300, R302). -/
def Thread.record (t : Thread) (origin : BitVec 4) (pc : Word) (f : Flt) : Record :=
  ⟨f.kind, origin, t.id.tenant, t.id.rank, pc, f.addr, 0, 0, BitVec.ofNat 64 f.pos, 0, rdetWord f.detail f.widx 0⟩

/-- TAKING A FAULT found at issue: the chunk is squashed, the thread stops and the record is delivered (R303). A chunk
that has met a conflict is squashed by that instead. -/
def State.raise (s : State) (f : Flt) : State :=
  if s.thr.chunk.conflict then s.squashConflict
  else
    let t := s.thr
    let s1 : State := { s with thr := { t.squash with stopped := some .fault, since := s.cyc } }
    s1.deliver (some t.id) t.core t.chunk.start.flta (t.record 0 (f.pc.getD t.arch.pc) f)

/-- A thread stops between two chunks; the operand buffer is dropped (R101). -/
def Thread.halt (cause : StopCause) (now : Nat) (t : Thread) : Thread :=
  { t with stopped := some cause, since := now, arch := { t.arch with hold := [] } }

/-- Taking a fault found at the home after the commit: the committed chunk stands and the thread stops (R303). -/
def State.faultAfter (s : State) (id : ThreadId) (origin : BitVec 4) (pc : Word) (f : Flt) : State :=
  match s.find id with
  | none => s
  | some t =>
    ((s.upd id (Thread.halt .fault s.cyc)).tookFault id t.core f).deliver (some id) t.core t.arch.flta (t.record origin pc f)

/-- A fault that the home of an access other than an `amo` or a `cas` finds after the commit: it is reported by record, and
the thread is not stopped (R181, R301, log 111). -/
def State.homeRecord (s : State) (id : ThreadId) (pc : Word) (f : Flt) : State :=
  match s.find id with
  | none => s
  | some t => (s.tookFault id t.core f).deliver (some id) t.core t.arch.flta (t.record 1 pc f)

/-- The order of R181 in which one of several faults is raised. -/
def faultRank (kind : BitVec 8) : Nat :=
  match kind.toNat with
  | 0x01 => 1
  | 0x08 => 2
  | 0x06 => 3
  | 0x02 => 4
  | 0x07 => 5
  | 0x03 => 7
  | 0x04 => 8
  | 0x05 => 9
  | _ => 6

/-- Which of the faults of the two slots is raised (R41, R181). -/
def firstFault (c a : Flt) : Flt :=
  if c.kind = 1 ∧ a.kind = 1 ∧ c.detail = 5 then a
  else if faultRank c.kind ≤ faultRank a.kind then c
  else a

/-! ## Waiting and becoming ready -/

/-- WHY (R47). -/
def whyWord (deg : Bool) (wset : BitVec 4) (code : Nat) : BitVec 13 := BitVec.ofBool deg ++ wset ++ BitVec.ofNat 8 code

/-- Changes the registers of a thread that stands between two chunks. -/
def Thread.between (f : Arch → Arch) (t : Thread) : Thread :=
  { t with arch := f t.arch, chunk := Chunk.fresh (f t.arch) }

/-- The thread becomes ready; a docket becomes woken (R220). -/
def Thread.ready (now : Nat) (f : Arch → Arch) (t : Thread) : Thread :=
  { t.between f with
    run := .ready
    waits := 0
    woken := match t.place with
      | .slot _ _ => none
      | _ => some (t.woken.getD now) }

/-- The thread becomes ready with a wake code (R231). -/
def Thread.readyCode (now code : Nat) (f : Arch → Arch) (t : Thread) : Thread :=
  t.ready now (fun a => { f a with why := whyWord false 0 code })

/-- A latched watch has been degraded (R229). -/
def Thread.degraded (t : Thread) : Bool :=
  (List.range 4).any (fun i => t.latch.getLsbD i && (match t.watches.toList[i]? with
    | some (some w) => w.deg
    | _ => false))

/-- The code with which a fired latch, or a watch that was disarmed, ends a wait (R229, R231). THE MODEL'S CHOICE (log 110): a
watch disarmed in the wait (12) goes before a latch that the host's taking of a line set (10), and that before any other (1). -/
def Thread.fireCode (t : Thread) : Nat := if t.lost then 12 else if t.latch &&& t.took = 0 then 1 else 10

/-- A wait has nothing to end it: no latch is set, and no watch was disarmed in it. -/
def Thread.unfired (t : Thread) : Bool := t.latch == 0 && !t.lost

/-- A `wait` or `xchg` returns: WHY is set and copied to xD, and every latch is cleared (R253). -/
def Thread.waitReturn (now code : Nat) (d : BitVec 5) (t : Thread) : Thread :=
  let w := whyWord t.degraded t.latch code
  { t.ready now (fun a => { a.setX d (w.setWidth 64) with why := w }) with latch := 0, took := 0, lost := false }

/-- Parks a thread after its chunk's commit (R220); the operand buffer is dropped (R101). -/
def Thread.park (now : Nat) (p : Park) (t : Thread) : Thread :=
  { t with arch := { t.arch with hold := [] }, run := .parked p, waits := 0, since := now }

/-- The thread that issues parks. -/
def State.park (s : State) (p : Park) : State := { s with thr := s.thr.park s.cyc p }

/-- RETURNING FROM A FAULT, `brk` or a stop: what a start does to a stopped thread, by what it was doing (R84, R278); a docket
is woken (R220, R279). -/
def Thread.start (now : Nat) (t : Thread) : Thread :=
  let u := { t with stopped := none }
  match t.run with
  | .parked (.wait d _) => u.waitReturn now 8 d
  | .parked (.xchg d) => u.waitReturn now 8 d
  | .parked (.over d v code) => u.readyCode now code (fun a => a.setX d v)
  | .parked _ => { u with since := now, woken := match t.place with | .slot _ _ => none | _ => some now }
  | .ready =>
    if t.stopped = some .brk then u.readyCode now 8 (fun a => { a with pc := nextPc a.pc })
    else u.readyCode now 8 (fun a => a)
  | .retained => u
  | .halted => u

/-- The wake that lets a started thread check its wait again (R278). -/
def Thread.recheck (t : Thread) : List Wake :=
  match t.run with
  | .parked (.queue _ _ _) => [⟨t.id, 3⟩]
  | .parked (.bar _ _ _ _ _ _) => [⟨t.id, 4⟩]
  | .parked .pwait => [⟨t.id, 6⟩]
  | .parked (.fence _ _ _) => [⟨t.id, 7⟩]
  | .parked (.loom _ _) => [⟨t.id, 9⟩]
  | .parked (.drain _) => [⟨t.id, 11⟩]
  | _ => []

/-- Starts a stopped thread (R278). -/
def State.startThread (s : State) (id : ThreadId) : State :=
  match s.find id with
  | none => s
  | some t =>
    let s1 := s.upd id (Thread.start s.cyc)
    { s1 with net := { s1.net with wakes := s1.net.wakes ++ t.recheck } }

/-! ## The two slots of a bundle (R30) -/

/-- A thread that parks for the loom's context stands in the line for it (R112). -/
def State.queueForLoom (s : State) : Park → State
  | .loom cl false =>
    let k := s.cluster cl
    if k.loom.waiting.any (fun w => w.1 == s.thr.id) then s
    else s.setCluster cl { k with loom := { k.loom with waiting := k.loom.waiting ++ [(s.thr.id, s.thr.crewKey)] } }
  | _ => s

/-- A PRI response that a thread waits for carries the bundle concerned. -/
def Park.at_ (pc : Word) : Park → Park
  | .pri v f => .pri v { f with pc := some (f.pc.getD pc) }
  | p => p

/-- A PRI Page Request leaves the device when a thread parks for its response (R291). -/
def State.askHost (s : State) : Park → State
  | .pri v _ => s.send (.priRequest (s.stream s.thr.id.tenant) v)
  | _ => s

/-- An access that has to wait for a line: a held chunk that does not hold it releases its holds and starts again, to take holds
on every line that it has touched (R158). -/
def Thread.strayed (l : Nat) (t : Thread) : Thread :=
  match t.solo with
  | some o =>
    if 2 ≤ o.others ∧ !o.held.contains l then
      { t with
        arch := t.chunk.start
        chunk := Chunk.fresh t.chunk.start
        aslot := .none
        solo := some { o with want := lsort (laddAll o.want (l :: t.chunk.lines)), held := [] } }
    else { t with aslot := .none }
  | none => { t with aslot := .none }

/-- The next bundle of a thread has to wait: nothing is issued (R341). -/
def Thread.balked (b : Balk) (t : Thread) : Thread := { t with aslot := .none, balk := some b }

/-- What a bundle that cannot be performed does instead. -/
def State.stopFor (s : State) : Stop → State
  | .flt f => s.raise f
  | .park p =>
    let s1 := (s.queueForLoom p).askHost p
    { s1 with thr := s1.thr.squash.park s1.cyc (p.at_ s.thr.arch.pc) }
  | .conflict => s.squashConflict
  | .wait l => { s with thr := (s.thr.strayed l).balked (.line l) }
  | .ats v => { s.askPage s.thr.id.tenant s.thr.core v with thr := s.thr.balked (.page v) }
  | .link m => { s with thr := s.thr.balked (.link m) }
  | .split => { s with thr := { s.thr with chunk := { s.thr.chunk with ended := true } }.balked .split }
  | .region code xcode => { s with thr := s.thr.failRegion code xcode }

/-- The bundle as its C slot ends it, with what the A slot has already come to. -/
def State.settle (s : State) (r : Res State) : State :=
  match s.thr.aslot, r with
  | .fault a, .ok _ => s.raise a
  | .fault a, .error (.flt c) => s.raise (firstFault c a)
  | .fault a, .error (.park _) => s.raise a
  | .fault a, .error (.wait _) => s.raise a
  | .fault a, .error (.ats _) => s.raise a
  | .fault a, .error (.link _) => s.raise a
  | .fault a, .error (.region _ _) => s.raise a
  | _, .ok s' => s'
  | _, .error e => s.stopFor e

/-- A C-slot instruction: its result, settled with the A slot's. -/
def State.runC (s : State) (r : Res State) : Out := .next (s.settle r)

/-- An A-slot instruction: its result is kept for the C slot of its bundle, whose draws come first (R79); alone, it stands
for its pair with `nop`. -/
def State.runSlot (s : State) (k : Arch → ASlot) (f : Nat → Res Arch) : Out :=
  match s.thr.aslot with
  | .awaiting n =>
    match f n with
    | .ok a => .next { s with thr := { s.thr with aslot := k a } }
    | .error (.flt x) => .next { s with thr := { s.thr with aslot := .fault { x with widx := if x.kind = 1 then 1 else 0 } } }
    | .error e => .next (s.stopFor e)
  | _ =>
    match f 0 with
    | .ok a => .next (s.settle (s.retire (.regs (fun _ => a))))
    | .error (.flt x) => .next (s.raise { x with widx := if x.kind = 1 then 1 else 0 })
    | .error e => .next (s.stopFor e)

/-- An A-slot instruction that is no vector instruction. -/
def State.runA (s : State) (f : Nat → Res Arch) : Out := s.runSlot .done f

/-- A vector or mask instruction of the A slot (R101). -/
def State.runV (s : State) (f : Nat → Res Arch) : Out := s.runSlot .vec f

/-- A C-slot instruction that only writes registers. -/
def State.regsC (s : State) (upd : Arch → Arch) : Out := s.runC (s.retire (.regs upd))

/-- The chunk ends with this bundle and commits, and then `k` follows; forbidden in a region (R154, R159, R161). -/
def State.endChunk (s : State) (e : Eff) (k : State → State) : Res State :=
  if s.thr.inRegion then .error (.region 4 0)
  else
    match s.retire e with
    | .error x => .error x
    | .ok s1 =>
      match s1.commit with
      | .error .conflict => .ok { s1 with thr := { s1.thr with chunk := { s1.thr.chunk with ended := true } } }.squashConflict
      | .error x => .error x
      | .ok s2 => .ok (k s2)

/-- A chunk-ending C-slot instruction. -/
def State.endC (s : State) (e : Eff) (k : State → State) : Out := s.runC (s.endChunk e k)

/-- A C-slot instruction that ends its chunk: a region it stands in fails as forbidden (R161). -/
def State.enderC (s : State) (r : Res State) : Out := s.runC (if s.thr.inRegion then .error (.region 4 0) else r)

/-- Checks that come before a result. -/
def State.checked (s : State) (c : Res Unit) (r : Out) : Out :=
  match c with
  | .ok _ => r
  | .error e => .next (s.settle (.error e))

/-- Writes a register of the thread that issues, between two chunks. -/
def State.setReg (s : State) (d : BitVec 5) (v : Word) : State := { s with thr := s.thr.between (fun a => a.setX d v) }

/-- An illegal-instruction fault with a code of R41. -/
def illegal {α : Type} (code widx : Nat) : Res α := .error (.flt ⟨0x01, code, 0, 0, widx, none⟩)

/-- RNGS after `k` draws of the C slot; beside an A slot its result already counts them (R79). -/
def Thread.drawn (t : Thread) (k : Nat) (a : Arch) : Arch :=
  match t.aslot with
  | .done _ => a
  | .vec _ => a
  | _ => { a with rngs := rngSteps k a.rngs }

end Sys2Proof.Machine
end

