-- ==== Sys2Proof/Machine/Operands.lean ====
section
/-! DEFINITION. The operand forms: elements of vector registers under a mask (R99, R100), the effective addresses and
checks of loads and stores (R180 to R184), element addresses of strided, indexed and typed accesses (R188 to R190), scale
windows and block scales (R65 to R67), and draws of the stochastic rounding state (R71). -/

namespace Sys2Proof.Machine

/-! ## Elements and masks -/

/-- Element `i` of width `b` bits (R99). -/
def laneGet (b i : Nat) (v : BitVec 16384) : Word := ((v >>> (b * i)).setWidth b).setWidth 64

/-- Writes element `i` of width `b` bits. -/
def laneSet (b i : Nat) (v : BitVec 16384) (w : Word) : BitVec 16384 :=
  let m : BitVec 16384 := ((BitVec.allOnes b).setWidth 16384) <<< (b * i)
  (v &&& ~~~m) ||| (((w.setWidth b).setWidth 16384) <<< (b * i))

/-- E(ty) for a width of `b` bits (R99). -/
def laneCount (ngrp b : Nat) : Nat := 1024 * ngrp / b

/-- The active elements below `n` in ascending order (R100). -/
def activeLanes (m : BitVec 2048) (n : Nat) : List Nat := (List.range n).filter m.getLsbD

/-- Applies a function that may stop to each entry, first first. -/
def eachOf {α β : Type} (f : α → Res β) : List α → Res (List β)
  | [] => .ok []
  | a :: l =>
    match f a with
    | .error e => .error e
    | .ok b =>
      match eachOf f l with
      | .error e => .error e
      | .ok bs => .ok (b :: bs)

/-- Two entries of the operand buffer at most, the older evicted (R101). -/
def addHold (h : List (BitVec 5 × Nat)) (r : BitVec 5) :
    List (BitVec 5 × Nat) :=
  ((h.filter (fun (p : BitVec 5 × Nat) => p.1 != r) ++ [(r, 2)]).reverse.take 2).reverse

/-- The operand buffer after a bundle with a vector instruction that holds the registers `rs` (R101). -/
def Arch.aged (rs : List (BitVec 5)) (a : Arch) : Arch :=
  { a with hold := rs.foldl addHold ((a.hold.filter (fun p => p.2 != 1)).map (fun p => (p.1, p.2 - 1))) }

/-- A vector instruction of the C slot ages the operand buffer, once for the bundle (R101). -/
def Thread.agedC (t : Thread) (a : Arch) : Arch :=
  match t.aslot with
  | .vec _ => a
  | _ => a.aged []

/-! ## Stochastic rounding draws (R71) -/

/-- A rounding under a mode with the state's bits, and the state after it: SR draws once. -/
def drawRound (f : Fmt) (mode : Mode) (inf : Bool) (r : BitVec 32) (v : Val) : Nat × BitVec 32 :=
  (roundCode f mode (rngZ r) inf v, if mode = .sr then rngStep r else r)

/-! ## Addresses (R180 to R184) -/

/-- The translation of an access of the thread that issues. -/
def State.xlate (s : State) (k : Acc) (va : Nat) : Res Nat := s.translate s.thr.id.tenant s.thr.core k va

/-- A naturally aligned address, or the alignment fault (R184). -/
def aligned (va n : Nat) : Res Unit := if va % n = 0 then .ok () else fault 0x02 0 (addrWord va)

/-- Whether earlier stores of the chunk wrote every one of the bytes (R184). -/
def Chunk.wrote (c : Chunk) (pa n : Nat) : Bool := (List.range n).all (fun i => (tfind c.buf (pa + i)).isSome)

/-- A read of `n` bytes that the chunk makes: poison, unless the chunk stored the bytes, and lines held by others. -/
def State.readable (s : State) (va pa n : Nat) : Res Unit :=
  match s.poisonOf pa with
  | some c => if s.thr.chunk.wrote pa n then .ok () else fault 0x05 c.toNat (addrWord va)
  | none => if s.blocked (some s.thr.id) (lineOf pa) then .error (.wait (lineOf pa)) else .ok ()

/-- A read of `n` aligned bytes that is no `ld`: a page with the I/O attribute and a fabric window refuse it (R182,
R334). -/
def State.readAt (s : State) (va n : Nat) : Res Nat :=
  match aligned va n with
  | .error e => .error e
  | .ok _ =>
    match s.xlate .read va with
    | .error e => .error e
    | .ok pa =>
      if isIo pa || isFab pa then protFault 5 va
      else
        match s.readable va pa n with
        | .error e => .error e
        | .ok _ => .ok pa

/-- A store of `n` aligned bytes that is no `st`. -/
def State.writeAt (s : State) (va n : Nat) : Res Nat :=
  match aligned va n with
  | .error e => .error e
  | .ok _ =>
    match s.xlate .write va with
    | .error e => .error e
    | .ok pa =>
      if isIo pa || isFab pa then protFault 5 va
      else if s.blocked (some s.thr.id) (lineOf pa) then .error (.wait (lineOf pa))
      else .ok pa

/-- Memory as a load of the chunk sees it, with the lines it reads combined; the combine itself is part of the event that
commits the chunk (R155, R176). -/
def State.combined (s : State) (pas : List Nat) : State :=
  { s with mem := memWriteAll s.mem ((lsort (pas.map lineOf)).flatMap s.lineSum) }

/-- `n` bytes as the open chunk reads them. -/
def State.chunkN (s : State) (pa n : Nat) : Word := readLe s.chunkByte pa n

/-! ## Scale windows (R67) -/

/-- log2 of an element's bits. -/
def log2Bits (b : Nat) : Nat := b.log2

/-- The scale address of the element at byte address `a`, with the lowest window that holds it: the two name its block. -/
def scaleAddr (w : Vector Word 8) (blk bits a : Nat) : Option (Nat × Nat) :=
  (List.range 4).findSome? (fun i =>
    let wa := oat w (BitVec.ofNat 3 (2 * i))
    let wb := oat w (BitVec.ofNat 3 (2 * i + 1))
    if wNpg wa ≠ 0 ∧ wBase wa ≤ a ∧ a < wBase wa + wNpg wa * 4096 then
      some (i, (va57 wb + ((a - wBase wa) >>> (blk + log2Bits bits - 3))) % 2 ^ 57)
    else none)

/-- The value of a code with the scale of its block (R65). -/
def scaledVal (f : Fmt) (code : Nat) (scale : Option Byte) : Val :=
  match scale with
  | none => decodeVal f code
  | some s => if s = 0xFF then .nan else (decodeVal f code).scale ((s.toNat : Int) - 127)

/-- Not NaN and not infinite. -/
def Val.finite : Val → Bool
  | .fin _ _ _ => true
  | _ => false

/-- The exponent X of a block of finite values (R66). -/
def blockX (f : Fmt) (vs : List Val) : Int :=
  let tops := (vs.filter (fun v => !v.isZero)).map Val.top
  match tops with
  | [] => 0
  | t :: l => min (max (l.foldl max t - f.emax) (-127)) 127

/-- The codes of a list of values, first first, with the state after their draws. -/
def roundList (f : Fmt) (mode : Mode) : BitVec 32 → List Val → List Nat × BitVec 32
  | r, [] => ([], r)
  | r, v :: l =>
    let (c, r1) := drawRound f mode false r v
    let (cs, r2) := roundList f mode r1 l
    (c :: cs, r2)

/-- `EncodeBlock` of R66: the scale byte, the codes, and the state after the draws. -/
def encodeBlock (f : Fmt) (mode : Mode) (r : BitVec 32) (vs : List Val) : Byte × List Nat × BitVec 32 :=
  if vs.all Val.finite then
    let x := blockX f vs
    let (cs, r') := roundList f mode r (vs.map (Val.scale (-x)))
    (BitVec.ofInt 8 (x + 127), cs, r')
  else (0xFF, vs.map (fun _ => 0), if mode = .sr then rngSteps vs.length r else r)

/-! ## Element addresses -/

/-- One element of an access: its index, where it lies, the nibble for 4-bit elements, its scale byte and scale window. -/
structure ElemAt where
  i : Nat
  va : Nat
  pa : Nat
  high : Bool
  scale : Option (Nat × Nat)
  win : Nat := 0

/-- A fault of element `i`, with the pointer's tag in its address (R300, R302). -/
def atLane {α : Type} (i : Nat) (tag : Word) : Res α → Res α
  | .error (.flt f) => .error (.flt { f with pos := i, addr := f.addr ||| tag })
  | .error (.park (.pri v f)) => .error (.park (.pri v { f with pos := i, addr := f.addr ||| tag }))
  | r => r

/-- The tag of a pointer, in place (R48). -/
def tagBits (p : Word) : Word := p &&& 0xFE00000000000000#64

/-- An untyped element access of `n` bytes at `va`. -/
def State.elemAt (s : State) (k : Acc) (n : Nat) (p : Nat × Nat) : Res ElemAt :=
  match atLane p.1 0 (if k = .write then s.writeAt p.2 n else s.readAt p.2 n) with
  | .error e => .error e
  | .ok pa => .ok { i := p.1, va := p.2, pa := pa, high := false, scale := none }

/-- Bytes of an element of a format, 1 for a nibble. -/
def fmtBytes (f : BitVec 4) : Nat := (fmtBits f + 7) / 8

/-- The byte address of element `j`, counted from `ea`, and whether it is a high nibble (R58, R190). -/
def typedAddr (f : BitVec 4) (ea : Nat) (j : Int) : Nat × Bool :=
  if fmtBits f = 4 then
    let n := ((2 * (ea : Int) + j) % (2 ^ 58 : Int)).toNat
    (n / 2, n % 2 == 1)
  else ((((ea : Int) + j * (fmtBytes f : Int)) % (2 ^ 57 : Int)).toNat, false)

/-- The rank in the order of R181 of what stops an access; a translation that the host is asked for stands in the place of the
fault it may become (R291). -/
def Stop.rank : Stop → Nat
  | .flt f => faultRank f.kind
  | .park (.pri _ f) => faultRank f.kind
  | .ats _ => 7
  | _ => 10

/-- Which of two stops of one element comes first (R181). -/
def firstStop (e g : Stop) : Stop := if g.rank < e.rank then g else e

/-- A typed element access: alignment, scale window, translation of the element and of its scale byte (R67, R181, R190);
`whole` says of a scale window and address whether the access covers their block. -/
def State.typedAt (s : State) (k : Acc) (p : Word) (ea : Nat) (whole : Nat × Nat → Bool) (q : Nat × Int) : Res ElemAt :=
  let f := pFmt p
  let a := typedAddr f ea q.2
  let reach (va n : Nat) : Res Nat := if k = .write then s.writeAt va n else s.readAt va n
  match atLane q.1 (tagBits p) (aligned a.1 (fmtBytes f)) with
  | .error e => .error e
  | .ok _ =>
    if pBlk p = 0 then
      match atLane q.1 (tagBits p) (reach a.1 (fmtBytes f)) with
      | .error e => .error e
      | .ok pa => .ok { i := q.1, va := a.1, pa := pa, high := a.2, scale := none }
    else
      match scaleAddr s.thr.arch.swin (pBlk p).toNat (fmtBits f) a.1 with
      | none => atLane q.1 (tagBits p) (fault 0x07 1 (addrWord a.1))
      | some sa =>
        if !whole sa then atLane q.1 (tagBits p) (fault 0x07 2 (addrWord a.1))
        else
        match atLane q.1 (tagBits p) (reach a.1 (fmtBytes f)), atLane q.1 0 (reach sa.2 1) with
        | .error e, .error g => .error (firstStop e g)
        | .error e, _ => .error e
        | _, .error e => .error e
        | .ok pa, .ok sp => .ok { i := q.1, va := a.1, pa := pa, high := a.2, scale := some (sa.2, sp), win := sa.1 }

/-- The code of an element as the chunk reads it. -/
def State.codeAt (s : State) (f : BitVec 4) (e : ElemAt) : Nat :=
  let w := (s.chunkN e.pa (fmtBytes f)).toNat
  if fmtBits f = 4 then (if e.high then w / 16 % 16 else w % 16) else w

/-- The element's value in its register type, as a code (R65, R68, R190). A NaN of an FP32 or FP64 element comes out canonical,
as a rounding gives it, though R62 lets a load carry a NaN's bits: the spec does not settle which holds (log 105). -/
def State.typedLoad (s : State) (f : BitVec 4) (e : ElemAt) : Word :=
  let v := scaledVal (fmtOf f) (s.codeAt f e) (e.scale.map (fun p => s.chunkByte p.2))
  BitVec.ofNat 64 (roundCode (regTyOf f).fmt .rne 0 false v)

/-- The store of one code; a nibble leaves the other nibble of its byte, as `cur` gives it, unchanged (R190). -/
def codeStore (f : BitVec 4) (e : ElemAt) (cur : Word) (c : Nat) : Nat × Nat × Nat × Word :=
  let v : Nat := if fmtBits f = 4 then (if e.high then cur.toNat % 16 + 16 * c else cur.toNat / 16 * 16 + c) else c
  (e.va, e.pa, fmtBytes f, BitVec.ofNat 64 v)

/-- The stores of a list of codes, first first; a nibble sees the nibbles stored before it. -/
def State.codeStores (s : State) (f : BitVec 4) : Tab Byte → List (ElemAt × Nat) → List (Nat × Nat × Nat × Word)
  | _, [] => []
  | seen, (e, c) :: l =>
    let cur : Byte := match tfind seen e.pa with
      | some b => b
      | none => s.chunkByte e.pa
    let st := codeStore f e (cur.setWidth 64) c
    st :: s.codeStores f (if fmtBits f = 4 then tset seen e.pa (st.2.2.2.setWidth 8) else seen) l

/-- What a poison fault of an element's store names: its address with the pointer's tag, and its index (R300, R302). -/
def spotsOf (tag : Word) (es : List ElemAt) : List (Nat × Word × Nat) :=
  es.flatMap (fun e => (e.va, addrWord e.va ||| tag, e.i) :: (e.scale.map (fun p => (p.1, addrWord p.1, e.i))).toList)

/-- The lines of elements and of their scale bytes. -/
def elemPas (es : List ElemAt) : List Nat := es.flatMap (fun e => e.pa :: (e.scale.map (fun p => p.2)).toList)

/-- The pages of elements and of their scale bytes. -/
def elemPages (es : List ElemAt) : List Nat :=
  laddAll [] (es.flatMap (fun e => e.va / 4096 :: (e.scale.map (fun p => p.1 / 4096)).toList))

end Sys2Proof.Machine
end

