-- ==== Sys2Proof/Machine/Atomics.lean ====
section
/-! DEFINITION. Atomics at the home (R174, R175, R191 to R193) and commutative ranges (R176, R194, R195), with the events
that perform them. -/

namespace Sys2Proof.Machine

/-! ## Atomics -/

/-- The address of an atomic: aligned, writable and readable; an I/O page refuses it, a fabric window does not (R182, R191,
R334). -/
def State.rmwAt (s : State) (va n : Nat) : Res Nat :=
  match aligned va n with
  | .error e => .error e
  | .ok _ =>
    match s.xlate .write va, s.xlate .read va with
    | .error e, _ => .error e
    | _, .error e => .error e
    | .ok pa, .ok _ => if isIo pa then protFault 5 va else .ok pa

/-- The chunk commits and the thread waits for an event of its own. -/
def State.ask (p : Post) (s : State) : State := { s with thr := { s.thr with post := some p } }

/-- An atomic's chunk: its address is checked, the chunk commits, and `k` asks for the event; one whose result the thread waits
for is sent to another module at once, and waits for a link that carries it (R332). -/
def State.atomicC (s : State) (a : BitVec 5) (z : AmoSize) (result : Bool) (k : Nat → Nat → State → State) : Out :=
  let va := effAddr (s.thr.arch.getX a) 0
  s.enderC (match s.rmwAt va (amoBytes z) with
    | .error e => .error e
    | .ok pa =>
      if result && isFab pa && !s.carries (farModuleOf pa) then .error (.link (farModuleOf pa))
      else s.endChunk { Eff.none with pages := [va / 4096] } (k va pa))

/-- An atomic for another module leaves as a request (R334). -/
def State.sendAtomic (tn : BitVec 4) (pa : Nat) (op : Option AmoOp) (z : AmoSize) (expect new : Word) (s : State) : State :=
  if isFab pa then s.send (.fabAtomic (s.colour tn) pa op z expect new) else s

/-- `amo` (R191): performed at the home after the commit. -/
def execAmo (op : AmoOp) (z : AmoSize) (d a b : BitVec 5) (s : State) : Out :=
  let v := amoCut z (s.thr.arch.getX b)
  s.atomicC a z true (fun va pa s1 =>
    (s1.ask (.amo op z d va pa v s.thr.arch.pc)).sendAtomic s1.thr.id.tenant pa (some op) z 0 v)

/-- `cas` (R192): xD holds the expected value. -/
def execCas (z : AmoSize) (d a b : BitVec 5) (s : State) : Out :=
  let v := amoCut z (s.thr.arch.getX b)
  let e := amoCut z (s.thr.arch.getX d)
  s.atomicC a z true (fun va pa s1 =>
    (s1.ask (.cas z d va pa e v s.thr.arch.pc)).sendAtomic s1.thr.id.tenant pa none z e v)

/-- The commit of an `amop` posts it to its home's write queue (R193). -/
def State.postAmop (a : Amop) (s : State) : State :=
  { s with net := { s.net with amops := s.net.amops ++ [{ a with seq := s.net.posted }], posted := s.net.posted + 1 } }

/-- `amop` (R193). -/
def execAmop (op : AmoOp) (z : AmoSize) (a b : BitVec 5) (s : State) : Out :=
  let v := amoCut z (s.thr.arch.getX b)
  s.atomicC a z false (fun va pa s1 => s1.postAmop ⟨s1.thr.id, s1.thr.lid, s1.thr.arch.flta, op, z, va, pa, v, 0⟩)

/-- A read-modify-write event: the line is combined first; `f` of the old value is written, or nothing (R174, R176). -/
def State.rmw (s : State) (src : Option ThreadId) (pa n : Nat) (f : Word → Option Word) : State × Word :=
  let s1 := s.combineLine src (lineOf pa)
  let old := s1.readN pa n
  match f old with
  | none => (s1, old)
  | some v => (s1.writeEvent src false (cellsOf pa n v), old)

/-- The atomic a thread's committed chunk asks for: size, destination, addresses, PC, new value, sign of the result. -/
def Post.atomic : Post → Option (AmoSize × BitVec 5 × Nat × Nat × Word × (Word → Option Word) × Bool)
  | .amo op z d va pa v pc => some (z, d, va, pa, pc, (fun old => some (amoNew op z old v)), op == .fadd)
  | .cas z d va pa e v pc => some (z, d, va, pa, pc, (fun old => if old = e then some v else none), false)
  | _ => none

/-- A thread's post-commit event has been performed. -/
def State.posted (s : State) (id : ThreadId) : State := s.upd id (fun t => { t with post := none })

/-- An `amo` or a `cas` can be performed at its home now, or finds its region draining; its thread is not yet parked for that. -/
def State.canAmo (s : State) (id : ThreadId) : Bool :=
  match s.find id with
  | some t =>
    match t.post.bind Post.atomic with
    | some (_, _, _, pa, _) => !isFab pa && t.run == .ready && !s.blocked (some id) (lineOf pa)
    | none => false
  | none => false

/-- AMO_PERFORM (R174, R191, R192, R303): one event at the home; a poisoned line raises the poison fault after the commit
and xD is not written. -/
def execAmoPerform (id : ThreadId) (s : State) : Out :=
  if !s.canAmo id then .next s
  else
    match (s.find id).bind (fun t => t.post.bind Post.atomic) with
    | none => .next s
    | some (z, d, va, pa, pc, f, fp) =>
      -- it reaches its region during a drain: the thread parks, and the atomic is performed after (R309)
      if s.draining pa then .next (s.upd id (Thread.park s.cyc (.drain (regionOf pa))))
      else
      let s1 := s.posted id
      match s1.homePoison id.tenant pa with
      | some c => .next (s1.faultAfter id 1 pc ⟨0x05, c.toNat, addrWord va, 0, 0, none⟩)
      | none =>
        let r := s1.rmw (some id) pa (amoBytes z) f
        .next (r.1.upd id (Thread.between (fun a => a.setX d (amoOld z fp r.2))))

/-- A dray-fault record for a rank: the faulting positions as a bitmap, with the cause of the lowest (R170, R193, R302). -/
def State.drayRecord (s : State) (id : ThreadId) (flta : Word) (core : BitVec 10) (eng : Word) (va : Nat) (bits : Word)
    (kind : BitVec 8) (detail : Nat) : State :=
  s.deliver none core flta ⟨0x12, 4, id.tenant, id.rank, 0, addrWord va, eng, 0, bits, 0, rdetWord kind.toNat 0 detail⟩

/-- A fault that the home finds for a posted operation: a line of another tenant, or poison (R170, R301, R306). -/
def State.homeFault (s : State) (tn : BitVec 4) (pa : Nat) : Option (BitVec 8 × Nat) :=
  if isDevice pa && (s.region (regionOf pa)).owner != some tn then some (0x04, 6)
  else (s.poisonOf pa).map (fun c => (0x05, c.toNat))

/-- An `amop` can be performed now: it is granted, or a link carries it to its module (R332), and no earlier one of its thread
waits for the same line (R174). -/
def State.canAmop (s : State) (n : Nat) : Bool :=
  match s.net.amops[n]? with
  | some a => (if isFab a.pa then s.carries (farModuleOf a.pa) else (!s.draining a.pa && s.threads.all (fun t => !t.live || t.id == a.id || !t.owns.contains (lineOf a.pa))))
      && (s.net.amops.take n).all (fun b => b.id != a.id || lineOf b.pa != lineOf a.pa)
  | none => false

/-- No earlier posted atomic of the element's thread is pending for its line (R174). -/
def State.clearOf (s : State) (e : Elem) : Bool :=
  !(s.net.amops ++ s.net.awayAmops).any (fun a => a.id == e.tid && lineOf a.pa == lineOf e.pa && decide (a.seq < e.behind))

/-- The next element of a packet can be applied: the packet is the oldest of its dray, and its line is free, or a link
carries it to its module (R158, R162, R168, R174, R309, R332). -/
def State.canApply (s : State) (n : Nat) : Bool :=
  match s.net.packets[n]? with
  | none => false
  | some p =>
    (s.net.packets.take n).all (fun q => q.tn != p.tn || q.src != p.src || q.dest != p.dest) &&
      match p.dest, p.elems[p.pos]? with
      | .cluster _, some e => s.granted none e.pa && s.clearOf e
      | .cluster _, none => true
      | .remote m _, _ => s.carries m && p.elems.all s.clearOf

/-! ### The write queue of a line (R174)

An addend that is pending at the write queue is named by a number: that of an `amop`, or, past those, of a packet whose next
element is a `ramo`. The elements of a packet that are pending together are its next ones, to one word: each time the number of
the packet is taken, it stands for one more of them. -/

/-- The pending `amop`s that can be merged after those in `taken`: of one operation, size and word, with no earlier operation of
their thread on the line still pending. -/
def State.amopAddends (s : State) (tn : BitVec 4) (z : AmoSize) (pa : Nat) (taken : List Nat) : List (Nat × Word) :=
  (s.net.amops.zipIdx.filter (fun p =>
    p.1.id.tenant == tn && p.1.op == .fadd && p.1.z == z && p.1.pa == pa && !taken.contains p.2
      && (s.net.amops.take p.2).zipIdx.all (fun q => q.1.id != p.1.id || lineOf q.1.pa != lineOf pa || taken.contains q.2))).map
    (fun p => (p.2, p.1.val))

/-- The same of packets. -/
def State.ramoAddends (s : State) (tn : BitVec 4) (z : AmoSize) (pa : Nat) (taken : List Nat) : List (Nat × Word) :=
  s.net.packets.zipIdx.filterMap (fun p =>
    let k := s.net.amops.length + p.2
    match p.1.dest, p.1.elems[p.1.pos + taken.count k]? with
    | .cluster _, some e =>
      if p.1.tn == tn && e.op == .op .fadd && e.size == amoBytes z && e.pa == pa && s.clearOf e && s.canApply p.2 then some (k, e.val)
      else none
    | _, _ => none)

/-- A host line that some core's cache holds (R175). -/
def State.deviceHolds (s : State) (line : Nat) : Bool := s.cores.any (fun p => p.2.l1d.contains line)

/-- Addends that merge, one after the other, with those in `taken`, whose sum so far is `v`: which are pending together, and in
what order they have arrived, the spec leaves open (R174, log 8). An `amop` on a host line that the device does not hold is an
operation of its own (R175). -/
def State.mergeFrom (s : State) (tn : BitVec 4) (z : AmoSize) (pa : Nat) : Nat → List Nat → Word → List Nat × Word
  | 0, taken, v => (taken, v)
  | fuel + 1, taken, v =>
    let l := if isHost pa && !s.deviceHolds (lineOf pa) then [] else s.amopAddends tn z pa taken ++ s.ramoAddends tn z pa taken
    match l[Config.mergePick (s.free + fuel) % (l.length + 1)]? with
    | none => (taken, v)
    | some (k, w) => s.mergeFrom tn z pa fuel (taken ++ [k]) (amoNew .fadd z v w)

/-- The free values that a merge may take: one for each addend there may be. -/
def State.mergeDraws (s : State) : Nat := s.net.amops.length + Config.packetPositions * s.net.packets.length

/-- The addends merged with one that is performed, and their sum; only floating-point addition is affected, since integer
operations merge exactly (R174). -/
def State.merged (s : State) (tn : BitVec 4) (op : AmoOp) (z : AmoSize) (pa k : Nat) (v : Word) : List Nat × Word :=
  if op = .fadd then s.mergeFrom tn z pa s.mergeDraws [k] v else ([k], v)

/-- The dray-fault record of one rank (R170, R302). -/
def State.rankRecord (p : Packet) (s : State) (id : ThreadId) : State :=
  let mine := p.bad.filter (fun b => ((p.elems[b.1]?).map (fun e => e.tid == id)).getD false)
  match mine with
  | [] => s
  | b :: _ =>
    match p.elems[b.1]? with
    | none => s
    | some e =>
      let bits := mine.foldl (fun w q => w ||| (1#64 <<< q.1)) 0
      s.drayRecord id e.flta (coreOf p.src 0) (rengWord 3 0 p.src) e.va bits b.2.1 b.2.2

/-- The ranks with faulting elements, lowest position first. -/
def Packet.badRanks (p : Packet) : List ThreadId :=
  (p.bad.filterMap (fun b => (p.elems[b.1]?).map Elem.tid)).foldl (fun l i => if l.contains i then l else l ++ [i]) []

/-- The packet's last element is done: records are written and the acknowledgement leaves (R170). -/
def State.packetDone (s : State) (n : Nat) (p : Packet) : State :=
  let s1 : State := { s with net := { s.net with packets := ldrop s.net.packets n, acks := s.net.acks ++ [p] } }
  p.badRanks.foldl (State.rankRecord p) s1

/-- A packet has passed one more position; after its last it is done. -/
def State.passElem (s : State) (n : Nat) (bad : Option (BitVec 8 × Nat)) : State :=
  match s.net.packets[n]? with
  | none => s
  | some p =>
    let q : Packet := { p with
      pos := p.pos + 1
      bad := match bad with | some (k, d) => p.bad ++ [(p.pos, k, d)] | none => p.bad }
    if q.pos < q.elems.length then { s with net := { s.net with packets := s.net.packets.set n q } }
    else s.packetDone n q

/-- The addends of a merge leave the write queue: packets pass their position, the last first, and `amop`s go. -/
def State.takeMerged (s : State) (ks : List Nat) : State :=
  let a := s.net.amops.length
  let s1 := (lsort (ks.filter (fun k => decide (a ≤ k)))).reverse.foldl
    (fun s k => (List.range (ks.count k)).foldl (fun s _ => s.passElem (k - a) none) s) s
  { s1 with net := { s1.net with amops := (s1.net.amops.zipIdx.filter (fun p => !ks.contains p.2)).map Prod.fst } }

/-- One event at the write queue: an operation with what merges with it (R168, R174). -/
def State.performQueued (s : State) (src : Option ThreadId) (tn : BitVec 4) (op : AmoOp) (z : AmoSize) (pa k : Nat) (v : Word) :
    State :=
  let m := s.merged tn op z pa k v
  let s1 : State := { s with free := s.free + s.mergeDraws }
  ((s1.takeMerged m.1).rmw src pa (amoBytes z) (fun old => some (amoNew op z old m.2))).1

/-- AMOP_PERFORM (R174, R193): one event at the home's write queue; a fault is reported by a dray-fault record of one
position. One for another module leaves for it, and when its answer is there it has been performed, or has faulted; the record
then names cluster 0, since the rules give no cluster of this module (log 98). -/
def execAmopPerform (w : Answered) (s : State) : Out :=
  match w with
  | .far n l =>
    match s.net.awayAmops[n]? with
    | none => .next s
    | some a =>
      if !s.carries (farModuleOf a.pa) then .next s else
      let s1 : State := { s with net := { s.net with awayAmops := ldrop s.net.awayAmops n } }
      match l with
      | [] => .next s1
      | f :: _ => .next (s1.drayRecord a.id a.flta (coreOf 0 0) (rengWord 4 0 0) a.va 1 f.2.1 f.2.2)
  | .here n =>
    match s.net.amops[n]? with
    | none => .next s
    | some a =>
      if !s.canAmop n then .next s
      else if isFab a.pa then
        .next (State.sendAtomic a.id.tenant a.pa (some a.op) a.z 0 a.val
          { s with net := { s.net with amops := ldrop s.net.amops n, awayAmops := s.net.awayAmops ++ [a] } })
      else
        match s.homeFault a.id.tenant a.pa with
        | some (k, d) =>
          let s1 : State := { s with net := { s.net with amops := ldrop s.net.amops n } }
          let home := s.homeCore a.pa
          .next (s1.drayRecord a.id a.flta home (rengWord 4 0 (clusterOf home)) a.va 1 k d)
        | none => .next (s.performQueued (some a.id) a.id.tenant a.op a.z a.pa n a.val)

/-! ## Commutative ranges -/

/-- The range of a tenant that holds an address (R194). -/
def Tenant.rangeAt (t : Tenant) (va : Nat) : Option Range := t.ranges.find? (fun r => decide (r.base ≤ va) && decide (va < r.base + r.len))

/-- The pages of a stretch of addresses. -/
def pagesOf (base len : Nat) : List Nat := (List.range (len / 4096)).map (fun i => base + 4096 * i)

/-- A page that can hold part of a range (R182, R194, R334). -/
def State.rangePage (s : State) (va : Nat) : Res Nat :=
  match s.xlate .write va with
  | .error e => .error e
  | .ok pa => if isIo pa || isFab pa then protFault 5 va else .ok pa

/-- Base and length that a range may have (R194). -/
def rangeGood (base len : Nat) : Bool := base % 4096 == 0 && len % 4096 == 0 && decide (len ≤ 2 ^ 30)

/-- A range that overlaps a stretch of addresses. -/
def Tenant.rangeMeets (t : Tenant) (base len : Nat) : Bool :=
  t.ranges.any (fun r => decide (r.base < base + len) && decide (base < r.base + r.len))

/-- The result of a `crange`, first row of R194 that applies (log 33). -/
def Tenant.crangeCode (t : Tenant) (f : RangeFmt) (base len : Nat) : Nat :=
  let here := t.ranges.find? (fun r => r.base == base)
  if len ≠ 0 ∧ rangeGood base len = true ∧ t.ranges.length < 16 ∧ t.rangeMeets base len = false then 0
  else if len = 0 ∧ (here.any (fun r => r.fmt == f)) = true then 1
  else if 16 ≤ t.ranges.length then 2
  else if len = 0 then (if here.isSome then 3 else 4)
  else if t.rangeMeets base len then 3
  else 5

/-- The pages a `crange` checks at issue: those it declares, or those whose lines a removal combines (R194). -/
def Tenant.crangePages (t : Tenant) (f : RangeFmt) (base len : Nat) : List Nat :=
  if len = 0 then
    match t.ranges.find? (fun r => r.base == base && r.fmt == f) with
    | some r => pagesOf r.base r.len
    | none => []
  else if rangeGood base len then pagesOf base len
  else []

/-- The event of a `crange` after its commit (R176, R194, R195): a removal combines its lines in ascending address and
squashes the open chunks that hold a `radd` to the range. -/
def State.crangeEvent (f : RangeFmt) (d : BitVec 5) (base len : Nat) (pages : List Nat) (s : State) : State :=
  let tn := s.thr.id.tenant
  let t := s.tenant tn
  let c := t.crangeCode f base len
  let s1 :=
    if c = 0 then s.setTenant tn { t with ranges := t.ranges ++ [⟨base, len, f⟩] }
    else if c = 1 then
      let inside (pa : Nat) : Bool := pages.any (fun p => p / 4096 == pa / 4096)
      let lines := lsort ((s.partials.filter (fun p => inside p.pa)).map (fun p => lineOf p.pa))
      let s2 := s.combineAll (some s.thr.id) lines
      (s2.setTenant tn { s2.tenant tn with ranges := t.ranges.filter (fun r => r.base != base) }).updAll (fun u =>
        if u.live && u.id.tenant == tn && u.chunk.radds.any (fun p => inside p.pa) then u.squash else u)
    else s
  s1.setReg d (BitVec.ofNat 64 c)

/-- A line that a removal would have to combine and that another thread holds or leases (R158, R162). -/
def State.crangeHeld (s : State) (pages : List Nat) : Option Nat :=
  (s.partials.find? (fun p => pages.any (fun q => q / 4096 == p.pa / 4096) && s.blocked (some s.thr.id) (lineOf p.pa))).map
    (fun p => lineOf p.pa)

/-- A poisoned line that a removal would have to combine (R306). -/
def State.crangePoison (s : State) (pages : List Nat) : Option (BitVec 16) :=
  (s.partials ++ s.thr.chunk.radds).findSome? (fun p =>
    if pages.any (fun q => q / 4096 == p.pa / 4096) then s.poisonOf p.pa else none)

/-- `crange` (R194). A line of the range that a removal finds poisoned raises the poison fault with the range's base as the
faulting address: the rules do not say which address it is (log 33). -/
def execCrange (f : RangeFmt) (d a b : BitVec 5) (s : State) : Out :=
  let base := va57 (s.thr.arch.getX a)
  let len := (s.thr.arch.getX b).toNat
  let pages := (s.tenant s.thr.id.tenant).crangePages f base len
  s.enderC (match eachOf s.rangePage pages with
    | .error e => .error e
    | .ok pas =>
      match (if len = 0 then s.crangePoison pas else none) with
      | some c => fault 0x05 c.toNat (addrWord base)
      | none =>
        match (if len = 0 then s.crangeHeld pas else none) with
        | some l => .error (.wait l)
        | none => s.endChunk { Eff.none with pages := pages.map (· / 4096) } (State.crangeEvent f d base len pas))

/-- `radd` (R195): the addend reaches the core's partial when the chunk commits; no line joins the read or write set. -/
def execRadd (f : RangeFmt) (a b : BitVec 5) (s : State) : Out :=
  let va := effAddr (s.thr.arch.getX a) 0
  let v := s.thr.arch.getX b
  s.runC (match aligned va (rangeBytes f) with
    | .error e => .error e
    | .ok _ =>
      match (s.tenant s.thr.id.tenant).rangeAt va with
      | none => fault 0x0D 1 (addrWord va)
      | some r =>
        if r.fmt ≠ f then fault 0x0D 2 (addrWord va)
        else
          match s.rangePage va with
          | .error e => .error e
          | .ok pa => s.retire { Eff.none with radds := [⟨pa, s.thr.core, f, v, false⟩], pages := [va / 4096] })

/-- PARTIAL_EVICTION (R176): a partial line goes to the home, tagged with its core. -/
def execPartialEviction (core : BitVec 10) (line : Nat) (s : State) : Out :=
  .next { s with partials := s.partials.map (fun p =>
    if p.core = core ∧ lineOf p.pa = line then { p with atHome := true } else p) }

end Sys2Proof.Machine
end

