-- ==== Sys2Proof/Machine/LoadStore.lean ====
section
/-! DEFINITION. Loads and stores of a chunk: scalar, prefetch, `zline`, vector, indexed and typed (R184 to R190), and the
I/O and fabric accesses that end their chunk (R154, R159, R331, R334). -/

namespace Sys2Proof.Machine

/-- The bundle's effect, with the lines it read allocated in the core's L1 (R373). -/
def State.retireLoad (s : State) (e : Eff) : Res State :=
  match s.retire e with
  | .error x => .error x
  | .ok s1 => .ok (s1.allocD s1.thr.core e.reads)

/-- A register load of `n` bytes at a physical address, through `g` (R184). -/
def State.loadReg (s : State) (d : BitVec 5) (va pa n : Nat) (g : Word → Word) : Res State :=
  match s.readable va pa n with
  | .error e => .error e
  | .ok _ =>
    s.retireLoad { Eff.regs (fun a => a.setX d (g ((s.combined [pa]).chunkN pa n))) with reads := [lineOf pa], pages := [va / 4096] }

/-- After the commit, an I/O load leaves its head as one request and the thread parks for the completion (R183, R361). -/
def State.ioLoad (z : LoadSize) (d : BitVec 5) (pa : Nat) (s : State) : State :=
  let s1 := s.send (.ioRead (s.stream s.thr.id.tenant) pa (loadBytes z))
  { s1 with thr := { s1.thr.park s.cyc .result with post := some (.ioLoad z d pa (some s.cyc)) } }

/-- After the commit, a load from a fabric window goes to the remote module and the thread parks for it (R334). -/
def State.fabLoad (z : LoadSize) (d : BitVec 5) (va pa : Nat) (pc : Word) (s : State) : State :=
  let s1 := s.send (.fabRead (s.colour s.thr.id.tenant) pa (loadBytes z))
  { s1 with thr := { s1.thr.park s.cyc .result with post := some (.fabLoad z d va pa pc) } }

/-- An access to a fabric window waits until a link carries it to its module (R332). -/
def State.overLink (s : State) (pa : Nat) (r : Res State) : Res State :=
  if s.thr.inRegion || s.carries (farModuleOf pa) then r else .error (.link (farModuleOf pa))

/-- `ld` (R184): alignment, translation, then poison; on a page with the I/O attribute or in a fabric window the chunk ends
and the access is performed once after the commit. -/
def execLd (z : LoadSize) (d a : BitVec 5) (off : Imm 12) (s : State) : Out :=
  let ea := effAddr (s.thr.arch.getX a) (immValue off)
  let n := loadBytes z
  let e : Eff := { Eff.none with pages := [ea / 4096] }
  s.runC (match aligned ea n with
    | .error x => .error x
    | .ok _ =>
      match s.xlate .read ea with
      | .error x => .error x
      | .ok pa =>
        if isIo pa then s.endChunk e (State.ioLoad z d pa)
        else if isFab pa then s.overLink pa (s.endChunk e (State.fabLoad z d ea pa s.thr.arch.pc))
        else s.loadReg d ea pa n (loadExtend z))

/-- After the commit, an I/O store leaves its head as one posted request (R331, R361). -/
def State.ioStore (pa : Nat) (bs : List Byte) (s : State) : State :=
  s.send (.ioWrite (s.stream s.thr.id.tenant) pa bs)

/-- After the commit, a store to a fabric window goes to the remote module and the thread parks for it (R334). -/
def State.fabStore (va pa : Nat) (bs : List Byte) (pc : Word) (s : State) : State :=
  let s1 := s.send (.fabWrite (s.colour s.thr.id.tenant) pa bs)
  { s1 with thr := { s1.thr.park s.cyc .result with post := some (.fabStore va pa bs pc) } }

/-- `st` (R184): the low bytes of xD. -/
def execSt (z : Size) (d a : BitVec 5) (off : Imm 12) (s : State) : Out :=
  let ea := effAddr (s.thr.arch.getX a) (immValue off)
  let n := sizeBytes z
  let v := s.thr.arch.getX d
  let bs := (List.range n).map (byteOf v)
  let e : Eff := { Eff.none with pages := [ea / 4096] }
  s.runC (match aligned ea n with
    | .error x => .error x
    | .ok _ =>
      match s.xlate .write ea with
      | .error x => .error x
      | .ok pa =>
        if isIo pa then s.endChunk e (State.ioStore pa bs)
        else if isFab pa then s.overLink pa (s.endChunk e (State.fabStore ea pa bs s.thr.arch.pc))
        else if s.blocked (some s.thr.id) (lineOf pa) then .error (.wait (lineOf pa))
        else s.retire { e with stores := [(ea, pa, n, v)] })

/-- The line a prefetch asks for: none where an access would fault (R182, R185). -/
def State.prefetchLine (s : State) (ea : Nat) : Option Nat :=
  match s.xlate .read ea with
  | .ok pa => if isIo pa || isFab pa || (s.poisonOf pa).isSome then none else some (lineOf pa)
  | .error _ => none

/-- `prf.l1` (R185, R373): the line is allocated in the core's L1; it never faults. -/
def execPrfL1 (a : BitVec 5) (off : Imm 12) (s : State) : Out :=
  let s1 := match s.prefetchLine (effAddr (s.thr.arch.getX a) (immValue off)) with
    | some l => s.allocD s.thr.core [l]
    | none => s
  s1.regsC (fun r => r)

/-- `prf.l2` (R185): the line is asked for in the core's own L2 slice; it never faults. -/
def execPrfL2 (a : BitVec 5) (off : Imm 12) (s : State) : Out :=
  let s1 := match s.prefetchLine (effAddr (s.thr.arch.getX a) (immValue off)) with
    | some l => s.l2Own s.thr.core l
    | none => s
  s1.regsC (fun r => r)

/-- `zline` (R186): the whole line is stored as zero. -/
def execZline (a : BitVec 5) (off : Imm 12) (s : State) : Out :=
  let ea := effAddr (s.thr.arch.getX a) (immValue off)
  let va := ea - ea % 64
  s.runC (match s.writeAt va 8 with
    | .error x => .error x
    | .ok pa => s.retire { Eff.none with
        stores := (List.range 8).map (fun i => (va + 8 * i, pa + 8 * i, 8, 0)), pages := [va / 4096] })

/-! ## Vector accesses (R187 to R189) -/

/-- The vector-context fault (R187). -/
def State.context (s : State) : Res Unit := if s.thr.ngrp = 0 then fault 0x08 0 0 else .ok ()

/-- A vector access of the C slot, after its context check. -/
def State.vecC (s : State) (r : Res State) : Out :=
  s.runC (match s.context with
    | .error e => .error e
    | .ok _ => r)

/-- The stride in bytes of a contiguous or strided access (R188). -/
def State.strideOf (s : State) (b : BitVec 5) (w : Nat) : Int := if b = 0 then w else (s.thr.arch.getX b).toInt

/-- The address of element `i` at a distance in bytes from `ea`. -/
def laneAddr (ea : Nat) (o : Int) : Nat := (((ea : Int) + o) % (2 ^ 57 : Int)).toNat

/-- The untyped accesses of a vector instruction, lane and address, for each active element (R188, R189). -/
def State.vecElems (s : State) (w : Nat) (k : BitVec 3) (off : Nat → Int) (ea : Nat) : List (Nat × Nat) :=
  (activeLanes (s.thr.arch.getM k) (laneCount s.thr.ngrp (8 * w))).map (fun i => (i, laneAddr ea (off i)))

/-- A vector load of elements of `w` bytes into vD (R188). -/
def State.vecLoad (s : State) (w : Nat) (d : BitVec 5) (l : List (Nat × Nat)) : Res State :=
  match eachOf (s.elemAt .read w) l with
  | .error e => .error e
  | .ok es =>
    let s1 := s.combined (elemPas es)
    let v := es.foldl (fun v e => laneSet (8 * w) e.i v (s1.chunkN e.pa w)) (s.thr.arch.getV d)
    s.retireLoad { Eff.regs (fun a => (s.thr.agedC a).setV d v) with
      reads := laddAll [] (es.map (fun e => lineOf e.pa)), pages := elemPages es }

/-- A vector store of the elements of vD in ascending order (R188). -/
def State.vecStore (s : State) (w : Nat) (d : BitVec 5) (l : List (Nat × Nat)) : Res State :=
  match eachOf (s.elemAt .write w) l with
  | .error e => .error e
  | .ok es => s.retire { Eff.regs (fun a => s.thr.agedC a) with
      stores := es.map (fun e => (e.va, e.pa, w, laneGet (8 * w) e.i (s.thr.arch.getV d))), pages := elemPages es, spots := spotsOf 0 es }

/-- `vld` (R188). -/
def execVld (z : Size) (d a b : BitVec 5) (k : BitVec 3) (off : BitVec 32) (s : State) : Out :=
  let w := sizeBytes z
  let ea := effAddr (s.thr.arch.getX a) (off.signExtend 64)
  s.vecC (s.vecLoad w d (s.vecElems w k (fun i => i * s.strideOf b w) ea))

/-- `vst` (R188). -/
def execVst (z : Size) (d a b : BitVec 5) (k : BitVec 3) (off : BitVec 32) (s : State) : Out :=
  let w := sizeBytes z
  let ea := effAddr (s.thr.arch.getX a) (off.signExtend 64)
  s.vecC (s.vecStore w d (s.vecElems w k (fun i => i * s.strideOf b w) ea))

/-- The byte offset that an index vector gives element `i` (R189). -/
def State.indexOf (s : State) (b : BitVec 5) (w i : Nat) : Int :=
  (sext (8 * w) (laneGet (8 * w) i (s.thr.arch.getV b))).toInt * w

/-- `vldx` (R189). -/
def execVldx (z : Size) (d a b : BitVec 5) (k : BitVec 3) (off : BitVec 32) (s : State) : Out :=
  let w := sizeBytes z
  let ea := effAddr (s.thr.arch.getX a) (off.signExtend 64)
  s.vecC (s.vecLoad w d (s.vecElems w k (s.indexOf b w) ea))

/-- `vstx` (R189). -/
def execVstx (z : Size) (d a b : BitVec 5) (k : BitVec 3) (off : BitVec 32) (s : State) : Out :=
  let w := sizeBytes z
  let ea := effAddr (s.thr.arch.getX a) (off.signExtend 64)
  s.vecC (s.vecStore w d (s.vecElems w k (s.indexOf b w) ea))

/-! ## Typed accesses (R190) -/

/-- The checks of a typed access that its tag decides: code 9, the vector context, the pointer-tag fault (R181, R190). -/
def State.typedTag (s : State) (p : Word) (store strided : Bool) : Res Unit :=
  if fmtReserved (pFmt p) then illegal 9 0
  else if s.thr.ngrp = 0 then fault 0x08 0 0
  else if !tagOk p then fault 0x06 1 p
  else if store && strided && pBlk p != 0 then fault 0x06 3 p
  else .ok ()

/-- The elements of a typed access: lane, and index from `ea` (R190). -/
def State.typedElems (s : State) (p : Word) (b : BitVec 5) (k : BitVec 3) : List (Nat × Int) :=
  let stride : Int := if b = 0 then 1 else (s.thr.arch.getX b).toInt
  (activeLanes (s.thr.arch.getM k) (laneCount s.thr.ngrp (regTyOf (pFmt p)).bits)).map (fun i => (i, i * stride))

/-- `vldt` (R190): codes are decoded exactly, with their block scale, and rounded into the register type in RNE (R65). -/
def execVldt (d a b : BitVec 5) (k : BitVec 3) (off : BitVec 32) (s : State) : Out :=
  let p := s.thr.arch.getX a
  let ea := effAddr p (off.signExtend 64)
  s.runC (match s.typedTag p false (b != 0) with
    | .error e => .error e
    | .ok _ =>
      match eachOf (s.typedAt .read p ea (fun _ => true)) (s.typedElems p b k) with
      | .error e => .error e
      | .ok es =>
        let s1 := s.combined (elemPas es)
        let w := (regTyOf (pFmt p)).bits
        let v := es.foldl (fun v e => laneSet w e.i v (s1.typedLoad (pFmt p) e)) (s.thr.arch.getV d)
        s.retireLoad { Eff.regs (fun r => (s.thr.agedC r).setV d v) with
          reads := laddAll [] ((elemPas es).map lineOf), pages := elemPages es })

/-- The scale windows and addresses of the elements of a blocked store. -/
def State.scalesOf (s : State) (p : Word) (ea : Nat) (l : List (Nat × Int)) : List (Option (Nat × Nat)) :=
  l.map (fun q => scaleAddr s.thr.arch.swin (pBlk p).toNat (fmtBits (pFmt p)) (typedAddr (pFmt p) ea q.2).1)

/-- The elements of a blocked store in runs of one block. -/
def blocksOf : List ElemAt → List (List ElemAt)
  | [] => []
  | e :: l =>
    match blocksOf l with
    | (f :: g) :: r => if f.scale = e.scale ∧ f.win = e.win then (e :: f :: g) :: r else [e] :: (f :: g) :: r
    | r => [e] :: r

/-- The codes and the scale stores of blocks, first first, with the state after the draws (R66). -/
def encodeBlocks (f : Fmt) (mode : Mode) (val : ElemAt → Val) :
    BitVec 32 → List (List ElemAt) → List (ElemAt × Nat) × List (Nat × Nat × Nat × Word) × BitVec 32
  | r, [] => ([], [], r)
  | r, b :: l =>
    let (sc, cs, r1) := encodeBlock f mode r (b.map val)
    let (es, ss, r2) := encodeBlocks f mode val r1 l
    let st := match b.head? with
      | some e => (match e.scale with | some q => [(q.1, q.2, 1, sc.setWidth 64)] | none => [])
      | none => []
    (b.zip cs ++ es, st ++ ss, r2)

/-- The stores of a typed store and its draws (R66, R71, R190). THE MODEL'S CHOICE (log 23): the codes of a blocked store come
before its scale bytes, which counts where the scale region overlaps the elements. -/
def State.typedStores (s : State) (p : Word) (d : BitVec 5) (es : List ElemAt) : List (Nat × Nat × Nat × Word) × BitVec 32 :=
  let ty := regTyOf (pFmt p)
  let val (e : ElemAt) : Val := decodeVal ty.fmt (laneGet ty.bits e.i (s.thr.arch.getV d)).toNat
  let mode := stsMode s.thr.arch.sts
  if pBlk p = 0 then
    let (cs, r) := roundList (fmtOf (pFmt p)) mode s.thr.arch.rngs (es.map val)
    ((s.combined (elemPas es)).codeStores (pFmt p) [] (es.zip cs), r)
  else
    let (cs, ss, r) := encodeBlocks (fmtOf (pFmt p)) mode val s.thr.arch.rngs (blocksOf es)
    ((s.combined (elemPas es)).codeStores (pFmt p) [] cs ++ ss, r)

/-- The lines of which a store of nibbles keeps the other nibbles, as it reads them (R190). -/
def nibbleLines (f : BitVec 4) (es : List ElemAt) : List Nat :=
  if fmtBits f = 4 then laddAll [] (es.map (fun e => lineOf e.pa)) else []

/-- The draws a `vstt` makes: one for each active element under SR (R71). -/
def State.vsttDraws (s : State) (a b : BitVec 5) (k : BitVec 3) : Nat :=
  if stsMode s.thr.arch.sts = .sr then (s.typedElems (s.thr.arch.getX a) b k).length else 0

/-- `vstt` (R190): each element is rounded under STS.RM and stored; a blocked store covers whole blocks (R66, R67). -/
def execVstt (d a b : BitVec 5) (k : BitVec 3) (off : BitVec 32) (s : State) : Out :=
  let p := s.thr.arch.getX a
  let ea := effAddr p (off.signExtend 64)
  s.runC (match s.typedTag p true (b != 0) with
    | .error e => .error e
    | .ok _ =>
      let l := s.typedElems p b k
      let scales := s.scalesOf p ea l
      let whole (sa : Nat × Nat) : Bool := (scales.filter (fun x => x == some sa)).length == 2 ^ (pBlk p).toNat
      match eachOf (s.typedAt .write p ea whole) l with
      | .error e => .error e
      | .ok es => s.retire { Eff.regs (fun r => s.thr.agedC (s.thr.drawn (s.vsttDraws a b k) r)) with
          stores := (s.typedStores p d es).1, reads := nibbleLines (pFmt p) es, pages := elemPages es
          spots := spotsOf (tagBits p) es })

end Sys2Proof.Machine
end

