-- ==== Sys2Proof/Machine/Threads.lean ====
section
/-! DEFINITION. Where threads are held (R220, R232 to R237, R364): slots, the loft and the cellar; ranks and rank-table
entries (R269, R270); indenture tables (R271 to R273); the creation and the end of a thread (R44, R256, R257, R325). -/

namespace Sys2Proof.Machine

/-! ## Slots -/

/-- The slot a thread holds on a core. -/
def Thread.slotOn (t : Thread) (c : BitVec 10) : Option Nat :=
  match t.place with
  | .slot k n => if k = c ∧ t.live then some n.toNat else none
  | _ => none

/-- Threads that count: those of tenants that are not switched out (R288). -/
def State.resident (s : State) : List Thread := s.threads.filter (fun t => t.live && !(s.tenant t.id.tenant).out)

/-- The slots of a core that are held. -/
def State.slotsHeld (s : State) (c : BitVec 10) : List Nat := s.resident.filterMap (fun t => t.slotOn c)

/-- A core that runs (R314). -/
def State.coreOk (s : State) (c : BitVec 10) : Bool := !(s.core c).mappedOut && !(s.cluster (clusterOf c)).mappedOut

/-- The free slots of a core, in ascending number. -/
def State.freeSlots (s : State) (c : BitVec 10) : List Nat :=
  if s.coreOk c then
    let held := s.slotsHeld c
    (List.range Config.slotsPerCore).filter (fun n => !held.contains n)
  else []

/-- The free slots of a cluster in the order of R340. -/
def State.clusterFree (s : State) (cl : BitVec 7) : List (BitVec 10 × BitVec 8) :=
  (clusterCores cl).flatMap (fun c => (s.freeSlots c).map (fun n => (c, BitVec.ofNat 8 n)))

/-- The slot a docket is given (R237): on its last core if that has one, else on the lowest core of its cluster. THE MODEL'S
CHOICE (log 112): a member of a domain that is bound to its core may be resumed on another core too; its arrival then no
longer raises the wire of the old core. -/
def State.slotFor (s : State) (cl : BitVec 7) (last : Option (BitVec 10)) : Option (BitVec 10 × BitVec 8) :=
  match last with
  | some c =>
    match s.freeSlots c with
    | n :: _ => some (c, BitVec.ofNat 8 n)
    | [] => (s.clusterFree cl).head?
  | none => (s.clusterFree cl).head?

/-! ## Rank table (R270) -/

/-- A thread's rank-table entry has changed: the device writes it as one event. -/
def State.rankWritten (s : State) (id : ThreadId) : State :=
  s.winWritten (winPa id.tenant (rankVa + 8 * id.rank.toNat)) 8

/-- Words of an indenture table have been written as one event (R271). -/
def State.indentWritten (s : State) (tn : BitVec 4) (rank : BitVec 24) (i : Nat) : State :=
  s.winWritten (winPa tn (indentVa + 65536 * rank.toNat + 16 * i)) 16

/-- A thread is moved to another place; its entry follows. -/
def State.place (s : State) (id : ThreadId) (f : Thread → Thread) : State := (s.upd id f).rankWritten id

/-! ## Packing (R232 to R236) -/

/-- Slots of the ring (R203). -/
def QHandle.slots (h : QHandle) : Nat := 2 ^ h.lslot

/-- The position of the reservation in the ring. -/
def QHandle.place (h : QHandle) : Nat := h.r.toNat % h.slots

/-- The stamp's address of the reserved slot. -/
def QHandle.stampVa (h : QHandle) : Nat := (h.stamps + 8 * h.place) % 2 ^ 57

/-- The registers LIVE marks. -/
def Arch.liveRegs (a : Arch) : List Nat := (List.range 32).filter (fun i => i != 0 && a.live.getLsbD i)

/-- A thread that may be packed (R232): parked, stopped or retained, without a vector context, at most 16 live registers,
and outside an explicit region. -/
def Thread.eligible (t : Thread) : Bool :=
  t.live && t.run != .ready || t.stopped.isSome && t.live

/-- R232's conditions on the registers. -/
def Thread.packable (t : Thread) : Bool :=
  t.eligible && (t.run == .retained || (t.gmask == 0 && decide (t.arch.liveRegs.length ≤ 16) && t.region.isNone))

/-- The registers that a docket keeps (R232): at most 16 of those LIVE marks; masks and the operand buffer are lost. -/
def Arch.kept (a : Arch) : Arch :=
  let keep := a.liveRegs.take 16
  { a with
    x := (a.x.zipIdx).map (fun p => if keep.contains p.2 then p.1 else 0)
    m := Vector.replicate 8 0
    hold := [] }

/-- A thread that has halted is not packed: it keeps every register, unless LIVE marks more than 16 (R220, R256, R370, log
113). -/
def Thread.keepsAll (t : Thread) : Bool := t.run == .retained && decide (t.arch.liveRegs.length ≤ 16)

/-- The registers of a thread in its docket. -/
def Thread.docketArch (t : Thread) : Arch :=
  if t.keepsAll then { t.arch with m := Vector.replicate 8 0, hold := [] } else t.arch.kept

/-- A docket has an annex (R233). -/
def State.hasAnnex (s : State) (t : Thread) : Bool :=
  !((s.tenant t.id.tenant).table t.id.rank).isEmpty || t.arch.swin.toList.any (· != 0) || t.arch.dbk != 0 || t.arch.dgo != 0
    || t.queues.toList.any (fun h => h.qb != 0 || h.role != .none)

/-- Docket positions that a thread takes (R233). -/
def State.docketSize (s : State) (t : Thread) : Nat := if s.hasAnnex t then 2 else 1

/-- The threads whose dockets lie in a cluster's loft. -/
def State.loftOf (s : State) (cl : BitVec 7) : List Thread :=
  s.resident.filter (fun t => t.place == .loft && clusterOf t.core == cl)

/-- A position of the loft is set aside for a thread (R243, R349). -/
def Spot.aside (p : Spot) : Bool := p == .held || p == .barred

/-- What becomes of a thread's position when its docket leaves the loft: one that it used is free, or is its own again while it
still waits in `pwait`. -/
def Thread.spotLeft (t : Thread) : Spot :=
  if t.spot = .used then (if t.run = .parked .pwait then .held else .none) else t.spot

/-- Free positions of a loft; those reserved for early crews are set aside (R243). -/
def State.loftFree (s : State) (cl : BitVec 7) : Nat :=
  let used := ((s.loftOf cl).map s.docketSize).sum
  let spots := (s.resident.filter (fun t => t.spot.aside && clusterOf t.core == cl)).length
  Config.loftPositions - (used + spots)

/-- The cellar positions a tenant's dockets hold (R235). -/
def State.cellarHeld (s : State) (tn : BitVec 4) : List Nat :=
  (s.ofTenant tn).flatMap (fun t =>
    match t.place with
    | .cellar p => if s.hasAnnex t then [p, p + 1] else [p]
    | _ => [])

/-- The ring position at which a docket of `n` positions would go. A docket and its annex lie in one page: the last position
of a page is passed over where both do not fit (R235, log 101). -/
def Tenant.cellarPos (t : Tenant) (n : Nat) : Nat :=
  (if t.cellarNext % 16 + n ≤ 16 then t.cellarNext else (t.cellarNext / 16 + 1) * 16) % (16 * max 1 t.cellarPages)

/-- The cellar position at which a docket of `n` positions goes: none when the ring's next page holds a docket or is not
mapped, that is not the tenant's (R236). -/
def State.cellarPlace (s : State) (tn : BitVec 4) (n : Nat) : Option Nat :=
  let t := s.tenant tn
  if t.cellarPages = 0 then none
  else
    let p := t.cellarPos n
    if p % 16 = 0 && (s.cellarHeld tn).any (fun q => q / 16 == p / 16) then none
    else if (s.region (regionOf (t.cellar + 256 * p))).owner != some tn then none
    else some p

/-- The PKIND of a wait that has ended and whose wake is under way, by the code of that wake (R231, R233). -/
def overKind : Nat → Nat
  | 2 => 0
  | 3 => 1
  | 4 => 2
  | 5 => 3
  | 6 => 4
  | _ => 8

/-- PKIND (R233). -/
def Thread.packKind (t : Thread) : Nat :=
  if t.run = .retained then 9
  else if t.stopped.isSome then 7
  else if t.woken.isSome then 8
  else
    match t.run with
    | .parked (.wait _ _) => 0
    | .parked (.xchg _) => 0
    | .parked (.queue _ _ _) => 1
    | .parked (.bar _ _ _ _ _ _) => 2
    | .parked (.dbar _ _ _ _) => 3
    | .parked .pwait => 4
    | .parked (.fence _ _ _) => 5
    | .parked (.loom _ _) => 6
    | .parked .result => Config.docketKind 0 % 256
    | .parked (.drain _) => Config.docketKind 1 % 256
    | .parked (.pri _ _) => Config.docketKind 2 % 256
    | .parked (.over _ _ code) => overKind code
    | _ => 8

/-- DDL (R233): the deadline of a timed wait. -/
def Thread.deadline (t : Thread) : Nat :=
  match t.run with
  | .parked (.wait _ (some c)) => c
  | .parked (.bar _ _ _ _ (some c) _) => c
  | .parked (.dbar _ _ _ (some c)) => c
  | _ => 0

/-- DWA and DWV (R233): the address and the value of a hidden wait. -/
def State.hiddenWait (s : State) (t : Thread) : Word × Word :=
  match t.run with
  | .parked (.queue q _ want) => (BitVec.ofNat 64 (oat t.queues q).stampVa, want)
  | .parked (.bar _ va _ ph _ _) => (BitVec.ofNat 64 va, ph.setWidth 64)
  | .parked (.dbar _ sl n _) => (sl.setWidth 64, BitVec.ofNat 64 n)
  | .parked .pwait =>
    (BitVec.ofNat 64 ((((s.tenant t.id.tenant).launches.find? (fun l => l.lid == t.lid)).map Launch.pred).getD 0), 0)
  | _ => (0, 0)

/-- The condition of a watch as a docket holds it (R233). -/
def watchCode : WatchCond → BitVec 2
  | .any => 0
  | .eq => 1
  | .ne => 2
  | .geu => 3

/-- The two doublewords of a watch slot in a docket (R233). -/
def watchWords : Option Watch → List Word
  | none => [0, 0]
  | some w => [watchCode w.cond ++ 0#5 ++ BitVec.ofNat 57 w.va, w.val]

/-- Bit i of a bitmap says that watch slot i is armed (R233). -/
def Thread.armedMask (t : Thread) : BitVec 4 :=
  (List.range 4).foldl (fun m i => match t.watches.toList[i]? with | some (some _) => m ||| (1#4 <<< i) | _ => m) 0

/-- The 32 doublewords of a docket (R233). -/
def State.docketWords (s : State) (t : Thread) : List Word :=
  let regs := (t.arch.liveRegs.take 16).map (fun i => t.arch.getX (BitVec.ofNat 5 i))
  [t.id.rank ++ t.id.tenant ++ (s.tenant t.id.tenant).gen ++ BitVec.ofNat 8 t.packKind ++ t.armedMask
      ++ BitVec.ofBool (s.hasAnnex t) ++ 0#19,
   t.arch.pc, 0#12 ++ t.stsWord.extractLsb' 0 20 ++ t.arch.rngs,
   t.arch.live ++ 0#12 ++ t.latch ++ 0#3 ++ t.arch.why, t.arch.flta, BitVec.ofNat 64 t.deadline,
   (s.hiddenWait t).1, (s.hiddenWait t).2]
    ++ t.watches.toList.flatMap watchWords ++ (regs ++ List.replicate 16 0).take 16

/-- The 32 doublewords of an annex (R233). -/
def State.annexWords (s : State) (t : Thread) : List Word :=
  let role (h : QHandle) : Nat := match h.role with | .none => 0 | .producer => 1 | .consumer => 2
  let bits := t.queues.toList.foldr (fun h n => (Config.handleBits (role h) h.lesz h.lslot).toNat + 512 * n) 0
  ([(s.tenant t.id.tenant).idt t.id.rank] ++ t.arch.swin.toList ++ [t.arch.dbk, t.arch.dgo] ++ t.queues.toList.map QHandle.qb
    ++ t.queues.toList.map QHandle.r ++ [BitVec.ofNat 64 bits, BitVec.ofNat 64 (bits / 2 ^ 64)] ++ List.replicate 32 0).take 32

/-- The docket that has been in a loft the longest (R235). -/
def oldestDocket : List Thread → Option Thread
  | [] => none
  | t :: l =>
    match oldestDocket l with
    | none => some t
    | some u => if t.age ≤ u.age then some t else some u

/-- A refused spill of a docket of `n` positions: a cellar record for each episode, with the ring position that it would have
taken (R236, R302). -/
def State.refuseSpill (s : State) (cl : BitVec 7) (tn : BitVec 4) (n : Nat) : State :=
  let k := s.cluster cl
  if k.refused then s
  else
    (s.setCluster cl { k with refused := true }).detector tn 0x15 (rengWord 5 0 cl) 0 0
      (BitVec.ofNat 64 ((s.tenant tn).cellarPos n)) 0

/-- A docket leaves its loft for position `p` of its tenant's cellar: its bytes are written there (R233, R235). -/
def State.spillTo (s : State) (cl : BitVec 7) (o : Thread) (p : Nat) : State :=
  let k := s.tenant o.id.tenant
  let s1 := s.setTenant o.id.tenant { k with cellarNext := p + s.docketSize o }
  let s2 := s1.setCluster cl { s1.cluster cl with refused := false }
  let bytes := wordsBytes (s.docketWords o ++ if s.hasAnnex o then s.annexWords o else [])
  (s2.upd o.id (fun t => { t with place := .cellar p, spot := if t.spot = .used then .none else t.spot })).writeEvent none false (cellsFrom (k.cellar + 256 * p) bytes)

/-- Room for a docket of `n` positions in a loft: the docket that has been there longest spills to its tenant's cellar until
there is room, `fuel` times at most; the flag says whether there is room (R235, R236). -/
def State.makeRoomBy (cl : BitVec 7) (n : Nat) : Nat → State → State × Bool
  | 0, s => (s, decide (n ≤ s.loftFree cl))
  | fuel + 1, s =>
    if n ≤ s.loftFree cl then (s, true)
    else
      match oldestDocket (s.loftOf cl) with
      | none => (s, false)
      | some o =>
        match s.cellarPlace o.id.tenant (s.docketSize o) with
        | none => (s.refuseSpill cl o.id.tenant (s.docketSize o), false)
        | some p => State.makeRoomBy cl n fuel (s.spillTo cl o p)

/-- Room for a docket of one or two positions. -/
def State.makeRoom (s : State) (cl : BitVec 7) (n : Nat) : State × Bool := State.makeRoomBy cl n 2 s

/-- A thread that waits in `pwait` goes into the position that is reserved for it (R243). -/
def Thread.takesSpot (t : Thread) : Bool := t.spot == .held && t.run == .parked .pwait

/-- A thread goes into a docket (R232, R234); it stays where it is when the spill is refused (R236). The position reserved for
a thread of an early crew is there for it (R243). -/
def State.pack (s : State) (id : ThreadId) (dst : BitVec 10) : State :=
  match s.find id with
  | none => s
  | some t =>
    let r := s.makeRoom (clusterOf t.core) (s.docketSize t - if t.takesSpot then 1 else 0)
    if r.2 then
      r.1.place id (fun t =>
        let a := t.docketArch
        { t with
          arch := a, chunk := Chunk.fresh a, place := .loft, core := dst, age := s.cyc, yielded := false, waits := 0
          spot := if t.takesSpot then .used else t.spot })
    else r.1

/-- A woken docket that wants a slot of a cluster (R237). -/
def State.wantsSlot (s : State) (cl : BitVec 7) (t : Thread) : Bool :=
  t.live && t.woken.isSome && t.stopped.isNone && clusterOf t.core == cl && !(s.tenant t.id.tenant).out
    && (match t.place with | .loft => true | .cellar _ => true | .save => true | _ => false)

/-- A woken docket in the cellar can return to the loft (R235). -/
def State.canReturn (s : State) (t : Thread) : Bool :=
  (match t.place with | .cellar _ => true | _ => false) && s.wantsSlot (clusterOf t.core) t
    && (s.makeRoom (clusterOf t.core) (s.docketSize t)).2

/-- A woken docket in the cellar returns to the loft before it is resumed (R235). -/
def State.returnDocket (s : State) (id : ThreadId) : State :=
  match s.find id with
  | none => s
  | some t =>
    let r := s.makeRoom (clusterOf t.core) (s.docketSize t)
    if s.canReturn t then r.1.upd id (fun t => { t with place := .loft, age := s.cyc }) else s

/-! ## Ranks (R269) -/

/-- The ranks that are not free, as intervals: the root's, those of threads, and those of crews not yet started. -/
def State.ranksHeld (s : State) (tn : BitVec 4) : List (Nat × Nat) :=
  let k := s.tenant tn
  (if k.firstQueue.isSome then [(0, 1)] else [])
    ++ (s.ofTenant tn).map (fun t => (t.id.rank.toNat, t.id.rank.toNat + 1))
    ++ (k.launches.filter (fun l => !l.complete)).map (fun l => (l.base + l.placed * l.csize, l.base + l.crews * l.csize))
    ++ (s.net.crewGos.filter (fun g => g.tn == tn)).filterMap (fun g =>
        (k.launches.find? (fun l => l.lid == g.lid)).map (fun l => (l.base + g.crew * l.csize, l.base + (g.crew + 1) * l.csize)))

/-- The lowest b from which n ranks are free; `fuel` bounds the intervals passed. -/
def firstGap (iv : List (Nat × Nat)) (n : Nat) : Nat → Nat → Nat
  | 0, b => b
  | fuel + 1, b =>
    match iv.find? (fun p => decide (p.1 < b + n) && decide (b < p.2)) with
    | some p => firstGap iv n fuel p.2
    | none => b

/-- The lowest run of n free ranks below RMAX (R257, R269). -/
def State.freeRun (s : State) (tn : BitVec 4) (n : Nat) : Option Nat :=
  let iv := s.ranksHeld tn
  let b := firstGap iv n (iv.length + 1) 0
  if b + n ≤ (s.tenant tn).rmax then some b else none

/-! ## Indentures (R271 to R273) -/

/-- A thread's rights over a rank (R272). -/
def Tenant.rights (t : Tenant) (r q : BitVec 24) : BitVec 6 :=
  (t.table r).foldl (fun m e => if e.lo.ule q && q.ule e.hi then m ||| e.rights else m) 0

/-- An entry appended to a table (R271). -/
def State.addEntry (s : State) (tn : BitVec 4) (r : BitVec 24) (e : IEntry) : State :=
  let t := s.tenant tn
  let l := t.table r
  (s.setTenant tn (t.setTable r (l ++ [e]))).indentWritten tn r l.length

/-- The rank of a thread is freed, with its table, whose pages are mapped no more (R251, R269, R271); records still held for
it go to the pending store. -/
def State.freeRank (s : State) (t : Thread) : State :=
  let k := s.tenant t.id.tenant
  let s1 := (t.records.foldl State.storeRecord (s.setTenant t.id.tenant (k.setTable t.id.rank []))).rankWritten t.id
  if (k.table t.id.rank).isEmpty then s1 else s1.checkWatches t.id.tenant

/-! ## Creation and end -/

/-- RNGS at creation (R44). -/
def rngsOf (rank : BitVec 24) : BitVec 32 :=
  let r := rank.setWidth 32 * 0x9E3779B9#32
  if r = 0 then 1 else r

/-- The registers of a new thread (R44, R257, R325). -/
def Arch.created (rank : BitVec 24) (pc x10 : Word) : Arch :=
  ({ Arch.zero with pc := pc, rngs := rngsOf rank }).setX 10 x10

/-- The vector context of a thread is released (R256, R264). -/
def State.releaseGroups (s : State) (t : Thread) : State :=
  if t.gmask = 0 then s else s.setCluster (clusterOf t.core) { s.cluster (clusterOf t.core) with pend := false }

/-- A thread leaves a domain, by rank and slot; `none` leaves every slot (R260). -/
def Domain.leave (id : ThreadId) (sl : Option (BitVec 2)) (d : Domain) : Domain :=
  { d with members := d.members.filter (fun m => !(m.rank == id.rank && (match sl with | some n => m.slot == n | none => true))) }

/-- Domains that still have members. THE MODEL'S CHOICE (log 112): a domain whose last member has left is gone; joined anew, it
counts its completed phases from 0. -/
def Domain.alive (d : Domain) : Bool := !d.members.isEmpty

/-! ## The crier's messages (R263) -/

/-- Changes the domain of a kind. -/
def State.updDomain (s : State) (tn : BitVec 4) (k : DKind) (f : Domain → Domain) : State :=
  let t := s.tenant tn
  s.setTenant tn { t with domains := t.domains.map (fun d => if d.kind = k then f d else d) }

/-- The cluster of a member. -/
def State.memberCluster (s : State) (tn : BitVec 4) (m : Member) : Option (BitVec 7) :=
  (s.find ⟨tn, m.rank⟩).map (fun t => clusterOf t.core)

/-- The clusters that hold members, by index (R263). -/
def State.crierClusters (s : State) (tn : BitVec 4) (d : Domain) : List (BitVec 7) :=
  (lsort (d.members.filterMap (fun m => (s.memberCluster tn m).map BitVec.toNat))).map (BitVec.ofNat 7)

/-- ⌈log2 C⌉ -/
def clog2 (c : Nat) : Nat := if c ≤ 1 then 0 else (c - 1).log2 + 1

/-- A cluster's progress in the present phase. -/
def Domain.posOf (d : Domain) (cl : BitVec 7) : CrierPos :=
  (d.crier.find? (fun p => p.cl == cl)).getD ⟨cl, false, 0, [], false⟩

/-- Sets a cluster's progress. -/
def Domain.setPos (p : CrierPos) (d : Domain) : Domain := { d with crier := d.crier.filter (fun q => q.cl != p.cl) ++ [p] }

/-- A message of the crier leaves for the cluster 2^k positions on. -/
def State.crierSend (s : State) (tn : BitVec 4) (d : Domain) (cl : BitVec 7) (k : Nat) (abort : Bool) : State :=
  let i := d.ring.findIdx (fun c => c == cl)
  match d.ring[(i + 2 ^ k) % d.ring.length]? with
  | some c => { s with net := { s.net with criers := s.net.criers ++ [⟨tn, d.kind, c, k, abort, d.turn⟩] } }
  | none => s

/-- The members of a domain have changed: unless a cluster has already completed the present phase, the crier starts over, and
the clusters begin again, among those that hold members then (R256, R263, log 103). -/
def State.crierRestart (s : State) (tn : BitVec 4) (k : DKind) : State :=
  match (s.tenant tn).domains.find? (fun d => d.kind == k) with
  | none => s
  | some d =>
    if d.ring.isEmpty || d.broken || d.crier.any CrierPos.finished then s
    else s.updDomain tn k (fun d => { d with ring := [], crier := [], turn := d.turn + 1 })

/-- A thread leaves its domains (R256). -/
def State.leaveDomains (s : State) (id : ThreadId) (sl : Option (BitVec 2)) : State :=
  let t := s.tenant id.tenant
  let left := (t.domains.filter (fun d => d.leave id sl != d)).map Domain.kind
  left.foldl (fun s k => s.crierRestart id.tenant k)
    (s.setTenant id.tenant { t with domains := (t.domains.map (Domain.leave id sl)).filter Domain.alive })

/-- The thread's state after `halt` (R256): watches disarmed, context released, and halted or retained. -/
def Thread.ended (retain : Bool) (now : Nat) (t : Thread) : Thread :=
  { t with
    run := if retain then .retained else .halted
    watches := Vector.replicate 4 none
    latch := 0
    took := 0
    lost := false
    arms := []
    gmask := 0
    since := now
    spot := .none }

/-! ## The release of a loom's context (R113) -/

/-- A crew that still has a thread which has not halted. -/
def State.crewLives (s : State) (k : BitVec 4 × Nat × Nat) : Bool :=
  s.threads.any (fun t => t.live && t.run != .retained && t.crewKey == k)

/-- A loom's status line is written as one event (R118). -/
def State.setLoom (s : State) (cl : BitVec 7) (l : Loom) : State :=
  (s.setCluster cl { s.cluster cl with loom := l }).winWritten (winPa 0 (loomVa + 64 * cl.toNat)) 64

/-- A loom changes without a change of its status line. -/
def State.putLoom (s : State) (cl : BitVec 7) (l : Loom) : State := s.setCluster cl { s.cluster cl with loom := l }

/-- A loom whose tiles are clear and whose slots and buffer are empty (R113, R147). -/
def Loom.wiped (l : Loom) : Loom := { l with warps := [], weft := Operand.empty, tiles := [] }

/-- Both conditions of a release hold: the owning crew has halted, and the queue is empty of a loom that has not stopped. -/
def State.canReleaseLoom (s : State) (cl : BitVec 7) : Bool :=
  let l := (s.cluster cl).loom
  l.st == 1 && l.queue.isEmpty && (match l.owner with | some k => !s.crewLives k | none => true)

/-- In the event in which both conditions first hold the loom writes STATE 3. -/
def State.releaseLoom (s : State) (cl : BitVec 7) : State :=
  if s.canReleaseLoom cl then s.setLoom cl { (s.cluster cl).loom.wiped with st := 3 } else s

/-- `halt` of a thread after its commit; the root is always retained (R256, R269). -/
def State.endThread (s : State) (id : ThreadId) (retain : Bool) : State :=
  match s.find id with
  | none => s
  | some t =>
    let keep := retain || id.rank == 0
    let s1 := (s.releaseGroups t).leaveDomains id none
    (if keep then (s1.upd id (Thread.ended true s.cyc)).rankWritten id
      else (s1.upd id (Thread.ended false s.cyc)).freeRank t).releaseLoom (clusterOf t.core)

/-- A retained docket is freed (R279). -/
def State.freeRetained (s : State) (t : Thread) : State :=
  (s.upd t.id (fun t => { t with run := .halted, stopped := none })).freeRank t

end Sys2Proof.Machine
end

