-- ==== Sys2Proof/Machine/Queues.lean ====
section
/-! DEFINITION. Queues (R203 to R209): binding, reservations at the descriptor's home, the wait on a slot's stamp, access to
the slot, and the stamp write that publishes or releases it. -/

namespace Sys2Proof.Machine

/-- A queue fault (R205 to R208, R301). -/
def queueFault {α : Type} (detail : Nat) : Res α := fault 0x0E detail 0

/-- A handle of a thread. -/
def Thread.handle (t : Thread) (q : BitVec 3) : QHandle := oat t.queues q

/-- Sets a handle. -/
def Thread.setHandle (q : BitVec 3) (h : QHandle) (t : Thread) : Thread := { t with queues := oput t.queues q h }

/-- A handle is bound: VALID of its QB word (R44). -/
def QHandle.valid (h : QHandle) : Bool := h.qb.getLsbD 0

/-- The address of the bundle before, whose chunk has committed (R33, R303). -/
def prevPc (pc : Word) : Word := addrWord (pc.toNat + (2 ^ 57 - 8))

/-- The descriptor's address. -/
def QHandle.line (h : QHandle) : Nat := va57 h.qb / 64 * 64

/-- The stamp value the reservation waits for (R206). -/
def QHandle.want (h : QHandle) : Word := if h.role = .consumer then h.r + 1 else h.r

/-- A geometry of R203. -/
def geometryOk (base geom stmp : Word) : Bool :=
  lineWordOk base && stmp.extractLsb' 57 7 == 0 && stmp.extractLsb' 0 3 == 0
    && geom &&& ~~~0x31F#64 == 0 && decide (1 ≤ (geom.extractLsb' 0 5).toNat) && decide ((geom.extractLsb' 0 5).toNat ≤ 20)

/-- The event of a bind after its commit: the descriptor is read, and a geometry outside R203 stops the thread (R205). -/
def State.bindEvent (q : BitVec 3) (va pa : Nat) (pc : Word) (s : State) : State :=
  let id := s.thr.id
  let s1 := s.combineLine (some id) (lineOf pa)
  match s1.poisonOf pa with
  | some c => s1.homeRecord id pc ⟨0x05, c.toNat, addrWord va, 0, 0, none⟩
  | none =>
    let base := s1.readN pa 8
    let geom := s1.readN (pa + 8) 8
    let stmp := s1.readN (pa + 16) 8
    if geometryOk base geom stmp then
      { s1 with thr := s1.thr.setHandle q ⟨addrWord va ||| 1, base.toNat, stmp.toNat, (geom.extractLsb' 0 5).toNat,
          (geom.extractLsb' 8 2).toNat, .none, 0⟩ }
    else s1.faultAfter id 1 pc ⟨0x0E, 4, addrWord va, 0, 0, none⟩

/-- `qbind` (R205). -/
def execQbind (q : BitVec 3) (a : BitVec 5) (s : State) : Out :=
  let v := s.thr.arch.getX a
  let va := va57 v
  s.enderC (match (if v = 0 then .ok () else aligned va 64) with
    | .error e => .error e
    | .ok _ =>
      if (s.thr.handle q).role ≠ .none then queueFault 1
      else if v = 0 then s.endChunk Eff.none (fun s1 => { s1 with thr := s1.thr.setHandle q QHandle.unbound })
      else
        match s.readAt va 8 with
        | .error e => .error e
        | .ok pa => s.endChunk { Eff.none with pages := [va / 4096] } (State.bindEvent q va pa s.thr.arch.pc))

/-- A thread whose stamp does not match parks, or stays parked, on the stamp's line (R206). -/
def Thread.queued (now : Nat) (q : BitVec 3) (pa : Nat) (want : Word) (t : Thread) : Thread :=
  match t.run with
  | .parked (.queue _ _ _) => { t with run := .parked (.queue q pa want) }
  | _ => t.park now (.queue q pa want)

/-- A parked queue wait ends with a code, and a thread that is not parked goes on. -/
def State.unqueue (s : State) (id : ThreadId) (code : Option Nat) : State :=
  match code with
  | some c => s.upd id (Thread.readyCode s.cyc c (fun a => a))
  | none => s

/-- The home's check of a stamp for a thread that holds a reservation: the thread goes on, with `code` if it was parked, or
parks (R206). A fault that the home finds is recorded, and ends the wait (R181, log 111). -/
def State.stampCheck (s : State) (id : ThreadId) (q : BitVec 3) (code : Option Nat) : State :=
  match s.find id with
  | none => s
  | some t =>
    let h := t.handle q
    let bad (s : State) (f : Flt) : State := (s.homeRecord id (prevPc t.arch.pc) f).unqueue id code
    match s.translate id.tenant t.core .read h.stampVa with
    | .error (.flt f) => bad s f
    | .error e => (s.upd id (Thread.queued s.cyc q 0 h.want)).askFor id t.core e
    | .ok pa =>
      if isIo pa || isFab pa then bad s ⟨0x04, 5, addrWord h.stampVa, 0, 0, none⟩
      else
        let s1 := s.combineLine (some id) (lineOf pa)
        match s1.poisonOf pa with
        | some c => bad s1 ⟨0x05, c.toNat, addrWord h.stampVa, 0, 0, none⟩
        | none =>
          if s1.readN pa 8 = h.want then s1.unqueue id code
          else s1.upd id (Thread.queued s.cyc q pa h.want)

/-- A wait for a slot or an element (R206). -/
def State.queueWait (s : State) (q : BitVec 3) (prod : Bool) : Out :=
  let h := s.thr.handle q
  let role : QRole := if prod then .producer else .consumer
  s.enderC (if !h.valid then queueFault 3
    else if h.role ≠ .none ∧ h.role ≠ role then queueFault 2
    else if h.role = .none then
      match s.xlate .write h.line with
      | .error e => .error e
      | .ok pa =>
        if isIo pa || isFab pa then protFault 5 h.line
        else s.endChunk { Eff.none with pages := [h.line / 4096] } (State.ask (.reserve q prod))
    else s.endChunk Eff.none (fun s1 => s1.stampCheck s1.thr.id q none))

/-- `qwait.f` (R206). -/
def execQwaitF (q : BitVec 3) (s : State) : Out := s.queueWait q true

/-- `qwait.e` (R206). -/
def execQwaitE (q : BitVec 3) (s : State) : Out := s.queueWait q false

/-- The reservation a thread has asked for. -/
def Thread.reservation (t : Thread) : Option (BitVec 3 × Bool) :=
  match t.post with
  | some (.reserve q p) => some (q, p)
  | _ => none

/-- QUEUE_RESERVATION (R206): one event at the descriptor's home, and then the first check of the stamp. -/
def execQueueReservation (id : ThreadId) (s : State) : Out :=
  match s.find id with
  | none => .next s
  | some t =>
    match t.reservation with
    | none => .next s
    | some (q, prod) =>
      let h := t.handle q
      match s.translate id.tenant t.core .write h.line with
      | .error (.flt f) => .next ((s.posted id).homeRecord id (prevPc t.arch.pc) f)
      | .error e => .next (s.askFor id t.core e)
      | .ok pa =>
        if !s.granted (some id) pa then .next s
        else
          match s.homePoison id.tenant pa with
          | some c => .next ((s.posted id).homeRecord id (prevPc t.arch.pc) ⟨0x05, c.toNat, addrWord h.line, 0, 0, none⟩)
          | none =>
            let r := (s.posted id).rmw (some id) (pa + if prod then 24 else 32) 8 (fun old => some (old + 1))
            let h1 : QHandle := { h with role := if prod then .producer else .consumer, r := r.2 }
            .next ((r.1.upd id (Thread.setHandle q h1)).stampCheck id q none)

/-- The address of a doubleword of the reserved slot (R207). -/
def QHandle.slotVa (h : QHandle) (i : BitVec 6) : Nat := (h.base + h.place * (64 * 2 ^ h.lesz) + 8 * i.toNat) % 2 ^ 57

/-- The checks of an access to the reserved slot (R207). -/
def QHandle.slotOk (h : QHandle) (i : BitVec 6) (store : Bool) : Res Unit :=
  if h.role = .none ∨ (store ∧ h.role = .consumer) then queueFault 6
  else if 8 * 2 ^ h.lesz ≤ i.toNat then queueFault 5
  else .ok ()

/-- `qld` (R207). -/
def execQld (d : BitVec 5) (q : BitVec 3) (i : BitVec 6) (s : State) : Out :=
  let h := s.thr.handle q
  let va := h.slotVa i
  s.runC (match h.slotOk i false with
    | .error e => .error e
    | .ok _ =>
      match s.readAt va 8 with
      | .error e => .error e
      | .ok pa => s.loadReg d va pa 8 (fun w => w))

/-- `qst` (R207). -/
def execQst (d : BitVec 5) (q : BitVec 3) (i : BitVec 6) (s : State) : Out :=
  let h := s.thr.handle q
  let va := h.slotVa i
  let v := s.thr.arch.getX d
  s.runC (match h.slotOk i true with
    | .error e => .error e
    | .ok _ =>
      match s.writeAt va 8 with
      | .error e => .error e
      | .ok pa => s.retire { Eff.none with stores := [(va, pa, 8, v)], pages := [va / 4096] })

/-- The release of a slot: the role ends with the commit, and the stamp write is an event of its own (R208). -/
def State.queueAdvance (s : State) (q : BitVec 3) (role : QRole) (val : QHandle → Word) : Out :=
  let h := s.thr.handle q
  s.enderC (if h.role ≠ role then queueFault 6
    else
      match s.xlate .write h.stampVa with
      | .error e => .error e
      | .ok pa =>
        if isIo pa || isFab pa then protFault 5 h.stampVa
        else s.endChunk { Eff.none with pages := [h.stampVa / 4096] } (fun s1 =>
          State.ask (.stamp q h.stampVa pa (val h)) { s1 with thr := s1.thr.setHandle q { h with role := .none, r := 0 } }))

/-- `qadv.h` (R208). -/
def execQadvH (q : BitVec 3) (s : State) : Out := s.queueAdvance q .consumer (fun h => h.r + BitVec.ofNat 64 h.slots)

/-- `qadv.t` (R208). -/
def execQadvT (q : BitVec 3) (s : State) : Out := s.queueAdvance q .producer (fun h => h.r + 1)

/-- The stamp write a thread has asked for. -/
def Thread.stamping (t : Thread) : Option (Nat × Nat × Word) :=
  match t.post with
  | some (.stamp _ va pa v) => some (va, pa, v)
  | _ => none

/-- A stamp can be written now. -/
def State.canStamp (s : State) (id : ThreadId) : Bool :=
  match (s.find id).bind Thread.stamping with
  | some (_, pa, _) => s.granted (some id) pa
  | none => false

/-- STAMP_WRITE (R208): an event after the commit; a poisoned line is reported by record (R181, log 111). -/
def execStampWrite (id : ThreadId) (s : State) : Out :=
  match (s.find id).bind (fun t => t.stamping.map (fun p => (t, p))) with
  | none => .next s
  | some (t, va, pa, v) =>
    if !s.canStamp id then .next s
    else
      let s1 := s.posted id
      match s1.homePoison id.tenant pa with
      | some c => .next (s1.homeRecord id (prevPc t.arch.pc) ⟨0x05, c.toNat, addrWord va, 0, 0, none⟩)
      | none => .next (s1.writeEvent (some id) false (cellsOf pa 8 v))

/-- `qstat` (R209). -/
def QHandle.stat (h : QHandle) : Word :=
  let role : BitVec 2 := match h.role with | .none => 0 | .producer => 1 | .consumer => 2
  BitVec.ofBool h.valid ++ role ++ BitVec.ofNat 3 h.lesz ++ BitVec.ofNat 5 h.lslot ++ 0#21
    ++ (if h.role = .none then 0#32 else h.r.setWidth 32)

/-- `qstat` (R209): reads the handle only. -/
def execQstat (d : BitVec 5) (q : BitVec 3) (s : State) : Out :=
  let v := (s.thr.handle q).stat
  s.regsC (fun a => a.setX d v)

end Sys2Proof.Machine
end

