-- ==== Sys2Proof/Decode.lean ====
section
/-! DEFINITION. The decoder of a bundle, total on any two words, which names the code of R41 for a bundle that is no
instruction; and the encoder, which writes the words of a well-formed instruction from the same tables (R35 to R41).
A C-slot instruction is encoded as a lone bundle, an A-slot instruction as a pair with `nop` (R51). -/

namespace Sys2Proof

/-- Bits lo + n − 1 : lo of a word. -/
def fld (w : Half) (lo n : Nat) : BitVec n := w.extractLsb' lo n

/-- Goes on when the condition holds, else stops with a code of R41. -/
def need {α : Type} (c : Bool) (code : Nat) (k : Except Nat α) : Except Nat α := if c then k else .error code

/-- Goes on with the value a code names, else stops with a code of R41. -/
def want {α β : Type} (o : Option α) (code : Nat) (k : α → Except Nat β) : Except Nat β :=
  match o with
  | some a => k a
  | none => .error code

/-- The immediate of an instruction marked L: the literal when it is not zero, else the short field (R31). -/
def immOf {n : Nat} (lit : Half) (v : BitVec n) : Imm n := if lit = 0 then .short v else .lit lit

/-- The LoadSize a sub-field value names. -/
def LoadSize.ofCode (n : Nat) : Option LoadSize :=
  match n with
  | 0 => some .b
  | 1 => some .h
  | 2 => some .w
  | 3 => some .d
  | 4 => some .bu
  | 5 => some .hu
  | 6 => some .wu
  | _ => none

/-- The sub-field value of a LoadSize. -/
def LoadSize.code : LoadSize → Nat
  | .b => 0
  | .h => 1
  | .w => 2
  | .d => 3
  | .bu => 4
  | .hu => 5
  | .wu => 6

/-- The Size a sub-field value names. -/
def Size.ofCode (n : Nat) : Option Size :=
  match n with
  | 0 => some .b
  | 1 => some .h
  | 2 => some .w
  | 3 => some .d
  | _ => none

/-- The sub-field value of a Size. -/
def Size.code : Size → Nat
  | .b => 0
  | .h => 1
  | .w => 2
  | .d => 3

/-- The AmoOp a sub-field value names. -/
def AmoOp.ofCode (n : Nat) : Option AmoOp :=
  match n with
  | 0 => some .add
  | 1 => some .and
  | 2 => some .or
  | 3 => some .xor
  | 4 => some .min
  | 5 => some .max
  | 6 => some .minu
  | 7 => some .maxu
  | 8 => some .swap
  | 9 => some .fadd
  | _ => none

/-- The sub-field value of a AmoOp. -/
def AmoOp.code : AmoOp → Nat
  | .add => 0
  | .and => 1
  | .or => 2
  | .xor => 3
  | .min => 4
  | .max => 5
  | .minu => 6
  | .maxu => 7
  | .swap => 8
  | .fadd => 9

/-- The AmoSize a sub-field value names. -/
def AmoSize.ofCode (n : Nat) : Option AmoSize :=
  match n with
  | 2 => some .w
  | 3 => some .d
  | _ => none

/-- The sub-field value of a AmoSize. -/
def AmoSize.code : AmoSize → Nat
  | .w => 2
  | .d => 3

/-- The RangeFmt a sub-field value names. -/
def RangeFmt.ofCode (n : Nat) : Option RangeFmt :=
  match n with
  | 0 => some .s
  | 1 => some .b
  | 2 => some .i64
  | _ => none

/-- The sub-field value of a RangeFmt. -/
def RangeFmt.code : RangeFmt → Nat
  | .s => 0
  | .b => 1
  | .i64 => 2

/-- The WatchCond a sub-field value names. -/
def WatchCond.ofCode (n : Nat) : Option WatchCond :=
  match n with
  | 0 => some .any
  | 1 => some .eq
  | 2 => some .ne
  | 3 => some .geu
  | _ => none

/-- The sub-field value of a WatchCond. -/
def WatchCond.code : WatchCond → Nat
  | .any => 0
  | .eq => 1
  | .ne => 2
  | .geu => 3

/-- The FpTy a sub-field value names. -/
def FpTy.ofCode (n : Nat) : Option FpTy :=
  match n with
  | 0 => some .d
  | 1 => some .s
  | 2 => some .h
  | 3 => some .b
  | _ => none

/-- The sub-field value of a FpTy. -/
def FpTy.code : FpTy → Nat
  | .d => 0
  | .s => 1
  | .h => 2
  | .b => 3

/-- The RmField a sub-field value names. -/
def RmField.ofCode (n : Nat) : Option RmField :=
  match n with
  | 0 => some .sts
  | 1 => some .rne
  | 2 => some .rtz
  | 3 => some .rdn
  | 4 => some .rup
  | 5 => some .rna
  | 6 => some .sr
  | _ => none

/-- The sub-field value of a RmField. -/
def RmField.code : RmField → Nat
  | .sts => 0
  | .rne => 1
  | .rtz => 2
  | .rdn => 3
  | .rup => 4
  | .rna => 5
  | .sr => 6

/-- The VTy a sub-field value names. -/
def VTy.ofCode (n : Nat) : Option VTy :=
  match n with
  | 0 => some .s
  | 1 => some .d
  | 2 => some .h
  | 3 => some .b
  | 4 => some .i8
  | 5 => some .i16
  | 6 => some .i32
  | 7 => some .i64
  | _ => none

/-- The sub-field value of a VTy. -/
def VTy.code : VTy → Nat
  | .s => 0
  | .d => 1
  | .h => 2
  | .b => 3
  | .i8 => 4
  | .i16 => 5
  | .i32 => 6
  | .i64 => 7

/-- The CmpOp a sub-field value names. -/
def CmpOp.ofCode (n : Nat) : Option CmpOp :=
  match n with
  | 0 => some .eq
  | 1 => some .ne
  | 2 => some .lt
  | 3 => some .le
  | 4 => some .ltu
  | 5 => some .leu
  | _ => none

/-- The sub-field value of a CmpOp. -/
def CmpOp.code : CmpOp → Nat
  | .eq => 0
  | .ne => 1
  | .lt => 2
  | .le => 3
  | .ltu => 4
  | .leu => 5

/-- The NarrowFmt a sub-field value names. -/
def NarrowFmt.ofCode (n : Nat) : Option NarrowFmt :=
  match n with
  | 0 => some .e4m3
  | 1 => some .e5m2
  | 2 => some .d8
  | 3 => some .e2m1
  | 4 => some .i4
  | _ => none

/-- The sub-field value of a NarrowFmt. -/
def NarrowFmt.code : NarrowFmt → Nat
  | .e4m3 => 0
  | .e5m2 => 1
  | .d8 => 2
  | .e2m1 => 3
  | .i4 => 4

/-- The RedOp a sub-field value names. -/
def RedOp.ofCode (n : Nat) : Option RedOp :=
  match n with
  | 0 => some .sum
  | 1 => some .min
  | 2 => some .max
  | _ => none

/-- The sub-field value of a RedOp. -/
def RedOp.code : RedOp → Nat
  | .sum => 0
  | .min => 1
  | .max => 2

/-- The CvtTy a sub-field value names. -/
def CvtTy.ofCode (n : Nat) : Option CvtTy :=
  match n with
  | 0 => some .d
  | 1 => some .s
  | 2 => some .h
  | 3 => some .b
  | 4 => some .i32
  | 5 => some .i64
  | _ => none

/-- The sub-field value of a CvtTy. -/
def CvtTy.code : CvtTy → Nat
  | .d => 0
  | .s => 1
  | .h => 2
  | .b => 3
  | .i32 => 4
  | .i64 => 5

/-- Word 0 with major opcode 0x00, format CN (R38). -/
def decC00 (w _lit : Half) : Except Nat Instr :=
  let d := fld w 20 5
  let s1 := fld w 15 5
  let s2 := fld w 10 5
  need (fld w 9 1 == 1 || fld w 0 9 == 0) 2 (need (d == 0 && s1 == 0 && s2 == 0) 3 (
    .ok (if fld w 9 1 == 1 then .brk (fld w 0 9) else .nop)))

/-- Word 0 with major opcode 0x01, format CB (R38). -/
def decC01 (w lit : Half) : Except Nat Instr :=
  let d := fld w 20 5
  let s1 := fld w 15 5
  let s2 := fld w 10 5
  .ok (.bEq s1 s2 (immOf lit (d ++ fld w 0 10)))

/-- Word 0 with major opcode 0x02, format CB (R38). -/
def decC02 (w lit : Half) : Except Nat Instr :=
  let d := fld w 20 5
  let s1 := fld w 15 5
  let s2 := fld w 10 5
  .ok (.bNe s1 s2 (immOf lit (d ++ fld w 0 10)))

/-- Word 0 with major opcode 0x03, format CB (R38). -/
def decC03 (w lit : Half) : Except Nat Instr :=
  let d := fld w 20 5
  let s1 := fld w 15 5
  let s2 := fld w 10 5
  .ok (.bLt s1 s2 (immOf lit (d ++ fld w 0 10)))

/-- Word 0 with major opcode 0x04, format CB (R38). -/
def decC04 (w lit : Half) : Except Nat Instr :=
  let d := fld w 20 5
  let s1 := fld w 15 5
  let s2 := fld w 10 5
  .ok (.bGe s1 s2 (immOf lit (d ++ fld w 0 10)))

/-- Word 0 with major opcode 0x05, format CB (R38). -/
def decC05 (w lit : Half) : Except Nat Instr :=
  let d := fld w 20 5
  let s1 := fld w 15 5
  let s2 := fld w 10 5
  .ok (.bLtu s1 s2 (immOf lit (d ++ fld w 0 10)))

/-- Word 0 with major opcode 0x06, format CB (R38). -/
def decC06 (w lit : Half) : Except Nat Instr :=
  let d := fld w 20 5
  let s1 := fld w 15 5
  let s2 := fld w 10 5
  .ok (.bGeu s1 s2 (immOf lit (d ++ fld w 0 10)))

/-- Word 0 with major opcode 0x07, format CJ (R38). -/
def decC07 (w lit : Half) : Except Nat Instr :=
  let d := fld w 20 5
  let s1 := fld w 15 5
  if fld w 14 1 == 1 then .ok (.jalr d s1 (immOf lit (fld w 0 14)))
  else need (s1 == 0) 3 (.ok (.jal d (immOf lit (fld w 0 14))))

/-- Word 0 with major opcode 0x08, format CM (R38). -/
def decC08 (w lit : Half) : Except Nat Instr :=
  let d := fld w 20 5
  let s1 := fld w 15 5
  want (LoadSize.ofCode (fld w 12 3).toNat) 2 fun z => .ok (.ld z d s1 (immOf lit (fld w 0 12)))

/-- Word 0 with major opcode 0x09, format CM (R38). -/
def decC09 (w lit : Half) : Except Nat Instr :=
  let d := fld w 20 5
  let s1 := fld w 15 5
  want (Size.ofCode (fld w 12 3).toNat) 2 fun z => .ok (.st z d s1 (immOf lit (fld w 0 12)))

/-- Word 0 with major opcode 0x0A, format CM (R38). -/
def decC0A (w lit : Half) : Except Nat Instr :=
  let d := fld w 20 5
  let s1 := fld w 15 5
  need (decide ((fld w 12 3).toNat < 2)) 2 (need (d == 0) 3 (
    .ok (if fld w 12 3 == 0 then .prfL1 s1 (immOf lit (fld w 0 12)) else .prfL2 s1 (immOf lit (fld w 0 12)))))

/-- Word 0 with major opcode 0x0B, format CM (R38). -/
def decC0B (w lit : Half) : Except Nat Instr :=
  let d := fld w 20 5
  let s1 := fld w 15 5
  need (d == 0 && fld w 12 3 == 0) 3 (.ok (.zline s1 (immOf lit (fld w 0 12))))

/-- Word 0 with major opcode 0x10, format CV (R38). -/
def decC10 (w lit : Half) : Except Nat Instr :=
  let d := fld w 20 5
  let s1 := fld w 15 5
  let s2 := fld w 10 5
  need (fld w 0 5 == 0) 3 (want (Size.ofCode (fld w 5 2).toNat) 2 fun z => .ok (.vld z d s1 s2 (fld w 7 3) lit))

/-- Word 0 with major opcode 0x11, format CV (R38). -/
def decC11 (w lit : Half) : Except Nat Instr :=
  let d := fld w 20 5
  let s1 := fld w 15 5
  let s2 := fld w 10 5
  need (fld w 0 5 == 0) 3 (want (Size.ofCode (fld w 5 2).toNat) 2 fun z => .ok (.vst z d s1 s2 (fld w 7 3) lit))

/-- Word 0 with major opcode 0x12, format CV (R38). -/
def decC12 (w lit : Half) : Except Nat Instr :=
  let d := fld w 20 5
  let s1 := fld w 15 5
  let s2 := fld w 10 5
  need (fld w 0 5 == 0) 3 (want (Size.ofCode (fld w 5 2).toNat) 2 fun z => .ok (.vldx z d s1 s2 (fld w 7 3) lit))

/-- Word 0 with major opcode 0x13, format CV (R38). -/
def decC13 (w lit : Half) : Except Nat Instr :=
  let d := fld w 20 5
  let s1 := fld w 15 5
  let s2 := fld w 10 5
  need (fld w 0 5 == 0) 3 (want (Size.ofCode (fld w 5 2).toNat) 2 fun z => .ok (.vstx z d s1 s2 (fld w 7 3) lit))

/-- Word 0 with major opcode 0x14, format CV (R38). -/
def decC14 (w lit : Half) : Except Nat Instr :=
  let d := fld w 20 5
  let s1 := fld w 15 5
  let s2 := fld w 10 5
  need (fld w 0 7 == 0) 3 (.ok (.vldt d s1 s2 (fld w 7 3) lit))

/-- Word 0 with major opcode 0x15, format CV (R38). -/
def decC15 (w lit : Half) : Except Nat Instr :=
  let d := fld w 20 5
  let s1 := fld w 15 5
  let s2 := fld w 10 5
  need (fld w 0 7 == 0) 3 (.ok (.vstt d s1 s2 (fld w 7 3) lit))

/-- Word 0 with major opcode 0x16, format CR (R38). -/
def decC16 (w _lit : Half) : Except Nat Instr :=
  let d := fld w 20 5
  let s1 := fld w 15 5
  let s2 := fld w 10 5
  let fn := fld w 4 6
  want (AmoOp.ofCode fn.toNat) 2 fun o => want (AmoSize.ofCode (fld w 0 2).toNat) 2 fun z =>
    need (fld w 2 2 == 0) 3 (.ok (.amo o z d s1 s2))

/-- Word 0 with major opcode 0x17, format CR (R38). -/
def decC17 (w _lit : Half) : Except Nat Instr :=
  let d := fld w 20 5
  let s1 := fld w 15 5
  let s2 := fld w 10 5
  let fn := fld w 4 6
  need (fn == 0) 2 (want (AmoSize.ofCode (fld w 0 2).toNat) 2 fun z =>
    need (fld w 2 2 == 0) 3 (.ok (.cas z d s1 s2)))

/-- Word 0 with major opcode 0x18, format CR (R38). -/
def decC18 (w _lit : Half) : Except Nat Instr :=
  let d := fld w 20 5
  let s1 := fld w 15 5
  let s2 := fld w 10 5
  let fn := fld w 4 6
  want (AmoOp.ofCode fn.toNat) 2 fun o => need (decide (o ≠ .swap)) 2 (
    want (AmoSize.ofCode (fld w 0 2).toNat) 2 fun z => need (fld w 2 2 == 0 && d == 0) 3 (.ok (.amop o z s1 s2)))

/-- Word 0 with major opcode 0x19, format CR (R38). -/
def decC19 (w _lit : Half) : Except Nat Instr :=
  let d := fld w 20 5
  let s1 := fld w 15 5
  let s2 := fld w 10 5
  let fn := fld w 4 6
  let md := fld w 0 4
  need (fn == 0) 2 (want (RangeFmt.ofCode md.toNat) 2 fun f => .ok (.crange f d s1 s2))

/-- Word 0 with major opcode 0x1A, format CR (R38). -/
def decC1A (w _lit : Half) : Except Nat Instr :=
  let d := fld w 20 5
  let s1 := fld w 15 5
  let s2 := fld w 10 5
  let fn := fld w 4 6
  let md := fld w 0 4
  need (fn == 0) 2 (want (RangeFmt.ofCode md.toNat) 2 fun f => need (d == 0) 3 (.ok (.radd f s1 s2)))

/-- Word 0 with major opcode 0x1B, format CR (R38). -/
def decC1B (w _lit : Half) : Except Nat Instr :=
  let d := fld w 20 5
  let s1 := fld w 15 5
  let s2 := fld w 10 5
  let fn := fld w 4 6
  let md := fld w 0 4
  if fn == 0 then want (Size.ofCode md.toNat) 2 fun z => need (d == 0) 3 (.ok (.rst z s1 s2))
  else if fn == 1 then need (d == 0 && s1 == 0 && s2 == 0 && md == 0) 3 (.ok .dflush)
  else need (decide (16 ≤ fn.toNat)) 2 (want (AmoOp.ofCode (fn.toNat - 16)) 2 fun o => need (decide (o ≠ .swap)) 2 (
    want (AmoSize.ofCode (fld w 0 2).toNat) 2 fun z => need (fld w 2 2 == 0 && d == 0) 3 (.ok (.ramo o z s1 s2))))

/-- Word 0 with major opcode 0x1C, format CR (R38). -/
def decC1C (w _lit : Half) : Except Nat Instr :=
  let d := fld w 20 5
  let s1 := fld w 15 5
  let s2 := fld w 10 5
  let fn := fld w 4 6
  let md := fld w 0 4
  need (d == 0 && s1 == 0 && s2 == 0 && fn == 0 && md == 0) 3 (.ok .chunk)

/-- Word 0 with major opcode 0x1D, format CR (R38). -/
def decC1D (w _lit : Half) : Except Nat Instr :=
  let d := fld w 20 5
  let s1 := fld w 15 5
  let s2 := fld w 10 5
  let fn := fld w 4 6
  let md := fld w 0 4
  if fn == 0 then need (d == 0 && s1 == 0 && s2 == 0 && md == 0) 3 (.ok .fenceD)
  else if fn == 1 then need (d == 0 && s1 == 0 && s2 == 0 && md == 0) 3 (.ok .fenceE)
  else if fn == 2 then need (d == 0 && s1 == 0 && s2 == 0 && md == 0) 3 (.ok .fenceA)
  else .error 2

/-- Word 0 with major opcode 0x1E, format CR (R38). -/
def decC1E (w _lit : Half) : Except Nat Instr :=
  let d := fld w 20 5
  let s1 := fld w 15 5
  let s2 := fld w 10 5
  let fn := fld w 4 6
  let md := fld w 0 4
  if fn == 0 then need (d == 0 && s1 == 0 && s2 == 0 && md == 0) 3 (.ok .xbegin)
  else if fn == 1 then need (s1 == 0 && s2 == 0 && md == 0) 3 (.ok (.xend d))
  else if fn == 2 then need (d == 0 && s1 == 0 && s2 == 0) 3 (.ok (.xabort md))
  else .error 2

/-- Word 0 with major opcode 0x20, format CR (R38). -/
def decC20 (w _lit : Half) : Except Nat Instr :=
  let d := fld w 20 5
  let s1 := fld w 15 5
  let s2 := fld w 10 5
  let fn := fld w 4 6
  let md := fld w 0 4
  need (s2 == 0 && fn == 0 && md == 0) 3 (need (decide (d.toNat < 8)) 6 (.ok (.qbind (fld w 20 3) s1)))

/-- Word 0 with major opcode 0x21, format CR (R38). -/
def decC21 (w _lit : Half) : Except Nat Instr :=
  let d := fld w 20 5
  let s1 := fld w 15 5
  let s2 := fld w 10 5
  let fn := fld w 4 6
  let md := fld w 0 4
  if fn == 0 then need (s1 == 0 && s2 == 0 && md == 0) 3 (need (decide (d.toNat < 8)) 6 (.ok (.qwaitF (fld w 20 3))))
  else if fn == 1 then need (s1 == 0 && s2 == 0 && md == 0) 3 (need (decide (d.toNat < 8)) 6 (.ok (.qwaitE (fld w 20 3))))
  else .error 2

/-- Word 0 with major opcode 0x22, format CR (R38). -/
def decC22 (w _lit : Half) : Except Nat Instr :=
  let d := fld w 20 5
  let s1 := fld w 15 5
  let s2 := fld w 10 5
  let fn := fld w 4 6
  let md := fld w 0 4
  if fn == 0 then need (s1 == 0 && s2 == 0 && md == 0) 3 (need (decide (d.toNat < 8)) 6 (.ok (.qadvH (fld w 20 3))))
  else if fn == 1 then need (s1 == 0 && s2 == 0 && md == 0) 3 (need (decide (d.toNat < 8)) 6 (.ok (.qadvT (fld w 20 3))))
  else .error 2

/-- Word 0 with major opcode 0x23, format CR (R38). -/
def decC23 (w _lit : Half) : Except Nat Instr :=
  let d := fld w 20 5
  let s1 := fld w 15 5
  let s2 := fld w 10 5
  let fn := fld w 4 6
  let md := fld w 0 4
  need (s1 == 0 && md == 0) 3 (need (decide (s2.toNat < 8)) 6 (.ok (.qld d (fld w 10 3) fn)))

/-- Word 0 with major opcode 0x24, format CR (R38). -/
def decC24 (w _lit : Half) : Except Nat Instr :=
  let d := fld w 20 5
  let s1 := fld w 15 5
  let s2 := fld w 10 5
  let fn := fld w 4 6
  let md := fld w 0 4
  need (s1 == 0 && md == 0) 3 (need (decide (s2.toNat < 8)) 6 (.ok (.qst d (fld w 10 3) fn)))

/-- Word 0 with major opcode 0x25, format CR (R38). -/
def decC25 (w _lit : Half) : Except Nat Instr :=
  let d := fld w 20 5
  let s1 := fld w 15 5
  let s2 := fld w 10 5
  let fn := fld w 4 6
  let md := fld w 0 4
  need (s1 == 0 && fn == 0 && md == 0) 3 (need (decide (s2.toNat < 8)) 6 (.ok (.qstat d (fld w 10 3))))

/-- Word 0 with major opcode 0x26, format CR (R38). -/
def decC26 (w _lit : Half) : Except Nat Instr :=
  let d := fld w 20 5
  let s1 := fld w 15 5
  let s2 := fld w 10 5
  let fn := fld w 4 6
  if fn == 0 then need (fld w 2 2 == 0 && s2 == 0) 3 (.ok (.pcopy d s1 (fld w 0 2)))
  else if fn == 1 then need (fld w 2 2 == 0 && s2 == 0) 3 (.ok (.pcopyt d s1 (fld w 0 2)))
  else if fn == 2 then need (fld w 2 2 == 0 && s2 == 0) 3 (.ok (.pgath d s1 (fld w 0 2)))
  else if fn == 3 then need (fld w 2 2 == 0 && s2 == 0) 3 (.ok (.pscat d s1 (fld w 0 2)))
  else if fn == 4 then need (fld w 2 2 == 0 && s2 == 0) 3 (.ok (.pscadd d s1 (fld w 0 2)))
  else if fn == 5 then need (fld w 2 2 == 0 && s2 == 0) 3 (.ok (.pfill d s1 (fld w 0 2)))
  else .error 2

/-- Word 0 with major opcode 0x28, format CT (R38). -/
def decC28 (w _lit : Half) : Except Nat Instr :=
  let d := fld w 20 5
  let s1 := fld w 15 5
  let s2 := fld w 10 5
  let md := fld w 0 4
  need (fld w 4 6 == 0 && md == 0) 3 (need (decide (d.toNat < 4)) 6 (.ok (.twarp (fld w 20 2) s1 s2)))

/-- Word 0 with major opcode 0x29, format CT (R38). -/
def decC29 (w _lit : Half) : Except Nat Instr :=
  let d := fld w 20 5
  let s1 := fld w 15 5
  let s2 := fld w 10 5
  let fn := fld w 4 6
  let md := fld w 0 4
  need (s1 == 0 && s2 == 0 && fn == 0 && md == 0) 3 (need (decide (d.toNat < 8)) 6 (.ok (.tzero (fld w 20 3))))

/-- Word 0 with major opcode 0x2A, format CT (R38). -/
def decC2A (w _lit : Half) : Except Nat Instr :=
  let d := fld w 20 5
  let s1 := fld w 15 5
  let s2 := fld w 10 5
  let fn := fld w 4 6
  let md := fld w 0 4
  need (d == 0 && fn == 0 && md == 0) 3 (.ok (.tlda s1 s2))

/-- Word 0 with major opcode 0x2B, format CT (R38). -/
def decC2B (w _lit : Half) : Except Nat Instr :=
  let d := fld w 20 5
  let s1 := fld w 15 5
  let s2 := fld w 10 5
  let md := fld w 0 4
  need (decide (md.toNat < 2)) 2 (need (s1 == 0 && s2 == 0 && fld w 4 3 == 0) 3 (need (decide (d.toNat < 8) && decide ((fld w 7 3).toNat < 4)) 6 (
    .ok (if md == 0 then .tmul (fld w 20 3) (fld w 7 2) else .tmult (fld w 20 3) (fld w 7 2)))))

/-- Word 0 with major opcode 0x2C, format CT (R38). -/
def decC2C (w _lit : Half) : Except Nat Instr :=
  let d := fld w 20 5
  let s1 := fld w 15 5
  let s2 := fld w 10 5
  let fn := fld w 4 6
  let md := fld w 0 4
  need (fn == 0 && md == 0) 3 (need (decide (d.toNat < 8)) 6 (.ok (.touter (fld w 20 3) s1 s2)))

/-- Word 0 with major opcode 0x2D, format CT (R38). -/
def decC2D (w _lit : Half) : Except Nat Instr :=
  let d := fld w 20 5
  let s1 := fld w 15 5
  let s2 := fld w 10 5
  let fn := fld w 4 6
  let md := fld w 0 4
  if md == 0 then need (s2 == 0 && fn == 0) 3 (need (decide (d.toNat < 8)) 6 (.ok (.tewBias (fld w 20 3) s1)))
  else if md == 1 then need (s2 == 0 && fn == 0) 3 (need (decide (d.toNat < 8)) 6 (.ok (.tewScale (fld w 20 3) s1)))
  else if md == 2 then need (s1 == 0 && s2 == 0 && fn == 0) 3 (need (decide (d.toNat < 8)) 6 (.ok (.tewRelu (fld w 20 3))))
  else if md == 3 then need (s1 == 0 && s2 == 0 && fn == 0) 3 (need (decide (d.toNat < 8)) 6 (.ok (.tewGelu (fld w 20 3))))
  else if md == 4 then need (s1 == 0 && s2 == 0 && fn == 0) 3 (need (decide (d.toNat < 8)) 6 (.ok (.tewSilu (fld w 20 3))))
  else if md == 5 then need (fn == 0) 3 (need (decide (d.toNat < 8)) 6 (.ok (.tewClamp (fld w 20 3) s1 s2)))
  else .error 2

/-- Word 0 with major opcode 0x2E, format CT (R38). -/
def decC2E (w _lit : Half) : Except Nat Instr :=
  let d := fld w 20 5
  let s1 := fld w 15 5
  let s2 := fld w 10 5
  let fn := fld w 4 6
  let md := fld w 0 4
  if md == 0 then need (s2 == 0 && fn == 0) 3 (need (decide (d.toNat < 8)) 6 (.ok (.tred (fld w 20 3) s1)))
  else if md == 1 then need (fn == 0) 3 (need (decide (d.toNat < 8)) 6 (.ok (.tst (fld w 20 3) s1 s2)))
  else if md == 2 then need (d == 0 && s2 == 0 && fn == 0) 3 (.ok (.tsync s1))
  else .error 2

/-- Word 0 with major opcode 0x2F, format CT (R38). -/
def decC2F (w _lit : Half) : Except Nat Instr :=
  let d := fld w 20 5
  let s1 := fld w 15 5
  let s2 := fld w 10 5
  let fn := fld w 4 6
  let md := fld w 0 4
  if md == 0 then need (d == 0 && s1 == 0 && s2 == 0 && fn == 0) 3 (.ok .trecOn)
  else if md == 1 then need (d == 0 && s1 == 0 && s2 == 0 && fn == 0) 3 (.ok .trecOff)
  else if md == 2 then need (d == 0 && s2 == 0 && fn == 0) 3 (.ok (.unwind s1))
  else if md == 3 then need (d == 0 && s1 == 0 && s2 == 0 && fn == 0) 3 (.ok .tdrop)
  else .error 2

/-- Word 0 with major opcode 0x30, format CR (R38). -/
def decC30 (w _lit : Half) : Except Nat Instr :=
  let d := fld w 20 5
  let s1 := fld w 15 5
  let s2 := fld w 10 5
  let fn := fld w 4 6
  let md := fld w 0 4
  want (WatchCond.ofCode fn.toNat) 2 fun c => need (md == 0) 3 (need (decide (d.toNat < 4)) 6 (.ok (.watch c (fld w 20 2) s1 s2)))

/-- Word 0 with major opcode 0x31, format CR (R38). -/
def decC31 (w _lit : Half) : Except Nat Instr :=
  let d := fld w 20 5
  let s1 := fld w 15 5
  let s2 := fld w 10 5
  let fn := fld w 4 6
  let md := fld w 0 4
  if fn == 0 then need (s1 == 0 && s2 == 0 && md == 0) 3 (need (decide (d.toNat < 4)) 6 (.ok (.unwatch (fld w 20 2))))
  else if fn == 1 then need (s2 == 0 && md == 0) 3 (.ok (.wait d s1))
  else if fn == 2 then need (d == 0 && s1 == 0 && s2 == 0 && md == 0) 3 (.ok .yield)
  else if fn == 3 then need (d == 0 && s1 == 0 && s2 == 0 && fld w 1 3 == 0) 3 (.ok (if fld w 0 1 == 1 then .haltRetain else .halt))
  else if fn == 4 then need (d == 0 && s2 == 0 && md == 0) 3 (.ok (.live s1))
  else .error 2

/-- Word 0 with major opcode 0x32, format CR (R38). -/
def decC32 (w _lit : Half) : Except Nat Instr :=
  let d := fld w 20 5
  let s1 := fld w 15 5
  let s2 := fld w 10 5
  let fn := fld w 4 6
  let md := fld w 0 4
  need (fn == 0 && md == 0) 3 (.ok (.spawn d s1 s2))

/-- Word 0 with major opcode 0x33, format CR (R38). -/
def decC33 (w _lit : Half) : Except Nat Instr :=
  let d := fld w 20 5
  let s1 := fld w 15 5
  let s2 := fld w 10 5
  let fn := fld w 4 6
  let md := fld w 0 4
  if fn == 0 then need (d == 0 && s1 == 0 && s2 == 0 && md == 0) 3 (.ok .pwait)
  else if fn == 1 then need (d == 0 && s1 == 0 && s2 == 0 && md == 0) 3 (.ok .smay)
  else .error 2

/-- Word 0 with major opcode 0x34, format CR (R38). -/
def decC34 (w _lit : Half) : Except Nat Instr :=
  let d := fld w 20 5
  let s1 := fld w 15 5
  let s2 := fld w 10 5
  let fn := fld w 4 6
  let md := fld w 0 4
  need (fn == 0 && md == 0) 3 (.ok (.bar d s1 s2))

/-- Word 0 with major opcode 0x35, format CR (R38). -/
def decC35 (w _lit : Half) : Except Nat Instr :=
  let d := fld w 20 5
  let s1 := fld w 15 5
  let s2 := fld w 10 5
  let fn := fld w 4 6
  let md := fld w 0 4
  if fn == 0 then need (s2 == 0 && md == 0) 3 (.ok (.dmem d s1))
  else if fn == 1 then need (s2 == 0 && md == 0) 3 (.ok (.dbar d s1))
  else .error 2

/-- Word 0 with major opcode 0x36, format CR (R38). -/
def decC36 (w _lit : Half) : Except Nat Instr :=
  let d := fld w 20 5
  let s1 := fld w 15 5
  let s2 := fld w 10 5
  let fn := fld w 4 6
  let md := fld w 0 4
  if fn == 0 then need (s2 == 0 && md == 0) 3 (.ok (.vclaim d s1))
  else if fn == 1 then need (d == 0 && s1 == 0 && s2 == 0 && md == 0) 3 (.ok .vrel)
  else if fn == 2 then need (s2 == 0 && md == 0) 3 (.ok (.vreneg d s1))
  else .error 2

/-- Word 0 with major opcode 0x37, format CR (R38). -/
def decC37 (w _lit : Half) : Except Nat Instr :=
  let d := fld w 20 5
  let s1 := fld w 15 5
  let s2 := fld w 10 5
  let fn := fld w 4 6
  let md := fld w 0 4
  if fn == 0 then need (md == 0) 3 (.ok (.xchg d s1 s2))
  else if fn == 1 then need (s2 == 0 && md == 0) 3 (.ok (.launch d s1))
  else .error 2

/-- Word 0 with major opcode 0x38, format CR (R38). -/
def decC38 (w _lit : Half) : Except Nat Instr :=
  let d := fld w 20 5
  let s1 := fld w 15 5
  let s2 := fld w 10 5
  let fn := fld w 4 6
  let md := fld w 0 4
  if fn == 0 then need (s2 == 0 && md == 0) 3 (.ok (.tstop d s1))
  else if fn == 1 then need (s2 == 0 && md == 0) 3 (.ok (.tstart d s1))
  else .error 2

/-- Word 0 with major opcode 0x39, format CR (R38). -/
def decC39 (w _lit : Half) : Except Nat Instr :=
  let d := fld w 20 5
  let s1 := fld w 15 5
  let s2 := fld w 10 5
  let fn := fld w 4 6
  let md := fld w 0 4
  need (s2 == 0 && md == 0) 3 (need (decide (fn.toNat < 61)) 6 (.ok (.trds d s1 fn)))

/-- Word 0 with major opcode 0x3A, format CR (R38). -/
def decC3A (w _lit : Half) : Except Nat Instr :=
  let d := fld w 20 5
  let s1 := fld w 15 5
  let s2 := fld w 10 5
  let fn := fld w 4 6
  let md := fld w 0 4
  need (md == 0) 3 (need (decide (fn.toNat < 61)) 6 (need (itemWritable fn) 8 (.ok (.twrs d s1 s2 fn))))

/-- Word 0 with major opcode 0x3B, format CR (R38). -/
def decC3B (w _lit : Half) : Except Nat Instr :=
  let d := fld w 20 5
  let s1 := fld w 15 5
  let s2 := fld w 10 5
  let fn := fld w 4 6
  let md := fld w 0 4
  if fn == 0 then need (s2 == 0 && md == 0) 3 (.ok (.igrant d s1))
  else if fn == 1 then need (s2 == 0 && md == 0) 3 (.ok (.irevoke d s1))
  else if fn == 2 then need (s2 == 0 && md == 0) 3 (.ok (.iquery d s1))
  else .error 2

/-- Word 0 with major opcode 0x3C, format CI (R38). -/
def decC3C (w lit : Half) : Except Nat Instr :=
  let d := fld w 20 5
  .ok (.movi d (immOf lit (fld w 0 20)))

/-- Word 0 with major opcode 0x3D, format CI (R38). -/
def decC3D (w lit : Half) : Except Nat Instr :=
  let d := fld w 20 5
  .ok (.movhi d (immOf lit (fld w 0 20)))

/-- Word 0 with major opcode 0x3E, format CR (R38). -/
def decC3E (w _lit : Half) : Except Nat Instr :=
  let d := fld w 20 5
  let s1 := fld w 15 5
  let s2 := fld w 10 5
  let fn := fld w 4 6
  let md := fld w 0 4
  if fn == 0 then need (s1 == 0 && md == 0) 3 (need (decide (s2.toNat < 29)) 6 (.ok (.srd d s2)))
  else if fn == 1 then need (d == 0 && md == 0) 3 (need (decide (s2.toNat < 29)) 6 (need (wordWritable s2) 8 (.ok (.swr s1 s2))))
  else if fn == 2 then need (s1 == 0 && s2 == 0 && md == 0) 3 (.ok (.time d))
  else .error 2

/-- Word 0 as a C-slot instruction, by its major opcode (R38); `lit` is the literal, or 0 in a pair. -/
def decodeC (w lit : Half) : Except Nat Instr :=
  match (fld w 25 6).toNat with
  | 0x00 => decC00 w lit
  | 0x01 => decC01 w lit
  | 0x02 => decC02 w lit
  | 0x03 => decC03 w lit
  | 0x04 => decC04 w lit
  | 0x05 => decC05 w lit
  | 0x06 => decC06 w lit
  | 0x07 => decC07 w lit
  | 0x08 => decC08 w lit
  | 0x09 => decC09 w lit
  | 0x0A => decC0A w lit
  | 0x0B => decC0B w lit
  | 0x10 => decC10 w lit
  | 0x11 => decC11 w lit
  | 0x12 => decC12 w lit
  | 0x13 => decC13 w lit
  | 0x14 => decC14 w lit
  | 0x15 => decC15 w lit
  | 0x16 => decC16 w lit
  | 0x17 => decC17 w lit
  | 0x18 => decC18 w lit
  | 0x19 => decC19 w lit
  | 0x1A => decC1A w lit
  | 0x1B => decC1B w lit
  | 0x1C => decC1C w lit
  | 0x1D => decC1D w lit
  | 0x1E => decC1E w lit
  | 0x20 => decC20 w lit
  | 0x21 => decC21 w lit
  | 0x22 => decC22 w lit
  | 0x23 => decC23 w lit
  | 0x24 => decC24 w lit
  | 0x25 => decC25 w lit
  | 0x26 => decC26 w lit
  | 0x28 => decC28 w lit
  | 0x29 => decC29 w lit
  | 0x2A => decC2A w lit
  | 0x2B => decC2B w lit
  | 0x2C => decC2C w lit
  | 0x2D => decC2D w lit
  | 0x2E => decC2E w lit
  | 0x2F => decC2F w lit
  | 0x30 => decC30 w lit
  | 0x31 => decC31 w lit
  | 0x32 => decC32 w lit
  | 0x33 => decC33 w lit
  | 0x34 => decC34 w lit
  | 0x35 => decC35 w lit
  | 0x36 => decC36 w lit
  | 0x37 => decC37 w lit
  | 0x38 => decC38 w lit
  | 0x39 => decC39 w lit
  | 0x3A => decC3A w lit
  | 0x3B => decC3B w lit
  | 0x3C => decC3C w lit
  | 0x3D => decC3D w lit
  | 0x3E => decC3E w lit
  | _ => .error 1

/-- Word 1 with major opcode 0x00, format AR (R39). -/
def decA00 (w : Half) : Except Nat Instr :=
  let d := fld w 21 5
  let a1 := fld w 16 5
  let a2 := fld w 11 5
  let a3 := fld w 6 5
  let fn := fld w 0 6
  if fn == 0 then need (a3 == 0) 3 (.ok (.add d a1 a2))
  else if fn == 1 then need (a3 == 0) 3 (.ok (.sub d a1 a2))
  else if fn == 2 then need (a3 == 0) 3 (.ok (.and d a1 a2))
  else if fn == 3 then need (a3 == 0) 3 (.ok (.or d a1 a2))
  else if fn == 4 then need (a3 == 0) 3 (.ok (.xor d a1 a2))
  else if fn == 5 then need (a3 == 0) 3 (.ok (.shl d a1 a2))
  else if fn == 6 then need (a3 == 0) 3 (.ok (.shr d a1 a2))
  else if fn == 7 then need (a3 == 0) 3 (.ok (.sar d a1 a2))
  else if fn == 8 then need (a3 == 0) 3 (.ok (.slt d a1 a2))
  else if fn == 9 then need (a3 == 0) 3 (.ok (.sltu d a1 a2))
  else if fn == 10 then need (a3 == 0) 3 (.ok (.min d a1 a2))
  else if fn == 11 then need (a3 == 0) 3 (.ok (.max d a1 a2))
  else if fn == 12 then need (a3 == 0) 3 (.ok (.minu d a1 a2))
  else if fn == 13 then need (a3 == 0) 3 (.ok (.maxu d a1 a2))
  else if fn == 14 then .ok (.sel d a1 a2 a3)
  else .error 2

/-- Word 1 with major opcode 0x01, format AR (R39). -/
def decA01 (w : Half) : Except Nat Instr :=
  let d := fld w 21 5
  let a1 := fld w 16 5
  let a2 := fld w 11 5
  let a3 := fld w 6 5
  let fn := fld w 0 6
  if fn == 0 then need (a3 == 0) 3 (.ok (.mul d a1 a2))
  else if fn == 1 then need (a3 == 0) 3 (.ok (.mulh d a1 a2))
  else if fn == 2 then need (a3 == 0) 3 (.ok (.mulhu d a1 a2))
  else if fn == 3 then need (a3 == 0) 3 (.ok (.div d a1 a2))
  else if fn == 4 then need (a3 == 0) 3 (.ok (.divu d a1 a2))
  else if fn == 5 then need (a3 == 0) 3 (.ok (.rem d a1 a2))
  else if fn == 6 then need (a3 == 0) 3 (.ok (.remu d a1 a2))
  else .error 2

/-- Word 1 with major opcode 0x02, format AR (R39). -/
def decA02 (w : Half) : Except Nat Instr :=
  let d := fld w 21 5
  let a1 := fld w 16 5
  let a2 := fld w 11 5
  let a3 := fld w 6 5
  let fn := fld w 0 6
  if fn == 0 then need (a2 == 0 && a3 == 0) 3 (.ok (.clz d a1))
  else if fn == 1 then need (a2 == 0 && a3 == 0) 3 (.ok (.ctz d a1))
  else if fn == 2 then need (a2 == 0 && a3 == 0) 3 (.ok (.popc d a1))
  else if fn == 3 then need (a2 == 0 && a3 == 0) 3 (.ok (.bswap d a1))
  else .error 2

/-- Word 1 with major opcode 0x03, format AS (R39). -/
def decA03 (w : Half) : Except Nat Instr :=
  let d := fld w 21 5
  let a1 := fld w 16 5
  need (decide ((fld w 10 6).toNat + (fld w 4 6).toNat + 1 ≤ 64)) 2 (need (fld w 0 4 == 0) 3 (.ok (.ext d a1 (fld w 10 6) (fld w 4 6))))

/-- Word 1 with major opcode 0x04, format AI (R39). -/
def decA04 (w : Half) : Except Nat Instr :=
  let d := fld w 21 5
  let a1 := fld w 16 5
  .ok (.addi d a1 (fld w 0 16))

/-- Word 1 with major opcode 0x05, format AI (R39). -/
def decA05 (w : Half) : Except Nat Instr :=
  let d := fld w 21 5
  let a1 := fld w 16 5
  .ok (.andi d a1 (fld w 0 16))

/-- Word 1 with major opcode 0x06, format AI (R39). -/
def decA06 (w : Half) : Except Nat Instr :=
  let d := fld w 21 5
  let a1 := fld w 16 5
  .ok (.ori d a1 (fld w 0 16))

/-- Word 1 with major opcode 0x07, format AI (R39). -/
def decA07 (w : Half) : Except Nat Instr :=
  let d := fld w 21 5
  let a1 := fld w 16 5
  .ok (.xori d a1 (fld w 0 16))

/-- Word 1 with major opcode 0x08, format AS (R39). -/
def decA08 (w : Half) : Except Nat Instr :=
  let d := fld w 21 5
  let a1 := fld w 16 5
  if fld w 0 4 == 0 then need (fld w 4 6 == 0) 3 (.ok (.shli d a1 (fld w 10 6)))
  else if fld w 0 4 == 1 then need (fld w 4 6 == 0) 3 (.ok (.shri d a1 (fld w 10 6)))
  else if fld w 0 4 == 2 then need (fld w 4 6 == 0) 3 (.ok (.sari d a1 (fld w 10 6)))
  else .error 2

/-- Word 1 with major opcode 0x09, format AI (R39). -/
def decA09 (w : Half) : Except Nat Instr :=
  let d := fld w 21 5
  let a1 := fld w 16 5
  .ok (.slti d a1 (fld w 0 16))

/-- Word 1 with major opcode 0x0A, format AI (R39). -/
def decA0A (w : Half) : Except Nat Instr :=
  let d := fld w 21 5
  let a1 := fld w 16 5
  .ok (.sltiu d a1 (fld w 0 16))

/-- Word 1 with major opcode 0x10, format AR (R39). -/
def decA10 (w : Half) : Except Nat Instr :=
  let d := fld w 21 5
  let a1 := fld w 16 5
  let a2 := fld w 11 5
  let a3 := fld w 6 5
  let fn := fld w 0 6
  if fn == 0 then need (a3 == 0) 3 (.ok (.padd d a1 a2))
  else if fn == 1 then need (a3 == 0) 3 (.ok (.pidx d a1 a2))
  else if fn == 2 then need (a2 == 0 && a3 == 0) 3 (.ok (.pfmt d a1))
  else if fn == 3 then need (a2 == 0 && a3 == 0) 3 (.ok (.pclr d a1))
  else .error 2

/-- Word 1 with major opcode 0x11, format AP (R39). -/
def decA11 (w : Half) : Except Nat Instr :=
  let d := fld w 21 5
  let a1 := fld w 16 5
  need (fmtReserved (fld w 12 4) || blkAllowed (fld w 12 4) (fld w 9 3)) 2 (need (fld w 0 9 == 0) 3 (need (!fmtReserved (fld w 12 4)) 9 (
    .ok (.ptag d a1 (fld w 12 4) (fld w 9 3)))))

/-- Word 1 with major opcode 0x14, format AF (R39). -/
def decA14 (w : Half) : Except Nat Instr :=
  let d := fld w 21 5
  let a1 := fld w 16 5
  let a2 := fld w 11 5
  let a3 := fld w 6 5
  want (FpTy.ofCode (fld w 4 2).toNat) 2 fun ty =>
  want (RmField.ofCode (fld w 1 3).toNat) 2 fun r => need (a3 == 0 && fld w 0 1 == 0) 3 (.ok (.fadd ty r d a1 a2))

/-- Word 1 with major opcode 0x15, format AF (R39). -/
def decA15 (w : Half) : Except Nat Instr :=
  let d := fld w 21 5
  let a1 := fld w 16 5
  let a2 := fld w 11 5
  let a3 := fld w 6 5
  want (FpTy.ofCode (fld w 4 2).toNat) 2 fun ty =>
  want (RmField.ofCode (fld w 1 3).toNat) 2 fun r => need (a3 == 0 && fld w 0 1 == 0) 3 (.ok (.fsub ty r d a1 a2))

/-- Word 1 with major opcode 0x16, format AF (R39). -/
def decA16 (w : Half) : Except Nat Instr :=
  let d := fld w 21 5
  let a1 := fld w 16 5
  let a2 := fld w 11 5
  let a3 := fld w 6 5
  want (FpTy.ofCode (fld w 4 2).toNat) 2 fun ty =>
  want (RmField.ofCode (fld w 1 3).toNat) 2 fun r => need (a3 == 0 && fld w 0 1 == 0) 3 (.ok (.fmul ty r d a1 a2))

/-- Word 1 with major opcode 0x17, format AF (R39). -/
def decA17 (w : Half) : Except Nat Instr :=
  let d := fld w 21 5
  let a1 := fld w 16 5
  let a2 := fld w 11 5
  let a3 := fld w 6 5
  want (FpTy.ofCode (fld w 4 2).toNat) 2 fun ty =>
  want (RmField.ofCode (fld w 1 3).toNat) 2 fun r => need (a3 == 0 && fld w 0 1 == 0) 3 (.ok (.fdiv ty r d a1 a2))

/-- Word 1 with major opcode 0x18, format AF (R39). -/
def decA18 (w : Half) : Except Nat Instr :=
  let d := fld w 21 5
  let a1 := fld w 16 5
  let a2 := fld w 11 5
  let a3 := fld w 6 5
  want (FpTy.ofCode (fld w 4 2).toNat) 2 fun ty =>
  want (RmField.ofCode (fld w 1 3).toNat) 2 fun r => need (a2 == 0 && a3 == 0 && fld w 0 1 == 0) 3 (.ok (.fsqrt ty r d a1))

/-- Word 1 with major opcode 0x19, format AF (R39). -/
def decA19 (w : Half) : Except Nat Instr :=
  let d := fld w 21 5
  let a1 := fld w 16 5
  let a2 := fld w 11 5
  let a3 := fld w 6 5
  want (FpTy.ofCode (fld w 4 2).toNat) 2 fun ty =>
  want (RmField.ofCode (fld w 1 3).toNat) 2 fun r => need (fld w 0 1 == 0) 3 (.ok (.fma ty r d a1 a2 a3))

/-- Word 1 with major opcode 0x1A, format AF (R39). -/
def decA1A (w : Half) : Except Nat Instr :=
  let d := fld w 21 5
  let a1 := fld w 16 5
  let a2 := fld w 11 5
  let a3 := fld w 6 5
  want (FpTy.ofCode (fld w 4 2).toNat) 2 fun ty =>
  want (RmField.ofCode (fld w 1 3).toNat) 2 fun r => need (fld w 0 1 == 0) 3 (.ok (.fnma ty r d a1 a2 a3))

/-- Word 1 with major opcode 0x1B, format AF (R39). -/
def decA1B (w : Half) : Except Nat Instr :=
  let d := fld w 21 5
  let a1 := fld w 16 5
  let a2 := fld w 11 5
  let a3 := fld w 6 5
  want (FpTy.ofCode (fld w 4 2).toNat) 2 fun ty =>
  if a3 == 0 then need (fld w 0 4 == 0) 3 (.ok (.fmin ty d a1 a2))
  else if a3 == 1 then need (fld w 0 4 == 0) 3 (.ok (.fmax ty d a1 a2))
  else .error 2

/-- Word 1 with major opcode 0x1C, format AF (R39). -/
def decA1C (w : Half) : Except Nat Instr :=
  let d := fld w 21 5
  let a1 := fld w 16 5
  let a2 := fld w 11 5
  let a3 := fld w 6 5
  want (FpTy.ofCode (fld w 4 2).toNat) 2 fun ty =>
  if a3 == 0 then need (fld w 0 4 == 0) 3 (.ok (.feq ty d a1 a2))
  else if a3 == 1 then need (fld w 0 4 == 0) 3 (.ok (.flt ty d a1 a2))
  else if a3 == 2 then need (fld w 0 4 == 0) 3 (.ok (.fle ty d a1 a2))
  else .error 2

/-- Word 1 with major opcode 0x1D, format AF (R39). -/
def decA1D (w : Half) : Except Nat Instr :=
  let d := fld w 21 5
  let a1 := fld w 16 5
  let a2 := fld w 11 5
  let a3 := fld w 6 5
  want (FpTy.ofCode (fld w 4 2).toNat) 2 fun ty =>
  if a3 == 0 then need (a2 == 0 && fld w 0 4 == 0) 3 (.ok (.fcls ty d a1))
  else if a3 == 1 then need (fld w 0 4 == 0) 3 (.ok (.fsgn ty d a1 a2))
  else .error 2

/-- Word 1 with major opcode 0x1E, format AF (R39). -/
def decA1E (w : Half) : Except Nat Instr :=
  let d := fld w 21 5
  let a1 := fld w 16 5
  let a2 := fld w 11 5
  let a3 := fld w 6 5
  want (CvtTy.ofCode a2.toNat) 2 fun s => want (CvtTy.ofCode a3.toNat) 2 fun t => need (decide (s ≠ t)) 2 (
    want (RmField.ofCode (fld w 1 3).toNat) 2 fun r => need (fld w 4 2 == 0 && fld w 0 1 == 0) 3 (.ok (.fcvt t s r d a1)))

/-- Word 1 with major opcode 0x20, format AV (R39). -/
def decA20 (w : Half) : Except Nat Instr :=
  let d := fld w 21 5
  let a1 := fld w 16 5
  let a2 := fld w 11 5
  let h1 := fld w 7 1 == 1
  let h2 := fld w 6 1 == 1
  let k := fld w 0 3
  want (VTy.ofCode (fld w 8 3).toNat) 2 fun vty =>
  need (fld w 3 3 == 0) 3 (.ok (.vadd vty d a1 a2 h1 h2 k))

/-- Word 1 with major opcode 0x21, format AV (R39). -/
def decA21 (w : Half) : Except Nat Instr :=
  let d := fld w 21 5
  let a1 := fld w 16 5
  let a2 := fld w 11 5
  let h1 := fld w 7 1 == 1
  let h2 := fld w 6 1 == 1
  let k := fld w 0 3
  want (VTy.ofCode (fld w 8 3).toNat) 2 fun vty =>
  need (fld w 3 3 == 0) 3 (.ok (.vsub vty d a1 a2 h1 h2 k))

/-- Word 1 with major opcode 0x22, format AV (R39). -/
def decA22 (w : Half) : Except Nat Instr :=
  let d := fld w 21 5
  let a1 := fld w 16 5
  let a2 := fld w 11 5
  let h1 := fld w 7 1 == 1
  let h2 := fld w 6 1 == 1
  let k := fld w 0 3
  want (VTy.ofCode (fld w 8 3).toNat) 2 fun vty =>
  need (fld w 3 3 == 0) 3 (.ok (.vmul vty d a1 a2 h1 h2 k))

/-- Word 1 with major opcode 0x23, format AV (R39). -/
def decA23 (w : Half) : Except Nat Instr :=
  let d := fld w 21 5
  let a1 := fld w 16 5
  let a2 := fld w 11 5
  let h1 := fld w 7 1 == 1
  let h2 := fld w 6 1 == 1
  let k := fld w 0 3
  want (VTy.ofCode (fld w 8 3).toNat) 2 fun vty =>
  need vty.isFp 2 (need (fld w 3 3 == 0) 3 (.ok (.vfma vty d a1 a2 h1 h2 k)))

/-- Word 1 with major opcode 0x24, format AV (R39). -/
def decA24 (w : Half) : Except Nat Instr :=
  let d := fld w 21 5
  let a1 := fld w 16 5
  let a2 := fld w 11 5
  let h1 := fld w 7 1 == 1
  let h2 := fld w 6 1 == 1
  let k := fld w 0 3
  want (VTy.ofCode (fld w 8 3).toNat) 2 fun vty =>
  need vty.isFp 2 (need (fld w 3 3 == 0) 3 (.ok (.vfnma vty d a1 a2 h1 h2 k)))

/-- Word 1 with major opcode 0x25, format AV (R39). -/
def decA25 (w : Half) : Except Nat Instr :=
  let d := fld w 21 5
  let a1 := fld w 16 5
  let a2 := fld w 11 5
  let h1 := fld w 7 1 == 1
  let h2 := fld w 6 1 == 1
  let k := fld w 0 3
  want (VTy.ofCode (fld w 8 3).toNat) 2 fun vty =>
  need vty.isFp 2 (need (fld w 3 3 == 0) 3 (.ok (.vdiv vty d a1 a2 h1 h2 k)))

/-- Word 1 with major opcode 0x26, format AV (R39). -/
def decA26 (w : Half) : Except Nat Instr :=
  let d := fld w 21 5
  let a1 := fld w 16 5
  let a2 := fld w 11 5
  let h1 := fld w 7 1 == 1
  let h2 := fld w 6 1 == 1
  let k := fld w 0 3
  want (VTy.ofCode (fld w 8 3).toNat) 2 fun vty =>
  need vty.isFp 2 (need (a2 == 0 && fld w 3 3 == 0) 3 (need (!h2) 7 (.ok (.vsqrt vty d a1 h1 k))))

/-- Word 1 with major opcode 0x27, format AV (R39). -/
def decA27 (w : Half) : Except Nat Instr :=
  let d := fld w 21 5
  let a1 := fld w 16 5
  let a2 := fld w 11 5
  let h1 := fld w 7 1 == 1
  let h2 := fld w 6 1 == 1
  let k := fld w 0 3
  want (VTy.ofCode (fld w 8 3).toNat) 2 fun vty =>
  need (fld w 3 3 == 0) 3 (.ok (.vmin vty d a1 a2 h1 h2 k))

/-- Word 1 with major opcode 0x28, format AV (R39). -/
def decA28 (w : Half) : Except Nat Instr :=
  let d := fld w 21 5
  let a1 := fld w 16 5
  let a2 := fld w 11 5
  let h1 := fld w 7 1 == 1
  let h2 := fld w 6 1 == 1
  let k := fld w 0 3
  want (VTy.ofCode (fld w 8 3).toNat) 2 fun vty =>
  need (fld w 3 3 == 0) 3 (.ok (.vmax vty d a1 a2 h1 h2 k))

/-- Word 1 with major opcode 0x29, format AV (R39). -/
def decA29 (w : Half) : Except Nat Instr :=
  let d := fld w 21 5
  let a1 := fld w 16 5
  let a2 := fld w 11 5
  let h1 := fld w 7 1 == 1
  let h2 := fld w 6 1 == 1
  let k := fld w 0 3
  want (VTy.ofCode (fld w 8 3).toNat) 2 fun vty =>
  if fld w 3 3 == 0 then need (!vty.isFp) 2 (.ok (.vand vty d a1 a2 h1 h2 k))
  else if fld w 3 3 == 1 then need (!vty.isFp) 2 (.ok (.vor vty d a1 a2 h1 h2 k))
  else if fld w 3 3 == 2 then need (!vty.isFp) 2 (.ok (.vxor vty d a1 a2 h1 h2 k))
  else .error 2

/-- Word 1 with major opcode 0x2A, format AV (R39). -/
def decA2A (w : Half) : Except Nat Instr :=
  let d := fld w 21 5
  let a1 := fld w 16 5
  let a2 := fld w 11 5
  let h1 := fld w 7 1 == 1
  let h2 := fld w 6 1 == 1
  let k := fld w 0 3
  want (VTy.ofCode (fld w 8 3).toNat) 2 fun vty =>
  if fld w 3 3 == 0 then need (!vty.isFp) 2 (.ok (.vshl vty d a1 a2 h1 h2 k))
  else if fld w 3 3 == 1 then need (!vty.isFp) 2 (.ok (.vshr vty d a1 a2 h1 h2 k))
  else if fld w 3 3 == 2 then need (!vty.isFp) 2 (.ok (.vsar vty d a1 a2 h1 h2 k))
  else .error 2

/-- Word 1 with major opcode 0x2B, format AV (R39). -/
def decA2B (w : Half) : Except Nat Instr :=
  let d := fld w 21 5
  let a1 := fld w 16 5
  let a2 := fld w 11 5
  let h1 := fld w 7 1 == 1
  let h2 := fld w 6 1 == 1
  let k := fld w 0 3
  want (VTy.ofCode (fld w 8 3).toNat) 2 fun vty =>
  want (CmpOp.ofCode (fld w 3 3).toNat) 2 fun c => need (cmpTyOk c vty) 2 (need (decide (d.toNat < 8)) 6 (.ok (.vcmp c vty (fld w 21 3) a1 a2 h1 h2 k)))

/-- Word 1 with major opcode 0x2C, format AV (R39). -/
def decA2C (w : Half) : Except Nat Instr :=
  let d := fld w 21 5
  let a1 := fld w 16 5
  let a2 := fld w 11 5
  let h1 := fld w 7 1 == 1
  let h2 := fld w 6 1 == 1
  let k := fld w 0 3
  want (VTy.ofCode (fld w 8 3).toNat) 2 fun vty =>
  need (fld w 3 3 == 0) 3 (.ok (.vsel vty d a1 a2 h1 h2 k))

/-- Word 1 with major opcode 0x2D, format AV (R39). -/
def decA2D (w : Half) : Except Nat Instr :=
  let d := fld w 21 5
  let a1 := fld w 16 5
  let a2 := fld w 11 5
  let h1 := fld w 7 1 == 1
  let h2 := fld w 6 1 == 1
  let k := fld w 0 3
  want (VTy.ofCode (fld w 8 3).toNat) 2 fun vty =>
  want (VTy.ofCode (fld w 3 3).toNat) 2 fun s => need (decide (s ≠ vty)) 2 (need (a2 == 0) 3 (need (!h2) 7 (.ok (.vcvt vty s d a1 h1 k))))

/-- Word 1 with major opcode 0x2E, format AV (R39). -/
def decA2E (w : Half) : Except Nat Instr :=
  let d := fld w 21 5
  let a1 := fld w 16 5
  let h1 := fld w 7 1 == 1
  let h2 := fld w 6 1 == 1
  let k := fld w 0 3
  want (VTy.ofCode (fld w 8 3).toNat) 2 fun vty =>
  want (NarrowFmt.ofCode (fld w 3 3).toNat) 2 fun f => need (packTyOk f vty && (fld w 11 1 == 0 || infOk f)) 2 (
    need (fld w 12 4 == 0) 3 (need (!h2) 7 (.ok (.vpack f vty (fld w 11 1 == 1) d a1 h1 k))))

/-- Word 1 with major opcode 0x2F, format AV (R39). -/
def decA2F (w : Half) : Except Nat Instr :=
  let d := fld w 21 5
  let a1 := fld w 16 5
  let a2 := fld w 11 5
  let h1 := fld w 7 1 == 1
  let h2 := fld w 6 1 == 1
  let k := fld w 0 3
  want (VTy.ofCode (fld w 8 3).toNat) 2 fun vty =>
  want (NarrowFmt.ofCode (fld w 3 3).toNat) 2 fun f => need (packTyOk f vty) 2 (need (a2 == 0) 3 (need (!h2) 7 (.ok (.vunpk f vty d a1 h1 k))))

/-- Word 1 with major opcode 0x30, format AV (R39). -/
def decA30 (w : Half) : Except Nat Instr :=
  let d := fld w 21 5
  let a1 := fld w 16 5
  let a2 := fld w 11 5
  let h1 := fld w 7 1 == 1
  let h2 := fld w 6 1 == 1
  let k := fld w 0 3
  want (VTy.ofCode (fld w 8 3).toNat) 2 fun vty =>
  want (RedOp.ofCode (fld w 3 3).toNat) 2 fun o => need (redTyOk vty) 2 (need (a2 == 0) 3 (need (!h2) 7 (.ok (.vred o vty d a1 h1 k))))

/-- Word 1 with major opcode 0x31, format AV (R39). -/
def decA31 (w : Half) : Except Nat Instr :=
  let d := fld w 21 5
  let a1 := fld w 16 5
  let a2 := fld w 11 5
  let h1 := fld w 7 1 == 1
  let h2 := fld w 6 1 == 1
  let k := fld w 0 3
  want (VTy.ofCode (fld w 8 3).toNat) 2 fun vty =>
  need (fld w 3 3 == 0 && redTyOk vty) 2 (need (a2 == 0) 3 (need (!h2) 7 (.ok (.vscan vty d a1 h1 k))))

/-- Word 1 with major opcode 0x32, format AV (R39). -/
def decA32 (w : Half) : Except Nat Instr :=
  let d := fld w 21 5
  let a1 := fld w 16 5
  let a2 := fld w 11 5
  let h1 := fld w 7 1 == 1
  let h2 := fld w 6 1 == 1
  let k := fld w 0 3
  want (VTy.ofCode (fld w 8 3).toNat) 2 fun vty =>
  need (fld w 3 3 == 0) 3 (.ok (.vperm vty d a1 a2 h1 h2 k))

/-- Word 1 with major opcode 0x33, format AV (R39). -/
def decA33 (w : Half) : Except Nat Instr :=
  let d := fld w 21 5
  let a1 := fld w 16 5
  let a2 := fld w 11 5
  let h1 := fld w 7 1 == 1
  let h2 := fld w 6 1 == 1
  let k := fld w 0 3
  want (VTy.ofCode (fld w 8 3).toNat) 2 fun vty =>
  if fld w 3 3 == 0 then need (!h2) 7 (.ok (.vslideUp vty d a1 a2 h1 k))
  else if fld w 3 3 == 1 then need (!h2) 7 (.ok (.vslideDn vty d a1 a2 h1 k))
  else .error 2

/-- Word 1 with major opcode 0x34, format AV (R39). -/
def decA34 (w : Half) : Except Nat Instr :=
  let d := fld w 21 5
  let a1 := fld w 16 5
  let a2 := fld w 11 5
  let h1 := fld w 7 1 == 1
  let h2 := fld w 6 1 == 1
  let k := fld w 0 3
  want (VTy.ofCode (fld w 8 3).toNat) 2 fun vty =>
  need (a2 == 0 && fld w 3 3 == 0) 3 (need (!h1 && !h2) 7 (.ok (.vbcast vty d a1 k)))

/-- Word 1 with major opcode 0x35, format AV (R39). -/
def decA35 (w : Half) : Except Nat Instr :=
  let d := fld w 21 5
  let a1 := fld w 16 5
  let a2 := fld w 11 5
  let h1 := fld w 7 1 == 1
  let h2 := fld w 6 1 == 1
  let k := fld w 0 3
  want (VTy.ofCode (fld w 8 3).toNat) 2 fun vty =>
  need (fld w 3 3 == 0 && k == 0) 3 (need (!h2) 7 (.ok (.vext vty d a1 a2 h1)))

/-- Word 1 with major opcode 0x36, format AV (R39). -/
def decA36 (w : Half) : Except Nat Instr :=
  let d := fld w 21 5
  let a1 := fld w 16 5
  let a2 := fld w 11 5
  let h1 := fld w 7 1 == 1
  let h2 := fld w 6 1 == 1
  let k := fld w 0 3
  want (VTy.ofCode (fld w 8 3).toNat) 2 fun vty =>
  need (fld w 3 3 == 0 && k == 0) 3 (need (!h1 && !h2) 7 (.ok (.vins vty d a1 a2)))

/-- Word 1 with major opcode 0x37, format AV (R39). -/
def decA37 (w : Half) : Except Nat Instr :=
  let d := fld w 21 5
  let a1 := fld w 16 5
  let a2 := fld w 11 5
  let h1 := fld w 7 1 == 1
  let h2 := fld w 6 1 == 1
  let k := fld w 0 3
  want (VTy.ofCode (fld w 8 3).toNat) 2 fun vty =>
  need (a2 == 0 && fld w 3 3 == 0) 3 (need (!h2) 7 (.ok (.vmv vty d a1 h1 k)))

/-- Word 1 with major opcode 0x38, format AV (R39). -/
def decA38 (w : Half) : Except Nat Instr :=
  let d := fld w 21 5
  let a1 := fld w 16 5
  let a2 := fld w 11 5
  let h1 := fld w 7 1 == 1
  let h2 := fld w 6 1 == 1
  let k := fld w 0 3
  want (VTy.ofCode (fld w 8 3).toNat) 2 fun vty =>
  if fld w 3 3 == 0 then need vty.isFp 2 (need (a2 == 0) 3 (need (!h2) 7 (.ok (.vrcp vty d a1 h1 k))))
  else if fld w 3 3 == 1 then need vty.isFp 2 (need (a2 == 0) 3 (need (!h2) 7 (.ok (.vrsq vty d a1 h1 k))))
  else if fld w 3 3 == 2 then need vty.isFp 2 (need (a2 == 0) 3 (need (!h2) 7 (.ok (.vexp2 vty d a1 h1 k))))
  else if fld w 3 3 == 3 then need vty.isFp 2 (need (a2 == 0) 3 (need (!h2) 7 (.ok (.vlog2 vty d a1 h1 k))))
  else if fld w 3 3 == 4 then need vty.isFp 2 (need (a2 == 0) 3 (need (!h2) 7 (.ok (.vtanh vty d a1 h1 k))))
  else .error 2

/-- Word 1 with major opcode 0x39, format AV (R39). -/
def decA39 (w : Half) : Except Nat Instr :=
  let d := fld w 21 5
  let a1 := fld w 16 5
  let a2 := fld w 11 5
  let h1 := fld w 7 1 == 1
  let h2 := fld w 6 1 == 1
  let k := fld w 0 3
  if fld w 3 3 == 0 then need (fld w 8 3 == 0 && k == 0) 3 (need (decide (d.toNat < 8) && decide (a1.toNat < 8) && decide (a2.toNat < 8)) 6 (need (!h1 && !h2) 7 (.ok (.vmand (fld w 21 3) (fld w 16 3) (fld w 11 3)))))
  else if fld w 3 3 == 1 then need (fld w 8 3 == 0 && k == 0) 3 (need (decide (d.toNat < 8) && decide (a1.toNat < 8) && decide (a2.toNat < 8)) 6 (need (!h1 && !h2) 7 (.ok (.vmor (fld w 21 3) (fld w 16 3) (fld w 11 3)))))
  else if fld w 3 3 == 2 then need (fld w 8 3 == 0 && k == 0) 3 (need (decide (d.toNat < 8) && decide (a1.toNat < 8) && decide (a2.toNat < 8)) 6 (need (!h1 && !h2) 7 (.ok (.vmxor (fld w 21 3) (fld w 16 3) (fld w 11 3)))))
  else if fld w 3 3 == 3 then need (a2 == 0 && fld w 8 3 == 0 && k == 0) 3 (need (decide (d.toNat < 8) && decide (a1.toNat < 8)) 6 (need (!h1 && !h2) 7 (.ok (.vmnot (fld w 21 3) (fld w 16 3)))))
  else if fld w 3 3 == 4 then need (a2 == 0 && fld w 8 3 == 0 && k == 0) 3 (need (decide (a1.toNat < 8)) 6 (need (!h1 && !h2) 7 (.ok (.vmpop d (fld w 16 3)))))
  else if fld w 3 3 == 5 then need (a2 == 0 && fld w 8 3 == 0 && k == 0) 3 (need (decide (a1.toNat < 8)) 6 (need (!h1 && !h2) 7 (.ok (.vmfirst d (fld w 16 3)))))
  else .error 2

/-- Word 1 with major opcode 0x3A, format AV (R39). -/
def decA3A (w : Half) : Except Nat Instr :=
  let d := fld w 21 5
  let a1 := fld w 16 5
  let a2 := fld w 11 5
  let h1 := fld w 7 1 == 1
  let h2 := fld w 6 1 == 1
  let k := fld w 0 3
  want (VTy.ofCode (fld w 8 3).toNat) 2 fun vty =>
  need (!vty.isFp) 2 (need (a1 == 0 && a2 == 0 && fld w 3 3 == 0) 3 (need (!h1 && !h2) 7 (.ok (.vid vty d k))))

/-- Word 1 as an A-slot instruction, by its major opcode (R39). -/
def decodeA (w : Half) : Except Nat Instr :=
  match (fld w 26 6).toNat with
  | 0x00 => decA00 w
  | 0x01 => decA01 w
  | 0x02 => decA02 w
  | 0x03 => decA03 w
  | 0x04 => decA04 w
  | 0x05 => decA05 w
  | 0x06 => decA06 w
  | 0x07 => decA07 w
  | 0x08 => decA08 w
  | 0x09 => decA09 w
  | 0x0A => decA0A w
  | 0x10 => decA10 w
  | 0x11 => decA11 w
  | 0x14 => decA14 w
  | 0x15 => decA15 w
  | 0x16 => decA16 w
  | 0x17 => decA17 w
  | 0x18 => decA18 w
  | 0x19 => decA19 w
  | 0x1A => decA1A w
  | 0x1B => decA1B w
  | 0x1C => decA1C w
  | 0x1D => decA1D w
  | 0x1E => decA1E w
  | 0x20 => decA20 w
  | 0x21 => decA21 w
  | 0x22 => decA22 w
  | 0x23 => decA23 w
  | 0x24 => decA24 w
  | 0x25 => decA25 w
  | 0x26 => decA26 w
  | 0x27 => decA27 w
  | 0x28 => decA28 w
  | 0x29 => decA29 w
  | 0x2A => decA2A w
  | 0x2B => decA2B w
  | 0x2C => decA2C w
  | 0x2D => decA2D w
  | 0x2E => decA2E w
  | 0x2F => decA2F w
  | 0x30 => decA30 w
  | 0x31 => decA31 w
  | 0x32 => decA32 w
  | 0x33 => decA33 w
  | 0x34 => decA34 w
  | 0x35 => decA35 w
  | 0x36 => decA36 w
  | 0x37 => decA37 w
  | 0x38 => decA38 w
  | 0x39 => decA39 w
  | 0x3A => decA3A w
  | _ => .error 1

/-- Whether the major opcode of word 0 is one of those marked L (R38). -/
def isL (op : Nat) : Bool :=
  (decide (1 ≤ op) && decide (op ≤ 0x0B)) || (decide (0x10 ≤ op) && decide (op ≤ 0x15)) || decide (op = 0x3C) || decide (op = 0x3D)

/-- The short immediate field of an instruction marked L, or 0 where the format has none (R35, R180). -/
def shortField (w : Half) : Half :=
  let op := (fld w 25 6).toNat
  if decide (1 ≤ op) && decide (op ≤ 6) then (fld w 20 5 ++ fld w 0 10).setWidth 32
  else if op = 7 then (fld w 0 14).setWidth 32
  else if decide (8 ≤ op) && decide (op ≤ 0x0B) then (fld w 0 12).setWidth 32
  else if op = 0x3C || op = 0x3D then (fld w 0 20).setWidth 32
  else 0

/-- Code 4 of R41: a literal that the C-slot instruction cannot take. -/
def litBad (w lit : Half) : Bool := lit != 0 && (!isL (fld w 25 6).toNat || shortField w != 0)

/-- The registers an instruction writes, for R32: 0 to 31 are x registers, 32 to 63 v registers, 64 to 71 mask
registers. x0 is exempt. `live`, whose writes depend on a register, is judged when it issues (R249). -/
def writes : Instr → List Nat
  | .nop => []
  | .brk _ => []
  | .bEq _ _ _ => []
  | .bNe _ _ _ => []
  | .bLt _ _ _ => []
  | .bGe _ _ _ => []
  | .bLtu _ _ _ => []
  | .bGeu _ _ _ => []
  | .jal d _ => [d.toNat]
  | .jalr d _ _ => [d.toNat]
  | .ld _ d _ _ => [d.toNat]
  | .st _ _ _ _ => []
  | .prfL1 _ _ => []
  | .prfL2 _ _ => []
  | .zline _ _ => []
  | .vld _ d _ _ _ _ => [32 + d.toNat]
  | .vst _ _ _ _ _ _ => []
  | .vldx _ d _ _ _ _ => [32 + d.toNat]
  | .vstx _ _ _ _ _ _ => []
  | .vldt d _ _ _ _ => [32 + d.toNat]
  | .vstt _ _ _ _ _ => []
  | .amo _ _ d _ _ => [d.toNat]
  | .cas _ d _ _ => [d.toNat]
  | .amop _ _ _ _ => []
  | .crange _ d _ _ => [d.toNat]
  | .radd _ _ _ => []
  | .rst _ _ _ => []
  | .dflush => []
  | .ramo _ _ _ _ => []
  | .chunk => []
  | .fenceD => []
  | .fenceE => []
  | .fenceA => []
  | .xbegin => []
  | .xend d => [d.toNat]
  | .xabort _ => []
  | .qbind _ _ => []
  | .qwaitF _ => []
  | .qwaitE _ => []
  | .qadvH _ => []
  | .qadvT _ => []
  | .qld d _ _ => [d.toNat]
  | .qst _ _ _ => []
  | .qstat d _ => [d.toNat]
  | .pcopy d _ _ => [d.toNat]
  | .pcopyt d _ _ => [d.toNat]
  | .pgath d _ _ => [d.toNat]
  | .pscat d _ _ => [d.toNat]
  | .pscadd d _ _ => [d.toNat]
  | .pfill d _ _ => [d.toNat]
  | .twarp _ _ _ => []
  | .tzero _ => []
  | .tlda _ _ => []
  | .tmul _ _ => []
  | .tmult _ _ => []
  | .touter _ _ _ => []
  | .tewBias _ _ => []
  | .tewScale _ _ => []
  | .tewRelu _ => []
  | .tewGelu _ => []
  | .tewSilu _ => []
  | .tewClamp _ _ _ => []
  | .tred _ _ => []
  | .tst _ _ _ => []
  | .tsync _ => []
  | .trecOn => []
  | .trecOff => []
  | .unwind _ => []
  | .tdrop => []
  | .watch _ _ _ _ => []
  | .unwatch _ => []
  | .wait d _ => [d.toNat]
  | .yield => []
  | .halt => []
  | .haltRetain => []
  | .live _ => []
  | .spawn d _ _ => [d.toNat]
  | .pwait => []
  | .smay => []
  | .bar d _ _ => [d.toNat]
  | .dmem d _ => [d.toNat]
  | .dbar d _ => [d.toNat]
  | .vclaim d _ => [d.toNat]
  | .vrel => []
  | .vreneg d _ => [d.toNat]
  | .xchg d _ _ => [d.toNat]
  | .launch d _ => [d.toNat]
  | .tstop d _ => [d.toNat]
  | .tstart d _ => [d.toNat]
  | .trds d _ _ => [d.toNat]
  | .twrs d _ _ _ => [d.toNat]
  | .igrant d _ => [d.toNat]
  | .irevoke d _ => [d.toNat]
  | .iquery d _ => [d.toNat]
  | .movi d _ => [d.toNat]
  | .movhi d _ => [d.toNat]
  | .srd d _ => [d.toNat]
  | .swr _ _ => []
  | .time d => [d.toNat]
  | .add d _ _ => [d.toNat]
  | .sub d _ _ => [d.toNat]
  | .and d _ _ => [d.toNat]
  | .or d _ _ => [d.toNat]
  | .xor d _ _ => [d.toNat]
  | .shl d _ _ => [d.toNat]
  | .shr d _ _ => [d.toNat]
  | .sar d _ _ => [d.toNat]
  | .slt d _ _ => [d.toNat]
  | .sltu d _ _ => [d.toNat]
  | .min d _ _ => [d.toNat]
  | .max d _ _ => [d.toNat]
  | .minu d _ _ => [d.toNat]
  | .maxu d _ _ => [d.toNat]
  | .sel d _ _ _ => [d.toNat]
  | .mul d _ _ => [d.toNat]
  | .mulh d _ _ => [d.toNat]
  | .mulhu d _ _ => [d.toNat]
  | .div d _ _ => [d.toNat]
  | .divu d _ _ => [d.toNat]
  | .rem d _ _ => [d.toNat]
  | .remu d _ _ => [d.toNat]
  | .clz d _ => [d.toNat]
  | .ctz d _ => [d.toNat]
  | .popc d _ => [d.toNat]
  | .bswap d _ => [d.toNat]
  | .ext d _ _ _ => [d.toNat]
  | .addi d _ _ => [d.toNat]
  | .andi d _ _ => [d.toNat]
  | .ori d _ _ => [d.toNat]
  | .xori d _ _ => [d.toNat]
  | .shli d _ _ => [d.toNat]
  | .shri d _ _ => [d.toNat]
  | .sari d _ _ => [d.toNat]
  | .slti d _ _ => [d.toNat]
  | .sltiu d _ _ => [d.toNat]
  | .padd d _ _ => [d.toNat]
  | .pidx d _ _ => [d.toNat]
  | .pfmt d _ => [d.toNat]
  | .pclr d _ => [d.toNat]
  | .ptag d _ _ _ => [d.toNat]
  | .fadd _ _ d _ _ => [d.toNat]
  | .fsub _ _ d _ _ => [d.toNat]
  | .fmul _ _ d _ _ => [d.toNat]
  | .fdiv _ _ d _ _ => [d.toNat]
  | .fsqrt _ _ d _ => [d.toNat]
  | .fma _ _ d _ _ _ => [d.toNat]
  | .fnma _ _ d _ _ _ => [d.toNat]
  | .fmin _ d _ _ => [d.toNat]
  | .fmax _ d _ _ => [d.toNat]
  | .feq _ d _ _ => [d.toNat]
  | .flt _ d _ _ => [d.toNat]
  | .fle _ d _ _ => [d.toNat]
  | .fcls _ d _ => [d.toNat]
  | .fsgn _ d _ _ => [d.toNat]
  | .fcvt _ _ _ d _ => [d.toNat]
  | .vadd _ d _ _ _ _ _ => [32 + d.toNat]
  | .vsub _ d _ _ _ _ _ => [32 + d.toNat]
  | .vmul _ d _ _ _ _ _ => [32 + d.toNat]
  | .vfma _ d _ _ _ _ _ => [32 + d.toNat]
  | .vfnma _ d _ _ _ _ _ => [32 + d.toNat]
  | .vdiv _ d _ _ _ _ _ => [32 + d.toNat]
  | .vsqrt _ d _ _ _ => [32 + d.toNat]
  | .vmin _ d _ _ _ _ _ => [32 + d.toNat]
  | .vmax _ d _ _ _ _ _ => [32 + d.toNat]
  | .vand _ d _ _ _ _ _ => [32 + d.toNat]
  | .vor _ d _ _ _ _ _ => [32 + d.toNat]
  | .vxor _ d _ _ _ _ _ => [32 + d.toNat]
  | .vshl _ d _ _ _ _ _ => [32 + d.toNat]
  | .vshr _ d _ _ _ _ _ => [32 + d.toNat]
  | .vsar _ d _ _ _ _ _ => [32 + d.toNat]
  | .vcmp _ _ d _ _ _ _ _ => [64 + d.toNat]
  | .vsel _ d _ _ _ _ _ => [32 + d.toNat]
  | .vcvt _ _ d _ _ _ => [32 + d.toNat]
  | .vpack _ _ _ d _ _ _ => [32 + d.toNat]
  | .vunpk _ _ d _ _ _ => [32 + d.toNat]
  | .vred _ _ d _ _ _ => [d.toNat]
  | .vscan _ d _ _ _ => [32 + d.toNat]
  | .vperm _ d _ _ _ _ _ => [32 + d.toNat]
  | .vslideUp _ d _ _ _ _ => [32 + d.toNat]
  | .vslideDn _ d _ _ _ _ => [32 + d.toNat]
  | .vbcast _ d _ _ => [32 + d.toNat]
  | .vext _ d _ _ _ => [d.toNat]
  | .vins _ d _ _ => [32 + d.toNat]
  | .vmv _ d _ _ _ => [32 + d.toNat]
  | .vrcp _ d _ _ _ => [32 + d.toNat]
  | .vrsq _ d _ _ _ => [32 + d.toNat]
  | .vexp2 _ d _ _ _ => [32 + d.toNat]
  | .vlog2 _ d _ _ _ => [32 + d.toNat]
  | .vtanh _ d _ _ _ => [32 + d.toNat]
  | .vmand d _ _ => [64 + d.toNat]
  | .vmor d _ _ => [64 + d.toNat]
  | .vmxor d _ _ => [64 + d.toNat]
  | .vmnot d _ => [64 + d.toNat]
  | .vmpop d _ => [d.toNat]
  | .vmfirst d _ => [d.toNat]
  | .vid _ d _ => [32 + d.toNat]
  | .chunkCommit _ => []
  | .heldChunk => []
  | .leaseAcquire => []
  | .leaseExpiry => []
  | .fallThrough => []
  | .drayAgeExpiry _ _ => []
  | .drayPacketApply _ => []
  | .drayAcknowledgement _ => []
  | .amoPerform _ => []
  | .amopPerform _ => []
  | .partialEviction _ _ => []
  | .hostCxlMemAccess _ _ => []
  | .hostLineInvalidate _ _ => []
  | .fenceRelease _ => []
  | .watchArmEvent _ => []
  | .wakeDelivery _ => []
  | .hostWatchRecheck _ _ => []
  | .waitTimeout _ => []
  | .starvationLimit _ => []
  | .packComplete _ => []
  | .docketResume _ => []
  | .weighmasterSample _ => []
  | .moveComplete _ => []
  | .notifyWrite _ => []
  | .launchRecordRead _ => []
  | .launchValidated _ => []
  | .crewPlacement => []
  | .crewStart _ => []
  | .smayObserved _ => []
  | .launchComplete _ _ => []
  | .pwaitRelease _ => []
  | .barArrival _ => []
  | .barTimeout _ => []
  | .dbarArrival _ => []
  | .wireRaise _ => []
  | .wireComplete _ _ => []
  | .crierBegin _ _ _ => []
  | .crierMessage _ => []
  | .crierAbort _ => []
  | .dbarTimeout _ => []
  | .deadlockDetect _ => []
  | .pulsePeriodExpiry _ => []
  | .threadStateAction _ => []
  | .threadStateResult _ => []
  | .loomCommandArrival _ => []
  | .loomCommandStart _ => []
  | .loomCommandComplete _ _ => []
  | .loomRelease _ => []
  | .loomReleaseComplete _ => []
  | .lresRetry _ => []
  | .lresSkip _ => []
  | .lresFlush _ => []
  | .lresRetryNoNan _ => []
  | .governorWindow _ => []
  | .porterCommandStart _ _ => []
  | .porterCommandComplete _ _ => []
  | .presContinue _ _ => []
  | .presAbandon _ _ => []
  | .presAbandonAll _ _ => []
  | .queueReservation _ => []
  | .stampWrite _ => []
  | .pendingRecordDelivery _ _ => []
  | .correctedError _ _ => []
  | .uncorrectableError _ => []
  | .logicFault _ => []
  | .dramRowRemap _ => []
  | .patrolScrub _ => []
  | .parityReplay _ _ => []
  | .flitReplay _ _ => []
  | .linkRecovery _ _ => []
  | .laneFailure _ _ => []
  | .drainComplete _ => []
  | .epochEnd => []
  | .regionMigrationComplete _ => []
  | .freezeWord _ _ => []
  | .hostLinkDownTimeout _ => []
  | .adoptionWord _ _ => []
  | .atsCompletion _ _ _ => []
  | .priResponse _ _ => []
  | .atsInvalidationRequest _ _ _ => []
  | .peerWrite _ _ _ _ => []
  | .peerRead _ _ _ => []
  | .ioCompletion _ _ _ => []
  | .ioCompletionTimeout _ => []
  | .fabricRemoteAccess _ => []
  | .getMeasurements _ => []
  | .ideKm _ _ => []
  | .ideIntegrityFailure _ _ => []
  | .sessionExpiry _ => []
  | .getTdispVersion _ _ => []
  | .getTdispCapabilities _ _ => []
  | .lockInterfaceRequest _ _ => []
  | .getDeviceInterfaceReport _ _ => []
  | .getDeviceInterfaceState _ _ => []
  | .startInterfaceRequest _ _ _ => []
  | .stopInterfaceRequest _ _ => []
  | .doorbell _ _ _ => []
  | .svring _ _ => []
  | .svrep _ _ => []
  | .timeset _ _ => []
  | .registerWrite _ _ _ => []
  | .reset => []
  | .bringUpStage _ => []
  | .d3hotEntry => []
  | .d0Return => []
  | .pldmRequest _ _ => []
  | .queueSetup _ _ => []
  | .tenantSetup _ _ => []
  | .regionSetup _ _ => []
  | .biasFlip _ _ => []
  | .orderingSetup _ _ => []
  | .pulseSetup _ _ => []
  | .pin _ _ => []
  | .hintsSetup _ _ => []
  | .peersSetup _ _ => []
  | .fabricSetup _ _ => []
  | .scrubControl _ _ => []
  | .rebind _ _ => []
  | .issuePolicy _ _ => []
  | .powerLimit _ _ => []
  | .tenantStop _ _ => []
  | .tenantStart _ _ => []
  | .switchOut _ _ => []
  | .switchIn _ _ => []
  | .hostLinkDown _ => []
  | .hostLinkUp _ _ => []
  | .linkUp _ => []
  | .spdmSessionStart _ => []
  | .heartbeat _ => []
  | .keyUpdate _ _ => []
  | .endSession _ => []

/-- The registers the two slots of a pair may not share (R32). -/
def shareWrite (c a : Instr) : Bool := (writes c).any fun r => r != 0 && (writes a).contains r

/-- Why a bundle is no instruction: the code of R41 and the index of the word. -/
structure BadBundle where
  code : Nat
  widx : Nat
deriving DecidableEq, Repr

/-- A bundle read as instructions: lone, or a pair (R29); or a bundle whose word 0 is an instruction and which is
illegal all the same, with the code it raises unless a code that outranks it comes from the registers (R41). -/
inductive Bundle where
  | lone (c : Instr)
  | pair (c a : Instr)
  | late (c : Instr) (a : Option Instr) (bad : BadBundle)
deriving DecidableEq, Repr

/-- The bundle of word 0 and word 1 (R29, R31, R32, R41). A stop names one code and one word, chosen as R41 says. -/
def decodeBundle (w0 w1 : Half) : Except BadBundle Bundle :=
  if fld w0 31 1 = 1 then
    match decodeC w0 0 with
    | .error e => .error ⟨e, 0⟩
    | .ok c =>
      match decodeA w1 with
      | .error e => .ok (.late c none ⟨e, 1⟩)
      | .ok a => if shareWrite c a then .ok (.late c (some a) ⟨5, 1⟩) else .ok (.pair c a)
  else
    match decodeC w0 w1 with
    | .error e => .error ⟨e, 0⟩
    | .ok c => if litBad w0 w1 then .ok (.late c none ⟨4, 1⟩) else .ok (.lone c)

/-- A word of format CN (R35, R36), with P = 0. -/
def packCN (op : BitVec 6) (z : BitVec 15) (b : BitVec 1) (code : BitVec 9) : Half :=
  0#1 ++ op ++ z ++ b ++ code

/-- A word of format CR (R35, R36), with P = 0. -/
def packCR (op : BitVec 6) (d : BitVec 5) (s1 : BitVec 5) (s2 : BitVec 5) (fn : BitVec 6) (md : BitVec 4) : Half :=
  0#1 ++ op ++ d ++ s1 ++ s2 ++ fn ++ md

/-- A word of format CI (R35, R36), with P = 0. -/
def packCI (op : BitVec 6) (d : BitVec 5) (imm : BitVec 20) : Half :=
  0#1 ++ op ++ d ++ imm

/-- A word of format CB (R35, R36), with P = 0. -/
def packCB (op : BitVec 6) (offh : BitVec 5) (s1 : BitVec 5) (s2 : BitVec 5) (offl : BitVec 10) : Half :=
  0#1 ++ op ++ offh ++ s1 ++ s2 ++ offl

/-- A word of format CJ (R35, R36), with P = 0. -/
def packCJ (op : BitVec 6) (d : BitVec 5) (s1 : BitVec 5) (k : BitVec 1) (imm : BitVec 14) : Half :=
  0#1 ++ op ++ d ++ s1 ++ k ++ imm

/-- A word of format CM (R35, R36), with P = 0. -/
def packCM (op : BitVec 6) (d : BitVec 5) (s1 : BitVec 5) (z : BitVec 3) (off : BitVec 12) : Half :=
  0#1 ++ op ++ d ++ s1 ++ z ++ off

/-- A word of format CV (R35, R36), with P = 0. -/
def packCV (op : BitVec 6) (d : BitVec 5) (s1 : BitVec 5) (s2 : BitVec 5) (mk : BitVec 3) (ew : BitVec 2) (z : BitVec 5) : Half :=
  0#1 ++ op ++ d ++ s1 ++ s2 ++ mk ++ ew ++ z

/-- A word of format CT (R35, R36), with P = 0. -/
def packCT (op : BitVec 6) (t1 : BitVec 5) (s1 : BitVec 5) (s2 : BitVec 5) (t2 : BitVec 3) (z : BitVec 3) (fn : BitVec 4) : Half :=
  0#1 ++ op ++ t1 ++ s1 ++ s2 ++ t2 ++ z ++ fn

/-- A word of format AR (R35, R36). -/
def packAR (op : BitVec 6) (d : BitVec 5) (a1 : BitVec 5) (a2 : BitVec 5) (a3 : BitVec 5) (fn : BitVec 6) : Half :=
  op ++ d ++ a1 ++ a2 ++ a3 ++ fn

/-- A word of format AI (R35, R36). -/
def packAI (op : BitVec 6) (d : BitVec 5) (a1 : BitVec 5) (imm : BitVec 16) : Half :=
  op ++ d ++ a1 ++ imm

/-- A word of format AS (R35, R36). -/
def packAS (op : BitVec 6) (d : BitVec 5) (a1 : BitVec 5) (sh : BitVec 6) (lm : BitVec 6) (fn : BitVec 4) : Half :=
  op ++ d ++ a1 ++ sh ++ lm ++ fn

/-- A word of format AP (R35, R36). -/
def packAP (op : BitVec 6) (d : BitVec 5) (a1 : BitVec 5) (fmt : BitVec 4) (blk : BitVec 3) (z : BitVec 9) : Half :=
  op ++ d ++ a1 ++ fmt ++ blk ++ z

/-- A word of format AF (R35, R36). -/
def packAF (op : BitVec 6) (d : BitVec 5) (a1 : BitVec 5) (a2 : BitVec 5) (a3 : BitVec 5) (ty : BitVec 2) (rm : BitVec 3) (z : BitVec 1) : Half :=
  op ++ d ++ a1 ++ a2 ++ a3 ++ ty ++ rm ++ z

/-- A word of format AV (R35, R36). -/
def packAV (op : BitVec 6) (d : BitVec 5) (a1 : BitVec 5) (a2 : BitVec 5) (ty : BitVec 3) (h1 : BitVec 1) (h2 : BitVec 1) (fn : BitVec 3) (mk : BitVec 3) : Half :=
  op ++ d ++ a1 ++ a2 ++ ty ++ h1 ++ h2 ++ fn ++ mk

/-- The short field of an immediate, zero when the literal carries it (R31). -/
def Imm.field {n : Nat} : Imm n → BitVec n
  | .short v => v
  | .lit _ => 0

/-- The literal word of an immediate, zero when the short field carries it (R31). -/
def Imm.word {n : Nat} : Imm n → Half
  | .short _ => 0
  | .lit v => v

/-- The words of a lone bundle. -/
def loneWords (w lit : Half) : List Half := [w, lit]

/-- The words of an A-slot instruction paired with `nop` (R51). -/
def pairWords (w : Half) : List Half := [0x80000000, w]

/-- The words of a well-formed instruction: word 0, then word 1. A device event has no words. -/
def encode : Instr → List Half
  | .nop => loneWords (packCN 0 0 0 0) 0
  | .brk n => loneWords (packCN 0 0 1 n) 0
  | .bEq a b off => loneWords (packCB 1 (off.field.extractLsb' 10 5) a b (off.field.extractLsb' 0 10)) off.word
  | .bNe a b off => loneWords (packCB 2 (off.field.extractLsb' 10 5) a b (off.field.extractLsb' 0 10)) off.word
  | .bLt a b off => loneWords (packCB 3 (off.field.extractLsb' 10 5) a b (off.field.extractLsb' 0 10)) off.word
  | .bGe a b off => loneWords (packCB 4 (off.field.extractLsb' 10 5) a b (off.field.extractLsb' 0 10)) off.word
  | .bLtu a b off => loneWords (packCB 5 (off.field.extractLsb' 10 5) a b (off.field.extractLsb' 0 10)) off.word
  | .bGeu a b off => loneWords (packCB 6 (off.field.extractLsb' 10 5) a b (off.field.extractLsb' 0 10)) off.word
  | .jal d off => loneWords (packCJ 7 d 0 0 off.field) off.word
  | .jalr d a off => loneWords (packCJ 7 d a 1 off.field) off.word
  | .ld z d a off => loneWords (packCM 8 d a (BitVec.ofNat 3 z.code) off.field) off.word
  | .st z d a off => loneWords (packCM 9 d a (BitVec.ofNat 3 z.code) off.field) off.word
  | .prfL1 a off => loneWords (packCM 10 0 a 0 off.field) off.word
  | .prfL2 a off => loneWords (packCM 10 0 a 1 off.field) off.word
  | .zline a off => loneWords (packCM 11 0 a 0 off.field) off.word
  | .vld z d a b k off => loneWords (packCV 16 d a b k (BitVec.ofNat 2 z.code) 0) off
  | .vst z d a b k off => loneWords (packCV 17 d a b k (BitVec.ofNat 2 z.code) 0) off
  | .vldx z d a b k off => loneWords (packCV 18 d a b k (BitVec.ofNat 2 z.code) 0) off
  | .vstx z d a b k off => loneWords (packCV 19 d a b k (BitVec.ofNat 2 z.code) 0) off
  | .vldt d a b k off => loneWords (packCV 20 d a b k 0 0) off
  | .vstt d a b k off => loneWords (packCV 21 d a b k 0 0) off
  | .amo op z d a b => loneWords (packCR 22 d a b (BitVec.ofNat 6 op.code) (BitVec.ofNat 4 z.code)) 0
  | .cas z d a b => loneWords (packCR 23 d a b 0 (BitVec.ofNat 4 z.code)) 0
  | .amop op z a b => loneWords (packCR 24 0 a b (BitVec.ofNat 6 op.code) (BitVec.ofNat 4 z.code)) 0
  | .crange f d a b => loneWords (packCR 25 d a b 0 (BitVec.ofNat 4 f.code)) 0
  | .radd f a b => loneWords (packCR 26 0 a b 0 (BitVec.ofNat 4 f.code)) 0
  | .rst z a b => loneWords (packCR 27 0 a b 0 (BitVec.ofNat 4 z.code)) 0
  | .dflush => loneWords (packCR 27 0 0 0 1 0) 0
  | .ramo op z a b => loneWords (packCR 27 0 a b (BitVec.ofNat 6 (16 + op.code)) (BitVec.ofNat 4 z.code)) 0
  | .chunk => loneWords (packCR 28 0 0 0 0 0) 0
  | .fenceD => loneWords (packCR 29 0 0 0 0 0) 0
  | .fenceE => loneWords (packCR 29 0 0 0 1 0) 0
  | .fenceA => loneWords (packCR 29 0 0 0 2 0) 0
  | .xbegin => loneWords (packCR 30 0 0 0 0 0) 0
  | .xend d => loneWords (packCR 30 d 0 0 1 0) 0
  | .xabort n => loneWords (packCR 30 0 0 0 2 n) 0
  | .qbind q a => loneWords (packCR 32 (q.setWidth 5) a 0 0 0) 0
  | .qwaitF q => loneWords (packCR 33 (q.setWidth 5) 0 0 0 0) 0
  | .qwaitE q => loneWords (packCR 33 (q.setWidth 5) 0 0 1 0) 0
  | .qadvH q => loneWords (packCR 34 (q.setWidth 5) 0 0 0 0) 0
  | .qadvT q => loneWords (packCR 34 (q.setWidth 5) 0 0 1 0) 0
  | .qld d q i => loneWords (packCR 35 d 0 (q.setWidth 5) i 0) 0
  | .qst d q i => loneWords (packCR 36 d 0 (q.setWidth 5) i 0) 0
  | .qstat d q => loneWords (packCR 37 d 0 (q.setWidth 5) 0 0) 0
  | .pcopy d a n => loneWords (packCR 38 d a 0 0 (n.setWidth 4)) 0
  | .pcopyt d a n => loneWords (packCR 38 d a 0 1 (n.setWidth 4)) 0
  | .pgath d a n => loneWords (packCR 38 d a 0 2 (n.setWidth 4)) 0
  | .pscat d a n => loneWords (packCR 38 d a 0 3 (n.setWidth 4)) 0
  | .pscadd d a n => loneWords (packCR 38 d a 0 4 (n.setWidth 4)) 0
  | .pfill d a n => loneWords (packCR 38 d a 0 5 (n.setWidth 4)) 0
  | .twarp w a b => loneWords (packCT 40 (w.setWidth 5) a b 0 0 0) 0
  | .tzero t => loneWords (packCT 41 (t.setWidth 5) 0 0 0 0 0) 0
  | .tlda a b => loneWords (packCT 42 0 a b 0 0 0) 0
  | .tmul t w => loneWords (packCT 43 (t.setWidth 5) 0 0 (w.setWidth 3) 0 0) 0
  | .tmult t w => loneWords (packCT 43 (t.setWidth 5) 0 0 (w.setWidth 3) 0 1) 0
  | .touter t a b => loneWords (packCT 44 (t.setWidth 5) a b 0 0 0) 0
  | .tewBias t a => loneWords (packCT 45 (t.setWidth 5) a 0 0 0 0) 0
  | .tewScale t a => loneWords (packCT 45 (t.setWidth 5) a 0 0 0 1) 0
  | .tewRelu t => loneWords (packCT 45 (t.setWidth 5) 0 0 0 0 2) 0
  | .tewGelu t => loneWords (packCT 45 (t.setWidth 5) 0 0 0 0 3) 0
  | .tewSilu t => loneWords (packCT 45 (t.setWidth 5) 0 0 0 0 4) 0
  | .tewClamp t a b => loneWords (packCT 45 (t.setWidth 5) a b 0 0 5) 0
  | .tred t a => loneWords (packCT 46 (t.setWidth 5) a 0 0 0 0) 0
  | .tst t a b => loneWords (packCT 46 (t.setWidth 5) a b 0 0 1) 0
  | .tsync a => loneWords (packCT 46 0 a 0 0 0 2) 0
  | .trecOn => loneWords (packCT 47 0 0 0 0 0 0) 0
  | .trecOff => loneWords (packCT 47 0 0 0 0 0 1) 0
  | .unwind a => loneWords (packCT 47 0 a 0 0 0 2) 0
  | .tdrop => loneWords (packCT 47 0 0 0 0 0 3) 0
  | .watch c n a b => loneWords (packCR 48 (n.setWidth 5) a b (BitVec.ofNat 6 c.code) 0) 0
  | .unwatch n => loneWords (packCR 49 (n.setWidth 5) 0 0 0 0) 0
  | .wait d a => loneWords (packCR 49 d a 0 1 0) 0
  | .yield => loneWords (packCR 49 0 0 0 2 0) 0
  | .halt => loneWords (packCR 49 0 0 0 3 0) 0
  | .haltRetain => loneWords (packCR 49 0 0 0 3 1) 0
  | .live a => loneWords (packCR 49 0 a 0 4 0) 0
  | .spawn d a b => loneWords (packCR 50 d a b 0 0) 0
  | .pwait => loneWords (packCR 51 0 0 0 0 0) 0
  | .smay => loneWords (packCR 51 0 0 0 1 0) 0
  | .bar d a b => loneWords (packCR 52 d a b 0 0) 0
  | .dmem d a => loneWords (packCR 53 d a 0 0 0) 0
  | .dbar d a => loneWords (packCR 53 d a 0 1 0) 0
  | .vclaim d a => loneWords (packCR 54 d a 0 0 0) 0
  | .vrel => loneWords (packCR 54 0 0 0 1 0) 0
  | .vreneg d a => loneWords (packCR 54 d a 0 2 0) 0
  | .xchg d a b => loneWords (packCR 55 d a b 0 0) 0
  | .launch d a => loneWords (packCR 55 d a 0 1 0) 0
  | .tstop d a => loneWords (packCR 56 d a 0 0 0) 0
  | .tstart d a => loneWords (packCR 56 d a 0 1 0) 0
  | .trds d a item => loneWords (packCR 57 d a 0 item 0) 0
  | .twrs d a b item => loneWords (packCR 58 d a b item 0) 0
  | .igrant d a => loneWords (packCR 59 d a 0 0 0) 0
  | .irevoke d a => loneWords (packCR 59 d a 0 1 0) 0
  | .iquery d a => loneWords (packCR 59 d a 0 2 0) 0
  | .movi d imm => loneWords (packCI 60 d imm.field) imm.word
  | .movhi d imm => loneWords (packCI 61 d imm.field) imm.word
  | .srd d i => loneWords (packCR 62 d 0 i 0 0) 0
  | .swr a i => loneWords (packCR 62 0 a i 1 0) 0
  | .time d => loneWords (packCR 62 d 0 0 2 0) 0
  | .add d a b => pairWords (packAR 0 d a b 0 0)
  | .sub d a b => pairWords (packAR 0 d a b 0 1)
  | .and d a b => pairWords (packAR 0 d a b 0 2)
  | .or d a b => pairWords (packAR 0 d a b 0 3)
  | .xor d a b => pairWords (packAR 0 d a b 0 4)
  | .shl d a b => pairWords (packAR 0 d a b 0 5)
  | .shr d a b => pairWords (packAR 0 d a b 0 6)
  | .sar d a b => pairWords (packAR 0 d a b 0 7)
  | .slt d a b => pairWords (packAR 0 d a b 0 8)
  | .sltu d a b => pairWords (packAR 0 d a b 0 9)
  | .min d a b => pairWords (packAR 0 d a b 0 10)
  | .max d a b => pairWords (packAR 0 d a b 0 11)
  | .minu d a b => pairWords (packAR 0 d a b 0 12)
  | .maxu d a b => pairWords (packAR 0 d a b 0 13)
  | .sel d a b c => pairWords (packAR 0 d a b c 14)
  | .mul d a b => pairWords (packAR 1 d a b 0 0)
  | .mulh d a b => pairWords (packAR 1 d a b 0 1)
  | .mulhu d a b => pairWords (packAR 1 d a b 0 2)
  | .div d a b => pairWords (packAR 1 d a b 0 3)
  | .divu d a b => pairWords (packAR 1 d a b 0 4)
  | .rem d a b => pairWords (packAR 1 d a b 0 5)
  | .remu d a b => pairWords (packAR 1 d a b 0 6)
  | .clz d a => pairWords (packAR 2 d a 0 0 0)
  | .ctz d a => pairWords (packAR 2 d a 0 0 1)
  | .popc d a => pairWords (packAR 2 d a 0 0 2)
  | .bswap d a => pairWords (packAR 2 d a 0 0 3)
  | .ext d a pos lm => pairWords (packAS 3 d a pos lm 0)
  | .addi d a imm => pairWords (packAI 4 d a imm)
  | .andi d a imm => pairWords (packAI 5 d a imm)
  | .ori d a imm => pairWords (packAI 6 d a imm)
  | .xori d a imm => pairWords (packAI 7 d a imm)
  | .shli d a sh => pairWords (packAS 8 d a sh 0 0)
  | .shri d a sh => pairWords (packAS 8 d a sh 0 1)
  | .sari d a sh => pairWords (packAS 8 d a sh 0 2)
  | .slti d a imm => pairWords (packAI 9 d a imm)
  | .sltiu d a imm => pairWords (packAI 10 d a imm)
  | .padd d a b => pairWords (packAR 16 d a b 0 0)
  | .pidx d a b => pairWords (packAR 16 d a b 0 1)
  | .pfmt d a => pairWords (packAR 16 d a 0 0 2)
  | .pclr d a => pairWords (packAR 16 d a 0 0 3)
  | .ptag d a fmt blk => pairWords (packAP 17 d a fmt blk 0)
  | .fadd ty rm d a b => pairWords (packAF 20 d a b 0 (BitVec.ofNat 2 ty.code) (BitVec.ofNat 3 rm.code) 0)
  | .fsub ty rm d a b => pairWords (packAF 21 d a b 0 (BitVec.ofNat 2 ty.code) (BitVec.ofNat 3 rm.code) 0)
  | .fmul ty rm d a b => pairWords (packAF 22 d a b 0 (BitVec.ofNat 2 ty.code) (BitVec.ofNat 3 rm.code) 0)
  | .fdiv ty rm d a b => pairWords (packAF 23 d a b 0 (BitVec.ofNat 2 ty.code) (BitVec.ofNat 3 rm.code) 0)
  | .fsqrt ty rm d a => pairWords (packAF 24 d a 0 0 (BitVec.ofNat 2 ty.code) (BitVec.ofNat 3 rm.code) 0)
  | .fma ty rm d a b c => pairWords (packAF 25 d a b c (BitVec.ofNat 2 ty.code) (BitVec.ofNat 3 rm.code) 0)
  | .fnma ty rm d a b c => pairWords (packAF 26 d a b c (BitVec.ofNat 2 ty.code) (BitVec.ofNat 3 rm.code) 0)
  | .fmin ty d a b => pairWords (packAF 27 d a b 0 (BitVec.ofNat 2 ty.code) 0 0)
  | .fmax ty d a b => pairWords (packAF 27 d a b 1 (BitVec.ofNat 2 ty.code) 0 0)
  | .feq ty d a b => pairWords (packAF 28 d a b 0 (BitVec.ofNat 2 ty.code) 0 0)
  | .flt ty d a b => pairWords (packAF 28 d a b 1 (BitVec.ofNat 2 ty.code) 0 0)
  | .fle ty d a b => pairWords (packAF 28 d a b 2 (BitVec.ofNat 2 ty.code) 0 0)
  | .fcls ty d a => pairWords (packAF 29 d a 0 0 (BitVec.ofNat 2 ty.code) 0 0)
  | .fsgn ty d a b => pairWords (packAF 29 d a b 1 (BitVec.ofNat 2 ty.code) 0 0)
  | .fcvt dst src rm d a => pairWords (packAF 30 d a (BitVec.ofNat 5 src.code) (BitVec.ofNat 5 dst.code) 0 (BitVec.ofNat 3 rm.code) 0)
  | .vadd ty d a b h1 h2 k => pairWords (packAV 32 d a b (BitVec.ofNat 3 ty.code) (BitVec.ofBool h1) (BitVec.ofBool h2) 0 k)
  | .vsub ty d a b h1 h2 k => pairWords (packAV 33 d a b (BitVec.ofNat 3 ty.code) (BitVec.ofBool h1) (BitVec.ofBool h2) 0 k)
  | .vmul ty d a b h1 h2 k => pairWords (packAV 34 d a b (BitVec.ofNat 3 ty.code) (BitVec.ofBool h1) (BitVec.ofBool h2) 0 k)
  | .vfma ty d a b h1 h2 k => pairWords (packAV 35 d a b (BitVec.ofNat 3 ty.code) (BitVec.ofBool h1) (BitVec.ofBool h2) 0 k)
  | .vfnma ty d a b h1 h2 k => pairWords (packAV 36 d a b (BitVec.ofNat 3 ty.code) (BitVec.ofBool h1) (BitVec.ofBool h2) 0 k)
  | .vdiv ty d a b h1 h2 k => pairWords (packAV 37 d a b (BitVec.ofNat 3 ty.code) (BitVec.ofBool h1) (BitVec.ofBool h2) 0 k)
  | .vsqrt ty d a h1 k => pairWords (packAV 38 d a 0 (BitVec.ofNat 3 ty.code) (BitVec.ofBool h1) 0 0 k)
  | .vmin ty d a b h1 h2 k => pairWords (packAV 39 d a b (BitVec.ofNat 3 ty.code) (BitVec.ofBool h1) (BitVec.ofBool h2) 0 k)
  | .vmax ty d a b h1 h2 k => pairWords (packAV 40 d a b (BitVec.ofNat 3 ty.code) (BitVec.ofBool h1) (BitVec.ofBool h2) 0 k)
  | .vand ty d a b h1 h2 k => pairWords (packAV 41 d a b (BitVec.ofNat 3 ty.code) (BitVec.ofBool h1) (BitVec.ofBool h2) 0 k)
  | .vor ty d a b h1 h2 k => pairWords (packAV 41 d a b (BitVec.ofNat 3 ty.code) (BitVec.ofBool h1) (BitVec.ofBool h2) 1 k)
  | .vxor ty d a b h1 h2 k => pairWords (packAV 41 d a b (BitVec.ofNat 3 ty.code) (BitVec.ofBool h1) (BitVec.ofBool h2) 2 k)
  | .vshl ty d a b h1 h2 k => pairWords (packAV 42 d a b (BitVec.ofNat 3 ty.code) (BitVec.ofBool h1) (BitVec.ofBool h2) 0 k)
  | .vshr ty d a b h1 h2 k => pairWords (packAV 42 d a b (BitVec.ofNat 3 ty.code) (BitVec.ofBool h1) (BitVec.ofBool h2) 1 k)
  | .vsar ty d a b h1 h2 k => pairWords (packAV 42 d a b (BitVec.ofNat 3 ty.code) (BitVec.ofBool h1) (BitVec.ofBool h2) 2 k)
  | .vcmp c ty d a b h1 h2 k => pairWords (packAV 43 (d.setWidth 5) a b (BitVec.ofNat 3 ty.code) (BitVec.ofBool h1) (BitVec.ofBool h2) (BitVec.ofNat 3 c.code) k)
  | .vsel ty d a b h1 h2 k => pairWords (packAV 44 d a b (BitVec.ofNat 3 ty.code) (BitVec.ofBool h1) (BitVec.ofBool h2) 0 k)
  | .vcvt dst src d a h1 k => pairWords (packAV 45 d a 0 (BitVec.ofNat 3 dst.code) (BitVec.ofBool h1) 0 (BitVec.ofNat 3 src.code) k)
  | .vpack f ty inf d a h1 k => pairWords (packAV 46 d a ((BitVec.ofBool inf).setWidth 5) (BitVec.ofNat 3 ty.code) (BitVec.ofBool h1) 0 (BitVec.ofNat 3 f.code) k)
  | .vunpk f ty d a h1 k => pairWords (packAV 47 d a 0 (BitVec.ofNat 3 ty.code) (BitVec.ofBool h1) 0 (BitVec.ofNat 3 f.code) k)
  | .vred op ty d a h1 k => pairWords (packAV 48 d a 0 (BitVec.ofNat 3 ty.code) (BitVec.ofBool h1) 0 (BitVec.ofNat 3 op.code) k)
  | .vscan ty d a h1 k => pairWords (packAV 49 d a 0 (BitVec.ofNat 3 ty.code) (BitVec.ofBool h1) 0 0 k)
  | .vperm ty d a b h1 h2 k => pairWords (packAV 50 d a b (BitVec.ofNat 3 ty.code) (BitVec.ofBool h1) (BitVec.ofBool h2) 0 k)
  | .vslideUp ty d a b h1 k => pairWords (packAV 51 d a b (BitVec.ofNat 3 ty.code) (BitVec.ofBool h1) 0 0 k)
  | .vslideDn ty d a b h1 k => pairWords (packAV 51 d a b (BitVec.ofNat 3 ty.code) (BitVec.ofBool h1) 0 1 k)
  | .vbcast ty d a k => pairWords (packAV 52 d a 0 (BitVec.ofNat 3 ty.code) 0 0 0 k)
  | .vext ty d a b h1 => pairWords (packAV 53 d a b (BitVec.ofNat 3 ty.code) (BitVec.ofBool h1) 0 0 0)
  | .vins ty d a b => pairWords (packAV 54 d a b (BitVec.ofNat 3 ty.code) 0 0 0 0)
  | .vmv ty d a h1 k => pairWords (packAV 55 d a 0 (BitVec.ofNat 3 ty.code) (BitVec.ofBool h1) 0 0 k)
  | .vrcp ty d a h1 k => pairWords (packAV 56 d a 0 (BitVec.ofNat 3 ty.code) (BitVec.ofBool h1) 0 0 k)
  | .vrsq ty d a h1 k => pairWords (packAV 56 d a 0 (BitVec.ofNat 3 ty.code) (BitVec.ofBool h1) 0 1 k)
  | .vexp2 ty d a h1 k => pairWords (packAV 56 d a 0 (BitVec.ofNat 3 ty.code) (BitVec.ofBool h1) 0 2 k)
  | .vlog2 ty d a h1 k => pairWords (packAV 56 d a 0 (BitVec.ofNat 3 ty.code) (BitVec.ofBool h1) 0 3 k)
  | .vtanh ty d a h1 k => pairWords (packAV 56 d a 0 (BitVec.ofNat 3 ty.code) (BitVec.ofBool h1) 0 4 k)
  | .vmand d a b => pairWords (packAV 57 (d.setWidth 5) (a.setWidth 5) (b.setWidth 5) 0 0 0 0 0)
  | .vmor d a b => pairWords (packAV 57 (d.setWidth 5) (a.setWidth 5) (b.setWidth 5) 0 0 0 1 0)
  | .vmxor d a b => pairWords (packAV 57 (d.setWidth 5) (a.setWidth 5) (b.setWidth 5) 0 0 0 2 0)
  | .vmnot d a => pairWords (packAV 57 (d.setWidth 5) (a.setWidth 5) 0 0 0 0 3 0)
  | .vmpop d a => pairWords (packAV 57 d (a.setWidth 5) 0 0 0 0 4 0)
  | .vmfirst d a => pairWords (packAV 57 d (a.setWidth 5) 0 0 0 0 5 0)
  | .vid ty d k => pairWords (packAV 58 d 0 0 (BitVec.ofNat 3 ty.code) 0 0 0 k)
  | .chunkCommit _ => []
  | .heldChunk => []
  | .leaseAcquire => []
  | .leaseExpiry => []
  | .fallThrough => []
  | .drayAgeExpiry _ _ => []
  | .drayPacketApply _ => []
  | .drayAcknowledgement _ => []
  | .amoPerform _ => []
  | .amopPerform _ => []
  | .partialEviction _ _ => []
  | .hostCxlMemAccess _ _ => []
  | .hostLineInvalidate _ _ => []
  | .fenceRelease _ => []
  | .watchArmEvent _ => []
  | .wakeDelivery _ => []
  | .hostWatchRecheck _ _ => []
  | .waitTimeout _ => []
  | .starvationLimit _ => []
  | .packComplete _ => []
  | .docketResume _ => []
  | .weighmasterSample _ => []
  | .moveComplete _ => []
  | .notifyWrite _ => []
  | .launchRecordRead _ => []
  | .launchValidated _ => []
  | .crewPlacement => []
  | .crewStart _ => []
  | .smayObserved _ => []
  | .launchComplete _ _ => []
  | .pwaitRelease _ => []
  | .barArrival _ => []
  | .barTimeout _ => []
  | .dbarArrival _ => []
  | .wireRaise _ => []
  | .wireComplete _ _ => []
  | .crierBegin _ _ _ => []
  | .crierMessage _ => []
  | .crierAbort _ => []
  | .dbarTimeout _ => []
  | .deadlockDetect _ => []
  | .pulsePeriodExpiry _ => []
  | .threadStateAction _ => []
  | .threadStateResult _ => []
  | .loomCommandArrival _ => []
  | .loomCommandStart _ => []
  | .loomCommandComplete _ _ => []
  | .loomRelease _ => []
  | .loomReleaseComplete _ => []
  | .lresRetry _ => []
  | .lresSkip _ => []
  | .lresFlush _ => []
  | .lresRetryNoNan _ => []
  | .governorWindow _ => []
  | .porterCommandStart _ _ => []
  | .porterCommandComplete _ _ => []
  | .presContinue _ _ => []
  | .presAbandon _ _ => []
  | .presAbandonAll _ _ => []
  | .queueReservation _ => []
  | .stampWrite _ => []
  | .pendingRecordDelivery _ _ => []
  | .correctedError _ _ => []
  | .uncorrectableError _ => []
  | .logicFault _ => []
  | .dramRowRemap _ => []
  | .patrolScrub _ => []
  | .parityReplay _ _ => []
  | .flitReplay _ _ => []
  | .linkRecovery _ _ => []
  | .laneFailure _ _ => []
  | .drainComplete _ => []
  | .epochEnd => []
  | .regionMigrationComplete _ => []
  | .freezeWord _ _ => []
  | .hostLinkDownTimeout _ => []
  | .adoptionWord _ _ => []
  | .atsCompletion _ _ _ => []
  | .priResponse _ _ => []
  | .atsInvalidationRequest _ _ _ => []
  | .peerWrite _ _ _ _ => []
  | .peerRead _ _ _ => []
  | .ioCompletion _ _ _ => []
  | .ioCompletionTimeout _ => []
  | .fabricRemoteAccess _ => []
  | .getMeasurements _ => []
  | .ideKm _ _ => []
  | .ideIntegrityFailure _ _ => []
  | .sessionExpiry _ => []
  | .getTdispVersion _ _ => []
  | .getTdispCapabilities _ _ => []
  | .lockInterfaceRequest _ _ => []
  | .getDeviceInterfaceReport _ _ => []
  | .getDeviceInterfaceState _ _ => []
  | .startInterfaceRequest _ _ _ => []
  | .stopInterfaceRequest _ _ => []
  | .doorbell _ _ _ => []
  | .svring _ _ => []
  | .svrep _ _ => []
  | .timeset _ _ => []
  | .registerWrite _ _ _ => []
  | .reset => []
  | .bringUpStage _ => []
  | .d3hotEntry => []
  | .d0Return => []
  | .pldmRequest _ _ => []
  | .queueSetup _ _ => []
  | .tenantSetup _ _ => []
  | .regionSetup _ _ => []
  | .biasFlip _ _ => []
  | .orderingSetup _ _ => []
  | .pulseSetup _ _ => []
  | .pin _ _ => []
  | .hintsSetup _ _ => []
  | .peersSetup _ _ => []
  | .fabricSetup _ _ => []
  | .scrubControl _ _ => []
  | .rebind _ _ => []
  | .issuePolicy _ _ => []
  | .powerLimit _ _ => []
  | .tenantStop _ _ => []
  | .tenantStart _ _ => []
  | .switchOut _ _ => []
  | .switchIn _ _ => []
  | .hostLinkDown _ => []
  | .hostLinkUp _ _ => []
  | .linkUp _ => []
  | .spdmSessionStart _ => []
  | .heartbeat _ => []
  | .keyUpdate _ _ => []
  | .endSession _ => []

/-- The instruction of a table word: a word with bit 31 set is read first as word 1 of a pair with `nop` and then as
word 0 of a pair of its own; a word with bit 31 clear is read first as word 0 of a lone bundle with a zero literal and
then as word 1 (log entry 14). A table row has 32 bits, so any other width is none. -/
def decodeTableWord (nbits w : Nat) : Option Instr :=
  if nbits = 32 then
    let h : Half := BitVec.ofNat 32 w
    let c : Option Instr :=
      match decodeBundle (h &&& 0x7FFFFFFF) 0 with
      | .ok (.lone i) => some i
      | _ => none
    let a : Option Instr :=
      match decodeBundle 0x80000000 h with
      | .ok (.pair _ i) => some i
      | _ => none
    if fld h 31 1 = 1 then (a <|> c) else (c <|> a)
  else none

end Sys2Proof
end

