-- ==== Sys2Proof/Machine/Fetch.lean ====
section
/-! DEFINITION. Fetching a bundle (R29, R34): translation with execute permission, poison, and the two words of the bundle
in the order memory holds them. -/

namespace Sys2Proof.Machine

/-- The physical address of the bundle at a PC, for its thread (R34, R182, R334). -/
def State.fetchAt (s : State) (pc : Word) : Res Nat :=
  match s.xlate .fetch pc.toNat with
  | .error e => .error e
  | .ok pa =>
    if isIo pa || isFab pa then protFault 5 pc.toNat
    else
      match s.readable pc.toNat pa 8 with
      | .error e => .error e
      | .ok _ => .ok pa

/-- Word 0 and word 1 of the bundle at a physical address, as the open chunk reads them (R29). -/
def State.bundleWords (s : State) (pa : Nat) : Half × Half :=
  ((s.chunkN pa 4).setWidth 32, (s.chunkN (pa + 4) 4).setWidth 32)

/-- The C-slot instruction of a bundle. -/
def Bundle.cSlot : Bundle → Instr
  | .lone c => c
  | .pair c _ => c
  | .late c _ _ => c

/-- The C-slot instruction of two words is `xend`. -/
def isXend (w : Half × Half) : Bool :=
  match decodeBundle w.1 w.2 with
  | .ok b => (match Bundle.cSlot b with | .xend _ => true | _ => false)
  | .error _ => false

/-- The first bundle from `pc` on whose C-slot instruction is `xend`, within `n` bundles (R163). -/
def State.scanXend (s : State) : Nat → Word → Res (Option Word)
  | 0, _ => .ok none
  | n + 1, pc =>
    match s.fetchAt pc with
    | .error (.flt f) => .error (.flt { f with pc := some pc })
    | .error e => .error e
    | .ok pa => if isXend ((s.combined [pa]).bundleWords pa) then .ok (some pc) else s.scanXend n (nextPc pc)

end Sys2Proof.Machine
end

