-- ==== Sys2Proof/Machine/Regions.lean ====
section
/-! DEFINITION. `chunk`, the fences and the explicit regions (R160 to R163, R172, R198 to R202), and the events of a chunk:
its commit, its holds and its leases (R155 to R158, R162). -/

namespace Sys2Proof.Machine

/-- `chunk` (R198). -/
def execChunk (s : State) : Out := s.enderC (s.endChunk Eff.none id)

/-! ## Fences (R172, R199) -/

/-- `fence.d`. -/
def execFenceD (s : State) : Out := s.enderC (s.endChunk Eff.none (fun s1 => (s1.departFor s1.thr).park (.fence true false false)))

/-- `fence.e`. -/
def execFenceE (s : State) : Out := s.enderC (s.endChunk Eff.none (fun s1 => s1.park (.fence false true false)))

/-- `fence.a`. -/
def execFenceA (s : State) : Out := s.enderC (s.endChunk Eff.none (fun s1 => (s1.departFor s1.thr).park (.fence true true true)))

/-- An element of the thread is in a dray, in a packet or not yet acknowledged, by another module either (R170, R172). -/
def State.hasElems (s : State) (id : ThreadId) : Bool :=
  s.clusters.any (fun c => c.2.drays.any (fun d => d.elems.any (fun e => e.tid == id)))
    || (s.net.packets ++ s.net.acks ++ s.net.away).any (fun p => p.elems.any (fun e => e.tid == id))

/-- An engine command of the thread has not completed: it is queued, running or stopped, or its daybook entry is still to be
written (R136, R172). -/
def State.hasCommands (s : State) (id : ThreadId) : Bool :=
  s.clusters.any (fun c => c.2.loom.queue.any (fun q => q.id == id && !q.complete)
    || c.2.porters.any (fun p => p.2.queue.any (fun q => q.id == id && q.phase != .done)))

/-- An `amop` of the thread has not been performed. -/
def State.hasAmops (s : State) (id : ThreadId) : Bool := (s.net.amops ++ s.net.awayAmops).any (fun a => a.id == id)

/-- What a fence waits for has happened. -/
def State.fenceDone (s : State) (id : ThreadId) (dray engine all : Bool) : Bool :=
  !(dray && s.hasElems id) && !(engine && s.hasCommands id) && !(all && s.hasAmops id)

/-- A fenced thread can be released. -/
def State.canRelease (s : State) (id : ThreadId) : Bool :=
  match s.find id with
  | some t => t.stopped.isNone && (match t.place with | .moving _ => false | _ => true) &&
      (match t.run with | .parked (.fence d e a) => s.fenceDone id d e a | _ => false)
  | none => false

/-- FENCE_RELEASE (R172, R231). -/
def execFenceRelease (id : ThreadId) (s : State) : Out :=
  if s.canRelease id then .next (s.upd id (Thread.readyCode s.cyc 7 (fun a => a))) else .next s

/-! ## Explicit regions -/

/-- `xbegin` (R200): the region begins with the next bundle. -/
def execXbegin (s : State) : Out :=
  s.enderC (s.endChunk Eff.none (fun s1 => { s1 with thr := { s1.thr with region := some XRegion.first } }))

/-- The status `xend` writes (R163). -/
def xendWord (att xcode code : Nat) : Word := 0#54 ++ BitVec.ofNat 2 att ++ BitVec.ofNat 4 xcode ++ BitVec.ofNat 4 code

/-- The status of the region that stands open, or of none (R163, R201). -/
def Thread.xendStatus (t : Thread) : Word :=
  match t.region with
  | none => xendWord 0 0 6
  | some r =>
    match r.failed with
    | some (c, x) => xendWord r.attempt x c
    | none => xendWord r.attempt 0 0

/-- A chunk's last bundle and its commit, a region's included. -/
def State.closeChunk (s : State) (e : Eff) : Res State :=
  match s.retire e with
  | .error x => .error x
  | .ok s1 =>
    match s1.commit with
    | .error .conflict => .ok { s1 with thr := { s1.thr with chunk := { s1.thr.chunk with ended := true } } }.squashConflict
    | r => r

/-- `xend` (R201): commits the region, or the chunk. -/
def execXend (d : BitVec 5) (s : State) : Out :=
  let w := s.thr.xendStatus
  s.runC (s.closeChunk (Eff.regs (fun a => a.setX d w)))

/-- `xabort` (R202). -/
def execXabort (n : BitVec 4) (s : State) : Out :=
  s.runC (if s.thr.inRegion then .error (.region 3 n.toNat) else s.closeChunk Eff.none)

/-! ## The events of a chunk -/

/-- The thread that issues has an open chunk that may go on. -/
def State.running (s : State) : Bool := s.thr.live && s.thr.run == .ready && s.thr.stopped.isNone

/-- The thread of a name comes into focus. -/
def State.focus (s : State) (id : ThreadId) : State :=
  if s.thr.live && s.thr.id == id then s
  else
    match s.others.find? (fun t => t.live && t.id == id) with
    | none => s
    | some t => { s with
        thr := t
        others := (if s.thr.live then [s.thr] else []) ++ s.others.filter (fun u => u.live && u.id != id) }

/-- CHUNK_COMMIT (R155): the ended chunk of a thread commits, or is squashed by a conflict. -/
def execChunkCommit (id : ThreadId) (s0 : State) : Out :=
  let s := s0.focus id
  if !s.running || !s.thr.chunk.ended || s.thr.id != id then .next s0
  else
    match s.commit with
    | .ok s1 => .next s1
    | .error e => .next (s.stopFor e)

/-- The next line a held chunk has to take (R158). -/
def Thread.nextHold (t : Thread) : Option Nat :=
  match t.solo with
  | some o => if 2 ≤ o.others then o.want.find? (fun l => !o.held.contains l) else none
  | none => none

/-- HELD_CHUNK (R158): a hold on the next line, in ascending address, once no other thread holds or leases it. -/
def execHeldChunk (s : State) : Out :=
  match s.thr.nextHold, s.thr.solo with
  | some l, some o =>
    if s.running && !s.blocked (some s.thr.id) l then
      .next { s with thr := { s.thr with solo := some { o with held := o.held ++ [l] } } }
    else .next s
  | _, _ => .next s

/-- The next line a third attempt has to lease (R162). -/
def Thread.nextLease (t : Thread) : Option Nat :=
  match t.region with
  | some r => if r.attempt = 3 ∧ r.failed = none then r.touched.find? (fun l => !r.leases.contains l) else none
  | none => none

/-- LEASE_ACQUIRE (R162): a lease on the next line, in ascending address. -/
def execLeaseAcquire (s : State) : Out :=
  match s.thr.nextLease, s.thr.region with
  | some l, some r =>
    if s.running && !s.leaseOver && !s.blocked (some s.thr.id) l then
      let r1 : XRegion := { r with leases := r.leases ++ [l], leaseFrom := some (r.leaseFrom.getD s.cyc) }
      .next { s with thr := { s.thr with region := some r1 } }
    else .next s
  | _, _ => .next s

/-- LEASE_EXPIRY (R162): LEASEMAX cycles after the first lease the region can no longer commit and falls through. -/
def execLeaseExpiry (s : State) : Out :=
  match s.thr.region with
  | some r =>
    match r.failed, r.leaseFrom with
    | none, some c =>
      if s.running then
        let s1 := s.reach (c + (s.tenant s.thr.id.tenant).leasemax)
        .next { s1 with thr := s1.thr.failRegion 5 0 }
      else .next s
    | _, _ => .next s
  | none => .next s

/-- A failed region has not yet been scanned for its `xend`. -/
def Thread.mustScan (t : Thread) : Bool :=
  match t.region with
  | some r => r.failed.isSome && !r.scanned
  | none => false

/-- FALL_THROUGH (R163): from the registers of the `xbegin`, PC goes to the first `xend`; none within 4,096 bundles is the
region fault. -/
def execFallThrough (s : State) : Out :=
  if !s.running || !s.thr.mustScan then .next s
  else
    match s.scanXend 4096 s.thr.chunk.start.pc with
    | .error (.wait _) => .next s
    | .error e => .next (s.stopFor e)
    | .ok none => .next (s.raise ⟨0x10, 0, 0, 0, 0, none⟩)
    | .ok (some pc) => .next { s with thr := { s.thr with
        arch := { s.thr.arch with pc := pc }
        region := s.thr.region.map (fun r => { r with scanned := true }) } }

end Sys2Proof.Machine
end

