-- ==== Sys2Proof/Machine/Waits.lean ====
section
/-! DEFINITION. Waits and the ends of threads (R249 to R258, R264 to R266): watches, `wait`, `yield`, `halt`, `live`, `spawn`,
`pwait`, `smay`, vector contexts, `xchg` and `launch`, with the arming of a watch, the time-out of a wait and the delivery
of wakes (R226 to R231). -/

namespace Sys2Proof.Machine

/-! ## Watches -/

/-- The thread has asked for an arming; it goes on (R251, R353). -/
def Thread.toArm (n : BitVec 2) (w : Watch) (t : Thread) : Thread := { t with arms := t.arms ++ [(n, w)] }

/-- `watch` (R251): alignment, a readable page without the I/O attribute; the arming is an event of its own. -/
def execWatch (c : WatchCond) (n : BitVec 2) (a b : BitVec 5) (s : State) : Out :=
  let va := effAddr (s.thr.arch.getX a) 0
  let v := s.thr.arch.getX b
  s.enderC (match aligned va 8 with
    | .error e => .error e
    | .ok _ =>
      match s.xlate .read va with
      | .error e => .error e
      | .ok pa =>
        if isIo pa || isFab pa then protFault 5 va
        else s.endChunk { Eff.none with pages := [va / 4096] } (fun s1 =>
          { s1 with thr := s1.thr.toArm n ⟨c, va, pa, v, false, false⟩ }))

/-- A slot's watch and its latch. -/
def Thread.setWatch (n : BitVec 2) (w : Option Watch) (lit : Bool) (t : Thread) : Thread :=
  { t with watches := qput t.watches n w
           latch := (t.latch &&& ~~~(1#4 <<< n.toNat)) ||| (if lit then 1#4 <<< n.toNat else 0)
           took := t.took &&& ~~~(1#4 <<< n.toNat) }

/-- The first of some armings that its home grants; those of one slot are performed in order. -/
def State.firstArm (s : State) (id : ThreadId) : List (BitVec 2) → List (BitVec 2 × Watch) → Option (BitVec 2 × Watch)
  | _, [] => none
  | held, p :: l => if s.granted (some id) p.2.pa && !held.contains p.1 then some p else s.firstArm id (p.1 :: held) l

/-- The condition of a watch holds when it is armed (R227). -/
def State.armedTrue (s : State) (w : Watch) : Bool :=
  match w.cond with
  | .any => false
  | .eq => s.readN w.pa 8 == w.val
  | .ne => s.readN w.pa 8 != w.val
  | .geu => w.val.ule (s.readN w.pa 8)

/-- The arming that is performed next. -/
def State.nextArm (s : State) (id : ThreadId) : Option (BitVec 2 × Watch) := (s.find id).bind (fun t => s.firstArm id [] t.arms)

/-- The acknowledgement of an arming has come: a wait that the thread has begun since ends with the last of them, if a latch
is set (R253, R353). -/
def Thread.armAck (t : Thread) : List Wake :=
  if t.arms.isEmpty && t.inWait && t.stopped.isNone && !t.unfired then [⟨t.id, if t.lost then 12 else 1⟩] else []

/-- WATCH_ARM_EVENT (R227, R251): the home disarms what the slot held, links the watch and tests it; the acknowledgement goes
to the thread's home cluster (R353). -/
def execWatchArmEvent (id : ThreadId) (s : State) : Out :=
  match s.nextArm id with
  | none => .next s
  | some (n, w) =>
    let s1 := s.combineLine (some id) (lineOf w.pa)
    let lit := (s1.poisonOf w.pa).isNone && s1.armedTrue w
    let s2 := s1.upd id (fun t => { t.setWatch n (some w) lit with arms := t.arms.erase (n, w) })
    .next { s2 with net := { s2.net with wakes := s2.net.wakes ++ ((s2.find id).map Thread.armAck).getD [] } }

/-- The device gives up a host line that a watch is on: the watch goes on by re-checks (R229, log 10). -/
def State.degradeWatch (s : State) (id : ThreadId) (n : BitVec 2) : State :=
  s.upd id (fun t => { t with watches := qput t.watches n ((qat t.watches n).map (fun w => { w with deg := true, again := true })) })

/-- A watch that the device holds on a host line. -/
def Thread.hostWatch (t : Thread) (n : BitVec 2) : Bool :=
  match qat t.watches n with
  | some w => isHost w.pa && !w.deg
  | none => false

/-- A slot is disarmed and its latch ends; a slot that is not armed, nor about to be, stays as it is (R252). -/
def Thread.unwatch (n : BitVec 2) (t : Thread) : Thread :=
  if (qat t.watches n).isNone && t.arms.all (fun p => p.1 != n) then t
  else { t.setWatch n none false with arms := t.arms.filter (fun p => p.1 != n) }

/-- `unwatch` (R252). -/
def execUnwatch (n : BitVec 2) (s : State) : Out :=
  s.endC Eff.none (fun s1 => { s1 with thr := s1.thr.unwatch n })

/-! ## `wait`, `yield`, `live`, `halt` -/

/-- The thread that issues waits on its latches; it parks too while an arming of its own is not performed (R253, R353). -/
def State.waitNow (d : BitVec 5) (p : Park) (s : State) : State :=
  if s.thr.arms.isEmpty ∧ s.thr.latch ≠ 0 then { s with thr := s.thr.waitReturn s.cyc s.thr.fireCode d } else s.park p

/-- `wait` (R253): the time-out counts from the commit. -/
def execWait (d a : BitVec 5) (s : State) : Out :=
  let n := (s.thr.arch.getX a).toNat
  s.endC Eff.none (fun s1 => s1.waitNow d (.wait d (if n = 0 then none else some (s1.cyc + n))))

/-- `yield` (R254). -/
def execYield (s : State) : Out :=
  s.endC Eff.none (fun s1 => { s1 with thr := { s1.thr with yielded := !(s1.tenant s1.thr.id.tenant).rr } })

/-- LIVE as `live` sets it (R255). -/
def liveOf (v : Word) : BitVec 32 := v.setWidth 32 &&& ~~~1#32

/-- `live` (R255): clears every register that the new LIVE does not mark. -/
def execLive (a : BitVec 5) (s : State) : Out :=
  let l := liveOf (s.thr.arch.getX a)
  s.endC (Eff.regs (fun r => { r with
    live := l
    x := (r.x.zipIdx).map (fun p => if p.2 = 0 ∨ l.getLsbD p.2 then p.1 else 0) })) id

/-- `halt` (R256). -/
def execHalt (s : State) : Out := s.endC Eff.none (fun s1 => s1.endThread s1.thr.id false)

/-- `halt.retain` (R256). -/
def execHaltRetain (s : State) : Out := s.endC Eff.none (fun s1 => s1.endThread s1.thr.id true)

/-! ## `spawn` (R257) -/

/-- A refusal value. -/
def refusal (k : Nat) : Word := 0x8000000000000000#64 + BitVec.ofNat 64 k

/-- The threads of a crew that have not halted. -/
def State.crewSize (s : State) (t : Thread) : Nat :=
  (s.resident.filter (fun u => u.crewKey == t.crewKey && u.run != .retained)).length

/-- The child of a thread. -/
def Thread.child (t : Thread) (rank : BitVec 24) (pc arg : Word) (c : BitVec 10) (p : Place) (now : Nat) : Thread :=
  let a : Arch := { Arch.created rank pc arg with flta := t.arch.flta }
  { Thread.fresh ⟨t.id.tenant, rank⟩ a c 0 with
    place := p
    lid := t.lid
    crew := t.crew
    age := now
    since := now
    early := t.early
    woken := match p with | .slot _ _ => none | _ => some now }

/-- The child is created with the parent's right over it (R257). -/
def State.birth (s : State) (d : BitVec 5) (pc arg : Word) (rank : BitVec 24) (c : BitVec 10) (p : Place) : State :=
  let t := s.thr
  let s1 := s.addEntry t.id.tenant t.id.rank ⟨rank, rank, t.id.rank, 0x3F⟩
  let s2 : State := { s1 with others := s1.others ++ [t.child rank pc arg c p s.cyc] }
  (s2.rankWritten ⟨t.id.tenant, rank⟩).setReg d (rank.setWidth 64)

/-- The event of a `spawn` (R257); woken dockets of the cluster have the first claim on a free slot (R237). -/
def State.spawnNow (d : BitVec 5) (pc arg : Word) (s : State) : State :=
  let t := s.thr
  let k := s.tenant t.id.tenant
  let cl := clusterOf t.core
  if !k.hasRoom t.id.rank then s.setReg d (refusal 1)
  else
    match s.freeRun t.id.tenant 1 with
    | none => s.setReg d (refusal 2)
    | some r =>
      if 2048 ≤ s.crewSize t then s.setReg d (refusal 3)
      else
        let rank := BitVec.ofNat 24 r
        match (if s.resident.any (s.wantsSlot cl) then none else s.slotFor cl none) with
        | some (c, n) => s.birth d pc arg rank c (.slot c n)
        | none =>
          let m := s.makeRoom cl 1
          if m.2 then m.1.birth d pc arg rank t.core .loft else m.1.setReg d (refusal 4)

/-- `spawn` (R257): a misaligned entry is a precise fault. -/
def execSpawn (d a b : BitVec 5) (s : State) : Out :=
  let pc := addrWord (effAddr (s.thr.arch.getX a) 0)
  let arg := s.thr.arch.getX b
  s.enderC (match aligned pc.toNat 8 with
    | .error e => .error e
    | .ok _ => s.endChunk Eff.none (State.spawnNow d pc arg))

/-! ## `pwait`, `smay` (R258) -/

/-- The launch of a thread. -/
def State.launchOf (s : State) (t : Thread) : Option Launch := (s.tenant t.id.tenant).launches.find? (fun l => l.lid == t.lid)

/-- A launch is complete (R242). -/
def Tenant.completed (t : Tenant) (lid : Nat) : Bool :=
  match t.launches.find? (fun l => l.lid == lid) with
  | some l => l.complete
  | none => true

/-- The thread's launch names no predecessor, or a complete one. -/
def State.predDone (s : State) (t : Thread) : Bool :=
  match s.launchOf t with
  | some l => l.pred == 0 || (s.tenant t.id.tenant).completed l.pred
  | none => true

/-- What `pwait` makes of a loft position that is reserved for the thread: a thread that is not eligible there keeps it unused
until it halts (R243, R349). -/
def Thread.spotAt (t : Thread) : Spot := if t.spot = .held ∧ t.packable = false then .barred else t.spot

/-- The thread needs a reserved position no more (R243). -/
def Spot.over : Spot → Spot
  | .held => .none
  | p => p

/-- `pwait` (R258, R348). -/
def execPwait (s : State) : Out :=
  s.endC Eff.none (fun s1 =>
    if s1.predDone s1.thr then { s1 with thr := { s1.thr with spot := s1.thr.spot.over } }
    else
      let t := s1.thr.park s1.cyc .pwait
      { s1 with thr := { t with spot := t.spotAt } })

/-- `smay` (R258, R347): the foreman observes it later. -/
def execSmay (s : State) : Out :=
  s.endC Eff.none (fun s1 =>
    let tn := s1.thr.id.tenant
    match s1.launchOf s1.thr with
    | none => s1
    | some l =>
      if l.smay then s1
      else
        let k := s1.tenant tn
        let s2 := s1.setTenant tn { k with launches := k.launches.map (fun m => if m.lid = l.lid then { m with smay := true } else m) }
        { s2 with net := { s2.net with smays := s2.net.smays ++ [(tn, l.lid)] } })

/-! ## Vector contexts (R264) -/

/-- The groups of a cluster's pool that are held. -/
def State.groupsHeld (s : State) (cl : BitVec 7) : BitVec 16 :=
  s.resident.foldl (fun m t => if clusterOf t.core = cl then m ||| t.gmask else m) 0

/-- The free groups, lowest first. -/
def State.groupsFree (s : State) (cl : BitVec 7) : List Nat :=
  let h := s.groupsHeld cl
  (List.range 16).filter (fun i => !h.getLsbD i)

/-- A mask of groups. -/
def groupMask (l : List Nat) : BitVec 16 := l.foldl (fun m i => m ||| (1#16 <<< i)) 0

/-- The result of R264. -/
def claimWord (ref : Bool) (pend : Bool) (code n : Nat) : Word :=
  BitVec.ofBool ref ++ BitVec.ofBool pend ++ 0#50 ++ BitVec.ofNat 4 code ++ 0#3 ++ BitVec.ofNat 5 n

/-- WANT and LEAST keep their rules (R264). -/
def requestOk (v : Word) : Bool :=
  let want := (v.extractLsb' 0 5).toNat
  let least := (v.extractLsb' 8 5).toNat
  v &&& ~~~0x1F1F#64 == 0 && decide (1 ≤ want) && decide (want ≤ 16) && decide (1 ≤ least) && decide (least ≤ want)

/-- A refusal of R264; only CODE 1 sets PEND. -/
def State.poolRefuse (s : State) (d : BitVec 5) (code : Nat) : State :=
  let cl := clusterOf s.thr.core
  let k := s.cluster cl
  let pend := k.pend || code == 1
  (s.setCluster cl { k with pend := pend }).setReg d (claimWord true pend code s.thr.ngrp)

/-- The thread holds other groups; the elements below the new width stand, and added ones read zero (R99, R264). -/
def Thread.setGroups (g : BitVec 16) (t : Thread) : Thread :=
  let keep : BitVec 16384 := (BitVec.allOnes 16384) >>> (16384 - 1024 * min t.ngrp (popc16 g))
  { t.between (fun a => { a with v := a.v.map (fun w => w &&& keep), hold := [] }) with gmask := g }

/-- The grant of R264. -/
def State.poolGrant (s : State) (d : BitVec 5) (g : BitVec 16) (returned : Bool) : State :=
  let cl := clusterOf s.thr.core
  let k := s.cluster cl
  let pend := k.pend && !returned
  ({ s.setCluster cl { k with pend := pend } with thr := s.thr.setGroups g }).setReg d (claimWord false pend 0 (popc16 g))

/-- The event of a `vclaim` (R264). -/
def State.claim (d : BitVec 5) (v : Word) (s : State) : State :=
  let free := s.groupsFree (clusterOf s.thr.core)
  if !requestOk v then s.poolRefuse d 3
  else if s.thr.gmask ≠ 0 then s.poolRefuse d 2
  else if free.length < (v.extractLsb' 8 5).toNat then s.poolRefuse d 1
  else s.poolGrant d (groupMask (free.take (v.extractLsb' 0 5).toNat)) false

/-- The event of a `vreneg` (R264). -/
def State.reneg (d : BitVec 5) (v : Word) (s : State) : State :=
  let free := s.groupsFree (clusterOf s.thr.core)
  let held := (List.range 16).filter s.thr.gmask.getLsbD
  let want := (v.extractLsb' 0 5).toNat
  if !requestOk v then s.poolRefuse d 3
  else if s.thr.gmask = 0 then s.poolRefuse d 2
  else if held.length + free.length < (v.extractLsb' 8 5).toNat then s.poolRefuse d 1
  else if want ≤ held.length then s.poolGrant d (groupMask (held.take want)) (decide (want < held.length))
  else s.poolGrant d (groupMask (held ++ free.take (want - held.length))) false

/-- `vclaim` (R264). -/
def execVclaim (d a : BitVec 5) (s : State) : Out :=
  let v := s.thr.arch.getX a
  s.endC Eff.none (State.claim d v)

/-- `vreneg` (R264). -/
def execVreneg (d a : BitVec 5) (s : State) : Out :=
  let v := s.thr.arch.getX a
  s.endC Eff.none (State.reneg d v)

/-- `vrel` (R264). -/
def execVrel (s : State) : Out :=
  s.endC Eff.none (fun s1 => { s1.releaseGroups s1.thr with thr := s1.thr.setGroups 0 })

/-! ## `xchg` (R265) -/

/-- A directed wake: the target's latch is set as if its watch had fired. -/
def State.poke (s : State) (id : ThreadId) (n : BitVec 2) : State :=
  let s1 := s.upd id (Thread.light (fun _ => 1#4 <<< n.toNat) 1)
  { s1 with net := { s1.net with wakes := s1.net.wakes ++ [⟨id, 1⟩] } }

/-- A thread whose docket is in transit: what is directed at it is held until the move completes (R238, R270). -/
def Thread.inTransit (t : Thread) : Bool :=
  match t.place with
  | .moving _ => true
  | _ => false

/-- A directed wake leaves for its target. -/
def State.sendPoke (s : State) (t : Thread) (n : BitVec 2) : State :=
  if t.inTransit then { s with net := { s.net with pokes := s.net.pokes ++ [(t.id, n)] } } else s.poke t.id n

/-- A directed wake that was held can act. -/
def State.canPoke (s : State) (n : Nat) : Bool :=
  match s.net.pokes[n]? with
  | some p => (match s.find p.1 with | some t => !t.inTransit | none => true)
  | none => false

/-- A directed wake that was held acts. -/
def State.heldPoke (s : State) (n : Nat) : State :=
  match s.net.pokes[n]? with
  | none => s
  | some p => ({ s with net := { s.net with pokes := ldrop s.net.pokes n } } : State).poke p.1 p.2

/-- The event of an `xchg`: the caller's indenture is checked, the wake leaves, and the caller waits if it asks to. -/
def State.exchange (d : BitVec 5) (target opts : Word) (s : State) : State :=
  let me := s.thr.id
  let rank := target.setWidth 24
  match s.find ⟨me.tenant, rank⟩ with
  | none => s.setReg d (refusal 1)
  | some t =>
    if ((s.tenant me.tenant).rights me.rank rank).getLsbD 4 then
      let s1 := s.sendPoke t (opts.extractLsb' 0 2)
      if opts.getLsbD 8 then s1.waitNow d (.xchg d) else s1.setReg d 0
    else s.setReg d (refusal 2)

/-- `xchg` (R265). -/
def execXchg (d a b : BitVec 5) (s : State) : Out :=
  let t := s.thr.arch.getX a
  let o := s.thr.arch.getX b
  s.endC Eff.none (State.exchange d t o)

/-! ## `launch` (R266) -/

/-- The queue that started a thread's launch. -/
def State.queueOf (s : State) (t : Thread) : BitVec 6 := ((s.launchOf t).map Launch.q).getD 0

/-- The bytes of a launch record with its tenant field set (R266, R325). -/
def recordWords (s : State) (pa : Nat) (tn : BitVec 4) : List Word :=
  (List.range 16).map (fun i =>
    let w := s.readN (pa + 8 * i) 8
    if i = 4 then (w &&& ~~~0xF#64) ||| tn.setWidth 64 else w)

/-- The event of a `launch` (R266, R323): the record is appended to the device ring and DTAIL rises. -/
def State.submit (d : BitVec 5) (pa : Nat) (s : State) : State :=
  let q := s.queueOf s.thr
  let k := s.queue q
  let note := s.readN k.note 8
  let dtail := note.extractLsb' 32 32
  if 64 ≤ (dtail - BitVec.ofNat 32 k.devHead).toNat then s.setReg d 0
  else
    let s1 := s.combineAll (some s.thr.id) [lineOf pa, lineOf (pa + 64)]
    let ws := recordWords s1 pa s.thr.id.tenant
    let s2 := s1.writeEvent none false (cellsFrom (k.devRing + 128 * (dtail.toNat % 64)) (wordsBytes ws))
    (s2.writeEvent none false (cellsOf (k.note + 4) 4 ((dtail + 1).setWidth 64))).setReg d ((dtail + 1).setWidth 64)

/-- `launch` (R266): alignment and a readable page are checked precisely. -/
def execLaunch (d a : BitVec 5) (s : State) : Out :=
  let va := effAddr (s.thr.arch.getX a) 0
  s.enderC (match aligned va 128 with
    | .error e => .error e
    | .ok _ =>
      match s.readAt va 64, s.readAt (va + 64) 64 with
      | .error e, _ => .error e
      | _, .error e => .error e
      | .ok pa, .ok _ => s.endChunk { Eff.none with pages := [va / 4096] } (State.submit d pa))

/-! ## Wakes -/

/-- A waiter checks its barrier word again (R259): a word that is no longer writable faults. -/
def State.barCheck (s : State) (id : ThreadId) (d : BitVec 5) (va : Nat) (ph : BitVec 32) (pc : Word) : State :=
  match s.find id with
  | none => s
  | some t =>
    match s.translate id.tenant t.core .write va with
    | .error (.flt f) => s.faultAfter id 0 pc f
    | .error e => s.askFor id t.core e
    | .ok pa =>
      match s.poisonOf pa with
      | some c => s.faultAfter id 1 pc ⟨0x05, c.toNat, addrWord va, 0, 0, none⟩
      | none =>
        let s1 := s.combineLine none (lineOf pa)
        if barPhase (s1.readN pa 8) ≠ ph then s1.upd id (Thread.readyCode s.cyc 4 (fun a => a.setX d (barResult false false ph)))
        else s1

/-- What a wake does to a thread that is neither stopped nor in transit (R206, R230, R231, R253, R259). -/
def State.wakeUp (s : State) (t : Thread) (code : Nat) : State :=
  let go : State := s.upd t.id (Thread.readyCode s.cyc code (fun a => a))
  let fire (d : BitVec 5) : State :=
    if t.arms.isEmpty ∧ ((code = 1 ∨ code = 10) ∧ t.latch ≠ 0 ∨ code = 12 ∧ t.lost) then s.upd t.id (Thread.waitReturn s.cyc t.fireCode d)
    else s
  match t.run with
  | .parked (.wait d _) => fire d
  | .parked (.xchg d) => fire d
  | .parked (.queue q _ _) => if code = 3 then s.stampCheck t.id q (some 3) else s
  | .parked (.bar d va _ ph _ pc) => if code = 4 then s.barCheck t.id d va ph pc else s
  | .parked (.over d v c) => if code = c then s.upd t.id (Thread.readyCode s.cyc c (fun a => a.setX d v)) else s
  | .parked .pwait => if code = 6 && s.predDone t then go.upd t.id (fun u => { u with spot := u.spot.over }) else s
  | .parked (.fence d e a) => if code = 7 && s.fenceDone t.id d e a then go else s
  | .parked (.loom _ _) => if code = 9 then go else s
  | .parked (.drain r) => if code = 11 && (s.region r).drain.isNone then go else s
  | _ => s

/-- A wake that can be delivered: its thread is not in transit (R238). -/
def State.canWake (s : State) (n : Nat) : Bool :=
  match s.net.wakes[n]? with
  | none => false
  | some w =>
    match s.find w.id with
    | some t => (match t.place with | .moving _ => false | _ => true)
    | none => true

/-- WAKE_DELIVERY (R230): a wake reaches the thread; one that is stopped keeps only what the event left behind. -/
def execWakeDelivery (n : Nat) (s : State) : Out :=
  match s.net.wakes[n]? with
  | none => .next s
  | some w =>
    if !s.canWake n then .next s
    else
      let s1 : State := { s with net := { s.net with wakes := ldrop s.net.wakes n } }
      match s1.find w.id with
      | some t => .next (if t.stopped.isSome then s1 else s1.wakeUp t w.code)
      | none => .next s1

/-- The deadline of a timed `wait` whose earlier armings have been performed (R253). -/
def Thread.waitDeadline (t : Thread) : Option (BitVec 5 × Nat) :=
  match t.run with
  | .parked (.wait d (some c)) => if t.stopped.isSome || !t.live || !t.arms.isEmpty then none else some (d, c)
  | _ => none

/-- WAIT_TIMEOUT (R253): CODE 2, or CODE 1 when a latch is set. -/
def execWaitTimeout (id : ThreadId) (s : State) : Out :=
  match (s.find id).bind (fun t => t.waitDeadline.map (fun p => (t, p))) with
  | none => .next s
  | some (t, d, c) =>
    let s1 := s.reach c
    .next (s1.upd id (Thread.waitReturn s1.cyc (if t.unfired then 2 else t.fireCode) d))

/-- A degraded watch of a thread that is still re-checked (R229). -/
def Thread.degradedWatch (t : Thread) (n : BitVec 2) : Option Watch :=
  match qat t.watches n with
  | some w => if w.again then some w else none
  | none => none

/-- HOST_WATCH_RECHECK (R229): the home re-reads the line and fires the watch when its condition holds; whether a re-check
finds an .any watch's line written is a free value (log 10). -/
def execHostWatchRecheck (id : ThreadId) (n : BitVec 2) (s : State) : Out :=
  match (s.find id).bind (fun t => t.degradedWatch n) with
  | none => .next s
  | some w =>
    let s1 : State := { s with free := s.free + 1 }
    .next (if (w.cond = .any && Config.freeBit s.free) || s.armedTrue w then s1.poke id n else s1)

end Sys2Proof.Machine
end

