-- ==== Sys2Proof/Machine/Barriers.lean ====
section
/-! DEFINITION. Barrier words (R259), and domains with their two mechanisms (R244, R245, R260 to R263): `bar`, `dmem`,
`dbar`, the row-and-column wires and the crier. -/

namespace Sys2Proof.Machine

/-! ## Barrier words (R259) -/

/-- `bar` (R259): alignment and a page that is written and read are checked precisely; the arrival is an event after the
commit. -/
def execBar (d a b : BitVec 5) (s : State) : Out :=
  let va := effAddr (s.thr.arch.getX a) 0
  let v := s.thr.arch.getX b
  let pc := s.thr.arch.pc
  s.enderC (match s.rmwAt va 8 with
    | .error e => .error e
    | .ok pa =>
      if isFab pa then protFault 5 va
      else s.endChunk { Eff.none with pages := [va / 4096] }
        (State.ask (.bar d va pa (v.extractLsb' 0 32) (v.extractLsb' 32 32).toNat pc)))

/-- The arrival a thread has asked for. -/
def Thread.arriving (t : Thread) : Option (BitVec 5 × Nat × Nat × Nat × Nat × Word) :=
  match t.post with
  | some (.bar d va pa n tout pc) => some (d, va, pa, n.toNat, tout, pc)
  | _ => none

/-- A barrier word (R259). -/
def barWord (phase count : BitVec 32) : Word := phase ++ count

/-- BAR_ARRIVAL (R259): one event at the home; a poisoned word is reported by record (R181, log 111). -/
def execBarArrival (id : ThreadId) (s : State) : Out :=
  match (s.find id).bind Thread.arriving with
  | none => .next s
  | some (d, va, pa, n, tout, pc) =>
    if !s.granted (some id) pa then .next s
    else
      let s1 := s.posted id
      match s1.homePoison id.tenant pa with
      | some c => .next (s1.homeRecord id pc ⟨0x05, c.toNat, addrWord va, 0, 0, none⟩)
      | none =>
        let s2 := s1.combineLine (some id) (lineOf pa)
        let w := s2.readN pa 8
        let p := barPhase w
        let count : BitVec 32 := w.extractLsb' 0 32
        if n ≤ count.toNat + 1 then
          .next ((s2.writeEvent (some id) false (cellsOf pa 8 (barWord (p + 1) 0))).upd id
            (Thread.between (fun a => a.setX d (barResult false true p))))
        else
          .next ((s2.writeEvent (some id) false (cellsOf pa 8 (barWord p (count + 1)))).upd id
            (Thread.park s.cyc (.bar d va pa p (if tout = 0 then none else some (s.cyc + tout)) pc)))

/-- The deadline of a timed `bar`. -/
def Thread.barDeadline (t : Thread) : Option (BitVec 5 × Nat × BitVec 32 × Nat) :=
  match t.run with
  | .parked (.bar d _ pa p (some c) _) => if t.live then some (d, pa, p, c) else none
  | _ => none

/-- The bundle and the word of a parked `bar`. -/
def Thread.barAt (t : Thread) : Word × Nat :=
  match t.run with
  | .parked (.bar _ va _ _ _ pc) => (pc, va)
  | _ => (0, 0)

/-- A wait ends with a result and a code: the thread becomes ready, or, when it is stopped, keeps both for its start (R261,
R278). -/
def Thread.endWait (now : Nat) (d : BitVec 5) (v : Word) (code : Nat) (t : Thread) : Thread :=
  if t.stopped.isSome then { t with run := .parked (.over d v code) } else t.readyCode now code (fun a => a.setX d v)

/-- A parked `bar` without its deadline. -/
def Thread.untimedBar (t : Thread) : Thread :=
  match t.run with
  | .parked (.bar d va pa p _ pc) => { t with run := .parked (.bar d va pa p none pc) }
  | _ => t

/-- BAR_TIMEOUT (R259): one event at the home; a changed PHASE still releases. -/
def execBarTimeout (id : ThreadId) (s : State) : Out :=
  match (s.find id).bind (fun t => t.barDeadline.map (fun p => (t, p))) with
  | none => .next s
  | some (t, d, pa, p, c) =>
    if !s.granted (some id) pa then .next s
    else
      let s1 := (s.reach c).combineLine (some id) (lineOf pa)
      let w := s1.readN pa 8
      let count : BitVec 32 := w.extractLsb' 0 32
      match s1.poisonOf pa with
      | some e =>
        .next (if t.stopped.isSome then s1.upd id Thread.untimedBar
          else s1.faultAfter id 1 t.barAt.1 ⟨0x05, e.toNat, addrWord t.barAt.2, 0, 0, none⟩)
      | none =>
        if barPhase w ≠ p then
          .next (s1.upd id (if t.stopped.isSome then Thread.untimedBar else Thread.readyCode s1.cyc 4 (fun a => a.setX d (barResult false false p))))
        else
          let s2 := if count = 0 then s1 else s1.writeEvent (some id) false (cellsOf pa 8 (barWord p (count - 1)))
          .next (s2.upd id (Thread.endWait s1.cyc d (barResult true false p) 2))

/-! ## Membership (R260) -/

/-- The unit a membership value names for a thread. -/
def Thread.domainKind (t : Thread) (v : Word) : Option DKind :=
  let tag : BitVec 16 := v.extractLsb' 43 16
  match (v.extractLsb' 61 3).toNat with
  | 1 => some (.core t.core tag)
  | 2 => some (.crew t.lid t.crew tag)
  | 3 => some (.launch t.lid tag)
  | 4 => some (.rect (v.extractLsb' 14 6) (v.extractLsb' 10 4) (v.extractLsb' 4 6) (v.extractLsb' 0 4))
  | 5 => some (.tenant tag)
  | _ => none

/-- A membership value that keeps its rules (R260). -/
def memberOk (v : Word) : Bool :=
  match (v.extractLsb' 61 3).toNat with
  | 0 => v.extractLsb' 0 59 == 0
  | 4 => v.extractLsb' 20 39 == 0
  | 6 => false
  | 7 => false
  | _ => v.extractLsb' 0 20 == 0 && v.extractLsb' 20 23 != 0

/-- The cores of a rectangle of the core grid. -/
def DKind.cores : DKind → List (BitVec 10)
  | .rect c0 r0 wm hm => (List.range (hm.toNat + 1)).flatMap (fun r => (List.range (wm.toNat + 1)).map (fun c =>
      BitVec.ofNat 10 (64 * (r0.toNat + r) + (c0.toNat + c))))
  | _ => []

/-- The rectangle lies on the core grid, inside the tenant's clusters, and holds the thread's core (R260). -/
def State.rectOk (s : State) (t : Thread) (k : DKind) : Bool :=
  match k with
  | .rect c0 r0 wm hm =>
    decide (c0.toNat + wm.toNat < 64) && decide (r0.toNat + hm.toNat < 16)
      && k.cores.all (fun c => (s.tenant t.id.tenant).rect.holds (clusterOf c)) && k.cores.contains t.core
  | _ => true

/-- A domain of kinds 1 to 3 and 5, which the crier serves (R260). -/
def DKind.crier : DKind → Bool
  | .rect _ _ _ _ => false
  | _ => true

/-- A thread holds a domain in a slot. -/
def Tenant.domainIn (t : Tenant) (r : BitVec 24) (sl : BitVec 2) : Option Domain :=
  t.domains.find? (fun d => d.members.any (fun m => m.rank == r && m.slot == sl))

/-- Another thread of the core holds the rectangle (R260). -/
def State.rectTaken (s : State) (t : Thread) (k : DKind) : Bool :=
  !k.crier && (s.tenant t.id.tenant).domains.any (fun d => d.kind == k && d.members.any (fun m =>
    m.rank != t.id.rank && (match s.find ⟨t.id.tenant, m.rank⟩ with | some u => u.core == t.core | none => false)))

/-- A new domain. -/
def Domain.new (k : DKind) : Domain := ⟨k, [], 0, [], 0, [], [], false, 0⟩

/-- A thread joins a domain (R260). -/
def Domain.join (r : BitVec 24) (sl : BitVec 2) (n : Nat) (d : Domain) : Domain :=
  { d with members := d.members ++ [⟨r, sl, false, false⟩], ns := (d.ns.filter (fun p => p.1 != r)) ++ [(r, n)] }

/-- The event of a `dmem` (R260), with the first row of its table that applies. -/
def State.member (d : BitVec 5) (v : Word) (s : State) : State :=
  let t := s.thr
  let k := s.tenant t.id.tenant
  let sl : BitVec 2 := v.extractLsb' 59 2
  let n := (v.extractLsb' 20 23).toNat
  if !memberOk v then s.setReg d 1
  else
    match t.domainKind v with
    | none => (s.leaveDomains t.id (some sl)).setReg d 0
    | some u =>
      let known := k.domains.any (fun e => e.kind == u)
      if !s.rectOk t u then s.setReg d 2
      else if s.rectTaken t u then s.setReg d 3
      else if (k.domainIn t.id.rank sl).isSome then s.setReg d 4
      else if !known && u.crier && decide (1024 ≤ (k.domains.filter (fun e => e.kind.crier)).length) then s.setReg d 5
      else
        let l := if known then k.domains else k.domains ++ [Domain.new u]
        ((s.setTenant t.id.tenant { k with
          domains := l.map (fun e => if e.kind = u then e.join t.id.rank sl n else e) }).crierRestart t.id.tenant u).setReg d 0

/-- `dmem` (R260). -/
def execDmem (d a : BitVec 5) (s : State) : Out :=
  let v := s.thr.arch.getX a
  s.endC Eff.none (State.member d v)

/-! ## Arrival (R261) -/

/-- The result of a `dbar` (R261). -/
def dbarWord (phases code : Nat) : Word := BitVec.ofNat 32 phases ++ 0#28 ++ BitVec.ofNat 4 code

/-- After its commit a `dbar` answers at once, or asks for its arrival (R261). -/
def State.dbarNow (d : BitVec 5) (v : Word) (s : State) : State :=
  let sl : BitVec 2 := v.extractLsb' 0 2
  let dom := (s.tenant s.thr.id.tenant).domainIn s.thr.id.rank sl
  let n := (dom.map Domain.phases).getD 0
  if v.extractLsb' 2 30 ≠ 0 then s.setReg d (dbarWord n 5)
  else if dom.isNone then s.setReg d (dbarWord 0 4)
  else State.ask (.dbar d sl (v.extractLsb' 32 32).toNat) s

/-- `dbar` (R261). -/
def execDbar (d a : BitVec 5) (s : State) : Out :=
  let v := s.thr.arch.getX a
  s.endC Eff.none (State.dbarNow d v)

/-- Changes one member. -/
def Domain.updMember (r : BitVec 24) (sl : BitVec 2) (f : Member → Member) (d : Domain) : Domain :=
  { d with members := d.members.map (fun m => if m.rank = r ∧ m.slot = sl then f m else m) }

/-- The arrival a thread has asked for. -/
def Thread.dbarAsked (t : Thread) : Option (BitVec 5 × BitVec 2 × Nat) :=
  match t.post with
  | some (.dbar d sl n) => some (d, sl, n)
  | _ => none

/-- Every dray that holds an element of a member of a domain departs (R167). -/
def State.departMembers (s : State) (tn : BitVec 4) (d : Domain) : State :=
  s.clusters.foldl (fun s c => s.callDrays (BitVec.ofNat 7 c.1) (fun y => y.tn == tn && y.elems.any (fun e =>
    d.members.any (fun m => m.rank == e.tid.rank)))) s

/-- DBAR_ARRIVAL (R167, R261): the member arrives, the drays of the domain's members depart, and it parks; the first arrival
of a phase gives its N. -/
def execDbarArrival (id : ThreadId) (s : State) : Out :=
  match (s.find id).bind (fun t => t.dbarAsked.map (fun p => (t, p))) with
  | none => .next s
  | some (_, d, sl, tout) =>
    let s1 := s.posted id
    match (s.tenant id.tenant).domainIn id.rank sl with
    | none => .next s1
    | some e =>
      let n := ((e.ns.find? (fun p => p.1 == id.rank)).map (fun p => p.2)).getD 0
      let s2 := (s1.departMembers id.tenant e).updDomain id.tenant e.kind (fun e =>
        { e.updMember id.rank sl (fun m => { m with arrived := true, raised := false }) with
          n := if e.members.any Member.arrived then e.n else n })
      .next (s2.upd id (Thread.park s.cyc (.dbar d sl e.phases (if tout = 0 then none else some (s.cyc + tout)))))

/-! ## Release of members -/

/-- The register and the slot a thread waits on in `dbar`. -/
def Thread.inDbar (t : Thread) : Option (BitVec 5 × BitVec 2) :=
  match t.run with
  | .parked (.dbar d sl _ _) => some (d, sl)
  | _ => none

/-- The arrived members of a domain that satisfy `p` are released with a result and a code, and their arrivals are
cleared. -/
def State.releaseMembers (s : State) (tn : BitVec 4) (k : DKind) (v : Word) (code : Nat) (p : Member → Bool) : State :=
  match (s.tenant tn).domains.find? (fun d => d.kind == k) with
  | none => s
  | some e =>
    let go := e.members.filter (fun m => m.arrived && p m)
    let s1 := s.updDomain tn k (fun e => { e with members := e.members.map (fun m => if p m then { m with arrived := false, raised := false } else m) })
    go.foldl (fun s m => s.upd ⟨tn, m.rank⟩ (fun t =>
      match t.inDbar with
      | some (d, sl) => if sl = m.slot then t.endWait s.cyc d v code else t
      | none => t)) s1

/-- Everything a member committed before its arrival has been applied or performed (R245, R262). -/
def State.memberClear (s : State) (tn : BitVec 4) (m : Member) : Bool :=
  !s.hasElems ⟨tn, m.rank⟩ && !s.hasAmops ⟨tn, m.rank⟩

/-- A member's arrival is raised (R262, R263). -/
def State.isRaised (s : State) (tn : BitVec 4) (m : Member) : Bool := m.arrived && s.memberClear tn m

/-! ## The wires (R262) -/

/-- WIRE_RAISE (R262, R355): a core raises its arrival once everything its member committed has been acknowledged. -/
def execWireRaise (id : ThreadId) (s : State) : Out :=
  let t := s.tenant id.tenant
  .next (s.setTenant id.tenant { t with domains := t.domains.map (fun d =>
    if d.kind.crier then d
    else { d with members := d.members.map (fun m =>
      if m.rank = id.rank ∧ s.isRaised id.tenant m then { m with raised := true } else m) }) })

/-- Every core of the rectangle that is not mapped out has raised (R262). -/
def State.wiresUp (s : State) (tn : BitVec 4) (d : Domain) : Bool :=
  !d.kind.crier && (d.kind.cores.filter s.coreOk).all (fun c => d.members.any (fun m =>
    m.raised && (match s.find ⟨tn, m.rank⟩ with | some t => t.core == c | none => false)))

/-- WIRE_COMPLETE (R262): the domain completes and every member is released. -/
def execWireComplete (tn : BitVec 4) (n : Nat) (s : State) : Out :=
  match (s.tenant tn).domains[n]? with
  | none => .next s
  | some d =>
    if !s.wiresUp tn d then .next s
    else
      let s1 := s.updDomain tn d.kind (fun d => { d with phases := d.phases + 1 })
      .next (s1.releaseMembers tn d.kind (dbarWord (d.phases + 1) 0) 5 (fun _ => true))

/-! ## The crier (R263) -/

/-- The domain of a kind. -/
def State.domain (s : State) (tn : BitVec 4) (k : DKind) : Option Domain := (s.tenant tn).domains.find? (fun d => d.kind == k)

/-- Every cluster has finished: the phase is over, and counts unless it was broken (R261). -/
def State.crierOver (s : State) (tn : BitVec 4) (k : DKind) : State :=
  match s.domain tn k with
  | none => s
  | some d =>
    if d.ring.all (fun c => (d.posOf c).finished) then
      s.updDomain tn k (fun d => { d with
        ring := [], crier := [], broken := false, turn := d.turn + 1, phases := if d.broken then d.phases else d.phases + 1 })
    else s

/-- A member stands on a cluster. -/
def State.onCluster (s : State) (tn : BitVec 4) (cl : BitVec 7) (m : Member) : Bool := s.memberCluster tn m == some cl

/-- A cluster has received its last round: its members are released (R263). -/
def State.crierFinish (s : State) (tn : BitVec 4) (k : DKind) (cl : BitVec 7) : State :=
  match s.domain tn k with
  | none => s
  | some d =>
    let s1 := s.updDomain tn k (Domain.setPos { d.posOf cl with finished := true })
    (s1.releaseMembers tn k (dbarWord (d.phases + 1) 0) 5 (s.onCluster tn cl)).crierOver tn k

/-- A begun cluster goes on through the rounds it has both sent and received (R263); `fuel` bounds the rounds. -/
def State.crierAdvance (s : State) (tn : BitVec 4) (k : DKind) (cl : BitVec 7) : Nat → State
  | 0 => s
  | fuel + 1 =>
    match s.domain tn k with
    | none => s
    | some d =>
      let p := d.posOf cl
      let n := clog2 d.ring.length
      if !p.begun || p.finished then s
      else if n ≤ p.round then s.crierFinish tn k cl
      else if p.got.contains p.round then
        let s1 := s.updDomain tn k (Domain.setPos { p with round := p.round + 1 })
        let s2 := if p.round + 1 < n then s1.crierSend tn d cl (p.round + 1) false else s1
        s2.crierAdvance tn k cl fuel
      else s

/-- A cluster can begin the phase (R263): its members have arrived and raised, and the domain has its N members; or N
arrivals are there. -/
def State.canBegin (s : State) (tn : BitVec 4) (d : Domain) (cl : BitVec 7) : Bool :=
  let mine := d.members.filter (s.onCluster tn cl)
  d.kind.crier && (d.ring.isEmpty || d.ring.contains cl) && !(d.posOf cl).begun && !(d.posOf cl).finished && mine.any Member.arrived
    && ((decide (d.n ≤ d.members.length) && mine.all (s.isRaised tn))
      || decide (d.n ≤ (d.members.filter (s.isRaised tn)).length))

/-- CRIER_BEGIN (R263). -/
def execCrierBegin (tn : BitVec 4) (n : Nat) (cl : BitVec 7) (s : State) : Out :=
  match (s.tenant tn).domains[n]? with
  | none => .next s
  | some d =>
    if !s.canBegin tn d cl then .next s
    else
      let e : Domain := if d.ring.isEmpty then { d with ring := s.crierClusters tn d } else d
      let s1 := s.updDomain tn d.kind (fun _ => Domain.setPos { e.posOf cl with begun := true } e)
      let s2 := if 1 < e.ring.length then s1.crierSend tn e cl 0 false else s1
      .next (s2.crierAdvance tn d.kind cl 16)

/-- CRIER_MESSAGE (R263): a round message reaches its cluster. -/
def execCrierMessage (n : Nat) (s : State) : Out :=
  match s.net.criers[n]? with
  | none => .next s
  | some m =>
    if m.abort then .next s
    else
      let s1 : State := { s with net := { s.net with criers := ldrop s.net.criers n } }
      match s1.domain m.tn m.dom with
      | none => .next s1
      | some d =>
        if d.turn ≠ m.turn then .next s1
        else
        let p := d.posOf m.dst
        .next ((s1.updDomain m.tn m.dom (Domain.setPos { p with got := p.got ++ [m.round] })).crierAdvance m.tn m.dom m.dst 16)

/-- A cluster leaves a broken phase: its members are released with outcome 3, and the abort goes on in place of its
remaining rounds (R263). -/
def State.crierBreak (s : State) (tn : BitVec 4) (k : DKind) (cl : BitVec 7) : State :=
  match s.domain tn k with
  | none => s
  | some d =>
    let p := d.posOf cl
    if p.finished then s
    else
      let n := clog2 d.ring.length
      let s1 := s.updDomain tn k (fun e => { e.setPos { p with finished := true } with broken := true })
      let s2 := s1.releaseMembers tn k (dbarWord d.phases 3) 5 (s.onCluster tn cl)
      let s3 := (List.range n).foldl (fun s i => if p.round ≤ i then s.crierSend tn d cl i true else s) s2
      s3.crierOver tn k

/-- CRIER_ABORT (R263). -/
def execCrierAbort (n : Nat) (s : State) : Out :=
  match s.net.criers[n]? with
  | none => .next s
  | some m =>
    if !m.abort then .next s
    else
      let s1 : State := { s with net := { s.net with criers := ldrop s.net.criers n } }
      .next (if (s1.domain m.tn m.dom).any (fun d => d.turn == m.turn) then s1.crierBreak m.tn m.dom m.dst else s1)

/-- The deadline of a timed `dbar`. -/
def Thread.dbarDeadline (t : Thread) : Option (BitVec 5 × BitVec 2 × Nat) :=
  match t.run with
  | .parked (.dbar d sl _ (some c)) => if t.live then some (d, sl, c) else none
  | _ => none

/-- DBAR_TIMEOUT (R261 to R263): the arrival is withdrawn, or, once the cluster has begun, the phase is broken. -/
def execDbarTimeout (id : ThreadId) (s : State) : Out :=
  match (s.find id).bind (fun t => t.dbarDeadline.map (fun p => (t, p))) with
  | none => .next s
  | some (t, d, sl, c) =>
    let s1 := s.reach c
    match (s1.tenant id.tenant).domainIn id.rank sl with
    | none => .next (s1.upd id (Thread.endWait s1.cyc d (dbarWord 0 4) 2))
    | some e =>
      let cl := clusterOf t.core
      let began := e.kind.crier && (e.posOf cl).begun && !(e.posOf cl).finished
      let s2 := s1.updDomain id.tenant e.kind (Domain.updMember id.rank sl (fun m => { m with arrived := false, raised := false }))
      let s3 := s2.upd id (Thread.endWait s1.cyc d (dbarWord e.phases (if began then 2 else 1)) 2)
      .next (if began then s3.crierBreak id.tenant e.kind cl else s3)

end Sys2Proof.Machine
end

