-- ==== Sys2Proof/Machine/Control.lean ====
section
/-! DEFINITION. Control transfer, `nop`, `brk`, immediates and a thread's own state words (R81 to R87). -/

namespace Sys2Proof.Machine

/-- PC plus 8 times an offset, modulo 2^57 (R33, R81). -/
def jumpTo (base off : Word) : Word := addrWord (effAddr base (8 * off))

/-- `nop` (R83): changes nothing except PC. -/
def execNop (s : State) : Out := s.regsC (fun a => a)

/-- The thread stops after a committed `brk` and the breakpoint record is written (R84). -/
def State.breakpoint (pc : Word) (n : BitVec 9) (s : State) : State :=
  let t := s.thr
  ({ s with thr := { t with arch := { t.arch with hold := [] }, stopped := some .brk, since := s.cyc } }).deliver (some t.id) t.core t.arch.flta
    (t.record 0 pc ⟨0x11, n.toNat, 0, 0, 0, none⟩)

/-- `brk` (R84): the chunk commits with this bundle, a breakpoint record is written and the thread stops; PC stays at the
`brk` until the start. -/
def execBrk (n : BitVec 9) (s : State) : Out :=
  s.endC { Eff.none with npc := some s.thr.arch.pc } (State.breakpoint s.thr.arch.pc n)

/-- A conditional branch (R81). -/
def State.branch (s : State) (c : Bool) (off : Imm 15) : Out :=
  s.runC (s.retire { Eff.none with npc := if c then some (jumpTo s.thr.arch.pc (immValue off)) else none })

/-- `b.eq` (R81). -/
def execBEq (a b : BitVec 5) (off : Imm 15) (s : State) : Out :=
  s.branch (s.thr.arch.getX a == s.thr.arch.getX b) off
/-- `b.ne` (R81). -/
def execBNe (a b : BitVec 5) (off : Imm 15) (s : State) : Out :=
  s.branch (s.thr.arch.getX a != s.thr.arch.getX b) off
/-- `b.lt` (R81). -/
def execBLt (a b : BitVec 5) (off : Imm 15) (s : State) : Out :=
  s.branch ((s.thr.arch.getX a).slt (s.thr.arch.getX b)) off
/-- `b.ge` (R81). -/
def execBGe (a b : BitVec 5) (off : Imm 15) (s : State) : Out :=
  s.branch (!(s.thr.arch.getX a).slt (s.thr.arch.getX b)) off
/-- `b.ltu` (R81). -/
def execBLtu (a b : BitVec 5) (off : Imm 15) (s : State) : Out :=
  s.branch ((s.thr.arch.getX a).ult (s.thr.arch.getX b)) off
/-- `b.geu` (R81). -/
def execBGeu (a b : BitVec 5) (off : Imm 15) (s : State) : Out :=
  s.branch (!(s.thr.arch.getX a).ult (s.thr.arch.getX b)) off

/-- `jal` (R82): the link register takes PC + 8. -/
def execJal (d : BitVec 5) (off : Imm 14) (s : State) : Out :=
  let pc := s.thr.arch.pc
  s.runC (s.retire { Eff.regs (fun a => a.setX d (nextPc pc)) with npc := some (jumpTo pc (immValue off)) })

/-- `jalr` (R82): a target that is no bundle address raises the alignment fault. -/
def execJalr (d a : BitVec 5) (off : Imm 14) (s : State) : Out :=
  let target := jumpTo (s.thr.arch.getX a) (immValue off)
  s.checked (aligned target.toNat 8)
    (s.runC (s.retire { Eff.regs (fun r => r.setX d (nextPc s.thr.arch.pc)) with npc := some target }))

/-- `movi` (R85). -/
def execMovi (d : BitVec 5) (imm : Imm 20) (s : State) : Out := s.regsC (fun a => a.setX d (immValue imm))

/-- `movhi` (R85): the low half of xD is kept. -/
def execMovhi (d : BitVec 5) (imm : Imm 20) (s : State) : Out :=
  let v : Word := (immValue imm).setWidth 32 ++ (s.thr.arch.getX d).setWidth 32
  s.regsC (fun a => a.setX d v)

/-- VCX (R47). -/
def Thread.vcx (t : Thread) : Word := 0#32 ++ t.gmask ++ 0#11 ++ BitVec.ofNat 5 t.ngrp

/-- A state word of a thread by its index (R44 to R47). -/
def State.wordOf (s : State) (t : Thread) (i : BitVec 5) : Word :=
  match i.toNat with
  | 0 => t.arch.pc
  | 1 => t.stsWord
  | 2 => t.arch.rngs.setWidth 64
  | 3 => t.arch.flta
  | 4 => (s.tenant t.id.tenant).idt t.id.rank
  | 5 => t.id.rank.setWidth 64
  | 6 => 0#56 ++ (s.tenant t.id.tenant).gen ++ t.id.tenant
  | 7 => t.vcx
  | 16 => t.arch.dbk
  | 17 => t.arch.dgo
  | 18 => t.arch.live.setWidth 64
  | 19 => t.arch.why.setWidth 64
  | 20 => s.cycWord
  | n =>
    if 8 ≤ n ∧ n ≤ 15 then oat t.arch.swin (BitVec.ofNat 3 (n - 8))
    else if 21 ≤ n ∧ n ≤ 28 then (oat t.queues (BitVec.ofNat 3 (n - 21))).qb
    else 0

/-- `srd` (R86). -/
def execSrd (d i : BitVec 5) (s : State) : Out :=
  let v := s.wordOf s.thr i
  s.regsC (fun a => a.setX d v)

/-- `swr` (R86): a value that breaks the field's rules is the illegal-instruction fault with code 8. -/
def execSwr (a i : BitVec 5) (s : State) : Out :=
  let v := s.thr.arch.getX a
  s.checked (if wordWritable i && wordOk i v then .ok () else illegal 8 0) (s.regsC (setWord i v))

/-- `time` (R87). -/
def execTime (d : BitVec 5) (s : State) : Out :=
  let v := s.time
  s.regsC (fun a => a.setX d v)

end Sys2Proof.Machine
end

