-- ==== Sys2Proof/Machine/Drays.lean ====
section
/-! DEFINITION. Dray elements: `rst`, `ramo` and `dflush`, the departure of drays by age, the application of a packet's
elements at their home, and the acknowledgement (R165 to R170, R196, R197). -/

namespace Sys2Proof.Machine

/-- The address of a dray element: memory of another owner is no fault at issue, but one of the element at its home (R286). -/
def State.xlateElem (s : State) (va : Nat) : Res Nat :=
  match s.route s.thr.id.tenant s.thr.core .write va with
  | .error e => .error e
  | .ok pa =>
    if isDevice pa && (s.region (regionOf pa)).owner != some s.thr.id.tenant then .ok pa
    else s.guard s.thr.id.tenant va pa

/-- A dray element at issue (R196): alignment, translation and write permission; a host-homed or I/O address refuses it
(detail 7). -/
def State.elemOf (s : State) (a b : BitVec 5) (n : Nat) (op : ElemOp) : Res Elem :=
  let va := effAddr (s.thr.arch.getX a) 0
  match aligned va n with
  | .error e => .error e
  | .ok _ =>
    match s.xlateElem va with
    | .error e => .error e
    | .ok pa =>
      if isIo pa || isHost pa then protFault 7 va
      else .ok ⟨s.thr.id, s.thr.lid, s.thr.arch.flta, va, pa, n, op, zext (8 * n) (s.thr.arch.getX b), 0⟩

/-- A dray instruction: the element joins the chunk and enters a dray when it commits. -/
def State.drayC (s : State) (r : Res Elem) : Out :=
  s.runC (match r with
    | .error e => .error e
    | .ok e => s.retire { Eff.none with elems := [e], pages := [e.va / 4096] })

/-- `rst` (R196). -/
def execRst (z : Size) (a b : BitVec 5) (s : State) : Out := s.drayC (s.elemOf a b (sizeBytes z) .set)

/-- `ramo` (R196). -/
def execRamo (op : AmoOp) (z : AmoSize) (a b : BitVec 5) (s : State) : Out :=
  s.drayC (s.elemOf a b (amoBytes z) (.op op))

/-- `dflush` (R197). -/
def execDflush (s : State) : Out := s.enderC (s.endChunk Eff.none (fun s1 => s1.departFor s1.thr))

/-- DRAY_AGE_EXPIRY (R167): DAGE cycles after its first element a dray departs. -/
def execDrayAgeExpiry (cl : BitVec 7) (n : Nat) (s : State) : Out :=
  match (s.cluster cl).drays[n]? with
  | none => .next s
  | some d => .next (((s.reach (d.since + (s.tenant d.tn).dage)).depart cl (fun e => e == d)).shutDrays cl)

/-- The router of a cluster drops a packet: the cluster is not its tenant's, or its generation is not the present one (R287). -/
def State.foreign (s : State) (p : Packet) (cl : BitVec 7) : Bool :=
  !(s.tenant p.tn).rect.holds cl || p.gen != (s.tenant p.tn).gen

/-- A dropped packet is counted, and a health event goes to the host (R287, R315). -/
def State.dropPacket (s : State) (n : Nat) : State :=
  let h := s.hub.health
  { s with
    net := { s.net with packets := ldrop s.net.packets n }
    hub := { s.hub with health := { h with drops := h.drops + 1, events := h.events + 1 } } }

/-- DRAY_PACKET_APPLY (R168, R170): the next element of a packet applies at the home as one write event, a `ramo` through the
home's write queue, or faults there; a packet for another module leaves for it. -/
def execDrayPacketApply (n : Nat) (s : State) : Out :=
  match s.net.packets[n]? with
  | none => .next s
  | some p =>
    if !s.canApply n then .next s
    else
      match p.dest with
      | .remote _ _ => .next { s with
          net := { s.net with packets := ldrop s.net.packets n, away := s.net.away ++ [p] }
          hub := { s.hub with out := s.hub.out ++ [OutMsg.fabPacket p] } }
      | .cluster cl =>
        if s.foreign p cl then .next (s.dropPacket n)
        else
          match p.elems[p.pos]? with
          | none => .next (s.packetDone n p)
          | some e =>
            match s.homeFault e.tid.tenant e.pa with
            | some f => .next (s.passElem n (some f))
            | none =>
              match e.op with
              | .set => .next ((s.passElem n none).writeEvent none false (cellsOf e.pa e.size e.val))
              | .op o => .next (s.performQueued none p.tn o (if e.size = 8 then .d else .w) e.pa (s.net.amops.length + n) e.val)

/-- What comes back from a destination can come: from another module over a link that carries it (R332). -/
def Dest.linked (s : State) : Dest → Bool
  | .cluster _ => true
  | .remote m _ => s.carries m

/-- DRAY_ACKNOWLEDGEMENT (R170): the acknowledgement reaches the source cluster, or another module's, whose faults are
recorded for their ranks. -/
def execDrayAcknowledgement (w : Answered) (s : State) : Out :=
  match w with
  | .here n => .next { s with net := { s.net with acks := ldrop s.net.acks n } }
  | .far n l =>
    match s.net.away[n]? with
    | none => .next s
    | some p =>
      if !p.dest.linked s then .next s else
      let q : Packet := { p with bad := l.filter (fun b => decide (b.1 < p.elems.length)) }
      .next (q.badRanks.foldl (State.rankRecord q) { s with net := { s.net with away := ldrop s.net.away n } })

end Sys2Proof.Machine
end

