-- ==== Sys2Proof/Machine/Engine.lean ====
section
/-! DEFINITION. How an engine reaches memory: the pieces of an access by line (R117, R173), their translation and checks
(R129, R182, R215, R291, R306, R309), and the reading and writing of their bytes. -/

namespace Sys2Proof.Machine

/-- The pieces of `n` bytes from `va`, each within one line; `fuel` bounds their number. -/
def piecesFrom : Nat → Nat → Nat → List (Nat × Nat)
  | 0, _, _ => []
  | fuel + 1, va, n =>
    if n = 0 then []
    else
      let k := min n (64 - va % 64)
      (va % 2 ^ 57, k) :: piecesFrom fuel (va + k) (n - k)

/-- The pieces of an access. -/
def pieces (va n : Nat) : List (Nat × Nat) := piecesFrom (n / 64 + 2) va n

/-- Where one piece of an engine access lies. An engine waits at a line that is held, leased, draining or asked of the host; a
page with the I/O attribute refuses it; a fabric window takes it when `fab` says so, over a link that carries it, unless the
other module refuses it (R182, R332 to R334). -/
def State.engAt (s : State) (id : ThreadId) (core : BitVec 10) (k : Acc) (fab : Bool) (p : Nat × Nat) : Res Nat :=
  match s.translate id.tenant core k p.1 with
  | .error (.park (.pri v f)) =>
    if (s.tenant id.tenant).priNo.contains (id.rank, v) then .error (.flt f) else .error (.park (.pri v f))
  | .error e => .error e
  | .ok pa =>
    if isIo pa || (isFab pa && !fab) then protFault 5 p.1
    else if isFab pa then
      (if !s.carries (farModuleOf pa) then .error (.wait (lineOf pa))
      else if Config.farRefuses s.free then protFault 6 p.1
      else .ok pa)
    else
      if s.blocked none (lineOf pa) then .error (.wait (lineOf pa))
      else
        match s.homePoison id.tenant pa with
        | some c =>
          if k = .write ∧ (p.2 = 64 ∨ (isHost pa && (s.tenant id.tenant).aborting)) then .ok pa else fault 0x05 c.toNat (addrWord p.1)
        | none => .ok pa

/-- The pieces of an engine access with where they lie. -/
def State.engPieces (s : State) (id : ThreadId) (core : BitVec 10) (k : Acc) (fab : Bool) (va n : Nat) : Res (List (Nat × Nat)) :=
  eachOf (fun p => match s.engAt id core k fab p with
    | .error e => .error e
    | .ok pa => .ok (pa, p.2)) (pieces va n)

/-- A byte an engine reads; another module's bytes are a free value (log 7). -/
def State.engByte (s : State) (pa : Nat) : Byte := if isFab pa then Config.remoteByte s.free pa else s.readByte pa

/-- The bytes of pieces, lines combined first (R176). -/
def State.engBytes (s : State) (ps : List (Nat × Nat)) : State × List Byte :=
  let ls := lsort (ps.map (fun p => lineOf p.1))
  let s1 := ls.foldl (State.atHome false) (s.combineAll none ls)
  ({ s1 with free := s1.free + 1 }, ps.flatMap (fun p => (List.range p.2).map (fun i => s1.engByte (p.1 + i))))

/-- Bytes of one line, written as one event; to a fabric window they leave as one request, and an aborted write to the host is
dropped (R173, R297, R334). -/
def State.engPut (s : State) (tn : BitVec 4) (cells : List Host.Cell) : State :=
  match cells with
  | [] => s
  | c :: _ =>
    if isFab c.1 then s.send (.fabWrite (s.colour tn) c.1 (cells.map Prod.snd))
    else if isHost c.1 && (s.tenant tn).aborting then s
    else s.writeEvent none false cells

/-- Writes bytes to pieces, one event for each line, first first. -/
def State.engPutBytes (s : State) (tn : BitVec 4) : List (Nat × Nat) → List Byte → State
  | [], _ => s
  | p :: ps, bs =>
    let b := bs.take p.2
    (s.engPut tn (cellsFrom p.1 b)).engPutBytes tn ps (bs.drop p.2)

/-- A word of `n` bytes of a list. -/
def bytesNat : List Byte → Nat
  | [] => 0
  | b :: l => b.toNat + 256 * bytesNat l

/-- The low `n` bytes of a number. -/
def natBytes (n v : Nat) : List Byte := (List.range n).map (fun i => BitVec.ofNat 8 (v / 256 ^ i))

/-- Reads `n` bytes as a number. -/
def State.engRead (s : State) (id : ThreadId) (core : BitVec 10) (fab : Bool) (va n : Nat) : Res (State × Nat) :=
  match s.engPieces id core .read fab va n with
  | .error e => .error e
  | .ok ps =>
    let r := s.engBytes ps
    .ok (r.1, bytesNat r.2)

/-- Writes a number as `n` bytes. -/
def State.engWrite (s : State) (id : ThreadId) (core : BitVec 10) (fab : Bool) (va n v : Nat) : Res State :=
  match s.engPieces id core .write fab va n with
  | .error e => .error e
  | .ok ps => .ok (s.engPutBytes id.tenant ps (natBytes n v))

end Sys2Proof.Machine
end

