-- ==== Sys2Proof/Machine/Loom.lean ====
section
/-! DEFINITION. Tile and daybook instructions at issue (R110 to R128, R134): the checks of their operands, the wait for the
loom's context or for room, and the push. -/

namespace Sys2Proof.Machine

/-! ## Kinds and shapes -/

/-- Formats of the warp and the weft (R110). -/
def warpFmt (wide : Bool) (f : BitVec 4) : Bool :=
  if wide then [5, 7, 9, 10].contains f.toNat else [11, 12].contains f.toNat

/-- Formats of the vectors of `touter` and `tew.bias` (R110). -/
def vecFmt (wide : Bool) (f : BitVec 4) : Bool :=
  [6, 7, 8].contains f.toNat || (wide && f == 5) || warpFmt wide f

/-- Formats of `tst` (R110). -/
def tstFmt (f : BitVec 4) : Bool := decide (5 ≤ f.toNat) && decide (f.toNat ≤ 12)

/-- Formats of `tred` (R110). -/
def tredFmt (f : BitVec 4) : Bool := f == 5 || f == 6

/-- K and N of a warp format (R19). -/
def warpShape (f : BitVec 4) : Nat × Nat :=
  match f.toNat with
  | 5 => (256, 256)
  | 7 => (512, 512)
  | 12 => (512, 512)
  | _ => (1024, 512)

/-- COLS, ROWS and PITCH of a shape operand, 0 standing for the full width or height (R119). -/
def shapeRows (b : Word) (full : Nat) : Nat := if b.extractLsb' 32 16 = 0 then full else (b.extractLsb' 32 16).toNat
/-- COLS (R119). -/
def shapeCols (b : Word) (full : Nat) : Nat := if b.extractLsb' 48 16 = 0 then full else (b.extractLsb' 48 16).toNat
/-- PITCH (R119). -/
def shapePitch (b : Word) : Nat := (b.extractLsb' 0 32).toNat

/-- A tile operand in memory: its pointer, the formats it may have, and its extent. -/
structure TileArg where
  ptr : Word
  ok : BitVec 4 → Bool
  rows : Nat
  cols : Nat
  pitch : Nat
  limRows : Nat
  limCols : Nat
  /-- the blocks of a `tst` are whole (R119) -/
  wholeBlocks : Bool
  /-- it has a shape operand, whose rows start on blocks (R119) -/
  blockRows : Bool

/-- A vector operand of `n` elements (R123 to R125). -/
def TileArg.vec (p : Word) (ok : BitVec 4 → Bool) (n : Nat) : TileArg := ⟨p, ok, 1, n, 0, 1, n, false, false⟩

/-- A shaped operand (R119). -/
def TileArg.shaped (p b : Word) (ok : BitVec 4 → Bool) (rows cols : Nat) (whole : Bool) : TileArg :=
  ⟨p, ok, shapeRows b rows, shapeCols b cols, shapePitch b, rows, cols, whole, true⟩

/-- Both vectors are FP64 (R114). -/
def fp64Vec (a : Word) : Bool := pFmt a == 5

/-- The memory operands of a tile command. -/
def LoomOp.args (op : LoomOp) (wide : Bool) (a b : Word) : List TileArg :=
  match op with
  | .twarp _ => [.shaped a b (warpFmt wide) (warpShape (pFmt a)).1 (warpShape (pFmt a)).2 false]
  | .tlda => [.shaped a b (warpFmt wide) 64 (if fp64Vec a then 256 else 1024) false]
  | .touter _ => [.vec a (vecFmt wide) 64, .vec b (vecFmt wide) (if fp64Vec a && fp64Vec b then 256 else 512)]
  | .bias _ => [.vec a (vecFmt wide) (if fp64Vec a then 256 else 512)]
  | .tred _ => [.vec a tredFmt (if fp64Vec a then 256 else 512)]
  | .tst _ => [.shaped a b tstFmt 64 512 true]
  | _ => []

/-! ## Checks at issue (R128) -/

/-- The first failure of a list of checks. -/
def allOf : List (Res Unit) → Res Unit
  | [] => .ok ()
  | .ok _ :: l => allOf l
  | .error e :: _ => .error e

/-- Bytes of a block of a pointer's elements, or of one element (R67, R119). -/
def unitBytes (p : Word) : Nat := if pBlk p = 0 then fmtBytes (pFmt p) else 2 ^ (pBlk p).toNat * fmtBits (pFmt p) / 8

/-- The byte address of a row's start. -/
def TileArg.rowVa (g : TileArg) (r : Nat) : Nat := (pVa g.ptr + r * g.pitch) % 2 ^ 57

/-- Elements of its block that lie before a row's start: windows start on pages, so the address gives them (R67). A vector may
start within a block. -/
def TileArg.lead (g : TileArg) (r : Nat) : Nat :=
  if pBlk g.ptr = 0 then 0 else g.rowVa r % unitBytes g.ptr * 8 / fmtBits (pFmt g.ptr)

/-- The block of a row that holds element j, counted from the first that the row meets. -/
def TileArg.blockOf (g : TileArg) (r j : Nat) : Nat := (g.lead r + j) / 2 ^ (pBlk g.ptr).toNat

/-- Element j is the first of its row in its block. -/
def TileArg.opens (g : TileArg) (r j : Nat) : Bool := j == 0 || (g.lead r + j) % 2 ^ (pBlk g.ptr).toNat == 0

/-- A row starts on an element, and that of a shape operand on a block of its scale window (R119). -/
def TileArg.rowAligned (g : TileArg) (w : Vector Word 8) (r : Nat) : Res Unit :=
  let a := g.rowVa r
  let base := (List.range 4).findSome? (fun i =>
    let wa := oat w (BitVec.ofNat 3 (2 * i))
    if wNpg wa ≠ 0 ∧ wBase wa ≤ a ∧ a < wBase wa + wNpg wa * 4096 then some (wBase wa) else none)
  let off : Bool := match base with
    | some b => if pBlk g.ptr = 0 || !g.blockRows then false else (a - b) % unitBytes g.ptr != 0
    | none => false
  if a % fmtBytes (pFmt g.ptr) ≠ 0 ∨ off then fault 0x02 0 (addrWord a ||| tagBits g.ptr) else .ok ()

/-- Every block of a row has a scale window (R67, R128). -/
def TileArg.rowScaled (g : TileArg) (w : Vector Word 8) (r : Nat) : Res Unit :=
  let js := (List.range g.cols).filter (fun j => g.opens r j || j + 1 == g.cols)
  allOf (js.map (fun (j : Nat) =>
    let a := (typedAddr (pFmt g.ptr) (g.rowVa r) j).1
    if (scaleAddr w (pBlk g.ptr).toNat (fmtBits (pFmt g.ptr)) a).isSome then .ok ()
    else fault 0x07 1 (addrWord a ||| tagBits g.ptr)))

/-- The checks of R128 over the memory operands of a command, row by row of its table. -/
def tileChecks (w : Vector Word 8) (l : List TileArg) : Res Unit :=
  allOf (l.map (fun g => if fmtReserved (pFmt g.ptr) then illegal 9 0 else .ok ())
    ++ l.map (fun g => if tagOk g.ptr then .ok () else fault 0x06 1 g.ptr)
    ++ l.map (fun g => if g.ok (pFmt g.ptr) then .ok () else fault 0x0A 1 0)
    ++ l.map (fun g =>
        if g.rows ≤ g.limRows ∧ g.cols ≤ g.limCols ∧ g.pitch % unitBytes g.ptr = 0 then .ok () else fault 0x0A 2 0)
    ++ l.flatMap (fun g => (List.range g.rows).map (g.rowAligned w))
    ++ l.flatMap (fun g => if pBlk g.ptr = 0 then [] else (List.range g.rows).map (g.rowScaled w))
    ++ l.map (fun g =>
        if g.wholeBlocks && g.cols % 2 ^ (pBlk g.ptr).toNat != 0 then
          fault 0x07 2 (addrWord (pVa g.ptr) ||| tagBits g.ptr)
        else .ok ()))

/-- The warp slot of a command (R19). -/
def LoomOp.warpSlot : LoomOp → Option (BitVec 2)
  | .twarp w => some w
  | .tmul _ w => some w
  | .tmult _ w => some w
  | _ => none

/-- A warp slot that the wide loom lacks (R41 code 6, R128). -/
def LoomOp.lacks (op : LoomOp) (wide : Bool) : Bool :=
  match op.warpSlot with
  | some w => wide && decide (2 ≤ w.toNat)
  | none => false

/-- A daybook instruction (R134). -/
def LoomOp.isDaybook : LoomOp → Bool
  | .trecOn => true
  | .trecOff => true
  | .unwind => true
  | .tdrop => true
  | _ => false

/-- The checks of a push at issue (R128, R134). -/
def State.pushChecks (s : State) (op : LoomOp) (a b : Word) : Res Unit :=
  let wide := isWide (clusterOf s.thr.core)
  if op.lacks wide then illegal 6 0
  else if (op = .tsync ∨ op = .unwind) ∧ va57 a % 8 ≠ 0 then fault 0x02 0 (addrWord (va57 a))
  else if op.isDaybook && wNpg s.thr.arch.dbk == 0 then fault 0x0C 8 0
  else tileChecks s.thr.arch.swin (op.args wide a b)

/-! ## The context and the push (R112, R113, R115) -/

/-- A thread in the line for a context still waits for it: it runs, or is parked for the context. -/
def State.stillWaits (s : State) (cl : BitVec 7) (w : ThreadId × BitVec 4 × Nat × Nat) : Bool :=
  match s.find w.1 with
  | none => false
  | some t => t.crewKey == w.2 && t.stopped.isNone && !(s.tenant t.id.tenant).out
      && (t.run == .ready || t.run == .parked (.loom cl false))

/-- The crew whose turn it is to claim a free context: that of the first thread in the line that still waits (R112, log 94). -/
def State.nextClaim (s : State) (cl : BitVec 7) : Option (BitVec 4 × Nat × Nat) :=
  ((s.cluster cl).loom.waiting.find? (s.stillWaits cl)).map Prod.snd

/-- The context is open to a crew: its own, or free with no other crew before it (R112). -/
def State.openTo (s : State) (cl : BitVec 7) (k : BitVec 4 × Nat × Nat) : Bool :=
  let l := (s.cluster cl).loom
  if l.st = 3 then false else if l.st = 0 then (s.nextClaim cl).all (· == k) else l.owner == some k

/-- Whether the thread's crew may push now, or the thread parks (R112, R115). -/
def State.loomGate (s : State) : Res Unit :=
  let cl := clusterOf s.thr.core
  let l := (s.cluster cl).loom
  if !s.openTo cl s.thr.crewKey then .error (.park (.loom cl false))
  else if l.mapped ∨ (l.st ≠ 0 ∧ Config.loomQueue ≤ l.qcount) then
    .error (.park (.loom cl true))
  else .ok ()

/-- The loom with its context claimed by a crew (R112, R113). -/
def Loom.claim (l : Loom) (k : BitVec 4 × Nat × Nat) (rank : BitVec 24) : Loom :=
  if l.st = 0 then
    { l with st := 1, owner := some k, lown := rank, ldone := 0, lacc := 0, waiting := l.waiting.filter (fun w => w.2 != k),
             warps := [], weft := Operand.empty, links := [], tiles := [], queue := [] }
  else l

/-- The commit event of a push: the claim, and the next sequence number (R112, R115). -/
def State.pushLoom (c : LoomCmd) (s : State) : State :=
  let cl := clusterOf s.thr.core
  let l := (s.cluster cl).loom.claim s.thr.crewKey s.thr.id.rank
  s.setLoom cl { l with lacc := l.lacc + 1, queue := l.queue ++ [{ c with seq := l.lacc + 1 }] }

/-- A command with what it captures at issue (R115, R134). -/
def Thread.loomCmd (t : Thread) (op : LoomOp) (a b : Word) : LoomCmd where
  seq := 0
  op := op
  opa := a
  opb := b
  id := t.id
  lid := t.lid
  core := t.core
  pc := t.arch.pc
  rm := t.arch.sts.extractLsb' 0 3
  nanf := stsNanf t.arch.sts
  rngs := t.arch.rngs
  swin := t.arch.swin
  flta := t.arch.flta
  dbk := t.arch.dbk
  dgo := t.arch.dgo
  phase := .sent
  nanOff := false
  pos := 0
  buf := []
  fmta := .clear
  fmtb := .clear
  payload := []
  dropped := false
  pend := []
  noting := none
  foreign := false
  hdr := none
  marks := []
  swept := none
  dT := []
  next := none

/-- The draws of a `tst` push under SR: ROWS × COLS of its shape operand (R71, R115). -/
def tstDraws (sts b : Word) : Nat := if stsMode sts = .sr then shapeRows b 64 * shapeCols b 512 else 0

/-- The illegal-instruction fault, which comes before everything else of its bundle, also in an open region (R41, R161). -/
def Stop.isIllegal : Stop → Bool
  | .flt f => f.kind == 1
  | _ => false

/-- A tile or daybook instruction: its checks, the context, the push (R41, R115, R128). -/
def State.loomC (s : State) (op : LoomOp) (a b : BitVec 5) (draws : Nat) : Out :=
  let va := s.thr.arch.getX a
  let vb := s.thr.arch.getX b
  match s.pushChecks op va vb with
  | .error e => if e.isIllegal then s.runC (.error e) else s.enderC (.error e)
  | .ok _ =>
    s.enderC (match s.loomGate with
      | .error e => .error e
      | .ok _ => s.endChunk (Eff.regs (fun r => s.thr.drawn draws r)) (State.pushLoom (s.thr.loomCmd op va vb)))

/-- `twarp` (R120). -/
def execTwarp (w : BitVec 2) (a b : BitVec 5) (s : State) : Out := s.loomC (.twarp w) a b 0
/-- `tzero` (R121). -/
def execTzero (t : BitVec 3) (s : State) : Out := s.loomC (.tzero t) 0 0 0
/-- `tlda` (R120). -/
def execTlda (a b : BitVec 5) (s : State) : Out := s.loomC .tlda a b 0
/-- `tmul` (R122). -/
def execTmul (t : BitVec 3) (w : BitVec 2) (s : State) : Out := s.loomC (.tmul t w) 0 0 0
/-- `tmult` (R122). -/
def execTmult (t : BitVec 3) (w : BitVec 2) (s : State) : Out := s.loomC (.tmult t w) 0 0 0
/-- `touter` (R123). -/
def execTouter (t : BitVec 3) (a b : BitVec 5) (s : State) : Out := s.loomC (.touter t) a b 0
/-- `tew.bias` (R124). -/
def execTewBias (t : BitVec 3) (a : BitVec 5) (s : State) : Out := s.loomC (.bias t) a 0 0
/-- `tew.scale` (R124). -/
def execTewScale (t : BitVec 3) (a : BitVec 5) (s : State) : Out := s.loomC (.scale t) a 0 0
/-- `tew.relu` (R124). -/
def execTewRelu (t : BitVec 3) (s : State) : Out := s.loomC (.relu t) 0 0 0
/-- `tew.gelu` (R124). -/
def execTewGelu (t : BitVec 3) (s : State) : Out := s.loomC (.gelu t) 0 0 0
/-- `tew.silu` (R124). -/
def execTewSilu (t : BitVec 3) (s : State) : Out := s.loomC (.silu t) 0 0 0
/-- `tew.clamp` (R124). -/
def execTewClamp (t : BitVec 3) (a b : BitVec 5) (s : State) : Out := s.loomC (.clamp t) a b 0
/-- `tred` (R125). -/
def execTred (t : BitVec 3) (a : BitVec 5) (s : State) : Out := s.loomC (.tred t) a 0 0
/-- `tst` (R126): under SR the push draws ROWS × COLS times. -/
def execTst (t : BitVec 3) (a b : BitVec 5) (s : State) : Out :=
  s.loomC (.tst t) a b (tstDraws s.thr.arch.sts (s.thr.arch.getX b))
/-- `tsync` (R127). -/
def execTsync (a : BitVec 5) (s : State) : Out := s.loomC .tsync a 0 0
/-- `trec.on` (R145). -/
def execTrecOn (s : State) : Out := s.loomC .trecOn 0 0 0
/-- `trec.off` (R145). -/
def execTrecOff (s : State) : Out := s.loomC .trecOff 0 0 0
/-- `unwind` (R147). -/
def execUnwind (a : BitVec 5) (s : State) : Out := s.loomC .unwind a 0 0
/-- `tdrop` (R146). -/
def execTdrop (s : State) : Out := s.loomC .tdrop 0 0 0

end Sys2Proof.Machine
end

