-- ==== Sys2Proof/Machine/Integer.lean ====
section
/-! DEFINITION. Scalar integer and address instructions of the A slot (R88 to R94). -/

namespace Sys2Proof.Machine

/-- The registers an A-slot instruction starts from: as before the bundle, but for the draws of the C slot (R30, R79). -/
def Arch.beside (n : Nat) (a : Arch) : Arch := { a with rngs := rngSteps n a.rngs }

/-- An A-slot instruction that writes one x register. -/
def State.writeA (s : State) (d : BitVec 5) (v : Word) : Out :=
  s.runA (fun n => .ok ((s.thr.arch.beside n).setX d v))

/-- An A-slot instruction of two x operands. -/
def State.binA (s : State) (d a b : BitVec 5) (f : Word → Word → Word) : Out :=
  s.writeA d (f (s.thr.arch.getX a) (s.thr.arch.getX b))

/-- Shift left by the count mod 64 (R88). -/
def shiftL (a b : Word) : Word := a <<< (b.toNat % 64)
/-- Logical shift right by the count mod 64 (R88). -/
def shiftR (a b : Word) : Word := a >>> (b.toNat % 64)
/-- Arithmetic shift right by the count mod 64 (R88). -/
def shiftA (a b : Word) : Word := a.sshiftRight (b.toNat % 64)

/-- Bits 127:64 of the signed product (R88). -/
def mulHigh (a b : Word) : Word := BitVec.ofInt 64 (a.toInt * b.toInt / 2 ^ 64)
/-- Bits 127:64 of the unsigned product (R88). -/
def mulHighU (a b : Word) : Word := BitVec.ofNat 64 (a.toNat * b.toNat / 2 ^ 64)

/-- Signed quotient, rounded toward zero; −1 for a divisor of 0 (R89). -/
def divS (a b : Word) : Word := if b = 0 then BitVec.allOnes 64 else a.sdiv b
/-- Unsigned quotient; 2^64 − 1 for a divisor of 0 (R89). -/
def divU (a b : Word) : Word := if b = 0 then BitVec.allOnes 64 else a / b
/-- Signed remainder; a for a divisor of 0 (R89). -/
def remS (a b : Word) : Word := if b = 0 then a else a.srem b
/-- Unsigned remainder; a for a divisor of 0 (R89). -/
def remU (a b : Word) : Word := if b = 0 then a else a % b

/-- Leading zero bits; 64 for 0 (R88). -/
def countLead (a : Word) : Word := if a = 0 then 64 else BitVec.ofNat 64 (63 - a.toNat.log2)
/-- Trailing zero bits; 64 for 0 (R88). -/
def countTrail (a : Word) : Word := BitVec.ofNat 64 (((List.range 64).find? a.getLsbD).getD 64)
/-- One bits (R88). -/
def countOnes (a : Word) : Word := BitVec.ofNat 64 ((List.range 64).filter a.getLsbD).length
/-- The bytes in reverse order (R88). -/
def swapBytes (a : Word) : Word :=
  (List.range 8).foldl (fun w i => w ||| ((byteOf a i).setWidth 64 <<< (56 - 8 * i))) 0

/-- `add` (R88). -/
def execAdd (d a b : BitVec 5) (s : State) : Out := s.binA d a b (· + ·)
/-- `sub` (R88). -/
def execSub (d a b : BitVec 5) (s : State) : Out := s.binA d a b (· - ·)
/-- `and` (R88). -/
def execAnd (d a b : BitVec 5) (s : State) : Out := s.binA d a b (· &&& ·)
/-- `or` (R88). -/
def execOr (d a b : BitVec 5) (s : State) : Out := s.binA d a b (· ||| ·)
/-- `xor` (R88). -/
def execXor (d a b : BitVec 5) (s : State) : Out := s.binA d a b (· ^^^ ·)
/-- `shl` (R88). -/
def execShl (d a b : BitVec 5) (s : State) : Out := s.binA d a b shiftL
/-- `shr` (R88). -/
def execShr (d a b : BitVec 5) (s : State) : Out := s.binA d a b shiftR
/-- `sar` (R88). -/
def execSar (d a b : BitVec 5) (s : State) : Out := s.binA d a b shiftA
/-- `slt` (R88). -/
def execSlt (d a b : BitVec 5) (s : State) : Out := s.binA d a b (fun x y => boolWord (x.slt y))
/-- `sltu` (R88). -/
def execSltu (d a b : BitVec 5) (s : State) : Out := s.binA d a b (fun x y => boolWord (x.ult y))
/-- `min` (R88). -/
def execMin (d a b : BitVec 5) (s : State) : Out := s.binA d a b (fun x y => if y.slt x then y else x)
/-- `max` (R88). -/
def execMax (d a b : BitVec 5) (s : State) : Out := s.binA d a b (fun x y => if x.slt y then y else x)
/-- `minu` (R88). -/
def execMinu (d a b : BitVec 5) (s : State) : Out := s.binA d a b (fun x y => if y.ult x then y else x)
/-- `maxu` (R88). -/
def execMaxu (d a b : BitVec 5) (s : State) : Out := s.binA d a b (fun x y => if x.ult y then y else x)
/-- `sel` (R88): a if c is not 0, else b. -/
def execSel (d a b c : BitVec 5) (s : State) : Out :=
  s.binA d a b (fun x y => if s.thr.arch.getX c ≠ 0 then x else y)
/-- `mul` (R88). -/
def execMul (d a b : BitVec 5) (s : State) : Out := s.binA d a b (· * ·)
/-- `mulh` (R88). -/
def execMulh (d a b : BitVec 5) (s : State) : Out := s.binA d a b mulHigh
/-- `mulhu` (R88). -/
def execMulhu (d a b : BitVec 5) (s : State) : Out := s.binA d a b mulHighU
/-- `div` (R89). -/
def execDiv (d a b : BitVec 5) (s : State) : Out := s.binA d a b divS
/-- `divu` (R89). -/
def execDivu (d a b : BitVec 5) (s : State) : Out := s.binA d a b divU
/-- `rem` (R89). -/
def execRem (d a b : BitVec 5) (s : State) : Out := s.binA d a b remS
/-- `remu` (R89). -/
def execRemu (d a b : BitVec 5) (s : State) : Out := s.binA d a b remU
/-- `clz` (R88). -/
def execClz (d a : BitVec 5) (s : State) : Out := s.writeA d (countLead (s.thr.arch.getX a))
/-- `ctz` (R88). -/
def execCtz (d a : BitVec 5) (s : State) : Out := s.writeA d (countTrail (s.thr.arch.getX a))
/-- `popc` (R88). -/
def execPopc (d a : BitVec 5) (s : State) : Out := s.writeA d (countOnes (s.thr.arch.getX a))
/-- `bswap` (R88). -/
def execBswap (d a : BitVec 5) (s : State) : Out := s.writeA d (swapBytes (s.thr.arch.getX a))

/-- `ext` (R90): the field of lm + 1 bits from bit pos, zero-extended. -/
def execExt (d a : BitVec 5) (pos lm : BitVec 6) (s : State) : Out :=
  s.writeA d (zext (lm.toNat + 1) (s.thr.arch.getX a >>> pos.toNat))
/-- `addi` (R90). -/
def execAddi (d a : BitVec 5) (imm : BitVec 16) (s : State) : Out :=
  s.writeA d (s.thr.arch.getX a + imm.signExtend 64)
/-- `andi` (R90). -/
def execAndi (d a : BitVec 5) (imm : BitVec 16) (s : State) : Out :=
  s.writeA d (s.thr.arch.getX a &&& imm.setWidth 64)
/-- `ori` (R90). -/
def execOri (d a : BitVec 5) (imm : BitVec 16) (s : State) : Out :=
  s.writeA d (s.thr.arch.getX a ||| imm.setWidth 64)
/-- `xori` (R90). -/
def execXori (d a : BitVec 5) (imm : BitVec 16) (s : State) : Out :=
  s.writeA d (s.thr.arch.getX a ^^^ imm.setWidth 64)
/-- `shli` (R90). -/
def execShli (d a : BitVec 5) (sh : BitVec 6) (s : State) : Out := s.writeA d (s.thr.arch.getX a <<< sh.toNat)
/-- `shri` (R90). -/
def execShri (d a : BitVec 5) (sh : BitVec 6) (s : State) : Out := s.writeA d (s.thr.arch.getX a >>> sh.toNat)
/-- `sari` (R90). -/
def execSari (d a : BitVec 5) (sh : BitVec 6) (s : State) : Out := s.writeA d ((s.thr.arch.getX a).sshiftRight sh.toNat)
/-- `slti` (R90). -/
def execSlti (d a : BitVec 5) (imm : BitVec 16) (s : State) : Out :=
  s.writeA d (boolWord ((s.thr.arch.getX a).slt (imm.signExtend 64)))
/-- `sltiu` (R90). -/
def execSltiu (d a : BitVec 5) (imm : BitVec 16) (s : State) : Out :=
  s.writeA d (boolWord ((s.thr.arch.getX a).ult (imm.signExtend 64)))

/-- `padd` (R91): the tag is kept and the address wraps. -/
def execPadd (d a b : BitVec 5) (s : State) : Out :=
  s.binA d a b (fun p o => pWith p (effAddr p o))

/-- The byte offset of a signed index at the element size of a tag (R92). -/
def scaledIndex (bits : Nat) (i : Word) : Word :=
  if bits = 4 then i.sshiftRight 1 else i * BitVec.ofNat 64 (bits / 8)

/-- `pidx` (R92): a reserved FMT is code 9, an odd index of a 4-bit element the pointer-tag
fault with detail 2 and, since no memory is accessed, RADDR 0 (DESIGN CHOICE, log 24). -/
def execPidx (d a b : BitVec 5) (s : State) : Out :=
  let p := s.thr.arch.getX a
  let i := s.thr.arch.getX b
  s.runA (fun n =>
    if fmtReserved (pFmt p) then illegal 9 1
    else if fmtBits (pFmt p) = 4 ∧ i.getLsbD 0 then fault 0x06 2 0
    else .ok ((s.thr.arch.beside n).setX d (pWith p (effAddr p (scaledIndex (fmtBits (pFmt p)) i)))))

/-- What `pfmt` returns (R94). -/
def fmtWord (p : Word) : Word :=
  BitVec.ofNat 64 ((pFmt p).toNat + 16 * (pBlk p).toNat + 256 * fmtBits (pFmt p))

/-- `pfmt` (R94): a reserved FMT is code 9. -/
def execPfmt (d a : BitVec 5) (s : State) : Out :=
  let p := s.thr.arch.getX a
  s.runA (fun n =>
    if fmtReserved (pFmt p) then illegal 9 1 else .ok ((s.thr.arch.beside n).setX d (fmtWord p)))

/-- `pclr` (R94). -/
def execPclr (d a : BitVec 5) (s : State) : Out := s.writeA d (zext 57 (s.thr.arch.getX a))

/-- `ptag` (R93). -/
def execPtag (d a : BitVec 5) (fmt : BitVec 4) (blk : BitVec 3) (s : State) : Out :=
  s.writeA d (fmt ++ blk ++ (s.thr.arch.getX a).setWidth 57)

end Sys2Proof.Machine
end

