-- ==== Sys2Proof/Machine/ScalarFp.lean ====
section
/-! DEFINITION. Scalar floating point of the A slot (R95 to R97): operands are decoded exactly, the exact result is rounded
once, and stochastic rounding draws once (R62, R68, R71). -/

namespace Sys2Proof.Machine

/-- An operand read as a type: the low bits of the register (R79). -/
def fpOperand (f : Fmt) (v : Word) : Val := decodeVal f (zext f.bits v).toNat

/-- A rounding A-slot instruction with destination format `f`: `g` gives the exact value under the mode, `wr` the word
written from the code. -/
def State.roundA (s : State) (f : Fmt) (rm : RmField) (d : BitVec 5) (wr : Nat → Word) (g : Mode → Val) : Out :=
  let m := rmMode rm s.thr.arch.sts
  s.runA (fun n =>
    let a := s.thr.arch.beside n
    let (c, r) := drawRound f m false a.rngs (g m)
    .ok ({ a with rngs := r }.setX d (wr c)))

/-- A scalar result of a type: bits above the type are cleared (R43). -/
def State.fpA (s : State) (ty : FpTy) (rm : RmField) (d : BitVec 5) (g : Mode → Val) : Out :=
  s.roundA ty.fmt rm d (BitVec.ofNat 64) g

/-- Operand `i` of the thread that issues, read as a type. -/
def State.fpX (s : State) (ty : FpTy) (i : BitVec 5) : Val := fpOperand ty.fmt (s.thr.arch.getX i)

/-- `fadd` (R95). -/
def execFadd (ty : FpTy) (rm : RmField) (d a b : BitVec 5) (s : State) : Out :=
  s.fpA ty rm d (fun m => addVal m (s.fpX ty a) (s.fpX ty b))
/-- `fsub` (R95). -/
def execFsub (ty : FpTy) (rm : RmField) (d a b : BitVec 5) (s : State) : Out :=
  s.fpA ty rm d (fun m => addVal m (s.fpX ty a) (s.fpX ty b).neg)
/-- `fmul` (R95). -/
def execFmul (ty : FpTy) (rm : RmField) (d a b : BitVec 5) (s : State) : Out :=
  s.fpA ty rm d (fun _ => mulVal (s.fpX ty a) (s.fpX ty b))
/-- `fdiv` (R95). -/
def execFdiv (ty : FpTy) (rm : RmField) (d a b : BitVec 5) (s : State) : Out :=
  s.fpA ty rm d (fun _ => divVal (s.fpX ty a) (s.fpX ty b))
/-- `fsqrt` (R95). -/
def execFsqrt (ty : FpTy) (rm : RmField) (d a : BitVec 5) (s : State) : Out :=
  s.fpA ty rm d (fun _ => sqrtVal (s.fpX ty a))
/-- `fma` (R95): one rounding. -/
def execFma (ty : FpTy) (rm : RmField) (d a b c : BitVec 5) (s : State) : Out :=
  s.fpA ty rm d (fun m => addVal m (mulVal (s.fpX ty a) (s.fpX ty b)) (s.fpX ty c))
/-- `fnma` (R95): −(a × b) + c with one rounding. -/
def execFnma (ty : FpTy) (rm : RmField) (d a b c : BitVec 5) (s : State) : Out :=
  s.fpA ty rm d (fun m => addVal m (mulVal (s.fpX ty a) (s.fpX ty b)).neg (s.fpX ty c))

/-- A result of a type that is exact. -/
def exactCode (f : Fmt) (v : Val) : Word := BitVec.ofNat 64 (roundCode f .rne 0 false v)

/-- `fmin` (R96). -/
def execFmin (ty : FpTy) (d a b : BitVec 5) (s : State) : Out :=
  s.writeA d (exactCode ty.fmt (minVal (s.fpX ty a) (s.fpX ty b)))
/-- `fmax` (R96). -/
def execFmax (ty : FpTy) (d a b : BitVec 5) (s : State) : Out :=
  s.writeA d (exactCode ty.fmt (maxVal (s.fpX ty a) (s.fpX ty b)))
/-- `feq` (R96). -/
def execFeq (ty : FpTy) (d a b : BitVec 5) (s : State) : Out :=
  s.writeA d (boolWord (eqVal (s.fpX ty a) (s.fpX ty b)))
/-- `flt` (R96). -/
def execFlt (ty : FpTy) (d a b : BitVec 5) (s : State) : Out :=
  s.writeA d (boolWord (ltVal (s.fpX ty a) (s.fpX ty b)))
/-- `fle` (R96). -/
def execFle (ty : FpTy) (d a b : BitVec 5) (s : State) : Out :=
  s.writeA d (boolWord (ltVal (s.fpX ty a) (s.fpX ty b) || eqVal (s.fpX ty a) (s.fpX ty b)))

/-- The bit of a class that `fcls` sets (R96). -/
def classBit (f : Fmt) (c : Nat) : Nat :=
  let (p, lo, _) := f.shape
  match decodeVal f c with
  | .nan => if c / 2 ^ (p - 2) % 2 = 1 then 9 else 8
  | .inf s => if s then 0 else 7
  | .fin s m e =>
    if m = 0 then (if s then 3 else 4)
    else if (m.log2 : Int) + e < lo then (if s then 2 else 5)
    else if s then 1 else 6

/-- `fcls` (R96). -/
def execFcls (ty : FpTy) (d a : BitVec 5) (s : State) : Out :=
  s.writeA d (1 <<< classBit ty.fmt (zext ty.fmt.bits (s.thr.arch.getX a)).toNat)

/-- The bits of `a` with the sign bit of `b`, at a width (R96). -/
def withSign (w : Nat) (a b : Word) : Word := zext (w - 1) a ||| (zext w b &&& (1 <<< (w - 1)))

/-- `fsgn` (R96). -/
def execFsgn (ty : FpTy) (d a b : BitVec 5) (s : State) : Out := s.binA d a b (withSign ty.fmt.bits)

/-- An `fcvt` result as it is written: an .i32 result is sign-extended (R43, R97). -/
def cvtWord (t : CvtTy) (c : Nat) : Word :=
  match t with
  | .i32 => sext 32 (BitVec.ofNat 64 c)
  | _ => BitVec.ofNat 64 c

/-- `fcvt` (R97): one rounding into the destination, which saturates where it is an integer (R59, R72). -/
def execFcvt (dst src : CvtTy) (rm : RmField) (d a : BitVec 5) (s : State) : Out :=
  s.roundA dst.fmt rm d (cvtWord dst) (fun _ => fpOperand src.fmt (s.thr.arch.getX a))

end Sys2Proof.Machine
end

