-- ==== Sys2Proof/Machine/Functions.lean ====
section
/-! DEFINITION. The functions for which the spec gives an error bound and no value (R108, R124, R142): an enclosure of the exact
result in fixed-point arithmetic, and the choice of a free code within the bound. A fixed-point number is a natural count of
2^−p; what each operation drops is far below the width of the enclosure. -/

namespace Sys2Proof.Machine

/-! ## Bounds in ulps -/

/-- One ulp of an exact result in a format (R108). -/
def ulpOf (f : Fmt) (y : Val) : Val :=
  match y with
  | .fin _ m e => if m = 0 then .zero else .pow2 (f.spacing m e)
  | _ => .zero

/-- A free code that keeps a bound, or else the nearest value: every function within the bound is one of these. -/
def within (f : Fmt) (ok : Val → Bool) (c : Word) (y : Val) : Word :=
  let z := zext f.bits c
  if ok (decodeVal f z.toNat) then z else exactCode f y

/-- y × 2^e. -/
def fixVal (y : Int) (e : Int) : Val := .fin (decide (y < 0)) y.natAbs e

/-- A positive value just below a positive one. -/
def Val.under : Val → Val
  | .fin s m e => .fin s (m * 2 ^ 64 - 1) (e - 64)
  | v => v

/-- A free code within `n` ulps, or within `least` if that is more, of an exact result that lies between (y − d) × 2^e and (y
+ d) × 2^e, and whose magnitude is below `cap` where one is given: an ulp of a result just below a power of two is not that of
the power (R108). Or else the code nearest to y × 2^e. -/
def within2 (f : Fmt) (n : Nat) (least : Val) (cap : Option Val) (c : Word) (y : Int) (d : Nat) (e : Int) : Word :=
  let lo := fixVal ((y.natAbs : Int) - d) e
  let hi := fixVal ((y.natAbs : Int) + d) e
  let reached (b : Val) : Bool := !ltVal hi b
  let top : Val := match cap with | some b => if reached b then b.under else hi | none => hi
  let u := maxVal (mulVal (Val.ofInt n) (ulpOf f top)) least
  let below (r : Val) : Bool :=
    match cap with
    | some b => if reached b then ltVal r (addVal .rne b u) else !ltVal (addVal .rne hi u) r
    | none => !ltVal (addVal .rne hi u) r
  let ok (r : Val) : Bool :=
    let a := if y < 0 then r.neg else r
    r.finite && !ltVal a (addVal .rne lo u.neg) && below a
  within f ok c (fixVal y e)

/-- For a format: the precision p; log2 of half the width of an enclosure in units of 2^−p; and the argument from which on
the tail of the normal distribution is below that width. -/
def fixShape (f : Fmt) : Nat × Nat × Nat :=
  match f with
  | .fp64 => (3200, 1800, 45)
  | _ => (800, 550, 20)

/-- m × 2^e in units of 2^−p. -/
def toFix (p m : Nat) (e : Int) : Nat := if 0 ≤ e + p then m * 2 ^ (e + p).toNat else m / 2 ^ (-(e + p)).toNat

/-! ## Series -/

/-- t/k + t w/(k + 2) + t w²/(k + 4) + …, with `alt` with alternating signs. -/
def oddSeries (p w : Nat) (alt : Bool) : Nat → Nat → Nat → Nat
  | 0, _, _ => 0
  | n + 1, t, k =>
    let r := oddSeries p w alt n (t * w / 2 ^ p) (k + 2)
    if alt then t / k - r else t / k + r

/-- artanh w for w up to 1/3. -/
def artanhFix (p w : Nat) : Nat := oddSeries p (w * w / 2 ^ p) false (p / 3 + 8) w 1

/-- ln 2 = 2 artanh(1/3). -/
def ln2Fix (p : Nat) : Nat := 2 * artanhFix p (2 ^ p / 3)

/-- arctan(1/k) for k from 5 on. -/
def arctanFix (p k : Nat) : Nat := oddSeries p (2 ^ p / (k * k)) true (p / 4 + 8) (2 ^ p / k) 1

/-- π = 16 arctan(1/5) − 4 arctan(1/239). -/
def piFix (p : Nat) : Nat := 16 * arctanFix p 5 - 4 * arctanFix p 239

/-- 1 − r/1 (1 − r/2 (1 − … )), from the `n`th factor outwards. -/
def expSeries (p r : Nat) : Nat → Nat → Nat
  | 0, acc => acc
  | n + 1, acc => expSeries p r n (2 ^ p - r * acc / 2 ^ p / (n + 1))

/-- `n` squarings. -/
def squareFix (p : Nat) : Nat → Nat → Nat
  | 0, v => v
  | n + 1, v => squareFix p n (v * v / 2 ^ p)

/-- e^−z; from z = 2,048 on it is below every enclosure's width. -/
def expNegFix (p z : Nat) : Nat :=
  if 2 ^ (p + 11) ≤ z then 0 else squareFix p 28 (expSeries p (z / 2 ^ 28) (p / 16 + 8) (2 ^ p))

/-- t + t w/(k + 2) + t w²/((k + 2)(k + 4)) + …. -/
def bellSeries (p w : Nat) : Nat → Nat → Nat → Nat
  | 0, _, _ => 0
  | n + 1, t, k => t + bellSeries p w n (t * w / 2 ^ p / (k + 2)) (k + 2)

/-- Φ(a) − 1/2 and φ(a) of the normal distribution for a ≥ 0. -/
def normalFix (p cut a : Nat) : Nat × Nat :=
  if cut * 2 ^ p ≤ a then (2 ^ p / 2, 0)
  else
    let w := a * a / 2 ^ p
    let e := expNegFix p (w / 2)
    let c := isqrt (2 * piFix p * 2 ^ p)
    (e * bellSeries p w (2 * p) a 1 / c, e * 2 ^ p / c)

/-! ## Enclosures, in units of 2^−p -/

/-- The sign of an operand put on a result. -/
def signed (s : Bool) (n : Nat) : Int := if s then -(n : Int) else n

/-- tanh x = (1 − q)/(1 + q) with q = e^−2|x|. -/
def tanhFix (p : Nat) (s : Bool) (a : Nat) : Int :=
  let q := expNegFix p (2 * a)
  signed s ((2 ^ p - q) * 2 ^ p / (2 ^ p + q))

/-- x/(1 + e^−x), with q = e^−|x|. -/
def siluFix (p : Nat) (s : Bool) (a : Nat) : Int :=
  let q := expNegFix p a
  signed s (a * (if s then q else 2 ^ p) / (2 ^ p + q))

/-- The derivative σ(x)(1 + x(1 − σ(x))) of x σ(x). -/
def siluDerivFix (p : Nat) (s : Bool) (a : Nat) : Int :=
  let q := expNegFix p a
  let up := 2 ^ p * 2 ^ p / (2 ^ p + q)
  let dn := q * 2 ^ p / (2 ^ p + q)
  if s then (dn : Int) * ((2 ^ p : Nat) - (a * up / 2 ^ p : Nat) : Int) / (2 ^ p : Nat)
  else ((up * (2 ^ p + a * dn / 2 ^ p) / 2 ^ p : Nat) : Int)

/-- x Φ(x) = x (1 + erf(x/√2))/2. -/
def geluFix (p cut : Nat) (s : Bool) (a : Nat) : Int :=
  let n := (normalFix p cut a).1
  signed s (a * (if s then 2 ^ p / 2 - n else 2 ^ p / 2 + n) / 2 ^ p)

/-- The derivative Φ(x) + x φ(x) of x Φ(x). -/
def geluDerivFix (p cut : Nat) (s : Bool) (a : Nat) : Int :=
  let n := normalFix p cut a
  let x : Nat := a * n.2 / 2 ^ p
  if s then ((2 ^ p / 2 - n.1 : Nat) : Int) - x else ((2 ^ p / 2 + n.1 + x : Nat) : Int)

/-- A free code within `n` ulps of a function of a finite value, whose magnitude is below `cap` where one is given, or the
nearest code (R108, R124, R142). -/
def boundedCode (f : Fmt) (n : Nat) (g : Nat → Nat → Bool → Nat → Int) (cap : Option Val) (c : Word) (s : Bool) (m : Nat)
    (e : Int) : Word :=
  let (p, d, cut) := fixShape f
  within2 f n .zero cap c (g p cut s (toFix p m e)) (2 ^ d) (-(p : Int))

/-- |tanh x| is below 1 and below |x|. -/
def tanhCap (m : Nat) (e : Int) : Val := if ltVal (.pow2 0) (.fin false m e) then .pow2 0 else .fin false m e

/-- |x σ(x)| and |x Φ(x)| are below |x|, and for a negative x below |x|/2. -/
def gateCap (s : Bool) (m : Nat) (e : Int) : Val := .fin false m (if s then e - 1 else e)

/-- A free code within 2 ulps of 2^x, x = (−1)^s m 2^e below 2^12: with k the least integer from x on, 2^x is 2^k e^−(k − x)ln
2. A k below −4,096 stands for −4,096, since every such result is below every spacing (R108). -/
def exp2Bounded (f : Fmt) (c : Word) (s : Bool) (m : Nat) (e : Int) : Word :=
  let (p, d, _) := fixShape f
  let x := signed s (toFix p m e)
  let k : Int := -(-x / (2 ^ p : Nat))
  let q := expNegFix p ((k * (2 ^ p : Nat) - x).toNat * ln2Fix p / 2 ^ p)
  within2 f 2 .zero (if k * (2 ^ p : Nat) = x then none else some (.pow2 (max k (-4096)))) c q (2 ^ d) (max k (-4096) - p)

/-- A free code within 2 ulps, or within 2^−(P + 1) with P the precision of the type, of the logarithm of m 2^e: that of
z = m/2^l with l the bit length less 1 is 2 artanh((z − 1)/(z + 1))/ln 2 (R108). -/
def log2Bounded (f : Fmt) (c : Word) (m : Nat) (e : Int) : Word :=
  let (p, d, _) := fixShape f
  let l := m.log2
  let z := toFix p m (-(l : Int))
  let y : Nat := 2 * artanhFix p ((z - 2 ^ p) * 2 ^ p / (z + 2 ^ p)) * 2 ^ p / ln2Fix p
  within2 f 2 (.pow2 (-(f.shape.1 + 1 : Int))) none c ((e + l) * (2 ^ p : Nat) + y) (2 ^ d) (-(p : Int))

end Sys2Proof.Machine
end

