-- ==== Sys2Proof/Machine/Vector.lean ====
section
/-! DEFINITION. Vector and mask instructions of the A slot (R98 to R109): elements in ascending order under a mask, one
rounding for each element, the draws of stochastic rounding, and the NaN fault (R76, R77). -/

namespace Sys2Proof.Machine

/-- The registers held by the hold bits of A1 and A2 (R101). -/
def holds (h1 h2 : Bool) (a b : BitVec 5) : List (BitVec 5) := (if h1 then [a] else []) ++ (if h2 then [b] else [])

/-- A vector instruction of the A slot: the vector-context fault without a context (R98), and the operand buffer, out of which a
write to a held register takes it again (R101). -/
def State.vecA (s : State) (hs : List (BitVec 5)) (f : Arch → Res Arch) : Out :=
  s.runV (fun n => if s.thr.ngrp = 0 then fault 0x08 0 0 else f ((s.thr.arch.beside n).aged hs))

/-- Element `i` of a vector register as it stood before the bundle. -/
def State.lane (s : State) (b : Nat) (r : BitVec 5) (i : Nat) : Word := laneGet b i (s.thr.arch.getV r)

/-- The value of element `i` at a type. -/
def State.laneVal (s : State) (ty : VTy) (r : BitVec 5) (i : Nat) : Val := decodeVal ty.fmt (s.lane ty.bits r i).toNat

/-- The active elements of an instruction at a width (R100). -/
def State.active (s : State) (b : Nat) (k : BitVec 3) : List Nat :=
  activeLanes (s.thr.arch.getM k) (laneCount s.thr.ngrp b)

/-- What a pass over elements has come to: the register, RNGS, and the lowest lane that produced a NaN. -/
structure Pass where
  v : BitVec 16384
  r : BitVec 32
  nan : Option Nat

/-- One rounded element of destination format `f`, in codes of `b` bits. -/
def roundLane (f : Fmt) (b : Nat) (mode : Mode) (inf : Bool) (g : Nat → Val) (p : Pass) (i : Nat) : Pass :=
  let (c, r) := drawRound f mode inf p.r (g i)
  { v := laneSet b i p.v (BitVec.ofNat 64 c), r := r,
    nan := p.nan.orElse (fun _ => if (decodeVal f c).isNan then some i else none) }

/-- The NaN fault of a vector instruction when NANF is set (R76, R77). -/
def State.nanCheck (s : State) (n : Option Nat) (a : Arch) : Res Arch :=
  match n with
  | some i => if stsNanf s.thr.arch.sts then .error (.flt ⟨0x09, 0, 0, i, 0, none⟩) else .ok a
  | none => .ok a

/-- A vector instruction that rounds each active element into vD, over `base` (R102, R104, R105). -/
def State.roundV (s : State) (hs : List (BitVec 5)) (f : Fmt) (b : Nat) (inf : Bool) (d : BitVec 5) (lanes : List Nat)
    (base : BitVec 16384) (g : Mode → Nat → Val) : Out :=
  let m := stsMode s.thr.arch.sts
  s.vecA hs (fun a =>
    let p := lanes.foldl (roundLane f b m inf (g m)) ⟨base, a.rngs, none⟩
    s.nanCheck p.nan ({ a with rngs := p.r }.setV d p.v))

/-- A vector instruction that writes a word to each of some elements of vD, over `base`. -/
def State.wordV (s : State) (hs : List (BitVec 5)) (b : Nat) (d : BitVec 5) (lanes : List Nat) (base : BitVec 16384)
    (g : Nat → Word) : Out :=
  s.vecA hs (fun a => .ok (a.setV d (lanes.foldl (fun v i => laneSet b i v (g i)) base)))

/-- An element-wise instruction of R102: `fp` on a floating-point type, `int` on an integer type. -/
def State.elemV (s : State) (ty : VTy) (d : BitVec 5) (k : BitVec 3) (hs : List (BitVec 5)) (fp : Mode → Nat → Val)
    (int : Nat → Word) : Out :=
  if ty.isFp then s.roundV hs ty.fmt ty.bits false d (s.active ty.bits k) (s.thr.arch.getV d) fp
  else s.wordV hs ty.bits d (s.active ty.bits k) (s.thr.arch.getV d) int

/-- `vadd` (R102). -/
def execVadd (ty : VTy) (d a b : BitVec 5) (h1 h2 : Bool) (k : BitVec 3) (s : State) : Out :=
  s.elemV ty d k (holds h1 h2 a b) (fun m i => addVal m (s.laneVal ty a i) (s.laneVal ty b i))
    (fun i => s.lane ty.bits a i + s.lane ty.bits b i)
/-- `vsub` (R102). -/
def execVsub (ty : VTy) (d a b : BitVec 5) (h1 h2 : Bool) (k : BitVec 3) (s : State) : Out :=
  s.elemV ty d k (holds h1 h2 a b) (fun m i => addVal m (s.laneVal ty a i) (s.laneVal ty b i).neg)
    (fun i => s.lane ty.bits a i - s.lane ty.bits b i)
/-- `vmul` (R102). -/
def execVmul (ty : VTy) (d a b : BitVec 5) (h1 h2 : Bool) (k : BitVec 3) (s : State) : Out :=
  s.elemV ty d k (holds h1 h2 a b) (fun _ i => mulVal (s.laneVal ty a i) (s.laneVal ty b i))
    (fun i => s.lane ty.bits a i * s.lane ty.bits b i)
/-- `vfma` (R102): a × b + d with one rounding. -/
def execVfma (ty : VTy) (d a b : BitVec 5) (h1 h2 : Bool) (k : BitVec 3) (s : State) : Out :=
  s.elemV ty d k (holds h1 h2 a b)
    (fun m i => addVal m (mulVal (s.laneVal ty a i) (s.laneVal ty b i)) (s.laneVal ty d i))
    (fun i => s.lane ty.bits d i)
/-- `vfnma` (R102): −(a × b) + d with one rounding. -/
def execVfnma (ty : VTy) (d a b : BitVec 5) (h1 h2 : Bool) (k : BitVec 3) (s : State) : Out :=
  s.elemV ty d k (holds h1 h2 a b)
    (fun m i => addVal m (mulVal (s.laneVal ty a i) (s.laneVal ty b i)).neg (s.laneVal ty d i))
    (fun i => s.lane ty.bits d i)
/-- `vdiv` (R102). -/
def execVdiv (ty : VTy) (d a b : BitVec 5) (h1 h2 : Bool) (k : BitVec 3) (s : State) : Out :=
  s.elemV ty d k (holds h1 h2 a b) (fun _ i => divVal (s.laneVal ty a i) (s.laneVal ty b i))
    (fun i => s.lane ty.bits d i)
/-- `vsqrt` (R102). -/
def execVsqrt (ty : VTy) (d a : BitVec 5) (h1 : Bool) (k : BitVec 3) (s : State) : Out :=
  s.elemV ty d k (holds h1 false a a) (fun _ i => sqrtVal (s.laneVal ty a i)) (fun i => s.lane ty.bits d i)

/-- The minimum or maximum of two elements: by R62, or signed (R102). -/
def pickLane (ty : VTy) (big : Bool) (x y : Word) : Word :=
  if ty.isFp then
    let a := decodeVal ty.fmt x.toNat
    let b := decodeVal ty.fmt y.toNat
    exactCode ty.fmt (if big then maxVal a b else minVal a b)
  else
    let less := (sext ty.bits y).slt (sext ty.bits x)
    if less != big then y else x

/-- `vmin` and `vmax` (R102): no rounding, so no draw; a NaN counts as produced (R76). -/
def State.pickV (s : State) (ty : VTy) (big : Bool) (d a b : BitVec 5) (h1 h2 : Bool) (k : BitVec 3) : Out :=
  let g (i : Nat) : Word := pickLane ty big (s.lane ty.bits a i) (s.lane ty.bits b i)
  let lanes := s.active ty.bits k
  let nan := if ty.isFp then lanes.find? (fun i => (decodeVal ty.fmt (g i).toNat).isNan) else none
  s.vecA (holds h1 h2 a b) (fun r =>
    s.nanCheck nan (r.setV d (lanes.foldl (fun v i => laneSet ty.bits i v (g i)) (s.thr.arch.getV d))))

/-- `vmin` (R102). -/
def execVmin (ty : VTy) (d a b : BitVec 5) (h1 h2 : Bool) (k : BitVec 3) (s : State) : Out :=
  s.pickV ty false d a b h1 h2 k
/-- `vmax` (R102). -/
def execVmax (ty : VTy) (d a b : BitVec 5) (h1 h2 : Bool) (k : BitVec 3) (s : State) : Out :=
  s.pickV ty true d a b h1 h2 k

/-- An integer element-wise instruction of two vectors. -/
def State.intV (s : State) (ty : VTy) (d a b : BitVec 5) (h1 h2 : Bool) (k : BitVec 3) (f : Word → Word → Word) : Out :=
  s.wordV (holds h1 h2 a b) ty.bits d (s.active ty.bits k) (s.thr.arch.getV d)
    (fun i => f (s.lane ty.bits a i) (s.lane ty.bits b i))

/-- `vand` (R102). -/
def execVand (ty : VTy) (d a b : BitVec 5) (h1 h2 : Bool) (k : BitVec 3) (s : State) : Out :=
  s.intV ty d a b h1 h2 k (· &&& ·)
/-- `vor` (R102). -/
def execVor (ty : VTy) (d a b : BitVec 5) (h1 h2 : Bool) (k : BitVec 3) (s : State) : Out :=
  s.intV ty d a b h1 h2 k (· ||| ·)
/-- `vxor` (R102). -/
def execVxor (ty : VTy) (d a b : BitVec 5) (h1 h2 : Bool) (k : BitVec 3) (s : State) : Out :=
  s.intV ty d a b h1 h2 k (· ^^^ ·)
/-- `vshl` (R102): the count is taken mod the width. -/
def execVshl (ty : VTy) (d a b : BitVec 5) (h1 h2 : Bool) (k : BitVec 3) (s : State) : Out :=
  s.intV ty d a b h1 h2 k (fun x y => x <<< (y.toNat % ty.bits))
/-- `vshr` (R102). -/
def execVshr (ty : VTy) (d a b : BitVec 5) (h1 h2 : Bool) (k : BitVec 3) (s : State) : Out :=
  s.intV ty d a b h1 h2 k (fun x y => x >>> (y.toNat % ty.bits))
/-- `vsar` (R102). -/
def execVsar (ty : VTy) (d a b : BitVec 5) (h1 h2 : Bool) (k : BitVec 3) (s : State) : Out :=
  s.intV ty d a b h1 h2 k (fun x y => (sext ty.bits x).sshiftRight (y.toNat % ty.bits))

/-- A relation of `vcmp` on two elements (R103). -/
def cmpLane (c : CmpOp) (ty : VTy) (x y : Word) : Bool :=
  if ty.isFp then
    let a := decodeVal ty.fmt x.toNat
    let b := decodeVal ty.fmt y.toNat
    match c with
    | .eq => eqVal a b
    | .ne => !eqVal a b
    | .lt => ltVal a b
    | .le => ltVal a b || eqVal a b
    | .ltu => false
    | .leu => false
  else
    match c with
    | .eq => x == y
    | .ne => x != y
    | .lt => (sext ty.bits x).slt (sext ty.bits y)
    | .le => !(sext ty.bits y).slt (sext ty.bits x)
    | .ltu => x.ult y
    | .leu => !y.ult x

/-- `vcmp` (R103): the whole mask register is written. -/
def execVcmp (c : CmpOp) (ty : VTy) (d : BitVec 3) (a b : BitVec 5) (h1 h2 : Bool) (k : BitVec 3) (s : State) : Out :=
  s.vecA (holds h1 h2 a b) (fun r =>
    .ok (r.setM d ((s.active ty.bits k).foldl
      (fun m i => if cmpLane c ty (s.lane ty.bits a i) (s.lane ty.bits b i) then m ||| (1 <<< i) else m) 0)))

/-- `vsel` (R103): every element is written. -/
def execVsel (ty : VTy) (d a b : BitVec 5) (h1 h2 : Bool) (k : BitVec 3) (s : State) : Out :=
  s.wordV (holds h1 h2 a b) ty.bits d (List.range (laneCount s.thr.ngrp ty.bits)) (s.thr.arch.getV d)
    (fun i => if (s.thr.arch.getM k).getLsbD i then s.lane ty.bits a i else s.lane ty.bits b i)

/-- `vcvt` (R104): the whole of vD is written. -/
def execVcvt (dst src : VTy) (d a : BitVec 5) (h1 : Bool) (k : BitVec 3) (s : State) : Out :=
  let n := min (laneCount s.thr.ngrp dst.bits) (laneCount s.thr.ngrp src.bits)
  s.roundV (holds h1 false a a) dst.fmt dst.bits false d (activeLanes (s.thr.arch.getM k) n) 0
    (fun _ i => s.laneVal src a i)

/-- `vpack` (R105): the whole of vD is written. -/
def execVpack (f : NarrowFmt) (ty : VTy) (inf : Bool) (d a : BitVec 5) (h1 : Bool) (k : BitVec 3) (s : State) : Out :=
  s.roundV (holds h1 false a a) f.fmt f.fmt.bits inf d (s.active ty.bits k) 0 (fun _ i => s.laneVal ty a i)

/-- `vunpk` (R105): exact, without a draw; the whole of vD is written. -/
def execVunpk (f : NarrowFmt) (ty : VTy) (d a : BitVec 5) (h1 : Bool) (k : BitVec 3) (s : State) : Out :=
  let g (i : Nat) : Word := exactCode ty.fmt (decodeVal f.fmt (s.lane f.fmt.bits a i).toNat)
  let lanes := s.active ty.bits k
  let nan := if ty.isFp then lanes.find? (fun i => (decodeVal ty.fmt (g i).toNat).isNan) else none
  s.vecA (holds h1 false a a) (fun r => s.nanCheck nan (r.setV d (lanes.foldl (fun v i => laneSet ty.bits i v (g i)) 0)))

/-! ## Reductions (R73, R74, R106) -/

/-- One node of a reduction on codes of a type, with the state after its draw: an addition draws under SR, of integers too
(R71, R106). DESIGN CHOICE (log 93): R73 calls −0 an exact identity, and R62 has (+0) + (−0) give −0 under RDN; the model keeps
R62, so that under RDN the padding turns a sum of +0 into −0. -/
def redNode (op : RedOp) (ty : VTy) (mode : Mode) (r : BitVec 32) (x y : Word) : Word × BitVec 32 :=
  match op with
  | .sum =>
    if ty.isFp then
      let (c, r') := drawRound ty.fmt mode false r
        (addVal mode (decodeVal ty.fmt x.toNat) (decodeVal ty.fmt y.toNat))
      (BitVec.ofNat 64 c, r')
    else (zext ty.bits (x + y), if mode = .sr then rngStep r else r)
  | .min => (zext ty.bits (pickLane ty false x y), r)
  | .max => (zext ty.bits (pickLane ty true x y), r)

/-- One level of the tree: neighbours are combined. -/
def redLevel (op : RedOp) (ty : VTy) (mode : Mode) : BitVec 32 → List Word → List Word × BitVec 32
  | r, x :: y :: l =>
    let (z, r1) := redNode op ty mode r x y
    let (t, r2) := redLevel op ty mode r1 l
    (z :: t, r2)
  | r, l => (l, r)

/-- The tree over a list whose length is a power of two, by levels. -/
def redTree (op : RedOp) (ty : VTy) (mode : Mode) : Nat → BitVec 32 → List Word → Word × BitVec 32
  | 0, r, l => (l.headD 0, r)
  | n + 1, r, l =>
    let (t, r1) := redLevel op ty mode r l
    redTree op ty mode n r1 t

/-- The identity of a reduction, as a code of the type (R73, R99). -/
def redIdent (op : RedOp) (ty : VTy) : Word :=
  if ty.isFp then
    match op with
    | .sum => exactCode ty.fmt Val.negZero
    | .min => exactCode ty.fmt (.inf false)
    | .max => exactCode ty.fmt (.inf true)
  else
    match op with
    | .sum => 0
    | .min => zext ty.bits (BitVec.ofNat 64 (2 ^ (ty.bits - 1) - 1))
    | .max => zext ty.bits (BitVec.ofNat 64 (2 ^ (ty.bits - 1)))

/-- The levels of a tree over `n` elements: the smallest l with n ≤ 2^l. -/
def redLevels (n : Nat) : Nat := if n ≤ 1 then 0 else (n - 1).log2 + 1

/-- `vred` (R73, R106). -/
def execVred (op : RedOp) (ty : VTy) (d a : BitVec 5) (h1 : Bool) (k : BitVec 3) (s : State) : Out :=
  let n := laneCount s.thr.ngrp ty.bits
  let m := s.thr.arch.getM k
  let leaves := (List.range (2 ^ redLevels n)).map
    (fun i => if decide (i < n) && m.getLsbD i then s.lane ty.bits a i else redIdent op ty)
  let nanLane := ((activeLanes m n).find? (fun i => (s.laneVal ty a i).isNan)).getD 0
  s.vecA (holds h1 false a a) (fun r =>
    let (z, g) := redTree op ty (stsMode s.thr.arch.sts) (redLevels n) r.rngs leaves
    let out := if ty.isFp then z else sext ty.bits z
    s.nanCheck (if ty.isFp && (decodeVal ty.fmt z.toNat).isNan then some nanLane else none)
      ({ r with rngs := g }.setX d out))

/-- What a scan has come to: the pass and the running sum. -/
def scanLane (ty : VTy) (mode : Mode) (g : Nat → Word) (p : Pass × Word) (i : Nat) : Pass × Word :=
  let (z, r) := redNode .sum ty mode p.1.r p.2 (g i)
  ({ v := laneSet ty.bits i p.1.v z, r := r,
     nan := p.1.nan.orElse (fun _ => if ty.isFp && (decodeVal ty.fmt z.toNat).isNan then some i else none) }, z)

/-- `vscan` (R74, R106). -/
def execVscan (ty : VTy) (d a : BitVec 5) (h1 : Bool) (k : BitVec 3) (s : State) : Out :=
  s.vecA (holds h1 false a a) (fun r =>
    let p := (s.active ty.bits k).foldl (scanLane ty (stsMode s.thr.arch.sts) (s.lane ty.bits a))
      (⟨s.thr.arch.getV d, r.rngs, none⟩, redIdent .sum ty)
    s.nanCheck p.1.nan ({ r with rngs := p.1.r }.setV d p.1.v))

/-! ## Moving elements (R107) -/

/-- `vperm` (R107). -/
def execVperm (ty : VTy) (d a b : BitVec 5) (h1 h2 : Bool) (k : BitVec 3) (s : State) : Out :=
  s.wordV (holds h1 h2 a b) ty.bits d (s.active ty.bits k) (s.thr.arch.getV d)
    (fun i =>
      let j := (s.lane ty.bits b i).toNat
      if j < laneCount s.thr.ngrp ty.bits then s.lane ty.bits a j else 0)
/-- `vslide.up` (R107). -/
def execVslideUp (ty : VTy) (d a b : BitVec 5) (h1 : Bool) (k : BitVec 3) (s : State) : Out :=
  let c := (s.thr.arch.getX b).toNat
  s.wordV (holds h1 false a a) ty.bits d (s.active ty.bits k) (s.thr.arch.getV d)
    (fun i => if c ≤ i then s.lane ty.bits a (i - c) else 0)
/-- `vslide.dn` (R107). -/
def execVslideDn (ty : VTy) (d a b : BitVec 5) (h1 : Bool) (k : BitVec 3) (s : State) : Out :=
  let c := (s.thr.arch.getX b).toNat
  s.wordV (holds h1 false a a) ty.bits d (s.active ty.bits k) (s.thr.arch.getV d)
    (fun i => if i + c < laneCount s.thr.ngrp ty.bits then s.lane ty.bits a (i + c) else 0)
/-- `vbcast` (R107). -/
def execVbcast (ty : VTy) (d a : BitVec 5) (k : BitVec 3) (s : State) : Out :=
  s.wordV [] ty.bits d (s.active ty.bits k) (s.thr.arch.getV d) (fun _ => s.thr.arch.getX a)
/-- `vext` (R107). -/
def execVext (ty : VTy) (d a b : BitVec 5) (h1 : Bool) (s : State) : Out :=
  let j := (s.thr.arch.getX b).toNat
  let e := s.lane ty.bits a j
  let v := if j < laneCount s.thr.ngrp ty.bits then (if ty.isFp then e else sext ty.bits e) else 0
  s.vecA (holds h1 false a a) (fun r => .ok (r.setX d v))
/-- `vins` (R107). -/
def execVins (ty : VTy) (d a b : BitVec 5) (s : State) : Out :=
  let j := (s.thr.arch.getX b).toNat
  s.vecA [] (fun r =>
    .ok (if j < laneCount s.thr.ngrp ty.bits then
      r.setV d (laneSet ty.bits j (s.thr.arch.getV d) (s.thr.arch.getX a)) else r))
/-- `vmv` (R107). -/
def execVmv (ty : VTy) (d a : BitVec 5) (h1 : Bool) (k : BitVec 3) (s : State) : Out :=
  s.wordV (holds h1 false a a) ty.bits d (s.active ty.bits k) (s.thr.arch.getV d) (fun i => s.lane ty.bits a i)
/-- `vid` (R107). -/
def execVid (ty : VTy) (d : BitVec 5) (k : BitVec 3) (s : State) : Out :=
  s.wordV [] ty.bits d (s.active ty.bits k) (s.thr.arch.getV d) (fun i => BitVec.ofNat 64 i)

/-! ## Special functions (R108) -/

/-- The magnitude of a value. -/
def Val.abs : Val → Val
  | .nan => .nan
  | .inf _ => .inf false
  | .fin _ m e => .fin false m e

/-- 1. -/
def Val.one : Val := .fin false 1 0

/-- An exact result lies beyond the largest finite value (R108). -/
def tooLarge (f : Fmt) (y : Val) : Bool := ltVal (.fin false f.maxFin.1 f.maxFin.2) y.abs

/-- `vrcp` of a code (R108): a free value within 1 ulp of 1/x. -/
def rcpCode (ty : VTy) (fp : FpTy) (c : Word) : Word :=
  let f := ty.fmt
  match decodeVal f c.toNat with
  | .nan => exactCode f .nan
  | .inf s => exactCode f (.fin s 0 0)
  | .fin s m e =>
    if m = 0 then exactCode f (.inf s)
    else
      let x : Val := .fin s m e
      let y := divVal .one x
      if tooLarge f y then exactCode f (.inf s)
      else
        let u := mulVal (ulpOf f y) x.abs
        let ok (r : Val) : Bool := r.finite && !ltVal u (addVal .rne (mulVal r x) Val.one.neg).abs
        within f ok (Config.vrcp fp c) y

/-- `vrsq` of a code (R108): a free value within 1 ulp of 1/√x. -/
def rsqCode (ty : VTy) (fp : FpTy) (c : Word) : Word :=
  let f := ty.fmt
  match decodeVal f c.toNat with
  | .nan => exactCode f .nan
  | .inf s => if s then exactCode f .nan else exactCode f .zero
  | .fin s m e =>
    if m = 0 then exactCode f (.inf s)
    else if s then exactCode f .nan
    else
      let x : Val := .fin s m e
      let y := sqrtVal (divVal .one x)
      let u := ulpOf f y
      let ok (r : Val) : Bool :=
        let lo := addVal .rne r u.neg
        let hi := addVal .rne r u
        r.finite && (lo.sign || !ltVal .one (mulVal (mulVal lo lo) x)) && !hi.sign
          && !ltVal (mulVal (mulVal hi hi) x) .one
      within f ok (Config.vrsq fp c) y

/-- The integer a finite value is, if it is one. -/
def Val.toInt? : Val → Option Int
  | .fin s m e =>
    if 0 ≤ e then some ((if s then -1 else 1) * (m * 2 ^ e.toNat : Nat))
    else if m % 2 ^ (-e).toNat = 0 then some ((if s then -1 else 1) * (m / 2 ^ (-e).toNat : Nat))
    else none
  | _ => none

/-- 2^k is a value of the format. -/
def holdsPow2 (f : Fmt) (k : Int) : Bool :=
  let (p, lo, hi) := f.shape
  decide (lo - ((p : Int) - 1) ≤ k) && decide (k ≤ hi)

/-- `vexp2` of a code (R108): exact for an integer x with 2^x a value of the type, ∞ beyond the largest finite value, else
a free value within 2 ulp. -/
def exp2Code (ty : VTy) (fp : FpTy) (c : Word) : Word :=
  let f := ty.fmt
  let x := decodeVal f c.toNat
  match x with
  | .nan => exactCode f .nan
  | .inf s => exactCode f (if s then .zero else .inf false)
  | .fin s m e =>
    if !ltVal x (Val.ofInt (f.shape.2.2 + 1)) then exactCode f (.inf false)
    else
      match x.toInt? with
      | some k => if holdsPow2 f k then exactCode f (.pow2 k) else exp2Bounded f (Config.vexp2 fp c) s m e
      | none => exp2Bounded f (Config.vexp2 fp c) s m e

/-- `vlog2` of a code (R108): exact for a power of two, else a free value within the bound. -/
def log2Code (ty : VTy) (fp : FpTy) (c : Word) : Word :=
  let f := ty.fmt
  match decodeVal f c.toNat with
  | .nan => exactCode f .nan
  | .inf s => exactCode f (if s then .nan else .inf false)
  | .fin s m e =>
    if m = 0 then exactCode f (.inf true)
    else if s then exactCode f .nan
    else if m = 2 ^ m.log2 then exactCode f (Val.ofInt ((m.log2 : Int) + e))
    else log2Bounded f (Config.vlog2 fp c) m e

/-- `vtanh` of a code (R108): a free value within 2 ulp but for zeros and infinities. -/
def tanhCode (ty : VTy) (fp : FpTy) (c : Word) : Word :=
  let f := ty.fmt
  match decodeVal f c.toNat with
  | .nan => exactCode f .nan
  | .inf s => exactCode f (if s then Val.one.neg else .one)
  | .fin s m e => if m = 0 then exactCode f (.fin s 0 0) else boundedCode f 2 (fun p _ => tanhFix p) (some (tanhCap m e)) (Config.vtanh fp c) s m e

/-- The scalar name of a floating-point element type. -/
def VTy.fp : VTy → FpTy
  | .d => .d
  | .h => .h
  | .b => .b
  | _ => .s

/-- A special function of R108: no rounding mode, no draw; a NaN counts as produced (R76). -/
def State.special (s : State) (g : VTy → FpTy → Word → Word) (ty : VTy) (d a : BitVec 5) (h1 : Bool) (k : BitVec 3) : Out :=
  let lanes := s.active ty.bits k
  let h (i : Nat) : Word := g ty (VTy.fp ty) (s.lane ty.bits a i)
  let nan := lanes.find? (fun i => (decodeVal ty.fmt (h i).toNat).isNan)
  s.vecA (holds h1 false a a) (fun r =>
    s.nanCheck nan (r.setV d (lanes.foldl (fun v i => laneSet ty.bits i v (h i)) (s.thr.arch.getV d))))

/-- `vrcp` (R108). -/
def execVrcp (ty : VTy) (d a : BitVec 5) (h1 : Bool) (k : BitVec 3) (s : State) : Out := s.special rcpCode ty d a h1 k
/-- `vrsq` (R108). -/
def execVrsq (ty : VTy) (d a : BitVec 5) (h1 : Bool) (k : BitVec 3) (s : State) : Out := s.special rsqCode ty d a h1 k
/-- `vexp2` (R108). -/
def execVexp2 (ty : VTy) (d a : BitVec 5) (h1 : Bool) (k : BitVec 3) (s : State) : Out := s.special exp2Code ty d a h1 k
/-- `vlog2` (R108). -/
def execVlog2 (ty : VTy) (d a : BitVec 5) (h1 : Bool) (k : BitVec 3) (s : State) : Out := s.special log2Code ty d a h1 k
/-- `vtanh` (R108). -/
def execVtanh (ty : VTy) (d a : BitVec 5) (h1 : Bool) (k : BitVec 3) (s : State) : Out := s.special tanhCode ty d a h1 k

/-! ## Masks (R109) -/

/-- A mask instruction needs no context; it counts as a vector instruction for the operand buffer. -/
def State.maskA (s : State) (f : Arch → Arch) : Out := s.runV (fun n => .ok (f ((s.thr.arch.beside n).aged [])))

/-- `vmand` (R109). -/
def execVmand (d a b : BitVec 3) (s : State) : Out :=
  s.maskA (fun r => r.setM d (s.thr.arch.getM a &&& s.thr.arch.getM b))
/-- `vmor` (R109). -/
def execVmor (d a b : BitVec 3) (s : State) : Out :=
  s.maskA (fun r => r.setM d (s.thr.arch.getM a ||| s.thr.arch.getM b))
/-- `vmxor` (R109). -/
def execVmxor (d a b : BitVec 3) (s : State) : Out :=
  s.maskA (fun r => r.setM d (s.thr.arch.getM a ^^^ s.thr.arch.getM b))
/-- `vmnot` (R109). -/
def execVmnot (d a : BitVec 3) (s : State) : Out := s.maskA (fun r => r.setM d (~~~ s.thr.arch.getM a))
/-- The indices of the one bits of a mask. -/
def maskBits (m : BitVec 2048) : List Nat := (List.range 2048).filter m.getLsbD
/-- `vmpop` (R109). -/
def execVmpop (d : BitVec 5) (a : BitVec 3) (s : State) : Out :=
  s.maskA (fun r => r.setX d (BitVec.ofNat 64 (maskBits (s.thr.arch.getM a)).length))
/-- `vmfirst` (R109). -/
def execVmfirst (d : BitVec 5) (a : BitVec 3) (s : State) : Out :=
  s.maskA (fun r => r.setX d
    (match (List.range 2048).find? (s.thr.arch.getM a).getLsbD with
      | some i => BitVec.ofNat 64 i
      | none => BitVec.allOnes 64))

end Sys2Proof.Machine
end

