-- ==== Sys2Proof/Machine/TileMath.lean ====
section
/-! DEFINITION. What the tile commands compute (R75, R114, R120 to R126): elements of operands and tiles, group sums, the
adjustments of `tew`, column sums, and the first NaN of a command (R78). -/

namespace Sys2Proof.Machine

/-! ## Operands and tiles -/

/-- The value of element j of row r of a warp or of the weft; one that no load wrote is +0 (R120). -/
def Operand.val (o : Operand) (r j : Nat) : Val :=
  match o.fmt, tfind o.e (1024 * r + j) with
  | some (f, b), some (c, k) => scaledVal (fmtOf f) c.toNat (if b = 0 then none else some k)
  | _, _ => .zero

/-- The tile format's number format; a clear tile reads as FP32 (R114). -/
def TFmt.fmt : TFmt → Fmt
  | .fp64 => .fp64
  | _ => .fp32

/-- The width of a tile (R114). -/
def TFmt.width : TFmt → Nat
  | .fp64 => 256
  | _ => 512

/-- The code of element (i, j) of a tile (R114). -/
def Tile.code (t : Tile) (i j : Nat) : Word := tget 0 t.e (512 * i + j)

/-- The value of element (i, j) of a tile. -/
def Tile.val (t : Tile) (i j : Nat) : Val := decodeVal t.fmt.fmt (t.code i j).toNat

/-- A tile from the codes of its elements, +0 unlisted. -/
def Tile.make (f : TFmt) (g : Nat → Nat → Word) : Tile :=
  ⟨f, (List.range 64).flatMap (fun i => (List.range f.width).filterMap (fun j =>
    if g i j = 0 then none else some (512 * i + j, g i j)))⟩

/-- The format that FP64 or other work gives a clear tile (R114). -/
def workFmt (fp64 : Bool) : TFmt := if fp64 then .fp64 else .fp32

/-- The tile's format suits the work of a command (R129). -/
def TFmt.suits (f : TFmt) (fp64 : Bool) : Bool := f == .clear || f == workFmt fp64

/-- The format of a tile as a command that does no FP64 work of its own writes it. -/
def TFmt.fixed : TFmt → TFmt
  | .fp64 => .fp64
  | _ => .fp32

/-! ## Group sums (R75) -/

/-- The exact sum of a list of values, from +0. -/
def exactSum (l : List Val) : Val := l.foldl (addVal .rne) .zero

/-- `m` plus the rounded sum of one group of products (R75, R143). -/
def groupStep (f : Fmt) (m : Val) (l : List Val) : Val :=
  decodeVal f (roundCode f .rne 0 false (addVal .rne m (decodeVal f (roundCode f .rne 0 false (exactSum l)))))

/-- The groups of M terms, G to a group, in ascending order. -/
def groupsOf (M G : Nat) (term : Nat → Val) : List (List Val) :=
  (List.range ((M + G - 1) / G)).map (fun g => (List.range (min G (M - G * g))).map (fun t => term (G * g + t)))

/-- `m` after every group in turn. -/
def groupSums (f : Fmt) (G M : Nat) (m : Val) (term : Nat → Val) : Val := (groupsOf M G term).foldl (groupStep f) m

/-- The index of the first group after which the sum is NaN. -/
def firstNan (f : Fmt) : Nat → Val → List (List Val) → Option Nat
  | _, _, [] => none
  | g, m, l :: ls =>
    let m1 := groupStep f m l
    if m1.isNan then some g else firstNan f (g + 1) m1 ls

/-- The group length of a warp's format (R75, R110). -/
def groupLen (f : BitVec 4) : Nat :=
  match f.toNat with
  | 5 => 4
  | 11 => 32
  | 12 => 32
  | _ => 16

/-- Formats that a weft and a warp may have together (R110). -/
def pairOk (a b : BitVec 4) : Bool :=
  let n (f : BitVec 4) : Bool := f == 11 || f == 12
  let w (f : BitVec 4) : Bool := f == 7 || f == 9 || f == 10
  (n a && n b) || (w a && w b) || (a == 5 && b == 5)

/-! ## Results of a command -/

/-- An element as a command leaves it: tile, row, column, value, and the group index if the value is NaN (R78). -/
structure CellOut where
  t : BitVec 3
  i : Nat
  j : Nat
  v : Val
  g : Nat

/-- The NaN that comes first: lowest group, row, column (R78). -/
def nanFirst (l : List CellOut) : Option CellOut :=
  (l.filter (fun c => c.v.isNan)).foldl (fun b c =>
    match b with
    | none => some c
    | some b => if c.g < b.g ∨ (c.g = b.g ∧ (c.i < b.i ∨ (c.i = b.i ∧ (c.t.toNat < b.t.toNat ∨ (c.t = b.t ∧ c.j < b.j))))) then some c
      else some b) none

/-- RTILE (R300). -/
def rtileWord (k col row : Nat) (t : BitVec 3) : Word := BitVec.ofNat 16 k ++ BitVec.ofNat 16 col ++ BitVec.ofNat 16 row ++ 0#13 ++ t

/-- The elements of a tile. -/
def cellsIn (f : TFmt) : List (Nat × Nat) := (List.range 64).flatMap (fun i => (List.range f.width).map (fun j => (i, j)))

/-- The tile that a list of results gives. -/
def tileFrom (f : TFmt) (t : BitVec 3) (l : List CellOut) : Tile :=
  ⟨f, (l.filter (fun c => c.t == t)).filterMap (fun c =>
    let w := encodeVal f.fmt c.v
    if w = 0 then none else some (512 * c.i + c.j, BitVec.ofNat 64 w))⟩

/-- The results of a `tmul` (R122). -/
def Loom.tmulOut (l : Loom) (t : BitVec 3) (w : BitVec 2) : List CellOut :=
  let o := l.warp w
  let f := (o.fmt.map Prod.fst).getD 0
  let (k, _) := warpShape f
  let af := workFmt (f == 5)
  (cellsIn af).map (fun p =>
    let gs := groupsOf k (groupLen f) (fun q => mulVal (l.weft.val p.1 q) (o.val q p.2))
    let m := (l.tile t).val p.1 p.2
    ⟨t, p.1, p.2, gs.foldl (groupStep af.fmt) m, (firstNan af.fmt 0 m gs).getD 0⟩)

/-- The results of a `tmult`: column j goes to tile T1, or to T1 + 1 past the width (R122). -/
def Loom.tmultOut (l : Loom) (t : BitVec 3) (w : BitVec 2) : List CellOut :=
  let o := l.warp w
  let f := (o.fmt.map Prod.fst).getD 0
  let (k, n) := warpShape f
  let af := workFmt (f == 5)
  (List.range 64).flatMap (fun i => (List.range k).map (fun j =>
    let u : BitVec 3 := if j < n then t else t + 1
    let gs := groupsOf n (groupLen f) (fun q => mulVal (l.weft.val i q) (o.val j q))
    let m := (l.tile u).val i (j % n)
    ⟨u, i, j % n, gs.foldl (groupStep af.fmt) m, (firstNan af.fmt 0 m gs).getD 0⟩))

/-- One value rounded to a tile's format. -/
def tileRound (f : Fmt) (v : Val) : Val := decodeVal f (roundCode f .rne 0 false v)

/-- A scalar operand of `tew` (R124). -/
def tewScalar (f : Fmt) (w : Word) : Val := decodeVal f (zext f.bits w).toNat

/-- The number format's scalar name, for the free values of log 5. -/
def TFmt.fp : TFmt → FpTy
  | .fp64 => .d
  | _ => .s

/-- A fixed function of R124 at a value: special operands as the rule says, a zero stands, and else a free value within 4
ulp. -/
def activation (g : Nat → Nat → Bool → Nat → Int) (free : FpTy → Word → Word) (f : TFmt) (x : Val) : Val :=
  match x with
  | .nan => .nan
  | .inf s => if s then .negZero else .inf false
  | .fin s m e =>
    if m = 0 then x
    else decodeVal f.fmt (boundedCode f.fmt 4 g (some (gateCap s m e)) (free f.fp (BitVec.ofNat 64 (encodeVal f.fmt x))) s m e).toNat

/-- `tew.relu` of a value (R124). -/
def relu (x : Val) : Val := if x.isNan then .nan else if ltVal .zero x then x else .zero

/-- `tew.clamp` of a value (R124). -/
def clampVal (x lo hi : Val) : Val := minVal (maxVal x lo) hi

/-- f(x) of a `tew` in column j, with the value of the vector's element j (R124). -/
def tewFun (op : LoomOp) (f : TFmt) (a b : Word) (v : Nat → Val) (j : Nat) (x : Val) : Val :=
  match op with
  | .bias _ => addVal .rne x (v j)
  | .scale _ => mulVal x (tewScalar f.fmt a)
  | .relu _ => relu x
  | .gelu _ => activation geluFix Config.gelu f x
  | .silu _ => activation (fun p _ => siluFix p) Config.silu f x
  | .clamp _ => clampVal x (tewScalar f.fmt a) (tewScalar f.fmt b)
  | _ => x

/-- The results of a function on every element of a tile. -/
def mapOut (t : BitVec 3) (k : Tile) (f : TFmt) (g : Nat → Nat → Val → Val) : List CellOut :=
  (cellsIn f).map (fun p => ⟨t, p.1, p.2, tileRound f.fmt (g p.1 p.2 (k.val p.1 p.2)), 0⟩)

/-- The column sums of `tred` (R125). -/
def Tile.colSum (k : Tile) (j : Nat) : Val :=
  (List.range 64).foldl (fun s i => tileRound k.fmt.fmt (addVal .rne s (k.val i j))) .negZero

/-! ## Bytes of an operand in memory (R48, R58, R67, R117) -/

/-- The addresses of the bytes of one element, its scale byte included, which opens each block of a row. -/
def TileArg.elemBytes (g : TileArg) (w : Vector Word 8) (r j : Nat) : List Nat :=
  let f := pFmt g.ptr
  let a := (typedAddr f (g.rowVa r) j).1
  (List.range (fmtBytes f)).map (fun i => (a + i) % 2 ^ 57)
    ++ (if pBlk g.ptr = 0 then [] else ((scaleAddr w (pBlk g.ptr).toNat (fmtBits f) a).map Prod.snd).toList)

/-- The elements of an operand, row by row. -/
def TileArg.elems (g : TileArg) : List (Nat × Nat) :=
  (List.range g.rows).flatMap (fun r => (List.range g.cols).map (fun j => (r, j)))

/-- The addresses of an operand's bytes. -/
def TileArg.needed (g : TileArg) (w : Vector Word 8) : List Nat := g.elems.flatMap (fun p => g.elemBytes w p.1 p.2)

/-- A fault of an access through a pointer carries the pointer's tag (R49, R300). -/
def atTag {α : Type} (tag : Word) : Res α → Res α
  | .error (.flt f) => .error (.flt { f with addr := f.addr ||| tag })
  | r => r

/-- A fault at a byte of operands carries the tag of the operand with an element there; a scale byte has none (R67, R300). -/
def atArgs {α : Type} (l : List TileArg) : Res α → Res α
  | .error (.flt f) =>
    let here (g : TileArg) (p : Nat × Nat) : Bool :=
      (List.range (fmtBytes (pFmt g.ptr))).any (fun i =>
        ((typedAddr (pFmt g.ptr) (g.rowVa p.1) p.2).1 + i) % 2 ^ 57 == f.addr.toNat)
    match l.find? (fun g => g.elems.any (here g)) with
    | some g => atTag (tagBits g.ptr) (.error (.flt f))
    | none => .error (.flt f)
  | r => r

/-- The code of an element from the bytes read. -/
def TileArg.codeIn (g : TileArg) (buf : Tab Byte) (r j : Nat) : Nat :=
  let f := pFmt g.ptr
  let a := typedAddr f (g.rowVa r) j
  let v := bytesNat ((List.range (fmtBytes f)).map (fun i => tget 0 buf ((a.1 + i) % 2 ^ 57)))
  if fmtBits f = 4 then (if a.2 then v / 16 else v % 16) else v

/-- The scale byte of an element from the bytes read; 0 without blocks. -/
def TileArg.scaleIn (g : TileArg) (w : Vector Word 8) (buf : Tab Byte) (r j : Nat) : Byte :=
  if pBlk g.ptr = 0 then 0
  else
    match scaleAddr w (pBlk g.ptr).toNat (fmtBits (pFmt g.ptr)) (typedAddr (pFmt g.ptr) (g.rowVa r) j).1 with
    | some a => tget 0 buf a.2
    | none => 0

/-- The operand store that a load fills (R120). -/
def TileArg.loaded (g : TileArg) (w : Vector Word 8) (buf : Tab Byte) : Operand where
  fmt := some (pFmt g.ptr, pBlk g.ptr)
  e := g.elems.map (fun p => (1024 * p.1 + p.2, BitVec.ofNat 64 (g.codeIn buf p.1 p.2), g.scaleIn w buf p.1 p.2))

/-- The value of an element from the bytes read. -/
def TileArg.valIn (g : TileArg) (w : Vector Word 8) (buf : Tab Byte) (r j : Nat) : Val :=
  scaledVal (fmtOf (pFmt g.ptr)) (g.codeIn buf r j) (if pBlk g.ptr = 0 then none else some (g.scaleIn w buf r j))

/-- Codes packed into bytes, the first of two nibbles low (R58). -/
def packCodes (bits : Nat) : List Nat → List Byte
  | [] => []
  | c :: l =>
    if bits = 4 then
      match l with
      | [] => [BitVec.ofNat 8 c]
      | d :: m => BitVec.ofNat 8 (c + 16 * d) :: packCodes bits m
    else natBytes (bits / 8) c ++ packCodes bits l

/-- The copy of an operand that an entry keeps: its elements row after row, and then the scale byte of every block of every
row (R137, R368). -/
def TileArg.copy (g : TileArg) (w : Vector Word 8) (buf : Tab Byte) : List Byte :=
  packCodes (fmtBits (pFmt g.ptr)) (g.elems.map (fun p => g.codeIn buf p.1 p.2))
    ++ (if pBlk g.ptr = 0 then []
        else (g.elems.filter (fun p => g.opens p.1 p.2)).map (fun p => g.scaleIn w buf p.1 p.2))

end Sys2Proof.Machine
end

