-- ==== Sys2Proof/Machine/Daybook.lean ====
section
/-! DEFINITION. The daybook (R133 to R151, R368, R369): its header, the recording of a completed command, the daybook
commands, and the validation and the sweep of an `unwind`, one line or one gradient word at a time. -/

namespace Sys2Proof.Machine

/-! ## Records of a loom (R129, R300, R302) -/

/-- A loom record about a command; what the host answered for a faulting address is used up. -/
def State.loomRecord (s : State) (cl : BitVec 7) (c : LoomCmd) (f : Flt) (pos : Nat) (rtile : Word) : State :=
  (s.tookFault c.id c.core f).deliver none c.core c.flta ⟨f.kind, 2, c.id.tenant, c.id.rank, c.pc, f.addr, rengWord 1 0 cl, BitVec.ofNat 64 c.seq,
    BitVec.ofNat 64 pos, rtile, rdetWord f.detail 0 0⟩

/-- A fault of the daybook kind (R148). -/
def bookFlt (detail : Nat) : Flt := ⟨0x0C, detail, 0, 0, 0, none⟩

/-! ## Bytes -/

/-- Reads a stretch of bytes. -/
def State.bookRead (s : State) (c : LoomCmd) (va n : Nat) : Res (State × List Byte) :=
  match s.engPieces c.id c.core .read false va n with
  | .error e => .error e
  | .ok ps => .ok (s.engBytes ps)

/-- Writes a stretch of bytes. -/
def State.bookWrite (s : State) (c : LoomCmd) (va : Nat) (bs : List Byte) : Res State :=
  match s.engPieces c.id c.core .write false va bs.length with
  | .error e => .error e
  | .ok ps => .ok (s.engPutBytes c.id.tenant ps bs)

/-- One line of an operand read as one event: every needed byte that lies on the line of `a` (R117). -/
def State.bookLine (s : State) (c : LoomCmd) (a : Nat) (need : List Nat) (buf : Tab Byte) : Res (State × Tab Byte) :=
  match s.engAt c.id c.core .read false (a, 1) with
  | .error e => .error e
  | .ok pa =>
    let s1 := State.atHome false (s.combineAll none [lineOf pa]) (lineOf pa)
    let on := need.filter (fun b => b / 64 == a / 64)
    .ok ({ s1 with free := s1.free + 1 },
      on.foldl (fun t b => tset t b (s1.engByte (pa - a % 64 + b % 64))) buf)

/-- Why an `unwind` cannot go on: a stop, or a line, of an operand perhaps, that it has to read first (R117). -/
inductive Want where
  | stop (x : Stop)
  | line (va : Nat) (args : List TileArg)

/-- A result of the bytes that an `unwind` has read. -/
abbrev Need (α : Type) := Except Want α

/-- A result that may stop, as one that may need a line. -/
def needOf {α : Type} : Res α → Need α
  | .ok a => .ok a
  | .error e => .error (.stop e)

/-- A stretch of the bytes read. -/
def LoomCmd.bytesAt (c : LoomCmd) (va n : Nat) : Need (List Byte) :=
  let as := (List.range n).map (fun i => (va + i) % 2 ^ 57)
  match as.find? (fun a => (tfind c.buf a).isNone) with
  | some a => .error (.line a [])
  | none => .ok (as.map (tget 0 c.buf))

/-! ## CRC-32C (R137) -/

/-- One bit of the CRC. -/
def crcBit (c : BitVec 32) : BitVec 32 := if c.getLsbD 0 then (c >>> 1) ^^^ 0x82F63B78#32 else c >>> 1

/-- One byte of the CRC. -/
def crcByte (c : BitVec 32) (b : Byte) : BitVec 32 := (List.range 8).foldl (fun c _ => crcBit c) (c ^^^ b.setWidth 32)

/-- CRC-32C of bytes. -/
def crc32c (bs : List Byte) : BitVec 32 := ~~~ (bs.foldl crcByte (BitVec.allOnes 32))

/-! ## Header (R135) -/

/-- The words of a daybook header. -/
structure Header where
  policy : Word
  dstat : Word
  tail : Nat
  count : Nat
  magic : Word

/-- The base of the daybook a command captured (R46, R135). -/
def LoomCmd.book (c : LoomCmd) : Nat := wBase c.dbk

/-- MAGIC (R135). -/
def bookMagic : Word := 0x4B425944

/-- Reads the header at the captured DBK. -/
def State.bookHeader (s : State) (c : LoomCmd) : Res (State × Header) :=
  match s.bookRead c c.book 64 with
  | .error e => .error e
  | .ok (s1, b) => .ok (s1, ⟨bytesWord b 0, bytesWord b 1, (bytesWord b 2).toNat, (bytesWord b 3).toNat, bytesWord b 7⟩)

/-- Formatted, and owned by the command's rank (R136, R145, R147). -/
def Header.mine (h : Header) (c : LoomCmd) : Bool := h.magic == bookMagic && h.dstat.extractLsb' 24 24 == c.id.rank

/-- RECON. -/
def Header.recon (h : Header) : Bool := h.dstat.getLsbD 0
/-- FULL. -/
def Header.full (h : Header) : Bool := h.dstat.getLsbD 1

/-- DSTAT with RECON replaced. -/
def setRecon (d : Word) (b : Bool) : Word := (d &&& ~~~1#64) ||| (if b then 1 else 0)
/-- DSTAT with UST replaced. -/
def setUst (d : Word) (u : Nat) : Word := (d &&& ~~~0x300#64) ||| (BitVec.ofNat 64 u <<< 8)

/-- Writes a word of the header as one event (R135). -/
def State.bookWord (s : State) (c : LoomCmd) (i : Nat) (w : Word) : Res State :=
  s.bookWrite c (c.book + 8 * i) (wordsBytes [w])

/-! ## Recording (R136 to R140) -/

/-- Opcode, FN, T1 and T2 of a command (R35, R138). -/
def LoomOp.codes : LoomOp → Nat × Nat × Nat × Nat
  | .twarp w => (0x28, 0, w.toNat, 0)
  | .tzero t => (0x29, 0, t.toNat, 0)
  | .tlda => (0x2A, 0, 0, 0)
  | .tmul t w => (0x2B, 0, t.toNat, w.toNat)
  | .tmult t w => (0x2B, 1, t.toNat, w.toNat)
  | .touter t => (0x2C, 0, t.toNat, 0)
  | .bias t => (0x2D, 0, t.toNat, 0)
  | .scale t => (0x2D, 1, t.toNat, 0)
  | .relu t => (0x2D, 2, t.toNat, 0)
  | .gelu t => (0x2D, 3, t.toNat, 0)
  | .silu t => (0x2D, 4, t.toNat, 0)
  | .clamp t => (0x2D, 5, t.toNat, 0)
  | .tred t => (0x2E, 0, t.toNat, 0)
  | .tst t => (0x2E, 1, t.toNat, 0)
  | .tsync => (0x2E, 2, 0, 0)
  | .trecOn => (0x2F, 0, 0, 0)
  | .trecOff => (0x2F, 1, 0, 0)
  | .unwind => (0x2F, 2, 0, 0)
  | .tdrop => (0x2F, 3, 0, 0)

/-- The command an entry's codes name. -/
def opOfCodes (opc fn td ts : Nat) : Option LoomOp :=
  let t : BitVec 3 := BitVec.ofNat 3 td
  let w : BitVec 2 := BitVec.ofNat 2 ts
  match opc, fn with
  | 0x28, _ => some (.twarp (BitVec.ofNat 2 td))
  | 0x29, _ => some (.tzero t)
  | 0x2A, _ => some .tlda
  | 0x2B, 0 => some (.tmul t w)
  | 0x2B, _ => some (.tmult t w)
  | 0x2C, _ => some (.touter t)
  | 0x2D, 0 => some (.bias t)
  | 0x2D, 1 => some (.scale t)
  | 0x2D, 2 => some (.relu t)
  | 0x2D, 3 => some (.gelu t)
  | 0x2D, 4 => some (.silu t)
  | 0x2D, 5 => some (.clamp t)
  | 0x2E, 0 => some (.tred t)
  | 0x2E, 1 => some (.tst t)
  | _, _ => none

/-- The operand roles of a command, by the place of their code in POLICY (R137). -/
def LoomOp.roles : LoomOp → List Nat
  | .tlda => [0]
  | .twarp _ => [1]
  | .touter _ => [2, 3]
  | .bias _ => [2]
  | _ => []

/-- The policy code of a role (R137). -/
def policyCode (p : Byte) (role : Nat) : Nat := p.toNat / 4 ^ role % 4

/-- Zero bytes up to a whole unit (R138). -/
def padUnit (bs : List Byte) : List Byte := bs ++ List.replicate ((64 - bs.length % 64) % 64) 0

/-- The operands of a command with their roles. -/
def LoomCmd.roleArgs (c : LoomCmd) (wide : Bool) : List (Nat × TileArg) := c.op.roles.zip (c.op.args wide c.opa c.opb)

/-- The payload of an entry (R138). -/
def LoomCmd.entryPayload (c : LoomCmd) (wide : Bool) (pol : Byte) : List Byte :=
  if c.op.roles.isEmpty then padUnit c.payload
  else (c.roleArgs wide).flatMap (fun p => if policyCode pol p.1 = 0 then padUnit (p.2.copy c.swin c.buf) else [])

/-- The CRC of the operand at position `i` under RECOMP (R137, R138). -/
def LoomCmd.entryCrc (c : LoomCmd) (wide : Bool) (pol : Byte) (i : Nat) : BitVec 32 :=
  match (c.roleArgs wide)[i]? with
  | some p => if policyCode pol p.1 = 1 then crc32c (p.2.copy c.swin c.buf) else 0
  | none => 0

/-- The code of a tile format in an entry (R138). -/
def TFmt.code : TFmt → Nat
  | .clear => 0
  | .fp32 => 1
  | .fp64 => 2

/-- A link word: the entry that loaded a warp slot, or at 4 the weft buffer, if it is in this daybook (R138). -/
def Loom.linkWord (l : Loom) (k : Nat) (dbk : Word) : BitVec 32 :=
  match tfind l.links k with
  | some (i, b) => if b = dbk then BitVec.ofNat 32 i else 0xFFFFFFFF
  | none => 0xFFFFFFFF

/-- Doubleword 5 of an entry (R138). -/
def Loom.linkWords (l : Loom) (c : LoomCmd) : Word :=
  match c.op with
  | .tmul _ w => l.linkWord w.toNat c.dbk ++ l.linkWord 4 c.dbk
  | .tmult _ w => l.linkWord w.toNat c.dbk ++ l.linkWord 4 c.dbk
  | _ => 0

/-- The entry of a completed command (R138). -/
def Loom.entry (l : Loom) (wide : Bool) (c : LoomCmd) (pol : Byte) : List Byte :=
  let p := c.entryPayload wide pol
  let (opc, fn, td, ts) := c.op.codes
  wordsBytes [
    BitVec.ofNat 16 (1 + p.length / 64) ++ 0#24 ++ BitVec.ofNat 8 td ++ BitVec.ofNat 8 opc ++ BitVec.ofNat 4 fn ++ BitVec.ofNat 4 ts,
    BitVec.ofNat 64 c.seq, c.opa, c.opb, c.dgo, l.linkWords c,
    c.entryCrc wide pol 0 ++ 0#16 ++ BitVec.ofNat 4 c.fmtb.code ++ BitVec.ofNat 4 c.fmta.code ++ pol,
    c.entryCrc wide pol 1 ++ 0#32] ++ p

/-- The link that a load leaves of its slot or buffer, none when it is not recorded: set in the order in which commands are
counted, which is that of their entries (R138). One that was skipped or flushed has loaded nothing. -/
def State.linkLoad (s : State) (cl : BitVec 7) (c : LoomCmd) (i : Option Nat) : State :=
  if c.dropped then s
  else
  let l := (s.cluster cl).loom
  let put (k : Nat) : Tab (Nat × Word) :=
    match i with
    | some i => tset l.links k (i, c.dbk)
    | none => tdel l.links k
  match c.op with
  | .twarp w => s.putLoom cl { l with links := put w.toNat }
  | .tlda => s.putLoom cl { l with links := put 4 }
  | _ => s

/-- Recording stops: FULL ← 1, RECON ← 0, and a record (R140); where the header refuses the write, the record alone. -/
def State.bookFull (s : State) (cl : BitVec 7) (c : LoomCmd) (d : Word) (n : Nat) (f : Flt) : Res State :=
  match s.bookWord c 1 (setRecon d false ||| 2) with
  | .error (.flt _) => .ok (s.loomRecord cl c f n 0)
  | .error e => .error e
  | .ok s1 => .ok (s1.loomRecord cl c f n 0)

/-- Bytes from an address, cut at lines; `fuel` bounds the lines. -/
def lineCuts : Nat → Nat → List Byte → List (Nat × List Byte)
  | 0, _, _ => []
  | n + 1, va, bs =>
    if bs.isEmpty then []
    else
      let k := 64 - va % 64
      (va % 2 ^ 57, bs.take k) :: lineCuts n (va + k) (bs.drop k)

/-- A stretch of bytes as the writes of its lines (R117). -/
def lineWrites (va : Nat) (bs : List Byte) : List (Nat × List Byte) := lineCuts (bs.length / 64 + 2) va bs

/-- What recording has come to: the state, the command, and whether it has ended, with the index of the entry written. -/
abbrev RecordStep := State × LoomCmd × Option (Option Nat)

/-- Recording ends without an entry. -/
def LoomCmd.noEntry (c : LoomCmd) (s : State) : RecordStep := (s, { c with pend := [], noting := none }, some none)

/-- The next event of recording a completed command (R136 to R140): the header is read, then the entry is written line by line,
and then TAIL and COUNT. It can only be held up, and never stops the loom. A page that may not be written comes before poison
(R140, R181). -/
def State.recordNext (s : State) (cl : BitVec 7) (c : LoomCmd) : Res RecordStep :=
  match c.noting with
  | none =>
    match s.bookHeader c, s.engAt c.id c.core .write false (c.book, 8) with
    | .error (.flt f), .error (.flt g) => .ok (c.noEntry (s.loomRecord cl c (if f.kind = 0x05 then g else f) 0 0))
    | .error (.flt f), _ => .ok (c.noEntry (s.loomRecord cl c f 0 0))
    | _, .error (.flt f) => .ok (c.noEntry (s.loomRecord cl c f 0 0))
    | .error e, _ => .error e
    | _, .error e => .error e
    | .ok (s1, h), .ok _ =>
      if !h.mine c || !h.recon then .ok (c.noEntry s1)
      else
        let e := (s1.cluster cl).loom.entry (isWide cl) c (h.dstat.extractLsb' 16 8)
        if wNpg c.dbk * 4096 < h.tail + e.length then (s1.bookFull cl c h.dstat h.count (bookFlt 4)).map c.noEntry
        else .ok (s1, { c with noting := some (h.dstat, h.tail + e.length, h.count), pend := lineWrites (c.book + h.tail) e }, none)
  | some (d, tail, n) =>
    match c.pend with
    | p :: ps =>
      match s.bookWrite c p.1 p.2 with
      | .error (.flt f) => (s.bookFull cl c d n f).map c.noEntry
      | .error x => .error x
      | .ok s1 => .ok (s1, { c with pend := ps }, none)
    | [] =>
      match s.bookWrite c (c.book + 16) (wordsBytes [BitVec.ofNat 64 tail, BitVec.ofNat 64 (n + 1)]) with
      | .error (.flt f) => .ok (c.noEntry (s.loomRecord cl c f n 0))
      | .error x => .error x
      | .ok s1 => .ok (s1, { c with noting := none }, some (some n))

/-! ## `trec.on`, `trec.off`, `tdrop` (R145, R146) -/

/-- A daybook command that never stops the loom leaves a record for what it meets (R145). -/
def State.bookNote (s : State) (cl : BitVec 7) (c : LoomCmd) : Res State → Res State
  | .error (.flt f) => .ok (s.loomRecord cl c f 0 0)
  | r => r

/-- `trec.on` or `trec.off` at the loom (R145). -/
def State.trecRun (s : State) (cl : BitVec 7) (c : LoomCmd) : Res State :=
  s.bookNote cl c (match s.bookHeader c with
    | .error e => .error e
    | .ok (s1, h) =>
      if !h.mine c then .ok (s1.loomRecord cl c (bookFlt 5) 0 0)
      else if c.op = .trecOn then
        if (List.range 4).any (fun r => policyCode (h.policy.extractLsb' 0 8) r == 3) then .ok (s1.loomRecord cl c (bookFlt 6) 0 0)
        else s1.bookWord c 1 ((h.dstat &&& ~~~0xFF0000#64) ||| ((h.policy &&& 0xFF) <<< 16) ||| 1)
      else s1.bookWord c 1 (setRecon h.dstat false))

/-- Every operand store of a loom forgets the entry that loaded it (R138). -/
def Loom.unlink (l : Loom) : Loom := { l with links := [] }

/-- `tdrop` at the loom (R146). DESIGN CHOICE (log 95): a header whose page is unmapped, forbidden or poisoned, for which R146
names no outcome, stops the loom as any address of a command does (R129). -/
def State.tdropRun (s : State) (cl : BitVec 7) (c : LoomCmd) : Res State :=
  match s.bookWrite c c.book (wordsBytes [0, 0#16 ++ c.id.rank ++ 0#24, 64, 0, 0, 0, 0, bookMagic]) with
  | .error e => .error e
  | .ok s1 => .ok (s1.putLoom cl (s1.cluster cl).loom.unlink)

/-! ## Entries read back -/

/-- An entry with its byte offset. -/
structure Entry where
  off : Nat
  esize : Nat
  op : Option LoomOp
  opa : Word
  opb : Word
  goff : Word
  wlink : Nat
  alink : Nat
  crca : BitVec 32
  crcb : BitVec 32
  fmta : Nat
  pol : Byte

/-- The entry at an offset. -/
def LoomCmd.entryAt (c : LoomCmd) (off : Nat) : Need Entry :=
  (c.bytesAt (c.book + off) 64).map (fun b =>
    let d0 := bytesWord b 0
    let d5 := bytesWord b 5
    let d6 := bytesWord b 6
    ⟨off, (d0.extractLsb' 48 16).toNat,
      opOfCodes (d0.extractLsb' 8 8).toNat (d0.extractLsb' 4 4).toNat (d0.extractLsb' 16 8).toNat (d0.extractLsb' 0 4).toNat,
      bytesWord b 2, bytesWord b 3, bytesWord b 4, (d5.extractLsb' 32 32).toNat, (d5.extractLsb' 0 32).toNat,
      d6.extractLsb' 32 32, (bytesWord b 7).extractLsb' 32 32, (d6.extractLsb' 8 4).toNat, d6.extractLsb' 0 8⟩)

/-- Entry `i`, among those that validation has reached; an entry that names another is altered, and gives no value (R135). -/
def LoomCmd.entry (c : LoomCmd) (i : Nat) : Need Entry :=
  match c.marks[i]? with
  | some off => c.entryAt off
  | none => .error (.stop (.flt (bookFlt 1)))

/-- The operand of an entry at a position of its roles. -/
def Entry.arg (e : Entry) (wide : Bool) (i : Nat) : Option (Nat × TileArg) :=
  match e.op with
  | some op => (op.roles.zip (op.args wide e.opa e.opb))[i]?
  | none => none

/-- Blocks that a row meets: of a vector, which has one row, and of a shaped operand, whose rows start on blocks. -/
def TileArg.rowBlocks (g : TileArg) : Nat := g.blockOf 0 (g.cols - 1) + 1

/-- A value of an operand's copy in an entry (R137, R368). -/
def copyVal (g : TileArg) (bs : List Byte) (r j : Nat) : Val :=
  let f := pFmt g.ptr
  let n := r * g.cols + j
  let code :=
    if fmtBits f = 4 then (let b := (bs.getD (n / 2) 0).toNat; if n % 2 = 1 then b / 16 else b % 16)
    else bytesNat ((List.range (fmtBytes f)).map (fun i => bs.getD (n * fmtBytes f + i) 0))
  let k := (g.rows * g.cols * fmtBits f + 7) / 8 + r * g.rowBlocks + g.blockOf r j
  scaledVal (fmtOf f) code (if pBlk g.ptr = 0 then none else some (bs.getD k 0))

/-- Bytes of an operand's copy (R137). -/
def TileArg.copyLen (g : TileArg) : Nat :=
  (g.rows * g.cols * fmtBits (pFmt g.ptr) + 7) / 8 + (if pBlk g.ptr = 0 then 0 else g.rows * g.rowBlocks)

/-- The elements of an operand as an adjoint reads them; +0 outside its shape. -/
structure Values where
  rows : Nat
  cols : Nat
  get : Nat → Nat → Val

/-- An element of `Values`. -/
def Values.val (v : Values) (r j : Nat) : Val := if r < v.rows ∧ j < v.cols then v.get r j else .zero

/-- A scale address that the captured windows do not give (R147). -/
def TileArg.unscaled (g : TileArg) (w : Vector Word 8) : Option Nat :=
  if pBlk g.ptr = 0 then none
  else
    (g.elems.find? (fun p =>
      (scaleAddr w (pBlk g.ptr).toNat (fmtBits (pFmt g.ptr)) (typedAddr (pFmt g.ptr) (g.rowVa p.1) p.2).1).isNone)).map
        (fun p => (typedAddr (pFmt g.ptr) (g.rowVa p.1) p.2).1)

/-- The values of the operand at position `i` of an entry: the copy, or the source read again and, when `check` says so,
held against its CRC (R137, R147). -/
def LoomCmd.operand (c : LoomCmd) (wide check : Bool) (e : Entry) (i : Nat) : Need Values :=
  match e.arg wide i with
  | none => .error (.stop (.flt (bookFlt 1)))
  | some (role, g) =>
    match policyCode e.pol role with
    | 0 =>
      let skip := if i = 0 then 0
        else match e.arg wide 0 with
          | some (r0, g0) => if policyCode e.pol r0 = 0 then (g0.copyLen + 63) / 64 * 64 else 0
          | none => 0
      if check then .ok ⟨g.rows, g.cols, fun _ _ => .zero⟩
      else (c.bytesAt (c.book + e.off + 64 + skip) g.copyLen).map (fun bs => ⟨g.rows, g.cols, copyVal g bs⟩)
    | 1 =>
      match g.unscaled c.swin with
      | some a => needOf (fault 0x07 1 (addrWord a ||| tagBits g.ptr))
      | none =>
        match (g.needed c.swin).find? (fun a => (tfind c.buf a).isNone) with
        | some a => .error (.line a [g])
        | none =>
          if check && crc32c (g.copy c.swin c.buf) != (if i = 0 then e.crca else e.crcb) then .error (.stop (.flt (bookFlt 2)))
          else .ok ⟨g.rows, g.cols, g.valIn c.swin c.buf⟩
    | _ => .error (.stop (.flt (bookFlt 1)))

/-- The entry a link names (R138). -/
def LoomCmd.linked (c : LoomCmd) (i : Nat) : Need (Option Entry) :=
  if i = 0xFFFFFFFF then .ok none else (c.entry i).map some

/-- The value that a link gives. -/
def LoomCmd.linkedOperand (c : LoomCmd) (wide check : Bool) : Option Entry → Need Values
  | none => .error (.stop (.flt (bookFlt 1)))
  | some e => c.operand wide check e 0

/-! ## Validation (R147) -/

/-- An entry whose operand has a gradient. -/
def hasGrad (e : Option Entry) : Bool := e.any (fun e => e.goff != 0)

/-- The values that the adjoint of an entry will read are there. -/
def LoomCmd.checkEntry (c : LoomCmd) (wide : Bool) (e : Entry) : Need Unit :=
  let found (need : Bool) (x : Need Values) : Need Unit := if need then x.map (fun _ => ()) else .ok ()
  let both : Need Unit :=
    match c.linked e.alink, c.linked e.wlink with
    | .error x, _ => .error x
    | _, .error x => .error x
    | .ok a, .ok w =>
      match found (hasGrad a) (c.linkedOperand wide true w) with
      | .error x => .error x
      | .ok _ => found (hasGrad w) (c.linkedOperand wide true a)
  match e.op with
  | some (.tmul _ _) => both
  | some (.tmult _ _) => both
  | some (.touter _) =>
    if e.goff = 0 then .ok ()
    else
      match c.operand wide true e 1 with
      | .error x => .error x
      | .ok _ => (c.operand wide true e 0).map (fun _ => ())
  | _ => .ok ()

/-- What one event of an `unwind` comes to. -/
structure UnwindStep where
  s : State
  c : LoomCmd
  stop : Option Stop
  done : Bool

/-- A write of an `unwind`, after which its command is `c1`. -/
def UnwindStep.wrote (s : State) (c c1 : LoomCmd) : Res State → UnwindStep
  | .error e => ⟨s, c, some e, false⟩
  | .ok s1 => ⟨s1, c1, none, false⟩

/-- The command at its next part. -/
def LoomCmd.stepped (c : LoomCmd) : LoomCmd := { c with pos := c.pos + 1 }

/-- An `unwind` reads one line more, as one event (R117). -/
def State.unwindReads (s : State) (c : LoomCmd) (a : Nat) (args : List TileArg) : UnwindStep :=
  match atArgs args (s.bookLine c a ((List.range 64).map (fun i => a - a % 64 + i)) c.buf) with
  | .error e => ⟨s, c, some e, false⟩
  | .ok (s1, b) => ⟨s1, { c with buf := b }, none, false⟩

/-- What an `unwind` does when it wants something. -/
def State.unwindWants (s : State) (c : LoomCmd) : Want → UnwindStep
  | .stop e => ⟨s, c, some e, false⟩
  | .line a args => s.unwindReads c a args

/-- One event of the validation of the next entry, which begins at an offset: a line more is read, or the entry has passed. -/
def State.unwindChecks (s : State) (cl : BitVec 7) (c : LoomCmd) (off : Nat) : UnwindStep :=
  match c.entryAt off with
  | .error w => s.unwindWants c w
  | .ok e =>
    match c.checkEntry (isWide cl) e with
    | .error w => s.unwindWants c w
    | .ok _ => ⟨s, { c with marks := c.marks ++ [off + 64 * e.esize], buf := [] }, none, false⟩

/-- The events that validate an `unwind` and begin its sweep (R147): the header is read and RECON is cleared, the entries are
validated one by one, and UST and UPOS are written. -/
def State.unwindBegin (s : State) (cl : BitVec 7) (c : LoomCmd) : UnwindStep :=
  if c.marks.isEmpty then
    match s.bookHeader c with
    | .error e => ⟨s, c, some e, false⟩
    | .ok (s1, h) =>
      if !h.mine c then ⟨s1, c, some (.flt (bookFlt 5)), false⟩
      else .wrote s1 c { c with hdr := some (setRecon h.dstat false, h.count), marks := [64] } (s1.bookWord c 1 (setRecon h.dstat false))
  else
    let (d, n) := c.hdr.getD (0, 0)
    if d.getLsbD 1 then ⟨s, c, some (.flt (bookFlt 3)), false⟩
    else if c.marks.length ≤ n then s.unwindChecks cl c (c.marks.getLastD 64)
    else if c.pos = 0 then .wrote s c c.stepped (s.bookWord c 1 (setUst d 1))
    else .wrote s c { c with swept := some (n, n), pos := 0, buf := [], dT := [] } (s.bookWord c 4 (BitVec.ofNat 64 n))

/-! ## The sweep (R141 to R144) -/

/-- The tile format of an entry's command after it ran (R114, R138). -/
def Entry.af (e : Entry) (fp64 : Bool) : TFmt :=
  match e.fmta with
  | 1 => .fp32
  | 2 => .fp64
  | _ => workFmt fp64

/-- The gradient format (R141). -/
def gradFmt (p : Word) (af : TFmt) : Fmt := if pFmt p = 5 ∨ af = .fp64 then .fp64 else .fp32

/-- The address of the gradient of element (r, j) (R141). -/
def TileArg.gradVa (g : TileArg) (goff : Word) (gf : Fmt) (r j : Nat) : Nat :=
  (pVa g.ptr + goff.toNat + r * (g.pitch * gf.bits / fmtBits (pFmt g.ptr)) + j * (gf.bits / 8)) % 2 ^ 57

/-- The NaN check of a command (R130, R148). -/
def LoomCmd.nanStop (c : LoomCmd) (v : Val) : Bool := c.nanf && !c.nanOff && v.isNan

/-- A gradient word is aligned, and a commutative range that holds it takes FP32 gradients only (R141, R144): the fault it
raises, or whether it lies in such a range. -/
def State.gradIn (s : State) (c : LoomCmd) (gf : Fmt) (va : Nat) : Res Bool :=
  match aligned va (gf.bits / 8) with
  | .error e => .error e
  | .ok _ =>
    match (s.tenant c.id.tenant).rangeAt va with
    | some r => if gf ≠ .fp32 ∨ r.fmt ≠ .s then fault 0x0C 7 (addrWord va) else .ok true
    | none => .ok false

/-- One "+=" of the sweep (R143, R144): one `radd` within a commutative range; elsewhere the word is read here, and its write is
the next event of the command (R151). -/
def State.gradAdd (s : State) (c : LoomCmd) (gf : Fmt) (va M : Nat) (term : Nat → Val) : Res (State × LoomCmd) :=
  let z := gf.bits / 8
  let G := if gf = .fp64 then 4 else 16
  match s.gradIn c gf va with
  | .error e => .error e
  | .ok true =>
    match s.engAt c.id c.core .write false (va, z) with
    | .error e => .error e
    | .ok pa =>
      let m := groupSums gf G M .negZero term
      if c.nanStop m then fault 0x09 0 (addrWord va)
      else .ok ({ s with partials := addPartial s.partials ⟨pa, c.core, .s, BitVec.ofNat 64 (encodeVal gf m), false⟩ }, c.stepped)
  | .ok false =>
    match s.engRead c.id c.core false va z with
    | .error e => .error e
    | .ok (s1, w) =>
      let m := groupSums gf G M (decodeVal gf w) term
      if c.nanStop m then fault 0x09 0 (addrWord va)
      else .ok (s1, { c with pend := [(va, natBytes z (encodeVal gf m))] })

/-- Reads a gradient word, which the write that follows zeroes (R142). DESIGN CHOICE (log 96): a word within an FP32 commutative
range is read combined and zeroed in place, since R144 speaks of additions only. -/
def State.gradRead (s : State) (c : LoomCmd) (gf : Fmt) (va : Nat) : Res (State × Val) :=
  match s.gradIn c gf va with
  | .error e => .error e
  | .ok _ =>
    match s.engRead c.id c.core false va (gf.bits / 8) with
    | .error e => .error e
    | .ok (s1, w) => .ok (s1, decodeVal gf w)

/-- A gradient word that has been read is zeroed next; the adjoint tiles of `c1` stand after that (R142). -/
def LoomCmd.zeroNext (c c1 : LoomCmd) (gf : Fmt) (va : Nat) : LoomCmd :=
  { c with pend := [(va, natBytes (gf.bits / 8) 0)], next := some c1.dT }

/-- The adjoint tile of a tile. -/
def LoomCmd.adj (c : LoomCmd) (t : BitVec 3) : Tile := tget Tile.clear c.dT t.toNat

/-- The adjoint tile takes new elements, in a format. -/
def LoomCmd.setAdj (c : LoomCmd) (t : BitVec 3) (f : TFmt) (g : Nat → Nat → Val) : LoomCmd :=
  { c with dT := tset c.dT t.toNat (Tile.make f (fun i j => BitVec.ofNat 64 (roundCode f.fmt .rne 0 false (g i j)))) }

/-- A NaN that an adjoint tile would take (R148): its place is kept as RTILE packs it. -/
def LoomCmd.nanTile (c : LoomCmd) (t : BitVec 3) (l : List (Nat × Nat)) (g : Nat → Nat → Val) : Res Unit :=
  match l.find? (fun p => c.nanStop (g p.1 p.2)) with
  | some p => .error (.flt ⟨0x09, 0, 0, (rtileWord 0 p.2 p.1 t).toNat, 0, none⟩)
  | none => .ok ()

/-- A step that only changes an adjoint tile. -/
def State.adjStep (s : State) (c : LoomCmd) (t : BitVec 3) (f : TFmt) (l : List (Nat × Nat)) (g : Nat → Nat → Val) :
    Res (State × LoomCmd) :=
  let h (i j : Nat) : Val := tileRound f.fmt (g i j)
  match c.nanTile t l h with
  | .error e => .error e
  | .ok _ => .ok (s, (c.setAdj t f h).stepped)

/-- The sum that a product of operands forms for one gradient word. -/
structure GradJob where
  /-- the words this step covers: rows and columns -/
  rows : Nat
  cols : Nat
  arg : TileArg
  goff : Word
  gf : Fmt
  /-- terms of each sum -/
  m : Nat
  term : Nat → Nat → Nat → Val

/-- The next word or tile step of an entry; none when the entry is done. -/
abbrev SweepRes := Need (Option (State × LoomCmd))

/-- Word `p` of a list of jobs; none past the last. -/
def State.jobWord (s : State) (c : LoomCmd) : List GradJob → Nat → SweepRes
  | [], _ => .ok none
  | g :: l, p =>
    if p < g.rows * g.cols then
      let r := p / g.cols
      let j := p % g.cols
      needOf ((s.gradAdd c g.gf (g.arg.gradVa g.goff g.gf r j) g.m (g.term r j)).map some)
    else s.jobWord c l (p - g.rows * g.cols)

/-- The jobs of a `tmul` or a `tmult` (R142): the gradient of A over ALINK's shape, and then that of W over WLINK's; an operand
reads +0 outside its own shape (R119). -/
def productJobs (tr : Bool) (c : LoomCmd) (wide : Bool) (t : BitVec 3) (af : TFmt) (a w : Option Entry) (va vw : Values) :
    List GradJob :=
  let f := ((w.bind (fun e => e.arg wide 0)).map (fun p => pFmt p.2.ptr)).getD 0
  let (k, n) := warpShape f
  let d (i j : Nat) : Val := if tr ∧ n ≤ j then (c.adj (t + 1)).val i (j - n) else (c.adj t).val i j
  let job (e : Option Entry) (m : Nat) (term : Nat → Nat → Nat → Val) : List GradJob :=
    match e, e.bind (fun e => e.arg wide 0) with
    | some e, some (_, g) =>
      if e.goff = 0 then [] else [⟨g.rows, g.cols, g, e.goff, gradFmt g.ptr af, m, term⟩]
    | _, _ => []
  if tr then
    job a k (fun i q j => mulVal (d i j) (vw.val j q)) ++ job w 64 (fun j q i => mulVal (va.val i q) (d i j))
  else
    job a n (fun i q j => mulVal (d i j) (vw.val q j)) ++ job w 64 (fun q j i => mulVal (va.val i q) (d i j))

/-- No values: what a sum that is not formed would read. -/
def Values.none : Values := ⟨0, 0, fun _ _ => .zero⟩

/-- The values of an entry that a sum reads, if it is formed. -/
def LoomCmd.valuesIf (c : LoomCmd) (wide need : Bool) (e : Option Entry) (i : Nat) : Need Values :=
  if need then
    match e with
    | some e => c.operand wide false e i
    | none => .error (.stop (.flt (bookFlt 1)))
  else .ok Values.none

/-- The bytes of element (r, j) still stand after the later rows of the store (R119, R142). -/
def TileArg.stands (g : TileArg) (r j : Nat) : Bool :=
  let b := fmtBits (pFmt g.ptr)
  !(List.range (g.rows - r - 1)).any (fun d =>
    let o := 8 * g.pitch * (d + 1)
    decide (o < (j + 1) * b) && decide (j * b < o + g.cols * b))

/-- The adjoint of a product (R142). -/
def State.sweepProduct (s : State) (c : LoomCmd) (wide tr : Bool) (t : BitVec 3) (e : Entry) : SweepRes :=
  match c.linked e.alink, c.linked e.wlink with
  | .error x, _ => .error x
  | _, .error x => .error x
  | .ok a, .ok w =>
    match c.valuesIf wide (hasGrad a) w 0, c.valuesIf wide (hasGrad w) a 0 with
    | .error x, _ => .error x
    | _, .error x => .error x
    | .ok vw, .ok va =>
      let f := ((w.bind (fun e => e.arg wide 0)).map (fun p => pFmt p.2.ptr)).getD 0
      s.jobWord c (productJobs tr c wide t (e.af (f == 5)) a w va vw) c.pos

/-- The adjoint of a `touter` (R142). -/
def State.sweepOuter (s : State) (c : LoomCmd) (wide : Bool) (t : BitVec 3) (e : Entry) : SweepRes :=
  if e.goff = 0 then .ok none
  else
    match c.operand wide false e 0, c.operand wide false e 1 with
    | .error x, _ => .error x
    | _, .error x => .error x
    | .ok a, .ok b =>
      let af := e.af (fp64Vec e.opa && fp64Vec e.opb)
      let n := af.width
      let d := c.adj t
      s.jobWord c [
        ⟨1, 64, .vec e.opa (vecFmt wide) 64, e.goff, gradFmt e.opa af, n, fun _ i j => mulVal (d.val i j) (b.val 0 j)⟩,
        ⟨1, n, .vec e.opb (vecFmt wide) n, e.goff, gradFmt e.opb af, 64, fun _ j i => mulVal (a.val 0 i) (d.val i j)⟩] c.pos

/-- A gradient word that a seed gives: read, added into the adjoint tile, and zeroed next (R142). -/
def State.seedStep (s : State) (c : LoomCmd) (t : BitVec 3) (af : TFmt) (gf : Fmt) (va : Nat) (l : List (Nat × Nat))
    (on : Nat → Nat → Bool) : SweepRes :=
  match s.gradRead c gf va with
  | .error x => .error (.stop x)
  | .ok (s1, g) =>
    let d := c.adj t
    match s1.adjStep c t af l (fun i j => if on i j then addVal .rne (d.val i j) g else d.val i j) with
    | .error x => .error (.stop x)
    | .ok (s2, c1) => .ok (some (s2, c.zeroNext c1 gf va))

/-- The adjoint of a `tred`: column `pos` (R142). -/
def State.sweepRed (s : State) (c : LoomCmd) (t : BitVec 3) (e : Entry) : SweepRes :=
  let af := e.af false
  if e.goff = 0 ∨ af.width ≤ c.pos then .ok none
  else
    let gf := gradFmt e.opa af
    s.seedStep c t af gf ((TileArg.vec e.opa tredFmt af.width).gradVa e.goff gf 0 c.pos)
      ((List.range 64).map (fun i => (i, c.pos))) (fun _ j => j == c.pos)

/-- The adjoint of a `tst`: stored element `pos` (R142). -/
def State.sweepSt (s : State) (c : LoomCmd) (t : BitVec 3) (e : Entry) : SweepRes :=
  let af := e.af false
  let g := TileArg.shaped e.opa e.opb tstFmt 64 af.width true
  if e.goff = 0 ∨ g.rows * g.cols ≤ c.pos then .ok none
  else
    let r := c.pos / g.cols
    let k := c.pos % g.cols
    if !g.stands r k then .ok (some (s, c.stepped))
    else
      let gf := gradFmt e.opa af
      s.seedStep c t af gf (g.gradVa e.goff gf r k) [(r, k)] (fun i j => i == r && j == k)

/-- A step on the whole adjoint tile, made once, that may read the entry's payload (R142). -/
def State.sweepTile (s : State) (c : LoomCmd) (t : BitVec 3) (e : Entry) (len : Nat) (g : List Byte → Nat → Nat → Val) : SweepRes :=
  if c.pos ≠ 0 then .ok none
  else
    match c.bytesAt (c.book + e.off + 64) len with
    | .error x => .error x
    | .ok bs => needOf ((s.adjStep c t (e.af false) (cellsIn (e.af false)) (g bs)).map some)

/-- The bit of a pass mask (R368). -/
def maskBit (n : Nat) (bs : List Byte) (i j : Nat) : Bool := (bs.getD ((n * i + j) / 8) 0).getLsbD ((n * i + j) % 8)

/-- The saved element of a tile. -/
def savedVal (f : TFmt) (bs : List Byte) (i j : Nat) : Val :=
  let z := f.fmt.bits / 8
  let o := (f.width * i + j) * z
  decodeVal f.fmt (bytesNat ((List.range z).map (fun q => bs.getD (o + q) 0)))

/-- The derivative of an activation (R142): D(±∞) = +0, D(NaN) = NaN, and else a free value within 4 ulp (log 5). -/
def derivative (g : Nat → Nat → Bool → Nat → Int) (free : FpTy → Word → Word) (f : TFmt) (x : Val) : Val :=
  match x with
  | .nan => .nan
  | .inf _ => .zero
  | .fin s m e => decodeVal f.fmt (boundedCode f.fmt 4 g none (free f.fp (BitVec.ofNat 64 (encodeVal f.fmt x))) s m e).toNat

/-- The next step of the adjoint of an entry (R142). -/
def State.sweepEntry (s : State) (c : LoomCmd) (wide : Bool) (e : Entry) : SweepRes :=
  let af := e.af false
  let pass (t : BitVec 3) : SweepRes :=
    s.sweepTile c t e (8 * af.width) (fun bs i j => if maskBit af.width bs i j then (c.adj t).val i j else .zero)
  let act (t : BitVec 3) (g : Nat → Nat → Bool → Nat → Int) (free : FpTy → Word → Word) : SweepRes :=
    s.sweepTile c t e (64 * af.width * (af.fmt.bits / 8)) (fun bs i j => mulVal ((c.adj t).val i j) (derivative g free af (savedVal af bs i j)))
  match e.op with
  | some (.tmul t _) => s.sweepProduct c wide false t e
  | some (.tmult t _) => s.sweepProduct c wide true t e
  | some (.touter t) => s.sweepOuter c wide t e
  | some (.bias t) =>
    let af := e.af (fp64Vec e.opa)
    if e.goff = 0 then .ok none
    else s.jobWord c [⟨1, af.width, .vec e.opa (vecFmt wide) af.width, e.goff, gradFmt e.opa af, 64,
      fun _ j i => (c.adj t).val i j⟩] c.pos
  | some (.scale t) => s.sweepTile c t e 0 (fun _ i j => mulVal ((c.adj t).val i j) (tewScalar af.fmt e.opa))
  | some (.relu t) => pass t
  | some (.clamp t) => pass t
  | some (.gelu t) => act t geluDerivFix Config.geluDeriv
  | some (.silu t) => act t (fun p _ => siluDerivFix p) Config.siluDeriv
  | some (.tzero t) => if c.pos ≠ 0 then .ok none else .ok (some (s, { c.stepped with dT := tdel c.dT t.toNat }))
  | some (.tred t) => s.sweepRed c t e
  | some (.tst t) => s.sweepSt c t e
  | _ => .ok none

/-- The events that end an `unwind` (R147): UST and USEQ are written, the working storage is cleared, and then the result word
is written. -/
def State.unwindEnd (s : State) (cl : BitVec 7) (c : LoomCmd) (count : Nat) : UnwindStep :=
  match c.pos with
  | 0 => .wrote s c c.stepped (s.bookWord c 1 (setUst ((c.hdr.map Prod.fst).getD 0) 2))
  | 1 =>
    .wrote s c c.stepped ((s.bookWord c 5 (BitVec.ofNat 64 c.seq)).map (fun s1 => s1.putLoom cl (s1.cluster cl).loom.wiped))
  | _ =>
    match s.engWrite c.id c.core false (va57 c.opa) 8 count with
    | .error e => ⟨s, c, some e, false⟩
    | .ok s1 => ⟨s1, c, none, true⟩

/-- The write that a word of the sweep has still to make (R151): the adjoint tiles follow it. -/
def LoomCmd.wrote (c : LoomCmd) : LoomCmd := { c.stepped with pend := [], dT := c.next.getD c.dT, next := none }

/-- The next event of an `unwind` (R147). -/
def State.unwindStep (s : State) (cl : BitVec 7) (c : LoomCmd) : UnwindStep :=
  match c.swept with
  | none => s.unwindBegin cl c
  | some (0, n) => s.unwindEnd cl c n
  | some (i + 1, n) =>
    match c.pend with
    | p :: _ => .wrote s c c.wrote (s.bookWrite c p.1 p.2)
    | [] =>
      match c.entry i with
      | .error w => s.unwindWants c w
      | .ok e =>
        match s.sweepEntry c (isWide cl) e with
        | .error w => s.unwindWants c w
        | .ok (some (s2, c2)) => ⟨s2, c2, none, false⟩
        | .ok none => .wrote s c { c with swept := some (i, n), pos := 0, buf := [] } (s.bookWord c 4 (BitVec.ofNat 64 i))

/-- A write of an abandoned command: a fault leaves a record and the loom goes on (R130). -/
def State.orRecord (s : State) (cl : BitVec 7) (c : LoomCmd) : Res State → State
  | .ok s1 => s1
  | .error (.flt f) => s.loomRecord cl c f 0 0
  | .error _ => s

/-- A write that an abandoned command has to make is held up. -/
def State.bookHeld (s : State) (c : LoomCmd) (k : Acc) (va : Nat) : Bool :=
  match s.engAt c.id c.core k false (va % 2 ^ 57, 8) with
  | .error (.flt _) => false
  | .error _ => true
  | .ok _ => false

/-- A write or a read that is held up for a translation asks the host for it. -/
def State.bookAsk (c : LoomCmd) (s : State) (p : Acc × Nat) : State :=
  match s.engAt c.id c.core p.1 false (p.2 % 2 ^ 57, 8) with
  | .error e => s.askFor c.id c.core e
  | .ok _ => s

/-- A stopped `unwind` is abandoned (R149): UST ← 3 unless it stopped for a header that is not its own, the working storage is
cleared, and the result word is written. -/
def State.unwindAbandon (s : State) (cl : BitVec 7) (c : LoomCmd) : State :=
  let s1 :=
    if c.foreign then s
    else
      match c.hdr, s.bookHeader c with
      | some (d, _), _ => s.orRecord cl c (s.bookWord c 1 (setUst d 3))
      | none, .ok (s1, h) => s1.orRecord cl c (s1.bookWord c 1 (setUst h.dstat 3))
      | none, .error (.flt f) => s.loomRecord cl c f 0 0
      | none, .error _ => s
  let s2 := s1.putLoom cl (s1.cluster cl).loom.wiped
  let n := match c.swept with
    | some (i, n) => n - i
    | none => 0
  s2.orRecord cl c (s2.engWrite c.id c.core false (va57 c.opa) 8 (2 ^ 63 + n))

end Sys2Proof.Machine
end

