-- ==== Sys2Proof/Machine/LoomRun.lean ====
section
/-! DEFINITION. The events of a loom (R113, R116 to R118, R129 to R132, R147, R149): a command arrives, starts, reads its
operands line by line, takes effect and completes, or stops the loom; the resume word; the release of the context. -/

namespace Sys2Proof.Machine

/-! ## Sides and dependences (R131) -/

/-- The load side runs `twarp` and `tlda` (R131). -/
def LoomOp.isLoad : LoomOp → Bool
  | .twarp _ => true
  | .tlda => true
  | _ => false

/-- A warp slot, the weft buffer or memory. -/
inductive Part where
  | warp (w : BitVec 2) | weft | mem
deriving DecidableEq, Repr

/-- All parts. -/
def allParts : List Part := [.warp 0, .warp 1, .warp 2, .warp 3, .weft, .mem]

/-- What a command reads, the tiles apart: they belong to the compute side, which runs one command at a time. -/
def LoomOp.readsOf : LoomOp → List Part
  | .twarp _ => [.mem]
  | .tlda => [.mem]
  | .tmul _ w => [.warp w, .weft]
  | .tmult _ w => [.warp w, .weft]
  | .touter _ => [.mem]
  | .bias _ => [.mem]
  | .unwind => allParts
  | _ => []

/-- What a command writes (R131). -/
def LoomOp.writesOf : LoomOp → List Part
  | .twarp w => [.warp w]
  | .tlda => [.weft]
  | .tred _ => [.mem]
  | .tst _ => [.mem]
  | .tsync => [.mem]
  | .trecOn => [.mem]
  | .trecOff => [.mem]
  | .tdrop => [.mem]
  | .unwind => allParts
  | _ => []

/-- Command `b` has to wait for the earlier command `a` (R131). -/
def dependsOn (b a : LoomOp) : Bool :=
  a.writesOf.any (fun p => b.readsOf.contains p || b.writesOf.contains p) || a.readsOf.any b.writesOf.contains

/-- The first command that has not started. -/
def Loom.nextCmd (l : Loom) : Option LoomCmd := l.queue.find? (fun c => c.phase == .sent || c.phase == .arrived)

/-- The next command of a loom can start (R129, R131). -/
def Loom.canStart (l : Loom) : Bool :=
  l.st == 1 && !l.mapped &&
    match l.nextCmd with
    | none => false
    | some c => c.phase == .arrived
        && (l.queue.takeWhile (fun d => d.seq != c.seq)).all (fun d =>
          d.complete || (d.op.isLoad != c.op.isLoad && !dependsOn c.op d.op))

/-- A command runs (R131). -/
def Loom.runs (l : Loom) : Bool := l.queue.any (fun c => c.phase == .started)

/-- A loom that has had no command running for 4,096 cycles (R132). -/
def Loom.cold (l : Loom) (now : Nat) : Bool := !l.runs && decide (l.lastRun + 4096 ≤ now)

/-- The governor lets the next command of a loom start: a cold loom within the step limit of the window, after the cold looms of
lower index that can start one too (R132). -/
def State.warmEnough (s : State) (cl : BitVec 7) : Bool :=
  !(s.cluster cl).loom.cold s.cyc ||
    decide (s.hub.coldStarts + (s.clusters.filter (fun p =>
      decide (p.1 < cl.toNat) && p.2.loom.cold s.cyc && p.2.loom.canStart)).length < stepLimit)

/-- A command of the queue replaced. -/
def Loom.put (l : Loom) (c : LoomCmd) : Loom := { l with queue := l.queue.map (fun d => if d.seq = c.seq then c else d) }

/-- LOOM_COMMAND_ARRIVAL (R131): the first pushed command arrives. -/
def execLoomCommandArrival (cl : BitVec 7) (s : State) : Out :=
  let l := (s.cluster cl).loom
  match l.queue.find? (fun c => c.phase == .sent) with
  | some c => .next (s.putLoom cl (l.put { c with phase := .arrived }))
  | none => .next s

/-! ## Stops (R129) -/

/-- A command goes back to the queue: it will run from its start, an `unwind` in its sweep from where it stands (R129,
R149). -/
def LoomCmd.back (c : LoomCmd) : LoomCmd :=
  if c.op = .unwind ∧ c.swept.isSome then { c with phase := .arrived, buf := [], pend := [], next := none }
  else { c with phase := .arrived, pos := 0, buf := [], pend := [], marks := [] }

/-- A command meets a fault: it stops the loom, or, when the loom is stopped already, goes back without a record (R129). -/
def State.loomStop (s : State) (cl : BitVec 7) (c : LoomCmd) (f : Flt) (pos : Nat) (rtile : Word) : State :=
  let d : LoomCmd := { c.back with foreign := f.kind == 0x0C && f.detail == 5 }
  let l : Loom := { ((s.cluster cl).loom).put d with lastRun := s.cyc }
  if l.st = 2 then s.putLoom cl l
  else
    let s1 := (s.putLoom cl l).loomRecord cl c f pos rtile
    s1.setLoom cl { (s1.cluster cl).loom with st := 2, lfcmd := c.seq, frank := c.id.rank }

/-- A NaN written to a tile by a command that has the check on (R76, R78, R130). -/
def State.nanHalt (s : State) (cl : BitVec 7) (c : LoomCmd) (o : CellOut) : State :=
  s.loomStop cl c ⟨0x09, 0, 0, 0, 0, none⟩ 0 (rtileWord o.g o.j o.i o.t)

/-- A tile condition that a command meets, in the order 3, 2, 4, 1 (R129). -/
def Loom.tileFault (l : Loom) (c : LoomCmd) : Option Nat :=
  let product (tr : Bool) (t : BitVec 3) (w : BitVec 2) : Option Nat :=
    match (l.warp w).fmt, l.weft.fmt with
    | some (f, _), some (g, _) =>
      let two := tr && decide ((warpShape f).2 < (warpShape f).1)
      if !pairOk g f then some 2
      else if two && t.toNat % 2 = 1 then some 4
      else if (l.tile t).fmt.suits (f == 5) && (!two || (l.tile (t + 1)).fmt.suits (f == 5)) then none
      else some 1
    | _, _ => some 3
  let unless1 (b : Bool) : Option Nat := if b then none else some 1
  match c.op with
  | .tmul t w => product false t w
  | .tmult t w => product true t w
  | .touter t => unless1 ((l.tile t).fmt.suits (fp64Vec c.opa && fp64Vec c.opb))
  | .bias t => unless1 ((l.tile t).fmt.suits (fp64Vec c.opa))
  | .tred t => unless1 (fp64Vec c.opa == ((l.tile t).fmt == .fp64))
  | .tst t => unless1 ((l.tile t).fmt != .fp64 || (((pFmt c.opa == 5) || (pFmt c.opa == 6)) && decide (shapeCols c.opb 256 ≤ 256)))
  | _ => none

/-- LOOM_COMMAND_START (R129, R131): the next command starts, or a tile condition stops the loom; a load empties its slot or
buffer. -/
def execLoomCommandStart (cl : BitVec 7) (s : State) : Out :=
  let l := (s.cluster cl).loom
  if !l.canStart || !s.warmEnough cl then .next s
  else
    match l.nextCmd with
    | none => .next s
    | some c =>
      match l.tileFault c with
      | some d => .next (s.loomStop cl c ⟨0x0B, d, 0, 0, 0, none⟩ 0 0)
      | none =>
        let l1 : Loom := { l.put { c with phase := .started } with lastRun := s.cyc }
        let s1 : State := if l.cold s.cyc then { s with hub := { s.hub with coldStarts := s.hub.coldStarts + 1 } } else s
        .next (s1.putLoom cl (match c.op with
          | .twarp w => l1.setWarp w Operand.empty
          | .tlda => { l1 with weft := Operand.empty }
          | _ => l1))

/-! ## Completion (R117) -/

/-- LDONE counts a recorded command at the front of the queue, which leaves it (R117, R138). -/
def State.popDone (s : State) (cl : BitVec 7) (c : LoomCmd) (i : Option Nat) : State :=
  let s1 := s.linkLoad cl c i
  let l := (s1.cluster cl).loom
  s1.putLoom cl { l with ldone := c.seq, queue := l.queue.drop 1 }

/-- Counts the commands at the front of the queue that are done, up to one that has still to be recorded (R117, R136). -/
def State.countDone (cl : BitVec 7) : Nat → State → State
  | 0, s => s
  | n + 1, s =>
    match (s.cluster cl).loom.queue.head? with
    | none => s
    | some c => if !c.complete then s else State.countDone cl n (s.popDone cl c none)

/-- Threads parked on a loom are woken to run their chunk again (R112, R115, R231). -/
def State.wakeLoom (s : State) (cl : BitVec 7) (full : Bool) : State :=
  let ws := s.threads.filterMap (fun t =>
    if t.live && t.stopped.isNone && t.run == .parked (.loom cl full) then some (⟨t.id, 9⟩ : Wake) else none)
  { s with net := { s.net with wakes := s.net.wakes ++ ws } }

/-- Commands have completed since the loom stood at `before`: LDONE counts what it can, and one write of the line shows it or
a new QCOUNT, which a resume always makes (R117, R118, R130). -/
def State.loomCount (s : State) (cl : BitVec 7) (before : Option Loom) : State :=
  let s1 := State.countDone cl (s.cluster cl).loom.queue.length s
  let l : Loom := { (s1.cluster cl).loom with lastRun := s.cyc }
  if before.map Loom.ldone != some l.ldone then ((s1.setLoom cl l).wakeLoom cl true).releaseLoom cl
  else if before.map Loom.qcount != some l.qcount then s1.setLoom cl l
  else s1.putLoom cl l

/-- A command is done, with what its daybook entry keeps. -/
def State.loomDone (s : State) (cl : BitVec 7) (c : LoomCmd) : State :=
  let l := (s.cluster cl).loom
  (s.putLoom cl (l.put { c with phase := .done, pend := [] })).loomCount cl (some l)

/-- The next event of recording the done command at the front of the queue (R136). -/
def State.loomRecords (s : State) (cl : BitVec 7) (c : LoomCmd) : State :=
  let l := (s.cluster cl).loom
  if c.unrecorded then s.loomCount cl (some l)
  else
    match s.recordNext cl c with
    | .error e => s.askFor c.id c.core e
    | .ok (s1, c1, some i) => (s1.popDone cl c1 i).loomCount cl (some l)
    | .ok (s1, c1, none) => s1.putLoom cl ((s1.cluster cl).loom.put c1)

/-- The loom with its new tiles, and the command with the formats they had before (R138). -/
def State.tilesDone (s : State) (cl : BitVec 7) (c : LoomCmd) (t : BitVec 3) (f : TFmt) (two : Bool) (out : List CellOut) : State :=
  let l := (s.cluster cl).loom
  match (if c.nanf && !c.nanOff then nanFirst out else none) with
  | some o => s.nanHalt cl c o
  | none =>
    let l1 := l.setTile t (tileFrom f t out)
    let l2 := if two then l1.setTile (t + 1) (tileFrom f (t + 1) out) else l1
    (s.putLoom cl l2).loomDone cl { c with
      fmta := (l.tile t).fmt
      fmtb := if two then (l.tile (t + 1)).fmt else .clear }

/-- A `tew` other than `tew.bias`, with what its entry keeps (R124, R138, R139). -/
def State.tewDone (s : State) (cl : BitVec 7) (c : LoomCmd) (t : BitVec 3) (keep : TFmt → Tile → List Byte) : State :=
  let k := (s.cluster cl).loom.tile t
  let f := k.fmt.fixed
  s.tilesDone cl { c with payload := keep f k } t f false
    (mapOut t k f (fun _ j x => tewFun c.op f c.opa c.opb (fun _ => .zero) j x))

/-- A pass mask of a tile (R368). -/
def passMask (f : TFmt) (k : Tile) (ok : Val → Bool) : List Byte :=
  (List.range (8 * f.width)).map (fun q => (List.range 8).foldl (fun (b : Byte) i =>
    let n := 8 * q + i
    if ok (k.val (n / f.width) (n % f.width)) then b ||| (1#8 <<< i) else b) 0)

/-- The mask of `tew.clamp` (R139). -/
def clampPass (f : TFmt) (a b : Word) (x : Val) : Bool :=
  let lo := tewScalar f.fmt a
  let hi := tewScalar f.fmt b
  let le (p q : Val) : Bool := ltVal p q || eqVal p q
  !x.isNan && le lo hi && le lo x && le x hi

/-- The bytes of a tile, row-major in its format (R138). -/
def tileBytes (f : TFmt) (k : Tile) : List Byte :=
  (cellsIn f).flatMap (fun p => natBytes (f.fmt.bits / 8) (k.code p.1 p.2).toNat)

/-- The state of a command's draws after `n` elements (R71, R126). -/
def LoomCmd.rngAt (c : LoomCmd) (n : Nat) : BitVec 32 := if Mode.ofCode c.rm.toNat = .sr then rngSteps n c.rngs else c.rngs

/-- A write that a command has still to make, with its pointer's tag; the scale byte, which comes last in its block, has none
(log 24). -/
def State.pendStep (s : State) (c : LoomCmd) (tag : Word) (p : Nat × List Byte) : Res (State × LoomCmd) :=
  match atTag tag (s.bookWrite c p.1 p.2) with
  | .error e => .error e
  | .ok s1 => .ok (s1, { c with pend := c.pend.drop 1 })

/-- The next stores of a `tst`: the elements of one line of a row, or the lines of one block, which follow one by one (R126). -/
def State.tstStep (s : State) (c : LoomCmd) (k : Tile) (g : TileArg) : Res (State × LoomCmd) :=
  let r := c.pos / g.cols
  let j := c.pos % g.cols
  let f := pFmt g.ptr
  let a := (typedAddr f (g.rowVa r) j).1
  let z := fmtBytes f
  let mode := Mode.ofCode c.rm.toNat
  if pBlk g.ptr = 0 then
    let n := min (g.cols - j) ((64 - a % 64) / z)
    let vs := (List.range n).map (fun i => k.val r (j + i))
    let cs := (roundList (fmtOf f) mode (c.rngAt c.pos) vs).1
    match atTag (tagBits g.ptr) (s.bookWrite c a (packCodes (fmtBits f) cs)) with
    | .error e => .error e
    | .ok s1 => .ok (s1, { c with pos := c.pos + n })
  else
    let n := 2 ^ (pBlk g.ptr).toNat
    let b := encodeBlock (fmtOf f) mode (c.rngAt c.pos) ((List.range n).map (fun i => k.val r (j + i)))
    match scaleAddr c.swin (pBlk g.ptr).toNat (fmtBits f) a with
    | none => fault 0x07 1 (addrWord a ||| tagBits g.ptr)
    | some sa => .ok (s, { c with pos := c.pos + n, pend := lineWrites a (packCodes (fmtBits f) b.2.1) ++ [(sa.2, [b.1])] })

/-- The next stores of a `tred`: the sums of one line (R125). -/
def State.tredStep (s : State) (c : LoomCmd) (k : Tile) : Res (State × LoomCmd) :=
  let z := k.fmt.fmt.bits / 8
  let a := (pVa c.opa + c.pos * z) % 2 ^ 57
  let n := min (k.fmt.width - c.pos) ((64 - a % 64) / z)
  let bs := (List.range n).flatMap (fun i => natBytes z (encodeVal k.fmt.fmt (k.colSum (c.pos + i))))
  match atTag (tagBits c.opa) (s.bookWrite c a bs) with
  | .error e => .error e
  | .ok s1 => .ok (s1, { c with pos := c.pos + n })

/-- What a memory step of a command comes to: the command goes on, waits, or stops the loom. -/
def State.loomWent (s : State) (cl : BitVec 7) (c : LoomCmd) : Res (State × LoomCmd) → State
  | .ok (s1, c1) => s1.putLoom cl ((s1.cluster cl).loom.put c1)
  | .error (.flt f) => s.loomStop cl c f 0 0
  | .error e => s.askFor c.id c.core e

/-- A daybook command, or the end of another, that is one event. -/
def State.loomEnds (s : State) (cl : BitVec 7) (c : LoomCmd) : Res State → State
  | .ok s1 => s1.loomDone cl c
  | .error (.flt f) => s.loomStop cl c f 0 0
  | .error e => s.askFor c.id c.core e

/-- The operands that a command reads. -/
def LoomCmd.readArgs (c : LoomCmd) (wide : Bool) : List TileArg :=
  if c.op.roles.isEmpty then [] else c.op.args wide c.opa c.opb

/-- An event of an `unwind` (R147 to R149). -/
def State.unwindEvent (s : State) (cl : BitVec 7) (c : LoomCmd) : State :=
  let r := s.unwindStep cl c
  match r.stop with
  | some (.flt f) =>
    match c.swept with
    | some (i, _) => r.s.loomStop cl r.c f (i - 1) (if f.kind = 0x09 then BitVec.ofNat 64 f.pos else 0)
    | none => r.s.loomStop cl r.c f (r.c.marks.length - 1) 0
  | some e => s.askFor c.id c.core e
  | none => if r.done then r.s.loomDone cl r.c else r.s.putLoom cl ((r.s.cluster cl).loom.put r.c)

/-- A started command whose operands have been read. -/
def State.loomRun (s : State) (cl : BitVec 7) (c : LoomCmd) : State :=
  let l := (s.cluster cl).loom
  let wide := isWide cl
  let arg (i : Nat) (r j : Nat) : Val :=
    match (c.readArgs wide)[i]? with
    | some g => g.valIn c.swin c.buf r j
    | none => .zero
  match c.op with
  | .twarp w =>
    (match (c.readArgs wide).head? with
    | some g => s.putLoom cl (l.setWarp w (g.loaded c.swin c.buf))
    | none => s).loomDone cl c
  | .tlda =>
    (match (c.readArgs wide).head? with
    | some g => s.putLoom cl { l with weft := g.loaded c.swin c.buf }
    | none => s).loomDone cl c
  | .tzero t => (s.putLoom cl (l.setTile t Tile.clear)).loomDone cl { c with fmta := (l.tile t).fmt }
  | .tmul t w =>
    let f := ((l.warp w).fmt.map Prod.fst).getD 0
    s.tilesDone cl c t (workFmt (f == 5)) false (l.tmulOut t w)
  | .tmult t w =>
    let f := ((l.warp w).fmt.map Prod.fst).getD 0
    s.tilesDone cl c t (workFmt (f == 5)) (decide ((warpShape f).2 < (warpShape f).1)) (l.tmultOut t w)
  | .touter t =>
    let f := workFmt (fp64Vec c.opa && fp64Vec c.opb)
    s.tilesDone cl c t f false (mapOut t (l.tile t) f (fun i j x => addVal .rne x (mulVal (arg 0 0 i) (arg 1 0 j))))
  | .bias t =>
    let f := workFmt (fp64Vec c.opa)
    s.tilesDone cl c t f false (mapOut t (l.tile t) f (fun _ j x => tewFun c.op f c.opa c.opb (arg 0 0) j x))
  | .scale t => s.tewDone cl c t (fun _ _ => [])
  | .relu t => s.tewDone cl c t (fun f k => passMask f k (fun x => ltVal .zero x))
  | .gelu t => s.tewDone cl c t tileBytes
  | .silu t => s.tewDone cl c t tileBytes
  | .clamp t => s.tewDone cl c t (fun f k => passMask f k (clampPass f c.opa c.opb))
  | .tred t =>
    let k := l.tile t
    let sums := (List.range k.fmt.width).map (fun j => (⟨t, 0, j, k.colSum j, 0⟩ : CellOut))
    match (if c.nanf && !c.nanOff then nanFirst sums else none) with
    | some o => s.nanHalt cl c o
    | none =>
      if c.pos < k.fmt.width then s.loomWent cl c (s.tredStep c k) else s.loomDone cl { c with fmta := k.fmt }
  | .tst t =>
    let k := l.tile t
    let g := TileArg.shaped c.opa c.opb tstFmt 64 k.fmt.width true
    if !c.pend.isEmpty then s.loomWent cl c (s.pendStep c (if c.pend.length = 1 then 0 else tagBits c.opa) (c.pend.headD (0, [])))
    else if c.pos < g.rows * g.cols then s.loomWent cl c (s.tstStep c k g) else s.loomDone cl { c with fmta := k.fmt }
  | .tsync => s.loomEnds cl c (s.engWrite c.id c.core false (va57 c.opa) 8 c.seq)
  | .trecOn => s.loomEnds cl c (s.trecRun cl c)
  | .trecOff => s.loomEnds cl c (s.trecRun cl c)
  | .tdrop => s.loomEnds cl c (s.tdropRun cl c)
  | .unwind => s.unwindEvent cl c

/-- LOOM_COMMAND_COMPLETE (R117, R120 to R127, R147): each of these events reads one more line of a started command's
operands, or makes its next stores, and the last one takes its effect and writes LDONE. -/
def execLoomCommandComplete (cl : BitVec 7) (seq : Nat) (s : State) : Out :=
  let l := (s.cluster cl).loom
  match l.queue.find? (fun c => c.seq == seq) with
  | none => .next s
  | some c =>
    if l.mapped then .next s
    else
      match c.phase with
      | .started =>
        let args := c.readArgs (isWide cl)
        let need := args.flatMap (fun g => g.needed c.swin)
        match need.find? (fun a => (tfind c.buf a).isNone) with
        | some a =>
          .next (s.loomWent cl c (match atArgs args (s.bookLine c a need c.buf) with
            | .error e => .error e
            | .ok (s1, b) => .ok (s1, { c with buf := b })))
        | none => .next (s.loomRun cl c)
      | .done => .next (if (l.queue.head?.map LoomCmd.seq) = some seq then s.loomRecords cl c else s)
      | _ => .next s

/-! ## The resume word (R130, R149, R304) -/

/-- A stopped loom acts on the value `v` of its resume word. -/
def State.loomResumes (s : State) (cl : BitVec 7) (v : Word) : Bool :=
  let l := (s.cluster cl).loom
  l.st == 2 && l.lres == v && !l.mapped

/-- The stopped command. -/
def Loom.stoppedCmd (l : Loom) : Option LoomCmd := l.queue.find? (fun c => c.seq == l.lfcmd)

/-- The line as the loom resumes (R130). -/
def Loom.resumed (l : Loom) : Loom := { l with st := 1, lres := 0, lfcmd := 0, frank := 0 }

/-- Retries the stopped command (R130, R149). -/
def State.loomRetry (s : State) (cl : BitVec 7) (f : LoomCmd → LoomCmd) : State :=
  let l := (s.cluster cl).loom
  s.setLoom cl (match l.stoppedCmd with
    | some c => (l.put (f c)).resumed
    | none => l.resumed)

/-- LRES_RETRY (R130). DESIGN CHOICE (log 97): a command that LRES 4 has retried keeps its NaN check off when it stops again and
is retried with LRES 1, which the spec does not settle. -/
def execLresRetry (cl : BitVec 7) (s : State) : Out :=
  if s.loomResumes cl 1 then .next (s.loomRetry cl id) else .next s

/-- LRES_RETRY_NO_NAN (R130). -/
def execLresRetryNoNan (cl : BitVec 7) (s : State) : Out :=
  if s.loomResumes cl 4 then .next (s.loomRetry cl (fun c => { c with nanOff := true })) else .next s

/-- A command is treated as complete; an `unwind` that had stopped is abandoned (R130, R149). -/
def State.skipCmd (s : State) (cl : BitVec 7) (c : LoomCmd) : State :=
  let s1 := if c.op = .unwind then s.unwindAbandon cl c else s
  s1.putLoom cl ((s1.cluster cl).loom.put { c with phase := .done, dropped := true })

/-- The accesses that a resume makes for a command that it treats as complete: those that abandon an `unwind` which has stopped,
and, of a flush, the write of a `tsync` (R130, R149). -/
def Loom.endAccesses (l : Loom) (flush : Bool) (c : LoomCmd) : List (Acc × Nat) :=
  if c.op = .unwind ∧ c.seq = l.lfcmd then
    (if c.foreign then [] else [(.read, c.book), (.write, c.book + 8)]) ++ [(.write, va57 c.opa)]
  else if c.op = .tsync ∧ flush then [(.write, va57 c.opa)]
  else []

/-- The commands that a skip or a flush treats as complete; a flush leaves one that runs on the other side. -/
def Loom.endCmds (l : Loom) (flush : Bool) : List LoomCmd :=
  if flush then l.queue.filter (fun c => c.phase != .done && c.phase != .started) else l.stoppedCmd.toList

/-- One of the accesses of a skip or a flush is held up (R149, R158). -/
def State.endHeld (s : State) (l : Loom) (flush : Bool) : Bool :=
  (l.endCmds flush).any (fun c => (l.endAccesses flush c).any (fun p => s.bookHeld c p.1 p.2))

/-- Those that are held up for a translation ask the host. -/
def State.endAsk (s : State) (l : Loom) (flush : Bool) : State :=
  (l.endCmds flush).foldl (fun s c => (l.endAccesses flush c).foldl (State.bookAsk c) s) s

/-- LRES_SKIP (R130). -/
def execLresSkip (cl : BitVec 7) (s : State) : Out :=
  let l := (s.cluster cl).loom
  if !s.loomResumes cl 2 then .next s
  else if s.endHeld l false then .next (s.endAsk l false)
  else
    let s1 := s.putLoom cl l.resumed
    match l.stoppedCmd with
    | some c => .next ((s1.skipCmd cl c).loomCount cl none)
    | none => .next (s1.loomCount cl none)

/-- A queued command is treated as complete: a `tsync` writes its number with bit 63 set, and a fault of that write leaves a
record (R130). -/
def State.flushCmd (cl : BitVec 7) (s : State) (c : LoomCmd) : State :=
  let s1 := if c.op = .tsync then
      s.orRecord cl c (s.engWrite c.id c.core false (va57 c.opa) 8 (c.seq + 2 ^ 63))
    else s
  s1.putLoom cl ((s1.cluster cl).loom.put { c with phase := .done, dropped := true })

/-- LRES_FLUSH (R130, R149): the stopped command and every queued one are treated as complete; one that runs on the other
side runs on. -/
def execLresFlush (cl : BitVec 7) (s : State) : Out :=
  let l := (s.cluster cl).loom
  if !s.loomResumes cl 3 then .next s
  else if s.endHeld l true then .next (s.endAsk l true)
  else
    let s1 := s.putLoom cl l.resumed
    .next (((l.endCmds true).foldl (fun s c =>
      if c.seq = l.lfcmd ∧ c.op = .unwind then s.skipCmd cl c else State.flushCmd cl s c) s1).loomCount cl none)

/-! ## Release (R113) -/

/-- LOOM_RELEASE (R113): where no other event has released a loom whose conditions hold. -/
def execLoomRelease (cl : BitVec 7) (s : State) : Out := .next (s.releaseLoom cl)

/-- The threads parked for a context that is open to their crew now, and on their way to no wake (R112, log 94). -/
def State.loomCalls (s : State) (cl : BitVec 7) : List ThreadId :=
  (s.threads.filter (fun t => t.live && t.stopped.isNone && t.run == .parked (.loom cl false)
    && s.openTo cl t.crewKey && s.net.wakes.all (fun w => w.id != t.id))).map Thread.id

/-- Those threads are woken. -/
def State.callLoom (cl : BitVec 7) (s : State) : State :=
  { s with net := { s.net with wakes := s.net.wakes ++ (s.loomCalls cl).map (fun i => ⟨i, 9⟩) } }

/-- LOOM_RELEASE_COMPLETE (R113). -/
def execLoomReleaseComplete (cl : BitVec 7) (s : State) : Out :=
  let l := (s.cluster cl).loom
  if l.st = 3 then .next ((s.setLoom cl { l with st := 0, owner := none }).wakeLoom cl false) else .next s

/-- GOVERNOR_WINDOW (R132): a window of 1,024 cycles ends, and the cycles withheld are counted. -/
def execGovernorWindow (withheld : List (BitVec 7 × Nat)) (s : State) : Out :=
  let s1 := s.reach (s.hub.governAt + 1024)
  let s2 : State := { s1 with hub := { s1.hub with governAt := s.hub.governAt + 1024, coldStarts := 0 } }
  .next (withheld.foldl (fun s p =>
    let l := (s.cluster p.1).loom
    s.setLoom p.1 { l with lgov := l.lgov + p.2 }) s2)

end Sys2Proof.Machine
end

