-- ==== Sys2Proof/Machine/ThreadState.lean ====
section
/-! DEFINITION. Thread-state and indenture instructions (R274 to R284): the checks at the caller, the action at the target,
and the result that comes back. -/

namespace Sys2Proof.Machine

/-! ## The caller (R275, R276) -/

/-- The caller parks until its result arrives (R276). -/
def State.awaitResult (s : State) : State := s.park .result

/-- A result on its way to the caller, which stops itself with it if `halt` says so (R277). -/
def State.sendResult (s : State) (caller : ThreadId) (d : BitVec 5) (v : Word) (halt : Bool) : State :=
  { s with net := { s.net with results := s.net.results ++ [⟨caller, d, v, halt⟩] } }

/-- A result that is decided at the caller (R365). -/
def State.answer (d : BitVec 5) (v : Word) (s : State) : State := (s.sendResult s.thr.id d v false).awaitResult

/-- A request leaves for its target (R276). -/
def State.request1 (d : BitVec 5) (target : BitVec 24) (a : TAct) (s : State) : State :=
  let s1 : State := { s with net := { s.net with reqs := s.net.reqs ++ [⟨s.thr.id, d, target, a⟩] } }
  s1.awaitResult

/-- The rank operand (R275): a refusal, or the rank. -/
def State.rankOperand (s : State) (v : Word) (right : Nat) : Except Nat (BitVec 24) :=
  let r : BitVec 24 := v.setWidth 24
  let me := s.thr.id
  if v.extractLsb' 24 40 ≠ 0 then .error 6
  else if (s.find ⟨me.tenant, r⟩).isNone then .error 1
  else if ((s.tenant me.tenant).rights me.rank r).getLsbD right then .ok r
  else .error 2

/-- A thread-state instruction after its commit: the checks at the caller, in the order 6, 1, 2. -/
def State.threadState (d : BitVec 5) (v : Word) (right : Nat) (a : TAct) (s : State) : State :=
  match s.rankOperand v right with
  | .error k => s.answer d (refusal k)
  | .ok r => s.request1 d r a

/-- `tstop` (R277). -/
def execTstop (d a : BitVec 5) (s : State) : Out :=
  let v := s.thr.arch.getX a
  s.endC Eff.none (State.threadState d v 0 .stop)

/-- `tstart` (R279). -/
def execTstart (d a : BitVec 5) (s : State) : Out :=
  let v := s.thr.arch.getX a
  s.endC Eff.none (State.threadState d v 1 .start)

/-- `trds` (R280). -/
def execTrds (d a : BitVec 5) (item : BitVec 6) (s : State) : Out :=
  let v := s.thr.arch.getX a
  s.endC Eff.none (State.threadState d v 2 (.read item))

/-- `twrs` (R281). -/
def execTwrs (d a b : BitVec 5) (item : BitVec 6) (s : State) : Out :=
  let v := s.thr.arch.getX a
  let w := s.thr.arch.getX b
  s.endC Eff.none (State.threadState d v 3 (.write item w))

/-- Rights over every rank of a stretch (R282): they change only where an entry begins or ends. -/
def Tenant.covers (t : Tenant) (r lo hi : BitVec 24) (need : BitVec 6) : Bool :=
  let points := lo :: (t.table r).flatMap (fun e => [e.lo, e.hi + 1])
  points.all (fun q => !(lo.ule q && q.ule hi) || t.rights r q &&& need == need)

/-- The four doublewords of a grant request after the commit (R282): refusals 5, 1, 2, and the request to the table's
home. -/
def State.grant (d : BitVec 5) (w0 w1 w2 w3 : Word) (s : State) : State :=
  let me := s.thr.id
  let g : BitVec 24 := w0.setWidth 24
  let lo : BitVec 24 := w1.setWidth 24
  let hi : BitVec 24 := w1.extractLsb' 24 24
  let rights : BitVec 6 := w2.setWidth 6
  if w0.extractLsb' 24 40 ≠ 0 ∨ w1.extractLsb' 48 16 ≠ 0 ∨ w2.extractLsb' 6 58 ≠ 0 ∨ w3 ≠ 0 ∨ hi.ult lo = true ∨ rights = 0 then
    s.answer d (refusal 5)
  else if (s.find ⟨me.tenant, g⟩).isNone then s.answer d (refusal 1)
  else if !(s.tenant me.tenant).covers me.rank lo hi (rights ||| 0x20) then s.answer d (refusal 2)
  else s.request1 d g (.grant ⟨lo, hi, me.rank, rights⟩)

/-- `igrant` (R282): the request is read in the chunk. -/
def execIgrant (d a : BitVec 5) (s : State) : Out :=
  let va := effAddr (s.thr.arch.getX a) 0
  s.enderC (match aligned va 32 with
    | .error e => .error e
    | .ok _ =>
      match s.readAt va 32 with
      | .error e => .error e
      | .ok pa =>
        let s1 := s.combined [pa]
        let w (i : Nat) : Word := s1.chunkN (pa + 8 * i) 8
        s.endChunk { Eff.none with reads := [lineOf pa], pages := [va / 4096] } (State.grant d (w 0) (w 1) (w 2) (w 3)))

/-- The event of an `irevoke` after its commit: refusals 5 and 1 at the caller (R283). -/
def State.revoke (d : BitVec 5) (v : Word) (s : State) : State :=
  let g : BitVec 24 := v.setWidth 24
  if v.extractLsb' 24 8 ≠ 0 ∨ v.extractLsb' 44 20 ≠ 0 then s.answer d (refusal 5)
  else if (s.find ⟨s.thr.id.tenant, g⟩).isNone then s.answer d (refusal 1)
  else s.request1 d g (.revoke (v.extractLsb' 32 12).toNat)

/-- `irevoke` (R283). -/
def execIrevoke (d a : BitVec 5) (s : State) : Out :=
  let v := s.thr.arch.getX a
  s.endC Eff.none (State.revoke d v)

/-- STATE of a thread as `iquery` reads it (R284). -/
def Thread.queryState (t : Thread) : Nat :=
  match t.place with
  | .moving _ => 7
  | p =>
    if t.stopped.isSome then 5
    else
      match t.run, p with
      | .retained, _ => 6
      | .halted, _ => 0
      | .ready, .slot _ _ => 1
      | .ready, _ => 4
      | .parked _, .slot _ _ => 2
      | .parked _, _ => 3

/-- The word of an `iquery` (R284). -/
def State.queryWord (s : State) (v : Word) : Word :=
  let me := s.thr.id
  let r : BitVec 24 := v.setWidth 24
  if v.extractLsb' 24 40 ≠ 0 then refusal 6
  else
    let st := match s.find ⟨me.tenant, r⟩ with
      | some t => t.queryState
      | none => 0
    0#52 ++ BitVec.ofBool (r == me.rank) ++ BitVec.ofNat 3 st ++ 0#2 ++ (s.tenant me.tenant).rights me.rank r

/-- `iquery` (R284): the event falls at the commit, and the caller parks for its result. -/
def execIquery (d a : BitVec 5) (s : State) : Out :=
  let v := s.thr.arch.getX a
  s.endC Eff.none (fun s1 => s1.answer d (s1.queryWord v))

/-! ## The action at the target (R277 to R283) -/

/-- The thread is packed; one that has halted is not, though its docket is retained (R220, R246). -/
def Thread.packed (t : Thread) : Bool :=
  t.run != .retained && (match t.place with | .slot _ _ => false | _ => true)

/-- PC as `trds` reads it (R280). -/
def Thread.shownPc (t : Thread) : Word :=
  match t.run with
  | .parked .result => t.arch.pc
  | .parked (.loom _ _) => t.arch.pc
  | .parked (.drain _) => t.arch.pc
  | .parked (.pri _ _) => t.arch.pc
  | .parked _ => addrWord (t.arch.pc.toNat + 2 ^ 57 - 8)
  | _ => t.arch.pc

/-- The register an item names, if it names one. -/
def itemReg (i : BitVec 6) : Option (BitVec 5) := if i.toNat < 32 then some (i.setWidth 5) else none

/-- A register that a docket does not keep (R256, R275, log 113). -/
def Thread.lacks (t : Thread) (r : BitVec 5) : Bool :=
  (t.packed || t.run == .retained) && !t.keepsAll && r != 0 && !(t.arch.liveRegs.take 16).contains r.toNat

/-- An item of a lost root that still reads: FLTA and IDT (R314). -/
def huskItem (i : BitVec 6) : Bool := i == 35 || i == 36

/-- `trds` at the target (R280, R314). -/
def State.readItem (s : State) (t : Thread) (i : BitVec 6) : Word :=
  if t.stopped.isNone && t.run != .retained then refusal 3
  else if t.hollow && !huskItem i then 0
  else
    match itemReg i with
    | some r => if t.lacks r then refusal 4 else t.arch.getX r
    | none => if i = 32 then t.shownPc else s.wordOf t (i.setWidth 5)

/-- `twrs` at the target (R281): the new state and the result. -/
def State.writeItem (s : State) (t : Thread) (i : BitVec 6) (v : Word) : State × Word :=
  if t.stopped.isNone || t.run == .retained then (s, refusal 3)
  else
    match itemReg i with
    | some r => if t.lacks r then (s, refusal 4) else (s.upd t.id (Thread.between (fun a => a.setX r v)), 0)
    | none =>
      let w : BitVec 5 := i.setWidth 5
      let wide := decide (16 < ((List.range 32).filter (fun k => k != 0 && v.getLsbD k)).length)
      if w = 18 && t.packed && wide then (s, refusal 4)
      else if !wordOk w v then (s, refusal 5)
      else
        let s1 := s.upd t.id (fun t => t.between (fun a =>
          let b := setWord w v a
          if w = 18 ∧ t.packed then b.kept else b))
        if w = 3 ∧ t.id.rank = 0 then
          (s1.setTenant t.id.tenant { s1.tenant t.id.tenant with rootFlta := v }, 0)
        else (s1, 0)

/-- `tstart` at the target (R279). -/
def State.startItem (s : State) (t : Thread) : State × Word :=
  if t.stopped.isSome then (s.startThread t.id, 0)
  else
    match t.run with
    | .parked (.wait d _) => (s.upd t.id (Thread.waitReturn s.cyc 8 d), 1)
    | .parked (.xchg d) => (s.upd t.id (Thread.waitReturn s.cyc 8 d), 1)
    | .retained => if t.id.rank = 0 then (s, refusal 3) else (s.freeRetained t, 2)
    | _ => (s, refusal 3)

/-- `tstop` at the target (R277). A caller that stops itself does so when its result is written. -/
def State.stopItem (s : State) (caller : ThreadId) (t : Thread) : State × Word :=
  if t.run = .retained then (s, refusal 3)
  else if t.stopped.isSome then (s, 1)
  else if t.id = caller then (s, 0)
  else (s.upd t.id (Thread.stop .tstop s.cyc), 0)

/-- The append of an `igrant` at the home of the table's line (R282). -/
def State.grantItem (s : State) (t : Thread) (e : IEntry) : State × Word :=
  let k := s.tenant t.id.tenant
  if k.hasRoom t.id.rank then
    (s.addEntry t.id.tenant t.id.rank e, BitVec.ofNat 64 (k.table t.id.rank).length)
  else (s, refusal 7)

/-- The removal of an `irevoke`: the last entry moves to the index (R283); a page that has no entry left is mapped no more
(R251, R271). -/
def State.revokeItem (s : State) (caller : ThreadId) (t : Thread) (i : Nat) : State × Word :=
  let k := s.tenant t.id.tenant
  let l := k.table t.id.rank
  match l[i]? with
  | none => (s, refusal 8)
  | some e =>
    if caller.rank ≠ t.id.rank ∧ e.grantor ≠ caller.rank then (s, refusal 2)
    else
      let l1 := match l.getLast? with
        | some z => (l.set i z).dropLast
        | none => l
      let s1 := s.setTenant t.id.tenant (k.setTable t.id.rank l1)
      let s2 := (s1.indentWritten t.id.tenant t.id.rank i).indentWritten t.id.tenant t.id.rank (l.length - 1)
      (if tablePages l1.length < tablePages l.length then s2.checkWatches t.id.tenant else s2, 0)

/-- A request can act: its target is not in transit (R238, R270). -/
def State.canAct (s : State) (n : Nat) : Bool :=
  match s.net.reqs[n]? with
  | none => false
  | some r =>
    match s.find ⟨r.caller.tenant, r.target⟩ with
    | some t => (match t.place with | .moving _ => false | _ => true)
    | none => true

/-- THREAD_STATE_ACTION (R276): the action is one event at the target. -/
def execThreadStateAction (n : Nat) (s : State) : Out :=
  match s.net.reqs[n]? with
  | none => .next s
  | some r =>
    if !s.canAct n then .next s
    else
      let s1 : State := { s with net := { s.net with reqs := ldrop s.net.reqs n } }
      match s1.find ⟨r.caller.tenant, r.target⟩ with
      | none => .next (s1.sendResult r.caller r.d (refusal 1) false)
      | some t =>
        let a : State × Word :=
          match r.act with
          | .stop => s1.stopItem r.caller t
          | .start => s1.startItem t
          | .read i => (s1, s1.readItem t i)
          | .write i v => s1.writeItem t i v
          | .grant e => s1.grantItem t e
          | .revoke i => s1.revokeItem r.caller t i
        .next (a.1.sendResult r.caller r.d a.2 (decide (r.act = .stop ∧ t.id = r.caller)))

/-- The caller takes its result: WHY is unchanged; a caller that has been stopped meanwhile stays stopped (R276, R277). -/
def Thread.takeResult (now : Nat) (d : BitVec 5) (v : Word) (t : Thread) : Thread :=
  if t.run = .parked .result then
    if t.stopped.isSome then { t.between (fun a => a.setX d v) with run := .ready }
    else t.ready now (fun a => a.setX d v)
  else t

/-- A caller that stops itself does so in the event in which its result is written (R277). -/
def Thread.selfStop (now : Nat) (halt : Bool) (t : Thread) : Thread :=
  if halt ∧ t.run = .parked .result ∧ t.stopped.isNone then { t with stopped := some .tstop, since := now } else t

/-- THREAD_STATE_RESULT (R276): the result reaches the caller. -/
def execThreadStateResult (n : Nat) (s : State) : Out :=
  match s.net.results[n]? with
  | none => .next s
  | some r =>
    let s1 : State := { s with net := { s.net with results := ldrop s.net.results n } }
    .next (s1.upd r.caller (fun t => (t.selfStop s.cyc r.halt).takeResult s.cyc r.d r.val))

end Sys2Proof.Machine
end

