-- ==== Sys2Proof/Machine/Service.lean ====
section
/-! DEFINITION. The launch service of the factor (R327, R328): what each service function does, with the tenant context
switch (R288), the bias flip and the home change (R153, R308), and the operations that stop and drain a tenant. -/

namespace Sys2Proof.Machine

/-- What a service function comes to: the state after it, and whether it was performed or refused with code 9. -/
abbrev Served := State × Bool

/-- The function is performed. -/
def served (s : State) : Served := (s, true)

/-- The function is refused with code 9 and has no effect. -/
def unserved (s : State) : Served := (s, false)

/-- The tenant an operand names, in its low bits. -/
def operTenant (w : Word) : BitVec 4 := w.extractLsb' 0 4

/-! ## Stopping and draining a tenant (R288, R297) -/

/-- Every dray of a tenant's rectangle departs (R288 step 2). -/
def State.departTenant (s : State) (tn : BitVec 4) : State :=
  (s.tenant tn).rect.clusters.foldl (fun s cl => s.depart cl (fun d => d.tn == tn)) s

/-- A porter or a loom is idle or stopped (R288 step 3). -/
def Cluster.quiet (k : Cluster) : Bool :=
  (k.loom.st == 2 || (k.loom.st != 3 && k.loom.queue.isEmpty))
    && k.porters.all (fun p => p.2.st == 2 || p.2.queue.isEmpty)

/-- The engines of a rectangle are idle or stopped. -/
def State.enginesQuiet (s : State) (tn : BitVec 4) : Bool :=
  (s.tenant tn).rect.clusters.all (fun cl => (s.cluster cl).quiet)

/-- No packet of a tenant's colour is anywhere, and its drays are empty (R246, R288 step 4). -/
def State.coloursClear (s : State) (tn : BitVec 4) : Bool :=
  (s.net.packets ++ s.net.acks ++ s.net.away).all (fun p => p.tn != tn)
    && s.net.pokes.all (fun p => p.1.tenant != tn) && s.net.awayAmops.all (fun a => a.id.tenant != tn)
    && s.net.amops.all (fun a => a.id.tenant != tn) && s.net.wakes.all (fun w => w.id.tenant != tn)
    && s.net.reqs.all (fun r => r.caller.tenant != tn) && s.net.results.all (fun r => r.caller.tenant != tn)
    && s.net.crewGos.all (fun g => g.tn != tn) && s.net.smays.all (fun p => p.1 != tn)
    && s.net.releases.all (fun p => p.1 != tn) && s.net.criers.all (fun c => c.tn != tn)
    && (s.tenant tn).rect.clusters.all (fun cl => (s.cluster cl).drays.all (fun d => d.tn != tn))

/-- The events that a tenant's threads have asked for inside the package have been performed. -/
def State.postsDone (s : State) (tn : BitVec 4) : Bool :=
  (s.ofTenant tn).all (fun t => t.arms.isEmpty &&
    match t.post with
    | none => true
    | some (.ioLoad _ _ _ _) => true
    | some (.fabLoad _ _ _ _ _) => true
    | some (.fabStore _ _ _ _) => true
    | some _ => false)

/-- Steps 2 to 4 of R288 have been reached. -/
def State.drained (s : State) (tn : BitVec 4) : Bool := s.enginesQuiet tn && s.coloursClear tn && s.postsDone tn

/-- The transfers of a tenant that are bound for its host are aborted (R297 step 2): requests that have not left and posted
atomics are dropped, and a pending I/O read completes with poisoned data. What its engines and its threads' committed chunks
still ask of the host is aborted where it is made (`Tenant.aborting`). -/
def State.abortHost (s : State) (tn : BitVec 4) : State :=
  let pending (t : Thread) : Bool :=
    t.live && t.id.tenant == tn && (match t.post with | some (.ioLoad _ _ _ _) => true | _ => false)
  let bs : Word := readLe (fun i => Config.poisonedByte (s.free + i)) 0 8
  let end1 (t : Thread) : Thread :=
    match t.post with
    | some (.ioLoad z d _ _) => { (t.between (fun a => a.setX d (loadExtend z bs))) with post := none, run := .ready }
    | _ => t
  let s1 : State := { s with
    free := s.free + 8
    hub := { s.hub with out := s.hub.out.filter (fun m =>
      match m with
      | .ioWrite st _ _ => st.tn != tn
      | .ioRead st _ _ => st.tn != tn
      | _ => true) }
    net := { s.net with amops := s.net.amops.filter (fun a => a.id.tenant != tn || !isHost a.pa) } }
  s1.updAll (fun t => if pending t then end1 t else t)

/-- A tenant leaves CONFIG_LOCKED or RUN for ERROR (R295 to R297): it is stopped and drains. -/
def State.toError (s : State) (tn : BitVec 4) : State :=
  let s1 := ((s.stopTenant tn).abortHost tn).departTenant tn
  s1.setTenant tn { s1.tenant tn with tdisp := .error }

/-- The tenant's configuration is frozen: it is in CONFIG_LOCKED or in RUN. -/
def State.frozenConfig (s : State) (tn : BitVec 4) : Bool :=
  (s.tenant tn).tdisp == .locked || (s.tenant tn).tdisp == .run

/-- A function that changes the configuration of some tenants: it is performed only while each is CONFIG_UNLOCKED (R286); an
attempt while one is in CONFIG_LOCKED or RUN sends that one to ERROR (R296). -/
def State.configure (s : State) (tns : List (BitVec 4)) (k : State → Served) : Served :=
  if tns.all (fun tn => (s.tenant tn).tdisp == .unlocked) then k s
  else unserved ((tns.filter s.frozenConfig).foldl State.toError s)

/-- A tenant counts as stopped for the rules that require a stopped tenant (R164, R222, R328). -/
def Tenant.atRest (t : Tenant) : Bool := t.stopped || t.out

/-! ## FUNC 1, 2: queues and tenants -/

/-- The address at which the device places a notify word (R322, R323). -/
def noteAddr (q : BitVec 6) : Nat := 64 * (Config.factorArea (2 * q.toNat) % (Config.deviceBytes / 64 - 1) + 1)

/-- The address of a queue's device ring (R323). -/
def devRingAddr (q : BitVec 6) : Nat := 8192 * (Config.factorArea (2 * q.toNat + 1) % (Config.deviceBytes / 8192))

/-- The physical address of a ring whose QRING word is `r` (R318): bit 0 says that it lies in device memory. -/
def ringAddr (h : BitVec 1) (r : Nat) : Nat := if r % 2 = 1 then r - 1 else hostAddr h r

/-- FUNC 1 (R327). -/
def queueSetupNow (h : BitVec 1) (o : Opers) (s : State) : Served :=
  let q : BitVec 6 := o.o0.extractLsb' 0 6
  let tn := operTenant o.o1
  let n := (o.o3.extractLsb' 0 5).toNat
  let k := s.queue q
  if k.service then unserved s
  else
    s.configure (if k.valid && k.owner != tn then [tn, k.owner] else [tn]) (fun s =>
      if n < 4 ∨ 16 < n then unserved s
      else
        let new : HostQueue := { HostQueue.reset with
          valid := true
          owner := tn
          head := h
          ring := ringAddr h (va57 o.o2)
          n := n
          note := noteAddr q
          devRing := devRingAddr q
          repLine := if o.o4 = 0 then 0 else hostAddr h (va57 o.o4 / 64 * 64)
          repVec := o.o5.extractLsb' 0 6 }
        let s1 := s.writeEvent none false (cellsOf (noteAddr q) 8 0)
        served (s1.setQueue q new))

/-- The layout of TRECT (R318). -/
def rectOf (w : Word) : Rect := ⟨w.extractLsb' 0 4, w.extractLsb' 4 4, w.extractLsb' 8 3, w.extractLsb' 11 3⟩

/-- The tenants that are set up and switched in, other than `tn`. -/
def State.othersIn (s : State) (tn : BitVec 4) : List Tenant :=
  (s.tenants.filter (fun p => p.1 != tn.toNat && p.2.valid && !p.2.out)).map (fun p => p.2)

/-- A rectangle overlaps that of another switched-in tenant (R286). -/
def State.rectClash (s : State) (tn : BitVec 4) (r : Rect) : Bool := (s.othersIn tn).any (fun t => t.rect.meets r)

/-- A PASID of FUNC 2's operand: 20 bits, and a bit that says it is bound. -/
def pasidOf (w : BitVec 32) : Option (BitVec 20) := if w.getLsbD 31 then some (w.extractLsb' 0 20) else none

/-- FUNC 2 (R235, R286, R327). -/
def tenantSetupNow (o : Opers) (s : State) : Served :=
  let tn := operTenant o.o0
  let r := rectOf o.o1
  s.configure [tn] (fun s =>
    if !r.ok || s.rectClash tn r || decide (cellarLimit < o.o3.toNat % 4096) || decide (2 ^ 24 < o.o6.toNat) || decide (1 < o.o7.toNat) then unserved s
    else
      served (s.setTenant tn { s.tenant tn with
        valid := true
        rect := r
        pasid0 := pasidOf (o.o2.extractLsb' 0 32)
        pasid1 := pasidOf (o.o2.extractLsb' 32 32)
        ptab := []
        refused := []
        cellar := (va57 o.o3) / 4096 * 4096
        cellarPages := o.o3.toNat % 4096
        cellarNext := 0
        save := va57 o.o4
        ipool := (o.o5.extractLsb' 0 32).toNat
        rmax := o.o6.toNat
        pri := o.o7.getLsbD 0 }))

/-! ## FUNC 3, 4, 7: regions -/

/-- A region starts to drain: in one event every open chunk that holds a line of it conflicts; no watch fires (R308). -/
def Thread.strikeRegion (r : Nat) (t : Thread) : Thread := t.strike none false (t.chunk.lines.filter (fun l => l / 1024 == r))

/-- An access from outside that waits at a line of a region is held for its drain (R309). -/
def Inbound.holdFor (r : Nat) (q : Inbound) : Inbound :=
  if isDevice q.pa && regionOf q.pa == r then { q with drained := true } else q

/-- Steps 1 and 2 of R308: the region drains toward a bias, or toward an owner and a descriptor, and its lines leave the
caches. -/
def State.beginDrain (s : State) (r : Nat) (bias : Option Bool) (home : Option (Option (BitVec 4) × Word × Word)) : State :=
  let s1 : State := { s with net := { s.net with inbound := s.net.inbound.map (Inbound.holdFor r) } }
  ((s1.setRegion r { s.region r with drain := some (bias, home) }).updAll (Thread.strikeRegion r)).flushRegion r

/-- A descriptor that the factor accepts (R153). -/
def State.homeOk (s : State) (tn : BitVec 4) (d0 d1 : Word) : Bool :=
  match homeMode d0 with
  | 0 => true
  | 1 => s.eligible (some tn) (d0.extractLsb' 0 10)
  | 2 => !(s.maskCores (some tn) d0 d1).isEmpty
  | _ => false

/-- The writable bits of a descriptor's first doubleword (R153). -/
def homeBits (d0 : Word) : Word := d0 &&& 0xC000000F000003FF#64

/-- FUNC 3 (R153, R327, R374): the region drains, and then takes its owner and its descriptor. A change of owner changes the
configuration of both tenants. -/
def regionSetupNow (o : Opers) (s : State) : Served :=
  let tn := operTenant o.o0
  let place := (o.o3.extractLsb' 0 4).toNat
  let r := o.o4.toNat / 65536
  let k := s.region r
  let parties := if k.owner = some tn then [] else tn :: k.owner.toList
  s.configure parties (fun s =>
    if Config.deviceBytes ≤ o.o4.toNat || !(decide (place ≤ 8) || place == 15) || !(s.tenant tn).valid || k.drain.isSome
        || !s.homeOk tn o.o1 o.o2 then unserved s
    else
      let s1 := s.setRegion r { k with first := if k.tier.isNone then place else k.first }
      served (s1.beginDrain r none (some (some tn, homeBits o.o1, o.o2))))

/-- FUNC 4 (R308): bias 1 is host bias. -/
def biasFlipNow (o : Opers) (s : State) : Served :=
  let r := o.o0.toNat / 65536
  if Config.deviceBytes ≤ o.o0.toNat || (s.region r).drain.isSome then unserved s
  else served (s.beginDrain r (some (o.o1.getLsbD 0)) none)

/-- FUNC 7 (R310). -/
def pinNow (o : Opers) (s : State) : Served :=
  let r := o.o0.toNat / 65536
  if Config.deviceBytes ≤ o.o0.toNat then unserved s
  else served (s.setRegion r { s.region r with pinned := o.o1.getLsbD 0 })

/-! ## FUNC 5, 6, 8 to 11, 13, 14 -/

/-- FUNC 5 (R164): DVISP and DVISF follow DAGE. -/
def orderingNow (o : Opers) (s : State) : Served :=
  let tn := operTenant o.o0
  let t := s.tenant tn
  let dage := o.o1.toNat
  let lease := o.o2.toNat
  if !t.atRest || dage < 64 || 65535 < dage || lease < 1000 || 100000 < lease then unserved s
  else served ((s.setTenant tn { t with dage := dage, leasemax := lease }).winWritten (winPa tn orderVa) 32)

/-- FUNC 6 (R247): the pulse word is a tenant virtual address; a period of 0 turns the watchdog off. -/
def pulseNow (o : Opers) (s : State) : Served :=
  let tn := operTenant o.o0
  let t := s.tenant tn
  let va := va57 o.o1
  let p := o.o2.toNat
  if p = 0 then served (s.setTenant tn { t with pulse := none })
  else if va % 8 ≠ 0 || p < 2 ^ 20 || 2 ^ 40 < p then unserved s
  else
    match s.translate tn (s.baseCore tn) .read va with
    | .ok pa => served (s.setTenant tn { t with pulse := some ⟨pa, va, p, s.cyc, 0⟩ })
    | .error _ => unserved (s.forget tn (s.baseCore tn) va)

/-- FUNC 8 (R311): an HINTT of 0 stands for the default. -/
def hintsNow (h : BitVec 1) (o : Opers) (s : State) : Served :=
  let tn := operTenant o.o0
  let n := o.o2.toNat
  if n < 6 ∨ 20 < n then unserved s
  else served (s.setTenant tn { s.tenant tn with hints := some ⟨hostAddr h (va57 o.o1), n, if o.o3 = 0 then 4096 else o.o3.toNat, 0⟩ })

/-- A window size of R331 or R333. -/
def sizeLog (w : Word) : Bool := decide (21 ≤ w.toNat) && decide (w.toNat ≤ 40)

/-- FUNC 9 (R331): two peer BAR ranges, base and length, and the peer window, base and k; a length or a k of 0 means none. -/
def peersNow (o : Opers) (s : State) : Served :=
  let tn := operTenant o.o0
  let ranges := [(va57 o.o1, o.o2.toNat), (va57 o.o3, o.o4.toNat)].filter (fun p => p.2 != 0)
  if o.o6 ≠ 0 && !sizeLog o.o6 then unserved s
  else served (s.setTenant tn { s.tenant tn with
    peers := ranges, window := if o.o6 = 0 then none else some (va57 o.o5, o.o6.toNat) })

/-- FUNC 10 (R333): base, k, module and remote tenant, and the remote base; bit 63 of the module operand marks an export. -/
def fabricNow (o : Opers) (s : State) : Served :=
  let tn := operTenant o.o0
  let t := s.tenant tn
  let va := va57 o.o1
  let exported := o.o3.getLsbD 63
  if !sizeLog o.o2 || va % 2 ^ o.o2.toNat ≠ 0 || (!exported && decide (16 ≤ (t.fabric.filter (fun w => !w.exported)).length)) then
    unserved s
  else served (s.setTenant tn { t with
    fabric := t.fabric ++ [⟨va, o.o2.toNat, o.o3.extractLsb' 0 8, o.o3.extractLsb' 8 4, va57 o.o4, exported⟩] })

/-- FUNC 11 (R312): patrol scrub on or off. -/
def scrubNow (o : Opers) (s : State) : Served := served { s with hub := { s.hub with scrubOff := !o.o0.getLsbD 0 } }

/-- FUNC 13 (R222): 0 greedy-then-oldest, 1 round-robin; only while the tenant is stopped. -/
def policyNow (o : Opers) (s : State) : Served :=
  let tn := operTenant o.o0
  if !(s.tenant tn).atRest || 1 < o.o1.toNat then unserved s
  else served (s.setTenant tn { s.tenant tn with rr := o.o1.getLsbD 0 })

/-- FUNC 14 (R327). -/
def powerNow (o : Opers) (s : State) : Served :=
  if o.o0.toNat < 1200 ∨ 3400 < o.o0.toNat then unserved s
  else served { s with hub := { s.hub with powerLimit := o.o0.toNat } }

/-- A host that was lost and whose link is up is lost no more once no tenant waits for a rebind (R317, log 69). -/
def State.returned (s : State) : State :=
  if s.tenants.any (fun p => p.2.hostLost) then s
  else { s with head0 := { s.head0 with lost := s.head0.lost && !s.head0.up }, head1 := { s.head1 with lost := s.head1.lost && !s.head1.up } }

/-- FUNC 12 (R319): a queue that is not LOST, or a tenant's PASID, is bound to this head in one event. OPER0 is 0 for a queue
and 1 for a PASID; OPER1 names the queue or the tenant; OPER2 holds the PASID. The new PASID has its own tables: no TLB entry
stands, and pages are asked for afresh (R289, R317), those of armed watches at once (R251). -/
def rebindNow (h : BitVec 1) (o : Opers) (s : State) : Served :=
  if o.o0 = 0 then
    let q : BitVec 6 := o.o1.extractLsb' 0 6
    let k := s.queue q
    if !k.valid || k.lost then unserved s else served (s.setQueue q { k with head := h })
  else if o.o0 = 1 then
    let tn := operTenant o.o1
    let t := s.tenant tn
    let p : BitVec 20 := o.o2.extractLsb' 0 20
    if !t.valid then unserved s
    else
      let t1 : Tenant := { t with hostLost := false, ptab := [], refused := [] }
      let s1 : State := { s with tlb := s.tlb.filter (fun e => e.tn != tn) }
      let s2 := s1.setTenant tn (if h = 0 then { t1 with pasid0 := some p } else { t1 with pasid1 := some p })
      served ((s2.askWatches tn (fun _ => true)).returned)
  else unserved s

/-! ## FUNC 15: run control (R288, R328) -/

/-- Action 0. -/
def tenantStopNow (tn : BitVec 4) (s : State) : Served :=
  let t := s.tenant tn
  if t.tdisp ≠ .run || t.stopped || t.out then unserved s else served (s.stopTenant tn)

/-- Every thread that a tenant stop stopped is started, and crews are admitted again. -/
def State.startTenant (s : State) (tn : BitVec 4) : State :=
  let ids := ((s.ofTenant tn).filter (fun t => t.stopped == some .tenant)).map Thread.id
  ids.foldl State.startThread (s.setTenant tn { s.tenant tn with stopped := false })

/-- Action 1. -/
def tenantStartNow (tn : BitVec 4) (s : State) : Served :=
  let t := s.tenant tn
  if !t.stopped || t.tdisp ≠ .run || t.out || t.leaving ≠ 0 then unserved s else served (s.startTenant tn)

/-- What a cluster keeps when its tenant leaves it: its map-out, and the cycles withheld from its loom since reset (R118). -/
def Cluster.vacated (k : Cluster) : Cluster :=
  { Cluster.reset with
    mappedOut := k.mappedOut
    loom := { Loom.reset with mapped := k.loom.mapped, lgov := k.loom.lgov, lastRun := k.loom.lastRun }
    porters := k.porters.map (fun p => (p.1, { Porter.reset with mapped := p.2.mapped })) }

/-- What comes back to a cluster from a save area. -/
def Cluster.restored (k saved : Cluster) : Cluster :=
  { saved with
    mappedOut := k.mappedOut
    loom := { saved.loom with mapped := k.loom.mapped, lgov := k.loom.lgov, lastRun := k.loom.lastRun }
    porters := saved.porters.map (fun p => (p.1, { p.2 with mapped := (k.porter (BitVec.ofNat 2 p.1)).mapped })) }

/-- A cluster's engines are replaced: each status line that reads otherwise now is written as one event (R118, R214). -/
def State.setEngines (s : State) (cl : BitVec 7) (k : Cluster) : State :=
  let old := s.cluster cl
  let same (f : Nat → Word) (g : Nat → Word) : Bool := (List.range 8).all (fun i => f i == g i)
  let s1 := s.setCluster cl k
  let s2 := if same old.loom.word k.loom.word then s1 else s1.winWritten (winPa 0 (loomVa + 64 * cl.toNat)) 64
  (List.range 4).foldl (fun s n =>
    let b := BitVec.ofNat 2 n
    if same (old.porter b).word (k.porter b).word then s else s.winWritten (winPa 0 (porterVa + 256 * cl.toNat + 64 * n)) 64) s2

/-- Step 5 of R288: contexts go to the save area. -/
def State.saveCluster (tn : BitVec 4) (s : State) (cl : BitVec 7) : State :=
  let k := s.cluster cl
  { s.setEngines cl k.vacated with saved := tset s.saved (128 * tn.toNat + cl.toNat) k }

/-- Contexts come back from the save area. -/
def State.restoreCluster (tn : BitVec 4) (s : State) (cl : BitVec 7) : State :=
  let key := 128 * tn.toNat + cl.toNat
  match tfind s.saved key with
  | none => s
  | some k => { s.setEngines cl ((s.cluster cl).restored k) with saved := tdel s.saved key }

/-- The partials that some cores hold go to the homes of their words (R176). -/
def State.sendPartials (s : State) (p : BitVec 10 → Bool) : State :=
  { s with partials := s.partials.map (fun q => if p q.core then { q with atHome := true } else q) }

/-- The tenant is switched out: it has stopped and drained, its contexts are saved, and the caches of its rectangle, with the
partials in them, are written back (R288). -/
def State.leaveMesh (s : State) (tn : BitVec 4) : State :=
  let r := (s.tenant tn).rect
  let mine (c : BitVec 10) : Bool := r.holds (clusterOf c)
  let s1 := ((r.clusters.foldl (State.saveCluster tn) s).flushCores mine).sendPartials mine
  s1.setTenant tn { s1.tenant tn with out := true, leaving := 0 }

/-- Action 2: step 1 unless the tenant is already stopped, then the drain; the switch is performed once the tenant has
drained, which `none` says it has not yet. -/
def switchOutNow (tn : BitVec 4) (s : State) : Option Served × State :=
  let t := s.tenant tn
  if t.out || t.leaving = 2 then (some (unserved s), s)
  else
    let s1 :=
      if t.leaving = 1 then s
      else
        let s2 := (if t.stopped then s else s.stopTenant tn).departTenant tn
        s2.setTenant tn { s2.tenant tn with leaving := 1, wasStopped := t.stopped }
    if s1.drained tn then (some (served (s1.leaveMesh tn)), s1) else (none, s1)

/-- Action 3: a new generation, the saved state, and the start of what the switch out stopped; a tenant in ERROR stays stopped
(R288, R296, R328). -/
def switchInNow (tn : BitVec 4) (s : State) : Served :=
  let t := s.tenant tn
  if !t.out || s.rectClash tn t.rect then unserved s
  else
    let s1 := s.setTenant tn { t with out := false, gen := t.gen + 1 }
    let s2 := t.rect.clusters.foldl (State.restoreCluster tn) s1
    served (if t.wasStopped || t.tdisp == .error then s2 else s2.startTenant tn)

/-! ## The functions by number -/

/-- A service request performed or refused; `none` while a switch out drains. -/
def State.serve (s : State) (h : BitVec 1) (func : Nat) (o : Opers) : Option Served × State :=
  let now (r : Served) : Option Served × State := (some r, s)
  match func with
  | 1 => now (queueSetupNow h o s)
  | 2 => now (tenantSetupNow o s)
  | 3 => now (regionSetupNow o s)
  | 4 => now (biasFlipNow o s)
  | 5 => now (orderingNow o s)
  | 6 =>
    let tn := operTenant o.o0
    (match s.pageMissing tn (s.baseCore tn) .read (va57 o.o1) with
    | some v => if o.o2 = 0 then now (pulseNow o s) else (none, s.askPage tn (s.baseCore tn) v)
    | none => now (pulseNow o s))
  | 7 => now (pinNow o s)
  | 8 => now (hintsNow h o s)
  | 9 => now (peersNow o s)
  | 10 => now (fabricNow o s)
  | 11 => now (scrubNow o s)
  | 12 => now (rebindNow h o s)
  | 13 => now (policyNow o s)
  | 14 => now (powerNow o s)
  | 15 =>
    let tn := operTenant o.o0
    match o.o1.toNat with
    | 0 => now (tenantStopNow tn s)
    | 1 => now (tenantStartNow tn s)
    | 2 => switchOutNow tn s
    | 3 => now (switchInNow tn s)
    | _ => now (unserved s)
  | _ => now (unserved s)

/-- A service function as an event of its own: it is accepted from stage 6 (R336). -/
def State.serviceEvent (s : State) (r : State → Served) : Out := .next (if s.hub.stage = 6 then (r s).1 else s)

/-- QUEUE_SETUP (R327). -/
def execQueueSetup (h : BitVec 1) (o : Opers) (s : State) : Out := s.serviceEvent (queueSetupNow h o)

/-- TENANT_SETUP (R286). -/
def execTenantSetup (_h : BitVec 1) (o : Opers) (s : State) : Out := s.serviceEvent (tenantSetupNow o)

/-- REGION_SETUP (R153). -/
def execRegionSetup (_h : BitVec 1) (o : Opers) (s : State) : Out := s.serviceEvent (regionSetupNow o)

/-- BIAS_FLIP (R308). -/
def execBiasFlip (_h : BitVec 1) (o : Opers) (s : State) : Out := s.serviceEvent (biasFlipNow o)

/-- ORDERING_SETUP (R164). -/
def execOrderingSetup (_h : BitVec 1) (o : Opers) (s : State) : Out := s.serviceEvent (orderingNow o)

/-- A service function that may have to wait, as an event of its own: where it has to, it does what it does meanwhile. -/
def State.servicePart (s : State) (r : State → Option Served × State) : Out :=
  s.serviceEvent (fun s =>
    match r s with
    | (some q, _) => q
    | (none, s1) => served s1)

/-- PULSE_SETUP (R247). -/
def execPulseSetup (h : BitVec 1) (o : Opers) (s : State) : Out := s.servicePart (fun s => s.serve h 6 o)

/-- PIN (R310). -/
def execPin (_h : BitVec 1) (o : Opers) (s : State) : Out := s.serviceEvent (pinNow o)

/-- HINTS_SETUP (R311). -/
def execHintsSetup (h : BitVec 1) (o : Opers) (s : State) : Out := s.serviceEvent (hintsNow h o)

/-- PEERS_SETUP (R331). -/
def execPeersSetup (_h : BitVec 1) (o : Opers) (s : State) : Out := s.serviceEvent (peersNow o)

/-- FABRIC_SETUP (R333). -/
def execFabricSetup (_h : BitVec 1) (o : Opers) (s : State) : Out := s.serviceEvent (fabricNow o)

/-- SCRUB_CONTROL (R312). -/
def execScrubControl (_h : BitVec 1) (o : Opers) (s : State) : Out := s.serviceEvent (scrubNow o)

/-- REBIND (R319). -/
def execRebind (h : BitVec 1) (o : Opers) (s : State) : Out := s.serviceEvent (rebindNow h o)

/-- ISSUE_POLICY (R222). -/
def execIssuePolicy (_h : BitVec 1) (o : Opers) (s : State) : Out := s.serviceEvent (policyNow o)

/-- POWER_LIMIT (R327). -/
def execPowerLimit (_h : BitVec 1) (o : Opers) (s : State) : Out := s.serviceEvent (powerNow o)

/-- TENANT_STOP (R328). -/
def execTenantStop (_h : BitVec 1) (o : Opers) (s : State) : Out := s.serviceEvent (tenantStopNow (operTenant o.o0))

/-- TENANT_START (R328). -/
def execTenantStart (_h : BitVec 1) (o : Opers) (s : State) : Out := s.serviceEvent (tenantStartNow (operTenant o.o0))

/-- SWITCH_OUT (R288): it begins the switch, or completes one whose tenant has drained. -/
def execSwitchOut (_h : BitVec 1) (o : Opers) (s : State) : Out :=
  s.servicePart (fun s => switchOutNow (operTenant o.o0) s)

/-- SWITCH_IN (R288). -/
def execSwitchIn (_h : BitVec 1) (o : Opers) (s : State) : Out := s.serviceEvent (switchInNow (operTenant o.o0))

end Sys2Proof.Machine
end

