-- ==== Sys2Proof/Machine/Launches.lean ====
section
/-! DEFINITION. Launches (R239 to R243, R323 to R326, R346 to R349, R352): the factor thread of a queue, the foreman, crew
starts and completions; and the events that move threads between slots, dockets and cores (R234, R237, R238, R364). -/

namespace Sys2Proof.Machine

/-! ## The factor thread of a queue (R324, R346) -/

/-- A factor thread can start to read a record. -/
def State.canNotify (s : State) (q : BitVec 6) : Bool :=
  let k := s.queue q
  s.hub.stage == 6 && k.valid && !k.lost && k.st == .idle && !k.todo.isEmpty

/-- NOTIFY_WRITE (R240, R324): the factor thread wakes and starts to read the next published record. -/
def execNotifyWrite (q : BitVec 6) (s : State) : Out :=
  if !s.canNotify q then .next s
  else
    let k := s.queue q
    match k.todo with
    | [] => .next s
    | (dev, _) :: _ => .next (s.setQueue q { k with st := .reading dev })

/-- One record of the runs has been taken. -/
def takeOne : List (Bool × Nat) → List (Bool × Nat)
  | [] => []
  | (dev, n) :: l => if n ≤ 1 then l else (dev, n - 1) :: l

/-- Where the next record of a queue stands (R323). -/
def HostQueue.recordAt (k : HostQueue) (dev : Bool) : Nat :=
  if dev then k.devRing + 128 * (k.devHead % 64) else k.ring + 128 * (k.qhead % 2 ^ k.n)

/-- A byte as an agent without a fault path reads it: from a poisoned line it is a free value (log 7). -/
def State.agentByte (s : State) (pa : Nat) : Byte :=
  if (s.poisonOf pa).isSome then Config.poisonedByte (s.free + pa % 64) else s.readByte pa

/-- A doubleword as such an agent reads it. -/
def State.agentWord (s : State) (pa : Nat) : Word := readLe s.agentByte pa 8

/-- LAUNCH_RECORD_READ (R240, R324): both lines of the record are read, and QHEAD follows. -/
def execLaunchRecordRead (q : BitVec 6) (s : State) : Out :=
  let k := s.queue q
  match k.st with
  | .reading dev =>
    let a := k.recordAt dev
    if s.draining a then .next s
    else
      let s1 := s.combineAll none [lineOf a, lineOf (a + 64)]
      let rec1 := (List.range 16).map (fun i => s1.agentWord (a + 8 * i))
      let k := s1.queue q
      let k1 : HostQueue := { k with
        todo := takeOne k.todo
        qhead := if dev then k.qhead else (k.qhead + 1) % 2 ^ 32
        devHead := if dev then (k.devHead + 1) % 2 ^ 32 else k.devHead
        st := .validating dev rec1 }
      .next ({ s1 with free := s1.free + 128 }.setQueue q k1)
  | _ => .next s

/-! ## Validation (R239, R325, R326) -/

/-- A doubleword of a record. -/
def recWord (r : List Word) (i : Nat) : Word := r.getD i 0

/-- TYPE (R325). -/
def recType (r : List Word) : Nat := ((recWord r 7).extractLsb' 0 8).toNat

/-- FUNC (R325). -/
def recFunc (r : List Word) : Nat := ((recWord r 7).extractLsb' 8 16).toNat

/-- The service operands (R325). -/
def recOpers (r : List Word) : Opers :=
  ⟨recWord r 8, recWord r 9, recWord r 10, recWord r 11, recWord r 12, recWord r 13, recWord r 14, recWord r 15⟩

/-- Bits `lo` to `hi` of a doubleword. -/
def bitsMask (hi lo : Nat) : Word := BitVec.ofNat 64 (2 ^ (hi + 1) - 2 ^ lo)

/-- The bits of each doubleword that a TYPE 0 record may set. -/
def launchMasks : List Word :=
  [bitsMask 56 3, bitsMask 62 56 &&& ~~~bitsMask 59 59 ||| bitsMask 47 16 ||| bitsMask 11 0, ~~~0, bitsMask 47 0,
   bitsMask 13 8 ||| bitsMask 3 0, bitsMask 56 3, bitsMask 15 15 ||| bitsMask 5 0, 0]

/-- The bits of each doubleword that a TYPE 1 record may set, but for the operands. -/
def serviceMasks : List Word :=
  [0, 0, 0, 0, 0, bitsMask 56 3, bitsMask 15 15 ||| bitsMask 5 0, bitsMask 23 0]

/-- Every bit outside the masks is zero. -/
def masksHold (r ms : List Word) : Bool := (ms.zipIdx).all (fun p => recWord r p.2 &&& ~~~p.1 == 0)

/-- Code 4: TYPE, KIND, or a field that must be zero (R325). -/
def malformed (r : List Word) : Bool :=
  match recType r with
  | 0 => (recWord r 1).extractLsb' 60 2 == 3 || !masksHold r launchMasks || (List.range 8).any (fun i => recWord r (8 + i) != 0)
  | 1 => !masksHold r serviceMasks
  | _ => true

/-- The launch a record asks for. -/
def launchOfRecord (r : List Word) (q : BitVec 6) (lid acc base : Nat) : Launch where
  lid := lid
  acc := acc
  q := q
  entry := recWord r 0 &&& bitsMask 56 3
  estart := (recWord r 1).getLsbD 62
  kind := ((recWord r 1).extractLsb' 60 2).toNat
  prio := ((recWord r 1).extractLsb' 56 3).toNat
  crews := ((recWord r 1).extractLsb' 16 32).toNat
  csize := ((recWord r 1).extractLsb' 0 12).toNat
  argp := recWord r 2
  pred := ((recWord r 3).extractLsb' 0 48).toNat
  crewr := (recWord r 4).extractLsb' 8 6
  stata := recWord r 5 &&& bitsMask 56 3
  irqe := (recWord r 6).getLsbD 15
  irqv := ((recWord r 6).extractLsb' 0 6).toNat
  base := base
  placed := 0
  reserved := []
  smay := false
  smaySeen := false
  complete := false

/-- A cluster is of a launch's kind (R239, R325). -/
def kindOk (kind : Nat) (cl : BitVec 7) : Bool :=
  match kind with
  | 1 => !isWide cl
  | 2 => isWide cl
  | _ => true

/-- Pages that the first entries of a launch's threads take (R271, R273). -/
def Tenant.firstPages (t : Tenant) (l : Launch) : Nat :=
  if l.crewr ≠ 0 then l.crews * l.csize else if t.firstQueue.isNone then 1 else 0

/-- An entry PC is mapped executable; that its region drains does not matter (R239). -/
def State.entryOk (s : State) (tn : BitVec 4) (va : Nat) : Bool :=
  match s.translate tn (s.baseCore tn) .fetch va with
  | .ok _ => true
  | .error (.park (.drain _)) => true
  | .error _ => false

/-- The code of a launch record, first that applies (R326). -/
def State.launchCode (s : State) (q : BitVec 6) (dev : Bool) (r : List Word) : Nat :=
  let k := s.queue q
  let t := s.tenant k.owner
  let l := launchOfRecord r q 0 0 0
  if (recType r = 1 && (!k.service || dev)) || (recType r = 0 && k.service) then 8
  else if malformed r then 4
  else if recType r = 1 then 0
  else if (recWord r 4).extractLsb' 0 4 ≠ k.owner then 10
  else if t.tdisp ≠ .run then 6
  else if l.csize = 0 || 2048 < l.csize || l.crews = 0 then 1
  else if l.pred ≠ 0 && !t.launches.any (fun m => m.lid == l.pred) then 3
  else if !t.rect.clusters.any (kindOk l.kind) then 2
  else if !s.entryOk k.owner l.entry.toNat then 5
  else if (s.freeRun k.owner (l.crews * l.csize)).isNone then 7
  else if t.ipool < t.poolUsed + t.firstPages l then 11
  else 0

/-- Where a status doubleword lies: in the tenant's own address space, or for a service request in host memory (R326). -/
def State.statusPa (s : State) (k : HostQueue) (va : Nat) : Option Nat :=
  if va = 0 then none
  else if k.service then (if (s.head k.head).lost then none else some (hostAddr k.head va))
  else
    match s.translate k.owner (s.baseCore k.owner) .write va with
    | .ok pa => if isDevice pa || isHost pa then some pa else none
    | .error _ => none

/-- A status write has to wait: for the translation of its page, for a drain, or for its line (R158, R162, R290, R309). -/
def State.statusHeld (s : State) (q : BitVec 6) (stata : Word) : Bool :=
  let k := s.queue q
  if stata = 0 then false
  else if k.service then s.blocked none (lineOf (hostAddr k.head stata.toNat))
  else s.mustWait k.owner .write stata.toNat

/-- What it does meanwhile. -/
def State.statusAsk (s : State) (q : BitVec 6) (stata : Word) : State :=
  let k := s.queue q
  if k.service then s else s.askAddr k.owner (s.baseCore k.owner) .write stata.toNat

/-- STATA of a record (R325). -/
def recStata (r : List Word) : Word := recWord r 5 &&& bitsMask 56 3

/-- A status write as one event, and the MSI-X message after it (R326). -/
def State.writeStatus (s : State) (q : BitVec 6) (stata v : Word) (irqe : Bool) (irqv : Nat) : State :=
  let k := s.queue q
  match s.statusPa k stata.toNat with
  | none => if k.service then s else s.forget k.owner (s.baseCore k.owner) stata.toNat
  | some pa =>
    let s1 := s.writeEvent none false (cellsOf pa 8 v)
    if irqe then s1.sendMsix k.head (BitVec.ofNat 6 irqv) else s1

/-- The status word (R326). -/
def statusWord (done acc : Bool) (lid code : Nat) : Word :=
  BitVec.ofBool done ++ BitVec.ofBool acc ++ 0#6 ++ BitVec.ofNat 48 lid ++ BitVec.ofNat 8 code

/-- The first entries of a launch's threads (R273). -/
def State.firstEntries (s : State) (tn : BitVec 4) (l : Launch) (root : Bool) : State :=
  let s1 := if root then s.addEntry tn 0 ⟨0, BitVec.allOnes 24, 0, 0x3F⟩ else s
  if l.crewr = 0 then s1
  else
    (List.range (l.crews * l.csize)).foldl (fun s i =>
      if root && i == 0 then s
      else
        let lo := l.base + i / l.csize * l.csize
        s.addEntry tn (BitVec.ofNat 24 (l.base + i))
          ⟨BitVec.ofNat 24 lo, BitVec.ofNat 24 (lo + l.csize - 1), BitVec.ofNat 24 (l.base + i), l.crewr⟩) s1

/-- A launch is accepted (R239, R326). -/
def State.acceptLaunch (s : State) (q : BitVec 6) (r : List Word) : State :=
  let tn := (s.queue q).owner
  let t := s.tenant tn
  let n := (launchOfRecord r q 0 0 0).crews * (launchOfRecord r q 0 0 0).csize
  let l := launchOfRecord r q t.nextLid s.hub.accepted ((s.freeRun tn n).getD 0)
  let s1 : State := { s with hub := { s.hub with accepted := s.hub.accepted + 1 } }
  let s2 := s1.setTenant tn { t with
    launches := t.launches ++ [l], nextLid := t.nextLid + 1, firstQueue := t.firstQueue.orElse (fun _ => some q) }
  (s2.firstEntries tn l t.firstQueue.isNone).writeStatus q l.stata (statusWord false true l.lid 0) l.irqe l.irqv

/-- The status of a service request is written, and the factor thread is free. -/
def State.endService (s : State) (q : BitVec 6) (r : List Word) (v : Word) : State :=
  (s.setQueue q { s.queue q with st := .idle }).writeStatus q (recStata r) v ((recWord r 6).getLsbD 15)
    ((recWord r 6).extractLsb' 0 6).toNat

/-- The region whose drain performs a service request (R308, R327). -/
def drainedBy (r : List Word) : Option Nat :=
  match recFunc r with
  | 3 => some ((recOpers r).o4.toNat / 65536)
  | 4 => some ((recOpers r).o0.toNat / 65536)
  | _ => none

/-- A service request is performed, or refused with code 9; a switch out waits for its drain, and a bias flip or a change of
home for that of its region (R308, R327). -/
def State.serveRecord (s : State) (q : BitVec 6) (r : List Word) : State :=
  match s.serve (s.queue q).head (recFunc r) (recOpers r) with
  | (none, s1) => s1
  | (some (s1, true), _) =>
    (match drainedBy r with
    | some g => s1.setQueue q { s1.queue q with st := .draining r g }
    | none => s1.endService q r (statusWord true true 0 0))
  | (some (s1, false), _) => s1.endService q r (statusWord false false 0 9)

/-- LAUNCH_VALIDATED (R326, R346): the record is accepted or refused and its status written; the factor thread is free for
the next. A status write, an entry page or a region's drain that has to be waited for holds it up. -/
def execLaunchValidated (q : BitVec 6) (s : State) : Out :=
  let k := s.queue q
  match k.st with
  | .validating dev r =>
    let c := s.launchCode q dev r
    let entry := (recWord r 0 &&& bitsMask 56 3).toNat
    if s.statusHeld q (recStata r) then .next (s.statusAsk q (recStata r))
    else if c = 5 ∧ (s.pageMissing k.owner (s.baseCore k.owner) .fetch entry).isSome then
      .next (s.askAddr k.owner (s.baseCore k.owner) .fetch entry)
    else if c = 0 ∧ recType r = 1 then .next (s.serveRecord q r)
    else
      let s1 := s.setQueue q { k with st := .idle }
      if c = 0 then .next (s1.acceptLaunch q r)
      else .next ((if c = 5 then s1.forget k.owner (s1.baseCore k.owner) entry else s1).endService q r (statusWord false false 0 c))
  | .draining r g =>
    if (s.region g).drain.isSome then .next s
    else if s.statusHeld q (recStata r) then .next (s.statusAsk q (recStata r))
    else .next (s.endService q r (statusWord true true 0 0))
  | _ => .next s

/-! ## The foreman (R241 to R243, R347) -/

/-- A pending crew comes before another (R241). -/
def Launch.before (a b : Launch) : Bool := decide (b.prio < a.prio) || (a.prio == b.prio && decide (a.acc < b.acc))

/-- The launches with crews still to place, with their tenants. -/
def State.pendingLaunches (s : State) : List (BitVec 4 × Launch) :=
  s.tenants.flatMap (fun p =>
    if p.2.stopped || p.2.out || p.2.tdisp != .run then []
    else (p.2.launches.filter (fun l => decide (l.placed < l.crews))).map (fun l => (BitVec.ofNat 4 p.1, l)))

/-- How a launch's crews may start: not yet, or now, early or not (R242, R243). -/
def State.mayStart (s : State) (tn : BitVec 4) (l : Launch) : Option Bool :=
  let t := s.tenant tn
  if l.pred = 0 || t.completed l.pred then some false
  else if l.estart && t.launches.any (fun m => m.lid == l.pred && m.smaySeen) then some true
  else none

/-- The first of several pending launches. -/
def firstPending : List (BitVec 4 × Launch) → Option (BitVec 4 × Launch)
  | [] => none
  | p :: l =>
    match firstPending l with
    | none => some p
    | some q => if q.2.before p.2 then some q else some p

/-- Slots set aside on a cluster: for woken dockets, for crew starts under way, and by reservations of other crews than
crew `crew` of launch `lid` (R237, R241). -/
def State.setAside (s : State) (cl : BitVec 7) (tn : BitVec 4) (lid crew : Nat) : Nat :=
  (s.resident.filter (fun t => t.woken.isSome && t.stopped.isNone && clusterOf t.core == cl)).length
    + ((s.net.crewGos.filter (fun g => g.cl == cl)).map (fun g =>
        (((s.tenant g.tn).launches.find? (fun l => l.lid == g.lid)).map Launch.csize).getD 0)).sum
    + (s.tenants.flatMap (fun p => p.2.launches.flatMap (fun l =>
        (l.reserved.filter (fun r => r.2 == cl && !(p.1 == tn.toNat && l.lid == lid && r.1 == crew))).map (fun _ => l.csize)))).sum

/-- The free slots of a cluster for a crew (R241). -/
def State.slotRoom (s : State) (cl : BitVec 7) (tn : BitVec 4) (lid crew : Nat) : Nat :=
  (s.clusterFree cl).length - s.setAside cl tn lid crew

/-- Loft positions for the threads of early crews under way are set aside (R243). -/
def State.loftRoom (s : State) (cl : BitVec 7) : Nat :=
  s.loftFree cl - ((s.net.crewGos.filter (fun g => g.cl == cl && g.early)).map (fun g =>
    (((s.tenant g.tn).launches.find? (fun l => l.lid == g.lid)).map Launch.csize).getD 0)).sum

/-- A cluster could take crews of a launch, but for free slots (R241, R243). -/
def State.admits1 (s : State) (tn : BitVec 4) (l : Launch) (early : Bool) (cl : BitVec 7) : Bool :=
  (s.tenant tn).rect.holds cl && kindOk l.kind cl && !(s.cluster cl).mappedOut && !(s.cluster cl).refused
    && (!early || decide (l.csize ≤ s.loftRoom cl))

/-- A cluster can take a crew (R241, R243). -/
def State.canTake (s : State) (tn : BitVec 4) (l : Launch) (crew : Nat) (early : Bool) (cl : BitVec 7) : Bool :=
  s.admits1 tn l early cl && decide (l.csize ≤ s.slotRoom cl tn l.lid crew)

/-- The cluster of a crew: the most free slots, the lowest index among equals (R241). -/
def State.bestCluster (s : State) (tn : BitVec 4) (l : Launch) (crew : Nat) (early : Bool) : Option (BitVec 7) :=
  ((s.tenant tn).rect.clusters.filter (s.canTake tn l crew early)).foldl (fun b cl =>
    match b with
    | none => some cl
    | some c => if s.slotRoom c tn l.lid crew < s.slotRoom cl tn l.lid crew then some cl else b) none

/-- Changes a launch. -/
def State.updLaunch (s : State) (tn : BitVec 4) (lid : Nat) (f : Launch → Launch) : State :=
  let t := s.tenant tn
  s.setTenant tn { t with launches := t.launches.map (fun l => if l.lid = lid then f l else l) }

/-- A launch of a tenant. -/
def State.launchAt (s : State) (tn : BitVec 4) (lid : Nat) : Option Launch := (s.tenant tn).launches.find? (fun l => l.lid == lid)

/-- The crews of a predecessor that have neither a cluster nor a reservation. -/
def Launch.unreserved (l : Launch) : List Nat :=
  ((List.range l.crews).drop l.placed).filter (fun k => !l.reserved.any (fun r => r.1 == k))

/-- A reservation for one crew of a predecessor, when there is room (R243); the flag says that every crew so far has one. -/
def State.reserveOne (tn : BitVec 4) (lid : Nat) (a : State × Bool) (crew : Nat) : State × Bool :=
  if !a.2 then a
  else
    match a.1.launchAt tn lid with
    | none => a
    | some l =>
      match a.1.bestCluster tn l crew false with
      | none => (a.1, false)
      | some cl => (a.1.updLaunch tn lid (fun m => { m with reserved := m.reserved ++ [(crew, cl)] }), true)

/-- Reservations for every unplaced crew of a predecessor (R243). -/
def State.reserveAll (s : State) (tn : BitVec 4) (lid : Nat) : State × Bool :=
  match s.launchAt tn lid with
  | none => (s, true)
  | some l => l.unreserved.foldl (State.reserveOne tn lid) (s, true)

/-- The cluster on which the next crew of a launch is placed (R241, R243). -/
def State.clusterFor (s : State) (tn : BitVec 4) (l : Launch) (early : Bool) : Option (BitVec 7) :=
  match l.reserved.find? (fun r => r.1 == l.placed) with
  | some r => if s.canTake tn l l.placed early r.2 then some r.2 else none
  | none => s.bestCluster tn l l.placed early

/-- An early crew may start: every crew of the predecessor that is not placed has a reservation or can be given one (R243).
Whether there is room for a crew does not matter (R241). THE MODEL'S CHOICE (log 56): reservations that can be given to some
of those crews and not to all are not kept. -/
def State.startable (s : State) (tn : BitVec 4) (l : Launch) : Bool :=
  match s.mayStart tn l with
  | none => false
  | some false => true
  | some true => (s.reserveAll tn l.pred).2

/-- The state in which the foreman chooses a cluster: an early crew comes after the reservations of its predecessor's crews
(R243). -/
def State.withReserved (s : State) (tn : BitVec 4) (l : Launch) : State :=
  if s.mayStart tn l == some true then (s.reserveAll tn l.pred).1 else s

/-- The first pending launch whose next crew may start (R241). -/
def State.nextLaunch (s : State) : Option (BitVec 4 × Launch) :=
  firstPending (s.pendingLaunches.filter (fun p => s.startable p.1 p.2))

/-- CREW_PLACEMENT (R241, R243): the foreman takes the first pending crew that may start and chooses its cluster. -/
def execCrewPlacement (s : State) : Out :=
  match s.nextLaunch with
  | none => .next s
  | some (tn, l) =>
    let early := s.mayStart tn l == some true
    let u := s.withReserved tn l
    match u.clusterFor tn l early with
    | none => .next u
    | some cl =>
      let s1 := u.updLaunch tn l.lid (fun m =>
        { m with placed := m.placed + 1, reserved := m.reserved.filter (fun x => x.1 != l.placed) })
      .next { s1 with net := { s1.net with crewGos := s1.net.crewGos ++ [⟨tn, l.lid, l.placed, cl, early⟩] } }

/-- The foreman can place a crew. -/
def State.canPlace (s : State) : Bool :=
  match s.nextLaunch with
  | none => false
  | some (tn, l) =>
    ((s.withReserved tn l).clusterFor tn l (s.mayStart tn l == some true)).isSome

/-- A thread of a crew (R44, R325, R340, R352). -/
def Launch.thread (l : Launch) (g : CrewGo) (now i : Nat) (c : BitVec 10) (n : BitVec 8) : Thread :=
  let rank := BitVec.ofNat 24 (l.base + g.crew * l.csize + i)
  let a := ((Arch.created rank l.entry l.argp).setX 11 (BitVec.ofNat 64 g.crew)).setX 12 (BitVec.ofNat 64 i)
  { Thread.fresh ⟨g.tn, rank⟩ a c n with
    lid := l.lid, crew := g.crew, age := now, since := now, early := g.early, spot := if g.early then .held else .none }

/-- A crew start can be performed: the slots it was chosen for are free. A tenant that has been stopped meanwhile does not hold
it up: its threads are created stopped (R288, R297, log 102). -/
def State.canStart (s : State) (n : Nat) : Bool :=
  match s.net.crewGos[n]? with
  | none => false
  | some g =>
    match s.launchAt g.tn g.lid with
    | none => false
    | some l => decide (l.csize ≤ (s.clusterFree g.cl).length) && !(s.tenant g.tn).out

/-- CREW_START (R240, R340): the crew's threads take their slots in one cycle, ready with WHY 0. -/
def execCrewStart (n : Nat) (s : State) : Out :=
  if !s.canStart n then .next s
  else
    match s.net.crewGos[n]? with
    | none => .next s
    | some g =>
      match s.launchAt g.tn g.lid with
      | none => .next s
      | some l =>
        let halt := (s.tenant g.tn).stopped
        let ts := ((s.clusterFree g.cl).take l.csize).zipIdx.map (fun p =>
          let t := l.thread g s.cyc p.2 p.1.1 p.1.2
          if halt then t.stop .tenant s.cyc else t)
        let s1 : State := { s with
          net := { s.net with crewGos := ldrop s.net.crewGos n }
          others := s.others ++ ts }
        .next (ts.foldl (fun s t => s.rankWritten t.id) s1)

/-- SMAY_OBSERVED (R347). -/
def execSmayObserved (n : Nat) (s : State) : Out :=
  match s.net.smays[n]? with
  | none => .next s
  | some (tn, lid) =>
    let s1 : State := { s with net := { s.net with smays := ldrop s.net.smays n } }
    .next (s1.updLaunch tn lid (fun l => { l with smaySeen := true }))

/-! ## Completion (R242, R348) -/

/-- A launch's own work that is still outstanding: threads that have not halted, crews under way, commands, elements and
posted atomics (R242). -/
def State.launchBusy (s : State) (tn : BitVec 4) (l : Launch) : Bool :=
  decide (l.placed < l.crews) || s.net.crewGos.any (fun g => g.tn == tn && g.lid == l.lid)
    || (s.ofTenant tn).any (fun t => t.lid == l.lid && (t.run != .retained || t.post.isSome))
    || (s.net.amops ++ s.net.awayAmops).any (fun a => a.id.tenant == tn && a.lid == l.lid)
    || (s.net.packets ++ s.net.acks ++ s.net.away).any (fun p => p.tn == tn && p.elems.any (fun e => e.lid == l.lid))
    || (s.clusters ++ s.saved).any (fun c =>
        c.2.drays.any (fun d => d.tn == tn && d.elems.any (fun e => e.lid == l.lid))
          || c.2.loom.queue.any (fun m => m.id.tenant == tn && m.lid == l.lid && !m.complete)
          || c.2.porters.any (fun p => p.2.queue.any (fun m => m.id.tenant == tn && m.lid == l.lid)))

/-- A launch can complete. -/
def State.canComplete (s : State) (tn : BitVec 4) (lid : Nat) : Bool :=
  match s.launchAt tn lid with
  | some l => !l.complete && !s.launchBusy tn l
  | none => false

/-- The clusters that hold a parked `pwait` thread of a successor (R348). -/
def State.waitingClusters (s : State) (tn : BitVec 4) (lid : Nat) : List (BitVec 7) :=
  let succ := ((s.tenant tn).launches.filter (fun l => l.pred == lid)).map Launch.lid
  let cls := ((s.ofTenant tn).filter (fun t => t.run == .parked .pwait && succ.contains t.lid)).map (fun t => (clusterOf t.core).toNat)
  (lsort cls).map (BitVec.ofNat 7)

/-- LAUNCH_COMPLETE (R242, R326): DONE is written, and the completion travels to the waiting clusters; it waits for a status
write that has to wait. -/
def execLaunchComplete (tn : BitVec 4) (lid : Nat) (s : State) : Out :=
  if !s.canComplete tn lid then .next s
  else
    match s.launchAt tn lid with
    | none => .next s
    | some l =>
      if s.statusHeld l.q l.stata then .next (s.statusAsk l.q l.stata)
      else
      let s1 := s.updLaunch tn lid (fun m => { m with complete := true })
      let s2 : State := { s1 with net := { s1.net with
        releases := s1.net.releases ++ (s1.waitingClusters tn lid).map (fun cl => (tn, lid, cl)) } }
      .next (s2.writeStatus l.q l.stata (statusWord true true l.lid 0) l.irqe l.irqv)

/-- PWAIT_RELEASE (R348): the completion reaches a cluster, and its `pwait` threads are woken with code 6. -/
def execPwaitRelease (n : Nat) (s : State) : Out :=
  match s.net.releases[n]? with
  | none => .next s
  | some (tn, _, cl) =>
    let ws := ((s.ofTenant tn).filter (fun t =>
      t.run == .parked .pwait && t.stopped.isNone && clusterOf t.core == cl && s.predDone t)).map (fun t => (⟨t.id, 6⟩ : Wake))
    .next { s with net := { s.net with releases := ldrop s.net.releases n, wakes := s.net.wakes ++ ws } }

/-! ## Dockets (R234, R237, R364) -/

/-- The first pending crew needs slots on a cluster that has too few, and no cluster has room for it (R234): on the cluster of
its reservation, or on any that could take it but for the slots (R241, R243). -/
def State.crewNeeds (s : State) (cl : BitVec 7) : Bool :=
  match s.nextLaunch with
  | none => false
  | some (tn, l) =>
    let early := s.mayStart tn l == some true
    let u := s.withReserved tn l
    (u.clusterFor tn l early).isNone && u.admits1 tn l early cl
      && (match l.reserved.find? (fun r => r.1 == l.placed) with | some r => r.2 == cl | none => true)
      && decide (u.slotRoom cl tn l.lid l.placed < l.csize)

/-- A slot of a cluster is demanded: by a woken docket, or by a crew that the foreman places (R234, R364). -/
def State.demand (s : State) (cl : BitVec 7) : Bool :=
  ((s.clusterFree cl).isEmpty && s.resident.any (s.wantsSlot cl)) || s.crewNeeds cl

/-- Threads in slots of a core that may be packed. -/
def State.packables (s : State) (c : BitVec 10) : List Thread :=
  s.resident.filter (fun t => (t.slotOn c).isSome && t.packable && t.run != .retained)

/-- The first core of a cluster that has no free slot and holds a thread to pack (R234, R364). -/
def State.packCore (s : State) (cl : BitVec 7) : Option (BitVec 10) :=
  (clusterCores cl).find? (fun c => (s.freeSlots c).isEmpty && !(s.packables c).isEmpty)

/-- A thread is packed now: a retained one always, an early one that waits in `pwait` when it can be, and otherwise the
longest parked of the first core of a cluster in which a slot is demanded (R234, R243, R364). -/
def State.canPack (s : State) (t : Thread) : Bool :=
  (match t.place with | .slot _ _ => true | _ => false) && t.live && !(s.tenant t.id.tenant).out &&
    (t.run == .retained
      || (t.early && t.run == .parked .pwait && t.spot != .barred && t.packable)
      || (t.packable && s.demand (clusterOf t.core) && s.packCore (clusterOf t.core) == some t.core
          && (s.packables t.core).all (fun u => decide (t.since ≤ u.since))))

/-- PACK_COMPLETE (R234): the thread's slot is free and its docket stands in the loft. -/
def execPackComplete (id : ThreadId) (s : State) : Out :=
  match s.find id with
  | none => .next s
  | some t => .next (if s.canPack t then s.pack id t.core else s)

/-- A woken docket comes first of its cluster (R237). -/
def State.firstWoken (s : State) (t : Thread) : Bool :=
  s.resident.all (fun u => !s.wantsSlot (clusterOf t.core) u || decide (t.woken.getD 0 ≤ u.woken.getD 0))

/-- A docket can resume: one in the cellar returns to the loft before, unless the loft is full and no docket of it can leave:
a refused spill does not hold up a resumption (R235, R236). -/
def State.canResume (s : State) (t : Thread) : Bool :=
  !s.canReturn t && s.wantsSlot (clusterOf t.core) t && s.firstWoken t && (s.slotFor (clusterOf t.core) (some t.core)).isSome

/-- A docket in the cellar finds its loft full: the refused spill is reported (R236). -/
def State.refusedReturn (s : State) (t : Thread) : State :=
  match t.place with
  | .cellar _ => (s.makeRoom (clusterOf t.core) (s.docketSize t)).1
  | _ => s

/-- DOCKET_RESUME (R237): a woken docket takes a slot, with a new age. -/
def execDocketResume (id : ThreadId) (s : State) : Out :=
  match s.find id with
  | none => .next s
  | some t =>
    if !s.canResume t then .next s
    else
      match s.slotFor (clusterOf t.core) (some t.core) with
      | none => .next s
      | some (c, n) => .next ((s.refusedReturn t).place id (fun t =>
          { t with place := .slot c n, core := c, woken := none, age := s.cyc, waits := 0, spot := t.spotLeft }))

/-! ## The weighmaster (R238) -/

/-- A thread whose domains are bound to its core: to the core itself, or to its place in a rectangle of cores (R260). -/
def State.coreBound (s : State) (t : Thread) : Bool :=
  (s.tenant t.id.tenant).domains.any (fun d =>
    (match d.kind with | .core _ _ => true | .rect _ _ _ _ => true | _ => false) && d.members.any (fun m => m.rank == t.id.rank))

/-- The threads that a move takes: eligible, parked, and not bound to their core, longest parked first; a move changes no
membership (R238, R260). -/
def State.movable (s : State) (c : BitVec 10) : List Thread :=
  ((s.packables c).filter (fun t => t.stopped.isNone && !s.coreBound t)).foldl (fun l t => l.takeWhile (fun u => decide (u.since ≤ t.since)) ++ t :: l.dropWhile (fun u => decide (u.since ≤ t.since))) []

/-- One migration command (R238): its core packs up to `count` threads, and their dockets are in transit. -/
def State.startMove (s : State) (m : MoveCmd) : State :=
  if clusterOf m.src ≠ clusterOf m.dst || m.src = m.dst || !s.coreOk m.dst then s
  else
    ((s.movable m.src).take m.count).foldl (fun s t =>
      let s1 := s.pack t.id m.dst
      match s1.find t.id with
      | some u => if u.place = .loft then s1.place t.id (fun u => { u with place := .moving m.dst }) else s1
      | none => s1) s

/-- The first command of each cluster (R238). -/
def onePerCluster (ms : List MoveCmd) : List MoveCmd :=
  ms.foldl (fun l m => if l.any (fun k => clusterOf k.src == clusterOf m.src) then l else l ++ [m]) []

/-- WEIGHMASTER_SAMPLE (R238). -/
def execWeighmasterSample (moves : List MoveCmd) (s : State) : Out :=
  let s1 := s.reach (s.hub.weighAt + 4096)
  let s2 : State := { s1 with hub := { s1.hub with weighAt := s1.cyc } }
  .next ((onePerCluster moves).foldl State.startMove s2)

/-- MOVE_COMPLETE (R238, R314): a docket stands in the loft again and what was held acts; a thread that left a failed core
takes a slot that no woken docket waits for, or waits in the save area as a woken thread (R237, R364). -/
def execMoveComplete (id : ThreadId) (s : State) : Out :=
  match s.find id with
  | none => .next s
  | some t =>
    match t.place with
    | .moving dst =>
      if t.core = dst then .next (s.place id (fun t => { t with place := .loft }))
      else
        match (if s.resident.any (s.wantsSlot (clusterOf t.core)) then none else s.slotFor (clusterOf t.core) (some dst)) with
        | some (c, n) => .next (s.place id (fun t => { t with place := .slot c n, core := c, age := s.cyc }))
        | none => .next (s.place id (fun t => { t with place := .save, core := dst, woken := some s.cyc }))
    | _ => .next s

/-! ## The thread that issues (R222, R223) -/

/-- A thread that can issue on a core (R220). -/
def State.canIssue (s : State) (c : BitVec 10) (t : Thread) : Bool :=
  (t.slotOn c).isSome && s.coreOk c && t.run == .ready && t.stopped.isNone && t.post.isNone && !(s.tenant t.id.tenant).out

/-- A thread is older than another (R222). -/
def Thread.older (t u : Thread) (c : BitVec 10) : Bool :=
  decide (t.age < u.age) || (t.age == u.age && decide ((t.slotOn c).getD 0 < (u.slotOn c).getD 0))

/-- The oldest thread of a list. -/
def oldestOf (c : BitVec 10) : List Thread → Option Thread
  | [] => none
  | t :: l =>
    match oldestOf c l with
    | none => some t
    | some u => if u.older t c then some u else some t

/-- The threads of a core that rule 1 of R223 serves. -/
def State.starved (s : State) (c : BitVec 10) : List Thread :=
  s.threads.filter (fun t => s.canIssue c t && decide (4096 ≤ t.waits) && !(s.tenant t.id.tenant).rr)

/-- STARVATION_LIMIT (R223): rule 1 serves the oldest thread of the core that has waited 4,096 cycles. -/
def execStarvationLimit (core : BitVec 10) (s : State) : Out :=
  match oldestOf core (s.starved core) with
  | none => .next s
  | some t => .next (s.focus t.id)

end Sys2Proof.Machine
end

