-- ==== Sys2Proof/Machine/Porters.lean ====
section
/-! DEFINITION. The porters (R210 to R216): the push of a command with the checks of its request, the positions of a command
one at a time, completion, stop and resumption. -/

namespace Sys2Proof.Machine

/-! ## Requests (R210 to R212) -/

/-- Whether a tag names a whole-byte format without blocks (R212). -/
def tableTag (p : Word) : Bool := !fmtReserved (pFmt p) && pBlk p == 0 && decide (8 ≤ fmtBits (pFmt p))

/-- The formats a command accepts (R212). -/
def formatsOk (k : PortKind) (w0 w1 : Word) : Bool :=
  match k with
  | .copy => true
  | .fill => true
  | .copyt => !fmtReserved (pFmt w0) && tagOk w0 && !fmtReserved (pFmt w1) && tagOk w1
  | .gath => tableTag w0
  | .scat => tableTag w0
  | .scadd => tableTag w0 && decide (1 ≤ (pFmt w0).toNat) && decide ((pFmt w0).toNat ≤ 8)

/-- CMODE of a request (R211). -/
def cmode (w3 : Word) : Nat := (w3.extractLsb' 0 3).toNat

/-- CADDR of a request (R211). -/
def caddr (w3 : Word) : Nat := va57 w3 / 8 * 8

/-- The count or length of a request, bits 31:0 of word 2 (R212). -/
def reqCount (w2 : Word) : Nat := (w2.extractLsb' 0 32).toNat

/-- The porter-request detail of a request, 0 for none; the lowest is recorded (R212). -/
def reqDetail (k : PortKind) (w0 w1 w2 w3 : Word) : Nat :=
  if w3.extractLsb' 57 7 ≠ 0 ∨ ((k = .copy ∨ k = .fill) ∧ w2.extractLsb' 32 32 ≠ 0) then 1
  else if k = .copyt ∧ 2 ^ 31 < reqCount w2 then 2
  else if !formatsOk k w0 w1 then 3
  else if 3 ≤ cmode w3 then 4
  else 0

/-- The lowest scale window that holds an address: its base and its limit (R67). -/
def windowAt (w : Vector Word 8) (a : Nat) : Option (Nat × Nat) :=
  (List.range 4).findSome? (fun i =>
    let wa := oat w (BitVec.ofNat 3 (2 * i))
    if wNpg wa ≠ 0 ∧ wBase wa ≤ a ∧ a < wBase wa + wNpg wa * 4096 then some (wBase wa, wBase wa + wNpg wa * 4096) else none)

/-- The first of `n` bytes from `a` that no scale window holds; each of four windows is left at most once, and addresses wrap
once (R67, R180). -/
def uncovered (w : Vector Word 8) : Nat → Nat → Nat → Option Nat
  | 0, _, _ => none
  | fuel + 1, a, n =>
    if n = 0 then none
    else
      match windowAt w (a % 2 ^ 57) with
      | none => some (a % 2 ^ 57)
      | some (_, lim) => uncovered w fuel (a % 2 ^ 57 + (lim - a % 2 ^ 57)) (n - (lim - a % 2 ^ 57))

/-- The scale-window fault of a `pcopyt`, checked at issue: each element of a blocked source or destination lies in a window
(detail 1), and the destination starts on a block and holds whole blocks (detail 2) (R67, R212). Which element's address detail
1 names is the model's choice (log 35): the lowest, the source's first. -/
def copytBlocks (w : Vector Word 8) (src dst : Word) (count : Nat) : Option (Nat × Word) :=
  let gap (p : Word) : Option (Nat × Word) :=
    if pBlk p = 0 ∨ fmtReserved (pFmt p) ∨ !tagOk p then none
    else (uncovered w 10 (pVa p) ((count * fmtBits (pFmt p) + 7) / 8)).map (fun a => (1, addrWord a ||| tagBits p))
  match (gap src).orElse (fun _ => gap dst) with
  | some f => some f
  | none =>
    if pBlk dst = 0 ∨ fmtReserved (pFmt dst) ∨ !tagOk dst then none
    else
      let b := 2 ^ (pBlk dst).toNat
      let base := ((windowAt w (pVa dst)).map Prod.fst).getD 0
      if (pVa dst - base) * 8 % (b * fmtBits (pFmt dst)) = 0 ∧ count % b = 0 then none else some (2, dst)

/-- Where the request of a porter instruction lies: its four words are read as one access (R184, R210). -/
def State.request (s : State) (a : BitVec 5) : Res (Nat × Nat) :=
  let va := effAddr (s.thr.arch.getX a) 0
  match s.readAt va 32 with
  | .error e => .error e
  | .ok pa => .ok (va, pa)

/-- A porter's status line is written as one event (R214). -/
def State.setPort (s : State) (cl : BitVec 7) (n : BitVec 2) (p : Porter) : State :=
  (s.setCluster cl ((s.cluster cl).setPorter n p)).winWritten (winPa 0 (porterVa + 256 * cl.toNat + 64 * n.toNat)) 64

/-- A porter has room for a command (R210). -/
def Porter.accepts (p : Porter) : Bool := decide (p.queue.length < Config.porterQueue) && !p.mapped

/-- The commit event of a push: the porter accepts the command and xD receives its number, or xD receives 0 (R210). -/
def State.pushPorter (cl : BitVec 7) (n : BitVec 2) (d : BitVec 5) (c : PorterCmd) (s : State) : State :=
  let p := (s.cluster cl).porter n
  if p.accepts then
    let q := p.pacc + 1
    (s.setPort cl n { p with pacc := q, queue := p.queue ++ [{ c with seq := q }] }).setReg d (BitVec.ofNat 64 q)
  else s.setReg d 0

/-- The draws a `pcopyt` makes if the porter accepts it (R210). -/
def State.pcopytDraws (s : State) (a : BitVec 5) (n : BitVec 2) : Nat :=
  if stsMode s.thr.arch.sts = .sr ∧ ((s.cluster (clusterOf s.thr.core)).porter n).accepts then
    match s.request a with
    | .ok (_, pa) => reqCount ((s.combined [pa]).chunkN (pa + 16) 8)
    | .error _ => 0
  else 0

/-- A porter instruction (R210). -/
def State.porterC (s : State) (k : PortKind) (d a : BitVec 5) (n : BitVec 2) : Out :=
  s.enderC (match s.request a with
    | .error e => .error e
    | .ok (va, pa) =>
      let w (i : Nat) : Word := (s.combined [pa]).chunkN (pa + 8 * i) 8
      let t := s.thr
      let det := reqDetail k (w 0) (w 1) (w 2) (w 3)
      match if k = .copyt then copytBlocks t.arch.swin (w 0) (w 1) (reqCount (w 2)) else none with
      | some f => fault 0x07 f.1 f.2
      | none =>
      if det ≠ 0 then fault 0x0F det (addrWord va)
      else
        let c : PorterCmd := ⟨0, k, w 0, w 1, w 2, w 3, t.id, t.lid, t.core, t.arch.pc, t.arch.sts.extractLsb' 0 3, t.arch.rngs,
          t.arch.swin, t.arch.flta, .arrived, 0, 0, false, [], [], [], none, 0⟩
        let draws := if k = .copyt then s.pcopytDraws a n else 0
        s.endChunk { Eff.regs (fun r => t.drawn draws r) with reads := [lineOf pa], pages := [va / 4096] }
          (State.pushPorter (clusterOf t.core) n d c))

/-- `pcopy`. -/
def execPcopy (d a : BitVec 5) (n : BitVec 2) (s : State) : Out := s.porterC .copy d a n
/-- `pcopyt`. -/
def execPcopyt (d a : BitVec 5) (n : BitVec 2) (s : State) : Out := s.porterC .copyt d a n
/-- `pgath`. -/
def execPgath (d a : BitVec 5) (n : BitVec 2) (s : State) : Out := s.porterC .gath d a n
/-- `pscat`. -/
def execPscat (d a : BitVec 5) (n : BitVec 2) (s : State) : Out := s.porterC .scat d a n
/-- `pscadd`. -/
def execPscadd (d a : BitVec 5) (n : BitVec 2) (s : State) : Out := s.porterC .scadd d a n
/-- `pfill`. -/
def execPfill (d a : BitVec 5) (n : BitVec 2) (s : State) : Out := s.porterC .fill d a n

/-! ## Positions (R212, R213) -/

/-- A read of the command's, as one event. -/
def State.portRead (s : State) (c : PorterCmd) (tag : Word) (va n align : Nat) : Res (State × Nat) :=
  match aligned va align with
  | .error e => atLane 0 tag (.error e)
  | .ok _ => atLane 0 tag (s.engRead c.id c.core true va n)

/-- A write of the command's, as one event. -/
def State.portWrite (s : State) (c : PorterCmd) (tag : Word) (va n align v : Nat) : Res State :=
  match aligned va align with
  | .error e => atLane 0 tag (.error e)
  | .ok _ => atLane 0 tag (s.engWrite c.id c.core true va n v)

/-- The positions of a command. -/
def PorterCmd.total (c : PorterCmd) : Nat :=
  match c.kind with
  | .copy => reqCount c.w2
  | .fill => reqCount c.w2
  | .copyt => reqCount c.w2
  | _ => (c.hdr.map (fun h => h.1)).getD 0

/-- The next position to read for: those before it are done or wait to be written. -/
def PorterCmd.next (c : PorterCmd) : Nat := c.pos + (c.pend.filter PortOut.counts).length + c.raw.length

/-- `n` bytes at an address, from the lines that the command has read. -/
def PorterCmd.cached (c : PorterCmd) (va n : Nat) : Option Nat :=
  (tfind c.lines (va / 64)).map (fun l => bytesNat ((l.drop (va % 64)).take n))

/-- Bytes of an index of the command's list (R213). -/
def PorterCmd.indexSize (c : PorterCmd) : Nat := if (match c.hdr with | some h => h.2.1 | none => false) then 8 else 4

/-- The address of the next position's index. -/
def PorterCmd.indexVa (c : PorterCmd) : Nat := (va57 c.w1 + 24 + c.next * c.indexSize) % 2 ^ 57

/-- An index is out of bound (R213). -/
def PorterCmd.outside (c : PorterCmd) (i : Nat) : Bool := decide ((match c.hdr with | some h => h.2.2.1.toNat | none => 0) ≤ i)

/-- The address of the next position in the buffer (R212). -/
def PorterCmd.bufVa (c : PorterCmd) : Nat := (va57 c.w2 + c.next * fmtBytes (pFmt c.w0)) % 2 ^ 57

/-- The scale address of an element of a `pcopyt`, if its side is blocked: issue has checked that a window holds it (R67,
R212). -/
def PorterCmd.scaleVa (c : PorterCmd) (p : Word) (a : Nat) : Option Nat :=
  if pBlk p = 0 then none else (scaleAddr c.swin (pBlk p).toNat (fmtBits (pFmt p)) a).map Prod.snd

/-- What the next position reads from a line of its index list, source or buffer: address, tag, alignment. -/
def PorterCmd.wants (c : PorterCmd) : List (Nat × Word × Nat) :=
  match c.kind with
  | .fill => []
  | .copy => (pieces (va57 c.w0 + c.pos) (min 64 (reqCount c.w2 - c.pos))).map (fun p => (p.1, 0, 1))
  | .copyt =>
    let a := (typedAddr (pFmt c.w0) (pVa c.w0) c.next).1
    (a, tagBits c.w0, fmtBytes (pFmt c.w0)) :: ((c.scaleVa c.w0 a).map (fun q => (q, 0, 1))).toList
  | .gath => [(c.indexVa, 0, c.indexSize)]
  | _ =>
    (c.indexVa, 0, c.indexSize) ::
      match c.cached c.indexVa c.indexSize with
      | some i => if c.outside i then [] else [(c.bufVa, 0, fmtBytes (pFmt c.w0))]
      | none => []

/-- A line is read as one event, and kept while positions use it (R173). -/
def State.portLine (s : State) (c : PorterCmd) (q : Nat × Word × Nat) : Res (State × PorterCmd) :=
  match aligned q.1 q.2.2 with
  | .error e => atLane 0 q.2.1 (.error e)
  | .ok _ =>
    match atLane 0 q.2.1 (s.engAt c.id c.core .read true (q.1, 1)) with
    | .error e => .error e
    | .ok pa =>
      let r := s.engBytes [(pa - q.1 % 64, 64)]
      let kept := c.lines.filter (fun l => c.wants.any (fun p => p.1 / 64 == l.1))
      .ok (r.1, { c with lines := tset kept (q.1 / 64) r.2 })

/-- The command when a step of `k` bytes from its position is to be written; the bytes of the next step are read afresh, so
that overlap gives the result of a forward copy (R212). -/
def PorterCmd.step (c : PorterCmd) (k : Nat) (f : Nat → Nat) : PorterCmd :=
  { c with lines := [], pend := (List.range k).map (fun i => ⟨(va57 c.w1 + c.pos + i) % 2 ^ 57, 8, false, f i, true, false⟩) }

/-- One position of a `pcopyt` whose source has been read: its code goes into the block in progress, and a block that is whole
is encoded (R65, R66, R72). -/
def PorterCmd.convert (c : PorterCmd) : PorterCmd :=
  let f := pFmt c.w0
  let a := typedAddr f (pVa c.w0) c.next
  let w := (c.cached a.1 (fmtBytes f)).getD 0
  let code := if fmtBits f = 4 then (if a.2 then w / 16 else w % 16) else w
  let raw := c.raw ++ [(code, (c.scaleVa c.w0 a.1).bind (fun q => c.cached q 1))]
  let n := 2 ^ (pBlk c.w1).toNat
  if raw.length < n then { c with raw := raw }
  else
    let mode := Mode.ofCode c.rm.toNat
    let first := c.pos + (c.pend.filter PortOut.counts).length
    let r := if mode = .sr then rngSteps first c.rngs else c.rngs
    let vs := raw.map (fun p => scaledVal (fmtOf f) p.1 (p.2.map (BitVec.ofNat 8)))
    let g := pFmt c.w1
    let b := encodeBlock (fmtOf g) mode r vs
    let codes := if pBlk c.w1 = 0 then (roundList (fmtOf g) mode r vs).1 else b.2.1
    let scale : List PortOut :=
      match c.scaleVa c.w1 (typedAddr g (pVa c.w1) first).1 with
      | some q => [⟨q, 8, false, b.1.toNat, false, false⟩]
      | none => []
    let elems := codes.zipIdx.map (fun p =>
      let d := typedAddr g (pVa c.w1) (first + p.2)
      (⟨d.1, fmtBits g, d.2, p.1, true, false⟩ : PortOut))
    { c with raw := [], pend := c.pend ++ scale ++ elems }

/-- The sum of two elements of a `pscadd` (R212). -/
def scaddSum (f : BitVec 4) (a b : Nat) : Nat :=
  if 5 ≤ f.toNat then
    roundCode (fmtOf f) .rne 0 false (addVal .rne (decodeVal (fmtOf f) a) (decodeVal (fmtOf f) b))
  else (a + b) % 2 ^ fmtBits f

/-- A position of a table command whose index and buffer element have been read: `pgath` reads the table as one event,
`pscat` writes it as one, `pscadd` reads, adds and writes as one (R212, R213). -/
def State.tableElem (s : State) (c : PorterCmd) : Res (State × PorterCmd) :=
  let z := fmtBytes (pFmt c.w0)
  let i := (c.cached c.indexVa c.indexSize).getD 0
  let tab := (pVa c.w0 + i * z) % 2 ^ 57
  let tag := tagBits c.w0
  let v := (c.cached c.bufVa z).getD 0
  let c1 : PorterCmd := { c with pos := c.pos + 1, oob := c.oob + (if c.outside i then 1 else 0) }
  match c.kind with
  | .gath =>
    let put (v : Nat) : PorterCmd := { c with pend := c.pend ++ [⟨c.bufVa, 8 * z, false, v, true, c.outside i⟩] }
    match aligned c.bufVa z with
    | .error e => .error e
    | .ok _ =>
      if c.outside i then .ok (s, put ((match c.hdr with | some h => h.2.2.2.toNat | none => 0) % 2 ^ (8 * z)))
      else
        match s.portRead c tag tab z z with
        | .error e => .error e
        | .ok (s1, x) => .ok (s1, put x)
  | .scadd =>
    if c.outside i then .ok (s, c1)
    else
      match s.portRead c tag tab z z with
      | .error e => .error e
      | .ok (s1, old) =>
        match s1.portWrite c tag tab z z (scaddSum (pFmt c.w0) old v) with
        | .error e => .error e
        | .ok s2 => .ok (s2, c1)
  | _ =>
    if c.outside i then .ok (s, c1)
    else
      match s.portWrite c tag tab z z v with
      | .error e => .error e
      | .ok s1 => .ok (s1, c1)

/-- One write laid over bytes: a nibble leaves the other nibble of its byte as it is (R190). -/
def PortOut.lay (cur : Nat → Byte) (m : Tab Byte) (p : PortOut) : Tab Byte :=
  if p.bits = 4 then
    let b := ((tfind m p.va).getD (cur p.va)).toNat
    tset m p.va (BitVec.ofNat 8 (if p.high then b % 16 + 16 * p.val else b / 16 * 16 + p.val))
  else (natBytes (p.bits / 8) p.val).zipIdx.foldl (fun m q => tset m (p.va + q.2) q.1) m

/-- The writes that go to the line of the first one. -/
def PorterCmd.run (c : PorterCmd) : List PortOut := c.pend.takeWhile (fun p => p.va / 64 == (c.pend.headD ⟨0, 0, false, 0, false, false⟩).va / 64)

/-- The tag that a fault of a pending write names: that of a fat pointer's element (R300). -/
def PorterCmd.outTag (c : PorterCmd) (p : PortOut) : Word := if c.kind = .copyt ∧ p.counts then tagBits c.w1 else 0

/-- The pending writes of one destination line are made as one event (R173). -/
def State.portFlush (s : State) (c : PorterCmd) : Res (State × PorterCmd) :=
  match c.run with
  | [] => .ok (s, c)
  | p :: l =>
    let size := if p.bits = 4 then 1 else p.bits / 8
    match atLane 0 (c.outTag p) (aligned p.va size) with
    | .error e => .error e
    | .ok _ =>
      let marks := (p :: l).foldl (PortOut.lay (fun _ => 0)) []
      let whole := decide (marks.length = 64)
      match atLane 0 (c.outTag p) (s.engAt c.id c.core .write true (p.va, if whole then 64 else 1)) with
      | .error e => .error e
      | .ok pa =>
        let s1 := s.combineAll none [lineOf pa]
        let base := pa - p.va % 64
        let cells := (p :: l).foldl (PortOut.lay (fun va => s1.engByte (base + va % 64))) []
        let c1 : PorterCmd := { c with
          pend := c.pend.drop (p :: l).length
          pos := c.pos + ((p :: l).filter PortOut.counts).length
          oob := c.oob + ((p :: l).filter PortOut.oob).length }
        .ok (s1.engPut c.id.tenant (cells.map (fun b => (base + b.1 % 64, b.2))), c1)

/-- What one event of a running command comes to: the state, the command, and what stops it. -/
structure PortStep where
  s : State
  c : PorterCmd
  stop : Option Stop

/-- A step that leaves the command as it is when it stops. -/
def PortStep.of (s : State) (c : PorterCmd) : Res (State × PorterCmd) → PortStep
  | .ok (s1, c1) => ⟨s1, c1, none⟩
  | .error e => ⟨s, c, some e⟩

/-- The next line the command reads, or the next position whose lines it has read (R212, R213). -/
def State.portMove (s : State) (c : PorterCmd) : Res (State × PorterCmd) :=
  match c.wants.find? (fun q => (tfind c.lines (q.1 / 64)).isNone) with
  | some q => s.portLine c q
  | none =>
    match c.wants.findSome? (fun q => match aligned q.1 q.2.2 with | .error e => some (atLane 0 q.2.1 (.error e : Res Unit)) | .ok _ => none) with
    | some (.error e) => .error e
    | _ =>
      let k := min 64 (reqCount c.w2 - c.pos)
      match c.kind with
      | .fill => .ok (s, c.step k (fun i => (byteOf c.w0 ((c.pos + i) % 8)).toNat))
      | .copy => .ok (s, c.step k (fun i => (c.cached (va57 c.w0 + c.pos + i) 1).getD 0))
      | .copyt => .ok (s, c.convert)
      | _ => s.tableElem c

/-- The next position would write to another line than those that wait, or its bytes have to be written first. -/
def PorterCmd.due (c : PorterCmd) : Bool :=
  match c.pend with
  | [] => false
  | p :: l =>
    let more :=
      match c.kind with
      | .gath => decide (c.bufVa / 64 = p.va / 64)
      | .copyt => pBlk c.w1 == 0 && decide ((typedAddr (pFmt c.w1) (pVa c.w1) c.next).1 / 64 = p.va / 64)
      | _ => false
    !more || decide (c.total ≤ c.next) || l.any (fun q => q.va / 64 != p.va / 64)

/-- The next event of a running command. A fault of a position waits until those before it stand (R215). -/
def State.position (s : State) (c : PorterCmd) : PortStep :=
  if c.due then .of s c (s.portFlush c)
  else
    match s.portMove c with
    | .error (.flt f) => if c.pend.isEmpty then ⟨s, { c with raw := [] }, some (.flt f)⟩ else .of s c (s.portFlush c)
    | r => .of s c r

/-- The header of an index list (R213). -/
def State.readHeader (s : State) (c : PorterCmd) : Res (State × PorterCmd) :=
  let a := va57 c.w1
  match s.portRead c 0 a 24 8 with
  | .error e => .error e
  | .ok (s1, v) =>
    let h : Word := BitVec.ofNat 64 v
    if h.extractLsb' 33 31 ≠ 0 then fault 0x0F 1 (addrWord a)
    else if 2 ^ 24 < (h.extractLsb' 0 32).toNat then fault 0x0F 2 (addrWord a)
    else .ok (s1, { c with hdr := some ((h.extractLsb' 0 32).toNat, h.getLsbD 32, BitVec.ofNat 64 (v / 2 ^ 64),
      BitVec.ofNat 64 (v / 2 ^ 128)) })

/-- The status doubleword of a completion (R211). -/
def PorterCmd.status (c : PorterCmd) : Word :=
  1#1 ++ BitVec.ofBool c.abandon ++ BitVec.ofNat 30 c.oob ++ BitVec.ofNat 32 c.pos

/-- The completion write of a command (R211). -/
def State.completion (s : State) (c : PorterCmd) : Res State :=
  match cmode c.w3 with
  | 1 => s.portWrite c 0 (caddr c.w3) 8 8 c.status.toNat
  | 2 =>
    match s.portRead c 0 (caddr c.w3) 8 8 with
    | .error e => .error e
    | .ok (s1, v) => s1.portWrite c 0 (caddr c.w3) 8 8 ((v + 1) % 2 ^ 64)
  | _ => .ok s

/-! ## The events of a porter (R211, R213, R215, R216) -/

/-- A porter record (R215, R302). -/
def State.portRecord (s : State) (cl : BitVec 7) (n : BitVec 2) (c : PorterCmd) (f : Flt) : State :=
  (s.tookFault c.id c.core f).deliver none c.core c.flta ⟨f.kind, 3, c.id.tenant, c.id.rank, c.pc, f.addr, rengWord 2 n cl, BitVec.ofNat 64 c.seq,
    BitVec.ofNat 64 c.pos, 0, rdetWord f.detail 0 0⟩

/-- A porter stops at a command (R215). -/
def State.portStop (s : State) (cl : BitVec 7) (n : BitVec 2) (c : PorterCmd) (f : Flt) : State :=
  let p := (s.cluster cl).porter n
  (s.portRecord cl n c f).setPort cl n
    { p with st := 2, pfcmd := c.seq, pfpos := c.pos, frank := c.id.rank, pres := 0, queue := c :: p.queue.drop 1 }

/-- The first command of a porter's queue is done: PDONE is written (R211). -/
def State.portDone (s : State) (cl : BitVec 7) (n : BitVec 2) (c : PorterCmd) : State :=
  let p := (s.cluster cl).porter n
  s.setPort cl n { p with st := 0, pdone := c.seq, queue := p.queue.drop 1 }

/-- A porter can start its next command. -/
def State.canStartPort (s : State) (cl : BitVec 7) (n : BitVec 2) : Bool :=
  let p := (s.cluster cl).porter n
  p.st != 2 && !p.mapped && (match p.queue.head? with | some c => c.phase != .started | none => false)

/-- PORTER_COMMAND_START (R213): the command starts; a table command reads its header. -/
def execPorterCommandStart (cl : BitVec 7) (n : BitVec 2) (s : State) : Out :=
  let p := (s.cluster cl).porter n
  match p.queue with
  | [] => .next s
  | c :: rest =>
    if !s.canStartPort cl n then .next s
    else
      let r : PortStep :=
        match c.kind with
        | .copy => ⟨s, c, none⟩
        | .fill => ⟨s, c, none⟩
        | .copyt => ⟨s, c, none⟩
        | _ => .of s c (s.readHeader c)
      match r.stop with
      | some (.flt f) => .next (r.s.portStop cl n c f)
      | some e => .next (r.s.askFor c.id c.core e)
      | none => .next (r.s.setPort cl n { p with st := 1, queue := { r.c with phase := .started } :: rest })

/-- The command has positions left to perform. -/
def PorterCmd.moves (c : PorterCmd) : Bool := !c.abandon && decide (c.pos < c.total)

/-- A porter has a command in progress, or one that it has to complete without acting (R216); the completion write follows the
acknowledgements of the writes to other modules (R334). -/
def State.canRunPort (s : State) (cl : BitVec 7) (n : BitVec 2) : Bool :=
  let p := (s.cluster cl).porter n
  p.st != 2 && (match p.queue.head? with
    | some c => c.phase == .started && (c.abandon || (p.st == 1 && !p.mapped)) && (c.moves || c.unacked == 0)
    | none => false)

/-- A write to another module. -/
def OutMsg.isFabWrite : OutMsg → Bool
  | .fabWrite _ _ _ => true
  | _ => false

/-- The writes to other modules that the events from `s` to `t` have sent are to be acknowledged (R334). -/
def PorterCmd.sent (c : PorterCmd) (s t : State) : PorterCmd :=
  let n (u : State) : Nat := (u.hub.out.filter OutMsg.isFabWrite).length
  { c with unacked := c.unacked + (n t - n s) }

/-- A porter's command in progress is changed. -/
def State.putPort (s : State) (cl : BitVec 7) (n : BitVec 2) (c : PorterCmd) : State :=
  let p := (s.cluster cl).porter n
  s.setCluster cl ((s.cluster cl).setPorter n { p with queue := c :: p.queue.drop 1 })

/-- PORTER_COMMAND_COMPLETE (R211, R213, R215, R216): each of these events makes the next access of the command in progress;
once none is left, or when the command is abandoned, it makes the completion write and then writes PDONE. A completion address
of an abandoned command that faults leaves one record and no stop. -/
def execPorterCommandComplete (cl : BitVec 7) (n : BitVec 2) (s : State) : Out :=
  match ((s.cluster cl).porter n).queue with
  | [] => .next s
  | c :: _ =>
    if !s.canRunPort cl n then .next s
    else if c.moves then
      let r := s.position c
      match r.stop with
      | some (.flt f) => .next (r.s.portStop cl n r.c f)
      | some e => .next ((r.s.putPort cl n r.c).askFor c.id c.core e)
      | none => .next (r.s.putPort cl n (r.c.sent s r.s))
    else
      match s.completion c with
      | .error (.flt f) => .next (if c.abandon then (s.portRecord cl n c f).portDone cl n c else s.portStop cl n c f)
      | .error e => .next (s.askFor c.id c.core e)
      | .ok s1 => .next (s1.portDone cl n c)

/-- The abandoned commands at the head of a porter's queue complete, up to one whose completion write has to wait (R215,
R216). -/
def State.finishSkipped (s : State) (cl : BitVec 7) (n : BitVec 2) : Nat → State
  | 0 => s
  | k + 1 =>
    match ((s.cluster cl).porter n).queue with
    | [] => s
    | c :: _ =>
      if !c.abandon || c.unacked != 0 then s
      else
        match s.completion c with
        | .error (.flt f) => ((s.portRecord cl n c f).portDone cl n c).finishSkipped cl n k
        | .error e => s.askFor c.id c.core e
        | .ok s1 => (s1.portDone cl n c).finishSkipped cl n k

/-- A command is skipped or flushed: it is to complete with ABANDON, and acts no more (R216). -/
def PorterCmd.skip (c : PorterCmd) : PorterCmd := { c with abandon := true, phase := .started, lines := [], raw := [], pend := [] }

/-- A stopped porter acts on the value `v` of its resume word (R216). -/
def State.resumes (s : State) (cl : BitVec 7) (n : BitVec 2) (v : Word) : Bool :=
  let p := (s.cluster cl).porter n
  p.st == 2 && p.pres == v && !p.queue.isEmpty

/-- The write of the line with which a porter resumes (R216). -/
def State.portResume (s : State) (cl : BitVec 7) (n : BitVec 2) : State :=
  let p := (s.cluster cl).porter n
  s.setPort cl n { p with st := 1, pres := 0, pfcmd := 0, pfpos := 0, frank := 0 }

/-- PRES_CONTINUE (R216): the stopped command runs on from its position. -/
def execPresContinue (cl : BitVec 7) (n : BitVec 2) (s : State) : Out :=
  if s.resumes cl n 1 then .next (s.portResume cl n) else .next s

/-- The first `k` commands of a porter's queue are abandoned, and complete. -/
def State.skipPort (s : State) (cl : BitVec 7) (n : BitVec 2) (k : Nat) : State :=
  let p := (s.cluster cl).porter n
  (s.setCluster cl ((s.cluster cl).setPorter n { p with
    queue := (p.queue.take k).map PorterCmd.skip ++ p.queue.drop k })).finishSkipped cl n k

/-- PRES_ABANDON (R216): the stopped command completes with ABANDON. -/
def execPresAbandon (cl : BitVec 7) (n : BitVec 2) (s : State) : Out :=
  if s.resumes cl n 2 then .next ((s.portResume cl n).skipPort cl n 1) else .next s

/-- PRES_ABANDON_ALL (R216): the stopped command and every queued one complete with ABANDON. -/
def execPresAbandonAll (cl : BitVec 7) (n : BitVec 2) (s : State) : Out :=
  if s.resumes cl n 3 then .next ((s.portResume cl n).skipPort cl n ((s.cluster cl).porter n).queue.length) else .next s

end Sys2Proof.Machine
end

