-- ==== Sys2Proof/Machine/Reports.lean ====
section
/-! DEFINITION. The device's detectors: deadlock (R246, R356) and the watchdog (R247); and the delivery of held records
(R299, R330). -/

namespace Sys2Proof.Machine

/-! ## What keeps a tenant alive (R221, R246) -/

/-- A wait with a running deadline (R221); a stopped thread is not parked. -/
def Thread.timed (t : Thread) : Bool :=
  t.stopped.isNone &&
    match t.run with
    | .parked (.wait _ (some _)) => true
    | .parked (.bar _ _ _ _ (some _) _) => true
    | .parked (.dbar _ _ _ (some _)) => true
    | _ => false

/-- A thread whose docket, or whose move, keeps a core from being quiet (R246). -/
def Thread.onTheMove (t : Thread) : Bool :=
  match t.place with
  | .moving _ => true
  | _ => t.woken.isSome && t.stopped.isNone

/-- The notify words of the host queues. -/
def State.notes (s : State) : List Nat := (s.queues.filter (fun p => p.2.valid)).map (fun p => p.2.note)

/-- A thread is host-bound: an armed watch names a host-homed line, or it waits on a notify word (R221). -/
def State.hostBound (s : State) (t : Thread) : Bool :=
  t.watches.toList.any (fun o =>
    match o with
    | some w => isHost w.pa || (t.inWait && t.stopped.isNone && s.notes.contains w.pa)
    | none => false)

/-- A thread keeps its tenant from being deadlocked. -/
def State.wakeful (s : State) (t : Thread) : Bool :=
  (t.run == .ready && t.stopped.isNone) || t.timed || t.onTheMove || s.hostBound t

/-- The threads of a tenant that have not halted. -/
def State.unhalted (s : State) (tn : BitVec 4) : List Thread := (s.ofTenant tn).filter (fun t => t.run != .retained)

/-! ## Watchdog (R247) -/

/-- The end of a tenant's pulse period; after a second silent one none follows until the pulse word is written. -/
def Tenant.pulseDeadline (t : Tenant) : Option Nat :=
  match t.pulse with
  | some u => if u.silent < 2 then some (u.opened + u.period) else none
  | none => none

/-- PULSE_PERIOD_EXPIRY (R247): a silent period writes a watchdog record; a second in a row stops the tenant and is reported
to the host. -/
def execPulsePeriodExpiry (tn : BitVec 4) (s : State) : Out :=
  let t := s.tenant tn
  match t.pulse, t.pulseDeadline with
  | some u, some c =>
    let s1 := s.reach c
    let n := u.silent + 1
    let s2 := s1.setTenant tn { t with pulse := some { u with opened := c, silent := n } }
    let r : Record := ⟨0x14, 5, tn, 0, 0, addrWord u.va, rengWord 5 0 0, BitVec.ofNat 64 n, 0, 0, rdetWord n 0 0⟩
    let s3 := s2.deliver none (s.baseCore tn) t.rootFlta r
    .next (if n = 2 then (s3.stopTenant tn).report r else s3)
  | _, _ => .next s

/-! ## Held records (R299, R330) -/

/-- The records held for a tenant, with the thread that each is held with. -/
def State.heldOf (s : State) (tn : BitVec 4) : List (Option ThreadId × Held) :=
  (s.tenant tn).pending.map (fun h => (none, h)) ++ (s.ofTenant tn).flatMap (fun t => t.records.map (fun h => (some t.id, h)))

/-- Takes a held record away from where it is held. -/
def State.takeHeld (s : State) (tn : BitVec 4) (p : Option ThreadId × Held) : State :=
  match p.1 with
  | none => s.setTenant tn { s.tenant tn with pending := (s.tenant tn).pending.erase p.2 }
  | some id => s.upd id (fun t => { t with records := t.records.erase p.2 })

/-- The core from which a held record's line is translated. -/
def State.heldCore (s : State) (tn : BitVec 4) (who : Option ThreadId) : BitVec 10 :=
  match who.bind s.find with
  | some t => t.core
  | none => s.baseCore tn

/-- A line of records is free: nobody holds it, and its FULL is 0 (R299). -/
def State.lineFree (s : State) (pa : Nat) : Bool := !s.blocked none (lineOf pa) && !((s.combined [pa]).readN pa 8).getLsbD 0

/-- A held record can be written: its line is free, and it was found first of those held for the line (R299). -/
def State.canDeliver (s : State) (tn : BitVec 4) (p : Option ThreadId × Held) : Bool :=
  (match s.target tn (s.heldCore tn p.1) p.2.line with
    | some (_, some pa) => s.lineFree pa
    | some (_, none) => false
    | none => true)
    && (s.heldOf tn).all (fun q => q.2.line != p.2.line || decide (p.2.found ≤ q.2.found))

/-- The page of a held record's line is not known, and can be asked for (R290). -/
def State.canAskHeld (s : State) (tn : BitVec 4) (p : Option ThreadId × Held) : Bool :=
  let c := s.heldCore tn p.1
  match s.pageMissing tn c .write (va57 p.2.line) with
  | some v => s.mayAsk tn c v
  | none => false

/-- A report held for the host can be written (R330). -/
def State.canReport (s : State) (tn : BitVec 4) : Bool :=
  !(s.tenant tn).reports.isEmpty &&
    (match (s.tenant tn).firstQueue with
    | some q => (s.queue q).repLine != 0 && s.lineFree (s.queue q).repLine
    | none => false)

/-- PENDING_RECORD_DELIVERY (R299): held record `n` of a tenant is written to its line; past the last of them, the tenant's
oldest report to the host is (R330). -/
def execPendingRecordDelivery (tn : BitVec 4) (n : Nat) (s : State) : Out :=
  match (s.heldOf tn)[n]? with
  | some p =>
    if s.canAskHeld tn p then .next (s.askAddr tn (s.heldCore tn p.1) .write (va57 p.2.line))
    else if s.canDeliver tn p then .next ((s.takeHeld tn p).deliver p.1 (s.heldCore tn p.1) p.2.line p.2.body)
    else .next s
  | none =>
    match (s.tenant tn).reports with
    | [] => .next s
    | r :: l => if s.canReport tn then .next ((s.setTenant tn { s.tenant tn with reports := l }).report r) else .next s

/-! ## Deadlock (R246) -/

/-- A context of a cluster is being released, or is open to threads that wait for it (R112, R113). -/
def State.engineDue (s : State) (cl : BitVec 7) : Bool := (s.cluster cl).loom.st == 3 || !(s.loomCalls cl).isEmpty

/-- Something has come about for a tenant that the model performs as an event of its own, while the spec puts it in the event
that brings it about: a launch is complete (R242), the last acknowledgement of a fence has come (R199, R356), or a loom's
context changes hands. -/
def State.finishing (s : State) (tn : BitVec 4) : Bool :=
  let t := s.tenant tn
  t.launches.any (fun l => s.canComplete tn l.lid) || (s.ofTenant tn).any (fun u => s.canRelease u.id)
    || t.rect.clusters.any s.engineDue

/-- A tenant is deadlocked, and no record has been written since a thread of it issued (R246). -/
def State.deadlocked (s : State) (tn : BitVec 4) : Bool :=
  let t := s.tenant tn
  t.valid && !t.out && !t.deadlock && !(s.unhalted tn).isEmpty && (s.unhalted tn).all (fun u => !s.wakeful u)
    && s.coloursClear tn && s.postsDone tn && s.enginesQuiet tn && !s.finishing tn

/-- DEADLOCK_DETECT (R246, R302): one record, with the numbers of parked, packed and stopped threads. -/
def execDeadlockDetect (tn : BitVec 4) (s : State) : Out :=
  if !s.deadlocked tn then .next s
  else
    let us := s.unhalted tn
    let count (p : Thread → Bool) : Word := BitVec.ofNat 64 (us.filter p).length
    let s1 := s.setTenant tn { s.tenant tn with deadlock := true }
    .next (s1.detector tn 0x13 (rengWord 5 0 0) (count (fun t => t.stopped.isNone && !t.packed))
      (count (fun t => t.stopped.isNone && t.packed)) (count (fun t => t.stopped.isSome)) 0)

end Sys2Proof.Machine
end

