-- ==== Sys2Proof/Machine/HostAccess.lean ====
section
/-! DEFINITION. What hosts, peers and other modules do to the device through memory: CXL.mem and CXL.cache accesses (R177,
R229, R295, R306), the peer window (R331), I/O and fabric completions (R183, R333, R334, R361), address translation (R289
to R292), and the words of BAR 0 (R322, R329). -/

namespace Sys2Proof.Machine

/-- A head takes requests: its link is up and its host is not lost. -/
def State.headUp (s : State) (h : BitVec 1) : Bool := (s.head h).up && !(s.head h).lost

/-! ## CXL (R177, R295, R306, R307) -/

/-- The keys of a tenant's selective stream on a head are set (R294). -/
def Tenant.keyed (t : Tenant) (h : BitVec 1) : Bool := if h = 0 then t.keyed0 else t.keyed1

/-- The TDISP table allows a host's access to a line: through its stream, that is by CXL.mem under link IDE, or, where `tee` is
given, by CXL.io with the TEE bit of the tenant's stream (R295). -/
def State.hostMay (s : State) (h : BitVec 1) (tee : Option (Option (BitVec 4))) (pa : Nat) : Bool :=
  match (s.region (regionOf pa)).owner with
  | none => true
  | some tn =>
    let through : Bool :=
      match tee with
      | none => (s.head h).linkIde
      | some t => t == some tn && (s.tenant tn).keyed h
    match (s.tenant tn).tdisp with
    | .unlocked => true
    | .locked => through
    | .run => through
    | .error => false

/-- Bytes that lie in one line. -/
def inLine (a n : Nat) : Bool := decide (0 < n) && decide (a % 64 + n ≤ 64)

/-- The cells of the enabled bytes of a write from address `a` (R177). -/
def enabledCells (a : Nat) (bs : List (Option Byte)) : List Host.Cell :=
  bs.zipIdx.filterMap (fun p => p.1.map (fun b => (a + p.2, b)))

/-! ### Hints (R311) -/

/-- The words of a hint record. -/
def hintWords (dir : BitVec 2) (va drop pasid : Nat) (tn : BitVec 4) (n cyc : Nat) : List Word :=
  [dir ++ 0#5 ++ BitVec.ofNat 41 (va / 65536) ++ BitVec.ofNat 16 drop,
   0#12 ++ BitVec.ofNat 20 pasid ++ 0#28 ++ tn, BitVec.ofNat 64 n, BitVec.ofNat 64 cyc]

/-- A hint is written, or dropped when the ring is full: the record first, and then HPROD; nothing goes to a lost host (R317). -/
def State.hint (s : State) (tn : BitVec 4) (dir : BitVec 2) (va n : Nat) : State :=
  let t := s.tenant tn
  match t.hints with
  | none => s
  | some h =>
    if s.hostGone h.ring then s
    else
    let prod := s.readN h.ring 8
    let cons := s.readN (h.ring + 8) 8
    if 2 ^ h.n ≤ (prod - cons).toNat then s.setTenant tn { t with hints := some { h with drop := min 65535 (h.drop + 1) } }
    else
      let pasid := (t.pasid.getD 0).toNat
      let a := h.ring + 16 + 32 * (prod.toNat % 2 ^ h.n)
      let s1 := s.writeEvent none false (cellsFrom a (wordsBytes (hintWords dir va h.drop pasid tn n s.cyc)))
      let s2 := s1.writeEvent none false (cellsOf h.ring 8 (prod + 1))
      s2.setTenant tn { s2.tenant tn with hints := some { h with drop := 0 } }

/-- The 64 KiB regions that a tenant's pages lie in: virtual and physical region, in ascending virtual address. -/
def Tenant.vregions (t : Tenant) : List (Nat × Nat) :=
  (t.ptab.map (fun p => (p.1 / 16, p.2.pa / 65536))).foldl (fun l p => if l.contains p then l else l ++ [p]) []

/-- The hints of a tenant for the regions that `p` names: device accesses to host-homed regions, and host accesses to its device
regions, whose count has reached HINTT; one for a region in an epoch. -/
def State.hintsOf (s : State) (tn : BitVec 4) (p : Nat → Bool) : State :=
  match (s.tenant tn).hints with
  | none => s
  | some h =>
    if s.blocked none (lineOf h.ring) then s
    else
    ((s.tenant tn).vregions.filter (fun q => p q.2)).foldl (fun s q =>
      let k := s.region q.2
      let dev := isDevice (q.2 * 65536)
      let n := if dev then k.hostCount else k.counts.sum
      if n < h.hintt || k.hinted then s
      else (s.setRegion q.2 { k with hinted := true }).hint tn (if dev then 2 else 1) (q.1 * 65536) n) s

/-- A host's CXL.mem access is counted (R311). -/
def State.countHost (s : State) (pa : Nat) : State :=
  let r := regionOf pa
  let s1 := s.setRegion r { s.region r with hostCount := (s.region r).hostCount + 1 }
  match (s.region r).owner with
  | none => s1
  | some tn => s1.hintsOf tn (fun q => q == r)

/-! ### The events -/

/-- Data for whoever asked; poisoned data carry the indication (R295, R306). -/
def State.answerTo (s : State) (who : Asker) (n : Nat) (bs : Option (List Byte)) : State :=
  let back (h : BitVec 1) : State := s.send (match bs with | some l => .bytes h l | none => .poisoned h n)
  match who with
  | .host h => back h
  | .hostIo h _ => back h
  | .snoop _ => s
  | .peer tn => back (s.tenant tn).head
  | .far m => s.send (.farBytes m bs)
  | .bell => s

/-- The event of a read: the line is combined first (R176). -/
def State.agentRead (s : State) (who : Asker) (pa n : Nat) : State :=
  let s1 := State.atHome false (s.combineLine none (lineOf pa)) (lineOf pa)
  s1.answerTo who n (if (s1.poisonOf pa).isSome then none else some ((List.range n).map (fun i => s1.readByte (pa + i))))

/-- The event of a write: poisoned data poison the line, and a poisoned line takes only a write of the whole line (R305 to
R307). -/
def State.agentWrite (s : State) (pa : Nat) (bs : List (Option Byte)) (poisoned : Bool) : State :=
  let cells := enabledCells pa bs
  if cells.isEmpty then s
  else if poisoned then s.markPoison (lineOf pa) 4
  else if (s.poisonOf pa).isSome && !coversLine cells (lineOf pa) then s
  else s.writeEvent none false cells

/-- The event of an atomic of another module: the old value goes back; a poisoned line is not written (R191, R192, R306,
R334). -/
def State.agentAtomic (s : State) (who : Asker) (pa : Nat) (op : Option AmoOp) (z : AmoSize) (expect new : Word) : State :=
  let n := amoBytes z
  if (s.poisonOf pa).isSome then s.answerTo who n none
  else
    let r := s.rmw none pa n (fun old => match op with
      | some o => some (amoNew o z old new)
      | none => if old = expect then some new else none)
    r.1.answerTo who n (some ((List.range n).map (byteOf r.2)))

/-- The length of an access from outside. -/
def InOp.len : InOp → Nat
  | .read n => n
  | .write bs _ => bs.length
  | .atomic _ z _ _ => amoBytes z

/-- What an access from outside asks of a page. -/
def InOp.acc : InOp → Acc
  | .read _ => .read
  | _ => .write

/-- The event of what an access from outside does at its address. -/
def State.agentEvent (s : State) (who : Asker) (pa : Nat) : InOp → State
  | .read n => s.agentRead who pa n
  | .write bs bad => s.agentWrite pa bs bad
  | .atomic op z e v => s.agentAtomic who pa op z e v

/-- The event of an access of a host to device memory, as the tenant's state allows it: a read that it forbids returns
poisoned data, and a write is dropped (R295). -/
def State.hostEvent (s : State) (h : BitVec 1) (tee : Option (Option (BitVec 4))) (q : Inbound) : State :=
  let s1 := if tee.isNone then s.countHost q.pa else s
  if s1.hostMay h tee q.pa then s1.agentEvent q.asker q.pa q.what
  else
    match q.what with
    | .read n => s1.answerTo q.asker n none
    | _ => s1

/-- The host takes a line of its own memory from the device: a read only takes it, a write changes it in the same event, and the
watches that the device holds on it fire with CODE 10 (R177, R229). -/
def State.snoopEvent (s : State) (q : Inbound) : State :=
  let line := lineOf q.pa
  match q.what with
  | .write bs bad =>
    let cells := enabledCells q.pa bs
    let s1 := if bad then s.markPoison line 4 else s.putCells none cells
    s1.hostTakes (fun l => l == line) (cells.map Prod.fst)
  | _ => (s.combineLine none line).hostReads line

/-- An unsupported request: a health event is counted. -/
def State.peerRefused (s : State) (tn : BitVec 4) : State :=
  let h := s.hub
  ({ s with hub := { h with health := { h.health with events := h.health.events + 1 } } }).send (.refused (s.tenant tn).head)

/-- The event of an access from outside; one of a peer whose tenant is not in RUN any more is an unsupported request (R295). -/
def State.serveInbound (s : State) (q : Inbound) : State :=
  match q.asker with
  | .host h => s.hostEvent h none q
  | .hostIo h tee => s.hostEvent h (some tee) q
  | .snoop _ => s.snoopEvent q
  | .bell => s.agentEvent .bell q.pa q.what
  | .peer tn => if (s.tenant tn).tdisp = .run then s.agentEvent q.asker q.pa q.what else s.peerRefused tn
  | .far _ => s.agentEvent q.asker q.pa q.what

/-- Of two accesses from outside, the one that arrived first is performed first: on one line, at a region where it was held
for a drain (R309), and through one tenant's peer window (R331). -/
def Inbound.before (p q : Inbound) : Bool :=
  lineOf p.pa == lineOf q.pa || (p.drained && isDevice q.pa && regionOf p.pa == regionOf q.pa) ||
    match p.asker, q.asker with
    | .peer a, .peer b => a == b
    | _, _ => false

/-- An access from outside that waits can be performed: its line is free, and no earlier one comes before it (R158, R162, R309,
R331). -/
def State.canServe (s : State) (n : Nat) : Bool :=
  match s.net.inbound[n]? with
  | none => false
  | some q => s.granted none q.pa && (s.net.inbound.take n).all (fun p => !p.before q)

/-- An access from outside that has waited is performed. -/
def State.serveNext (s : State) (n : Nat) : State :=
  match s.net.inbound[n]? with
  | none => s
  | some q => if s.canServe n then ({ s with net := { s.net with inbound := ldrop s.net.inbound n } } : State).serveInbound q else s

/-- An access from outside reaches the home of its line: it is performed, or waits there in the order of arrival. -/
def State.arrive (s : State) (q : Inbound) : State :=
  if s.granted none q.pa && s.net.inbound.all (fun p => !p.before q) then s.serveInbound q
  else { s with net := { s.net with inbound := s.net.inbound ++ [{ q with drained := s.draining q.pa }] } }

/-- The address of a host's access. -/
def accessAddr : HostAccess → Nat
  | .read a _ => a
  | .write a _ _ => a
  | .ioRead _ a _ => a
  | .ioWrite _ a _ => a

/-- Its length. -/
def accessLen : HostAccess → Nat
  | .read _ n => n
  | .write _ bs _ => bs.length
  | .ioRead _ _ n => n
  | .ioWrite _ _ bs => bs.length

/-- What it asks for at address `pa`. -/
def accessInbound (h : BitVec 1) (pa : Nat) : HostAccess → Inbound
  | .read _ n => ⟨.host h, pa, .read n, none, false⟩
  | .write _ bs bad => ⟨.host h, pa, .write bs bad, none, false⟩
  | .ioRead t _ n => ⟨.hostIo h t, pa, .read n, none, false⟩
  | .ioWrite t _ bs => ⟨.hostIo h t, pa, .write bs false, none, false⟩

/-- HOST_CXL_MEM_ACCESS (R177, R295): one event on a device-homed line; one that the tenant's state forbids reads as poisoned or
is dropped; one to a held, leased or draining line waits. -/
def execHostCxlMemAccess (h : BitVec 1) (acc : HostAccess) (s : State) : Out :=
  .next (if s.headUp h && inLine (accessAddr acc) (accessLen acc) && isDevice (accessAddr acc) then s.arrive (accessInbound h (accessAddr acc) acc) else s)

/-- HOST_LINE_INVALIDATE (R177, R229): the host takes a line of its own memory from the device; a held line is given up when the
held chunk has committed (R158). -/
def execHostLineInvalidate (h : BitVec 1) (acc : HostAccess) (s : State) : Out :=
  .next (if s.headUp h && inLine (accessAddr acc) (accessLen acc) then
    s.arrive { accessInbound h (hostAddr h (accessAddr acc)) acc with asker := .snoop h } else s)

/-! ## Peers (R331) -/

/-- Where a peer access of `n` bytes at an offset falls: the virtual address, or none outside the window or the state RUN. -/
def State.peerVa (s : State) (tn : BitVec 4) (off n : Nat) : Option Nat :=
  let t := s.tenant tn
  match t.window with
  | some (va, k) => if t.tdisp = .run ∧ 0 < n ∧ off + n ≤ 2 ^ k then some (va + off) else none
  | none => none

/-- Where a part of an access from outside lies, with its address and its length: a drain is waited for at the home, and only
memory takes it. -/
def State.partAt (s : State) (tn : BitVec 4) (k : Acc) (p : Nat × Nat) : Res (Nat × Nat × Nat) :=
  let home (pa : Nat) : Res (Nat × Nat × Nat) := if isDevice pa || isHost pa then .ok (pa, p) else protFault 5 p.1
  match s.translate tn (s.baseCore tn) k p.1 with
  | .ok pa => home pa
  | .error (.park (.drain d)) =>
    (match s.route tn (s.baseCore tn) k p.1 with
    | .ok pa => home pa
    | .error _ => .error (.park (.drain d)))
  | .error e => .error e

/-- The parts of an access of a tenant's addresses from outside, with where they lie. -/
def State.peerParts (s : State) (tn : BitVec 4) (k : Acc) (va n : Nat) : Res (List (Nat × Nat × Nat)) :=
  eachOf (s.partAt tn k) (pieces va n)

/-- What an access does in the part of `n` bytes at an offset. -/
def InOp.part (o n : Nat) : InOp → InOp
  | .read _ => .read n
  | .write bs bad => .write ((bs.drop o).take n) bad
  | .atomic op z e v => .atomic op z e v

/-- The parts of an access of a tenant's addresses reach the homes of their lines, in ascending address. -/
def State.partsArrive (s : State) (who : Asker) (tn : BitVec 4) (w : InOp) : Nat → List (Nat × Nat × Nat) → State
  | _, [] => s
  | o, p :: l => (s.arrive ⟨who, p.1, w.part o p.2.2, some (tn, p.2.1 / 4096), false⟩).partsArrive who tn w (o + p.2.2) l

/-- An access from outside that a tenant's addresses refuse: an unsupported request (R331, R333). -/
def State.lateRefused (s : State) (q : Late) : State :=
  let s1 := (pieces q.va q.what.len).foldl (fun s p => s.forget q.tn (s.baseCore q.tn) p.1) s
  match q.asker with
  | .peer tn => s1.peerRefused tn
  | .far m => s1.send (.farRefused m)
  | _ => s1

/-- A peer's access is performed only while its tenant is in RUN (R295). -/
def State.peerStopped (s : State) (q : Late) : Bool :=
  match q.asker with
  | .peer tn => (s.tenant tn).tdisp != .run
  | _ => false

/-- An access from outside reaches the homes of its parts, in ascending address; one whose page is not known waits while the
host is asked, and one that a page refuses is refused (R290, R331, R333). -/
def State.enter (s : State) (q : Late) : State :=
  if s.peerStopped q then s.lateRefused q
  else
  match s.peerParts q.tn q.what.acc q.va q.what.len with
  | .ok ps => s.partsArrive q.asker q.tn q.what 0 ps
  | .error (.ats v) =>
    let s1 := s.askPage q.tn (s.baseCore q.tn) v
    { s1 with net := { s1.net with late := s1.net.late ++ [q] } }
  | .error _ => s.lateRefused q

/-- An access from outside arrives, behind those to the same tenant that wait (R331). -/
def State.enterLate (s : State) (q : Late) : State :=
  if s.net.late.any (fun r => r.tn == q.tn) then { s with net := { s.net with late := s.net.late ++ [q] } } else s.enter q

/-- The access from outside `n` waits for a page that is known now, or can be asked for now; it is the tenant's first. -/
def State.canLate (s : State) (n : Nat) : Bool :=
  match s.net.late[n]? with
  | none => false
  | some q =>
    (s.net.late.take n).all (fun r => r.tn != q.tn) && (s.peerStopped q ||
      (match s.peerParts q.tn q.what.acc q.va q.what.len with
      | .error (.ats v) => s.mayAsk q.tn (s.baseCore q.tn) v
      | _ => true))

/-- It is tried again. -/
def State.lateAgain (s : State) (n : Nat) : State :=
  match s.net.late[n]? with
  | none => s
  | some q =>
    if !s.canLate n then s
    else
      let out : State := { s with net := { s.net with late := ldrop s.net.late n } }
      match s.peerParts q.tn q.what.acc q.va q.what.len with
      | .error (.ats v) => if s.peerStopped q then out.enter q else s.askPage q.tn (s.baseCore q.tn) v
      | _ => out.enter q

/-- PEER_WRITE (R331, R362): each aligned 64-byte part is one write event; a part whose line is held or drains waits. -/
def execPeerWrite (tn : BitVec 4) (off : Nat) (bytes : List Byte) (bad : Bool) (s : State) : Out :=
  match s.peerVa tn off bytes.length with
  | none => .next (s.peerRefused tn)
  | some va => .next (s.enterLate ⟨.peer tn, tn, va, .write (bytes.map some) bad⟩)

/-- PEER_READ (R331). -/
def execPeerRead (tn : BitVec 4) (off : Nat) (len : Nat) (s : State) : Out :=
  match s.peerVa tn off len with
  | none => .next (s.peerRefused tn)
  | some va => .next (s.enterLate ⟨.peer tn, tn, va, .read len⟩)

/-! ## Completions for threads (R183, R333, R334, R361) -/

/-- A completion brings a thread its result; it is ready again, or stays stopped (R276). -/
def State.finishPost (s : State) (id : ThreadId) (f : Thread → Thread) : State := s.upd id (fun t => f { t with post := none })

/-- An access of a thread fails at another module: the protection fault with detail 6 for a refusal, or the poison fault with
its cause, after the commit (R303, R333, R334). -/
def State.remoteFault (s : State) (id : ThreadId) (va : Nat) (pc : Word) (ans : FarAnswer) : State :=
  (s.finishPost id (fun t => if t.run = .parked .result then { t with run := .ready } else t)).faultAfter id 1 pc
    (match ans with
      | .poisoned c => ⟨0x05, c.toNat, addrWord va, 0, 0, none⟩
      | _ => ⟨0x04, 6, addrWord va, 0, 0, none⟩)

/-- A store or an atomic has been performed; a thread that was parked for it is ready. -/
def Thread.done (now : Nat) (t : Thread) : Thread :=
  if t.run = .parked .result then (if t.stopped.isSome then { t with run := .ready } else t.ready now (fun a => a)) else t

/-- Data that come back for an access of a thread to another module, over a link that carries them (R332): `f` takes them. -/
def State.farDone (s : State) (id : ThreadId) (va pa : Nat) (pc : Word) (ans : FarAnswer) (f : Thread → Thread) : State :=
  if !s.carries (farModuleOf pa) then s
  else
    match ans with
    | .data => s.finishPost id f
    | e => s.remoteFault id va pc e

/-- The first porter that has a write of a thread's command to another module under way. -/
def State.farPorter (s : State) (id : ThreadId) : Option (BitVec 7 × BitVec 2) :=
  s.clusters.findSome? (fun k => k.2.porters.findSome? (fun p =>
    if p.2.queue.any (fun c => c.id == id && decide (0 < c.unacked)) then some (BitVec.ofNat 7 k.1, BitVec.ofNat 2 p.1) else none))

/-- Such a write is acknowledged (R334). -/
def State.farAcked (s : State) (id : ThreadId) : State :=
  match s.farPorter id with
  | none => s
  | some (cl, n) =>
    let p := (s.cluster cl).porter n
    s.setCluster cl ((s.cluster cl).setPorter n { p with queue := p.queue.map (fun c =>
      if c.id == id then { c with unacked := c.unacked - 1 } else c) })

/-- IO_COMPLETION (R183, R333, R334, R361): the answer to an I/O load, or to an access that another module performs, over a
link that carries it (R332). An I/O load that fails gets all ones. Of a thread that waits for none, it acknowledges a write of
its porter command. -/
def execIoCompletion (id : ThreadId) (ans : FarAnswer) (data : Word) (s : State) : Out :=
  match (s.find id).bind Thread.post with
  | some (.ioLoad z d _ _) =>
    .next (s.finishPost id (Thread.takeResult s.cyc d (if ans = .data then loadExtend z data else BitVec.allOnes 64)))
  | some (.fabLoad z d va pa pc) => .next (s.farDone id va pa pc ans (Thread.takeResult s.cyc d (loadExtend z data)))
  | some (.fabStore va pa _ pc) => .next (s.farDone id va pa pc ans (Thread.done s.cyc))
  | some (.amo op z d va pa v pc) =>
    if !isFab pa then .next s
    else
      match (Post.amo op z d va pa v pc).atomic with
      | some (_, _, _, _, _, _, fp) => .next (s.farDone id va pa pc ans (Thread.between (fun a => a.setX d (amoOld z fp data))))
      | none => .next s
  | some (.cas z d va pa _ _ pc) =>
    if !isFab pa then .next s
    else .next (s.farDone id va pa pc ans (Thread.between (fun a => a.setX d (amoOld z false data))))
  | some _ => .next s
  | none => .next (s.farAcked id)

/-- The deadline of a thread's I/O load (R361). -/
def Thread.ioDeadline (t : Thread) : Option (BitVec 5 × Nat) :=
  match t.post with
  | some (.ioLoad _ d _ (some c)) => some (d, c + Config.ioTimeout)
  | _ => none

/-- IO_COMPLETION_TIMEOUT (R361): all ones. -/
def execIoCompletionTimeout (id : ThreadId) (s : State) : Out :=
  match (s.find id).bind Thread.ioDeadline with
  | some (d, c) =>
    let s1 := s.reach c
    .next (s1.finishPost id (Thread.takeResult s1.cyc d (BitVec.allOnes 64)))
  | none => .next s

/-- The export of a tenant that lets another module's tenant reach `n` bytes from an address (R333). -/
def Tenant.exportAt (t : Tenant) (m : BitVec 8) (rtenant : BitVec 4) (va n : Nat) : Bool :=
  t.fabric.any (fun w => w.exported && w.modNum == m && w.rtenant == rtenant && decide (w.va ≤ va) && decide (va + n ≤ w.va + 2 ^ w.k))

/-- What an access of another module does here; a packet does it element by element. -/
def farInOp : FabricOp → Option InOp
  | .read n => some (.read n)
  | .write bs => some (.write (bs.map some) false)
  | .atomic op z e v => some (.atomic op z e v)
  | .packet _ => none

/-- FABRIC_REMOTE_ACCESS (R333, R334): another module's access to an exported range is an event here, when a link carries it
(R332); one outside every export is refused. The elements of a packet are applied one by one. -/
def execFabricRemoteAccess (acc : FabricAccess) (s : State) : Out :=
  if !s.carries acc.modNum then .next s
  else
    match farInOp acc.op, acc.op with
    | some w, _ =>
      .next (if w.len = 0 || !(s.tenant acc.tn).exportAt acc.modNum acc.colour.tn acc.va w.len then s.send (.farRefused acc.modNum)
        else s.enterLate ⟨.far acc.modNum, acc.tn, acc.va, w⟩)
    | none, .packet es =>
      .next { s with net := { s.net with farPackets := s.net.farPackets ++ [⟨acc.modNum, acc.colour, acc.tn, es, 0, []⟩] } }
    | none, _ => .next s

/-- Where the next element of a packet from another module is applied, or the kind and detail of its fault (R170, R333). -/
def State.farAt (s : State) (p : FarPacket) (e : FarElem) : Res Nat :=
  if !(s.tenant p.tn).exportAt p.modNum p.colour.tn e.va (sizeBytes e.size) then protFault 6 e.va
  else
    match s.partAt p.tn .write (e.va, sizeBytes e.size) with
    | .error x => .error x
    | .ok r =>
      if isHost r.1 then protFault 7 e.va
      else
        match s.poisonOf r.1 with
        | some c => fault 0x05 c.toNat (addrWord e.va)
        | none => .ok r.1

/-- The next element of a packet from another module can be applied: the packet is the earliest of its sender, and the line is
free (R158, R162, R168, R309). -/
def State.canFar (s : State) (n : Nat) : Bool :=
  match s.net.farPackets[n]? with
  | none => false
  | some p =>
    (s.net.farPackets.take n).all (fun q => q.modNum != p.modNum || q.colour != p.colour) &&
      match p.elems[p.pos]? with
      | none => true
      | some e =>
        match s.farAt p e with
        | .ok pa => s.granted none pa
        | .error (.ats v) => s.mayAsk p.tn (s.baseCore p.tn) v
        | .error _ => true

/-- A packet from another module has passed a position; after the last its acknowledgement leaves (R170). -/
def State.passFar (s : State) (n : Nat) (p : FarPacket) (bad : FarFaults) : State :=
  let q : FarPacket := { p with pos := p.pos + 1, bad := p.bad ++ bad }
  if q.pos < q.elems.length then { s with net := { s.net with farPackets := s.net.farPackets.set n q } }
  else ({ s with net := { s.net with farPackets := ldrop s.net.farPackets n } } : State).send (.farAck p.modNum q.bad)

/-- The next element of a packet from another module is applied, or faults, as one event (R168, R170, R334). -/
def State.farNext (s : State) (n : Nat) : State :=
  match s.net.farPackets[n]? with
  | none => s
  | some p =>
    if !s.canFar n then s
    else
      match p.elems[p.pos]? with
      | none => s.passFar n p []
      | some e =>
        match s.farAt p e with
        | .ok pa =>
          let s1 := s.passFar n p []
          (match e.op with
          | none => s1.writeEvent none false (cellsOf pa (sizeBytes e.size) e.val)
          | some o => s1.performQueued none p.tn o (if e.size = .d then .d else .w) pa (s1.net.amops.length + s1.net.packets.length) e.val)
        | .error (.ats v) => s.askPage p.tn (s.baseCore p.tn) v
        | .error (.flt f) => (s.forget p.tn (s.baseCore p.tn) e.va).passFar n p [(p.pos, f.kind, f.detail)]
        | .error (.park (.pri _ f)) => (s.forget p.tn (s.baseCore p.tn) e.va).passFar n p [(p.pos, f.kind, f.detail)]
        | .error _ => s

/-! ## Translation (R289 to R292) -/

/-- What the host answers for a page (log 15): a page in the range of the HDM decoders, which lead to device memory, or one of
the memory of the head's host (R372). -/
def hostPte (h : BitVec 1) (n : Nat) : Option Pte :=
  (Config.hostPage n).map (fun p =>
    let a := p.1 / 4096 * 4096
    ⟨if a < Config.deviceBytes then a else hostAddr h (a % 2 ^ 63), p.2.getLsbD 0, p.2.getLsbD 1, p.2.getLsbD 2, p.2.getLsbD 3⟩)

/-- The host's tables answer afresh for a page. -/
def State.newPage (s : State) (tn : BitVec 4) (vpage : Nat) : State :=
  let t := s.tenant tn
  let p := match hostPte t.head s.free with
    | some e => tset t.ptab vpage e
    | none => tdel t.ptab vpage
  ({ s with free := s.free + 1 } : State).setTenant tn { t with ptab := p }

/-- The host's tables answer for a page: as they did before, unless the host has changed them, which it may do without an
invalidation as well (R9, R292, log 15). -/
def State.hostAnswers (s : State) (tn : BitVec 4) (vpage : Nat) : State :=
  let s1 : State := { s with free := s.free + 1 }
  if (tfind (s.tenant tn).ptab vpage).isSome && !Config.freeBit s.free then s1 else s1.newPage tn vpage

/-- The size that an entry takes: the largest that does not exceed the translation and within which it is aligned (R290). -/
def entrySize (lg vpage : Nat) (e : Pte) : Nat :=
  ([30, 21, 16].find? (fun k => decide (k ≤ lg) && e.pa / 4096 % 2 ^ (k - 12) == vpage % 2 ^ (k - 12))).getD 12

/-- An entry fills the TLBs of a core and of its cluster: 64 and 4,096 entries, the oldest replaced (R290). -/
def State.fillTlb (s : State) (tn : BitVec 4) (core : BitVec 10) (vpage lg : Nat) (e : Pte) : State :=
  let cl := clusterOf core
  let pasid := (s.tenant tn).pasid
  let k := entrySize lg vpage e
  let isCore (t : TlbEntry) : Bool := t.core == some core
  let isCluster (t : TlbEntry) : Bool := t.core.isNone && t.cluster == cl
  let first := vpage / 2 ^ (k - 12) * 2 ^ (k - 12)
  let new (c : Option (BitVec 10)) : TlbEntry := ⟨tn, pasid, k, cl, c, first, { e with pa := e.pa - 4096 * (vpage - first) }⟩
  let old := s.tlb.filter (fun t => !((isCore t || isCluster t) && t.holds tn pasid vpage))
  let keepC := (old.filter isCore).take 63
  let keepK := (old.filter isCluster).take 4095
  let rest := old.filter (fun t => !isCore t && !isCluster t)
  { s with tlb := new (some core) :: keepC ++ (new none :: keepK) ++ rest }

/-- The waits that check their lines again when a page or a region has come back (R206, R259). -/
def State.recheckWaits (s : State) (p : Thread → Bool) : State :=
  let ws := s.threads.flatMap (fun t =>
    if !t.live || t.stopped.isSome || !p t then []
    else
      match t.run with
      | .parked (.queue _ _ _) => [(⟨t.id, 3⟩ : Wake)]
      | .parked (.bar _ _ _ _ _ _) => [⟨t.id, 4⟩]
      | _ => [])
  { s with net := { s.net with wakes := s.net.wakes ++ ws } }

/-- ATS_COMPLETION (R290): the host answers an outstanding request. A translation of the page's size fills the core's and the
cluster's TLB; without one, the access that waits for it is refused (R291). -/
def execAtsCompletion (tn : BitVec 4) (core : BitVec 10) (page : PageSpan) (s : State) : Out :=
  let vpage := page.vpage
  if !(s.asked core).contains (tn, core, vpage) then .next s
  else
    let s1 := (s.askedDone tn core vpage).hostAnswers tn vpage
    let t := s1.tenant tn
    let s2 := match tfind t.ptab vpage with
      | some e => s1.fillTlb tn core vpage page.lg e
      | none => s1.setTenant tn { t with refused := (core, vpage) :: t.refused.filter (fun q => q != (core, vpage)) }
    .next ((s2.recheckWaits (fun u => u.id.tenant == tn && u.core == core)).checkWatches tn)

/-- The page a thread waits for, and what a failure makes of its access (R291). -/
def Thread.priWait (t : Thread) : Option (Nat × Flt) :=
  match t.run with
  | .parked (.pri v f) => some (v, f)
  | _ => none

/-- A host has changed its tables for a page: the device asks for it anew. -/
def State.pageAgain (s : State) (tn : BitVec 4) (vpage : Nat) : State :=
  let t := s.tenant tn
  let s1 : State := { s with tlb := s.tlb.filter (fun e => !e.holds tn e.pasid vpage) }
  (s1.setTenant tn { t with ptab := tdel t.ptab vpage, refused := t.refused.filter (fun q => q.2 != vpage) }).askWatches tn
    (fun v => v == vpage)

/-- PRI_RESPONSE (R291): on success the host has the page and the thread runs its chunk again, WHY unchanged; on failure the
access faults as in PRI mode 0. Of a thread that does not wait itself, the response is for its engine command. -/
def execPriResponse (id : ThreadId) (ok : Bool) (s : State) : Out :=
  let tn := id.tenant
  match (s.find id).bind Thread.priWait with
  | some (v, f) =>
    if ok then
      let s1 := (s.pageAgain tn v).recheckWaits (fun t => t.id.tenant == tn)
      .next (s1.upd id (fun t => if t.stopped.isSome then { t with run := .ready } else t.ready s1.cyc (fun a => a)))
    else
      .next ((s.upd id (fun t => { t with run := .ready })).faultAfter id 0 (f.pc.getD 0) f)
  | none =>
    let t := s.tenant tn
    match t.priWait.find? (fun p => p.1 == id.rank) with
    | none => .next s
    | some (r, v) =>
      let s1 := s.setTenant tn { t with priWait := t.priWait.filter (fun p => p != (r, v)) }
      if ok then .next ((s1.pageAgain tn v).recheckWaits (fun u => u.id.tenant == tn))
      else .next (s1.setTenant tn { s1.tenant tn with priNo := (r, v) :: t.priNo.filter (fun q => q != (r, v)) })

/-- The virtual address of what a committed chunk has asked for. -/
def Post.va : Post → Option Nat
  | .amo _ _ _ va _ _ _ => some va
  | .cas _ _ va _ _ _ _ => some va
  | .stamp _ va _ _ => some va
  | .bar _ va _ _ _ _ => some va
  | .fabLoad _ _ va _ _ => some va
  | .fabStore va _ _ _ => some va
  | _ => none

/-- An I/O load or a reservation has no virtual address of its own in what is asked: it is waited for in any case. -/
def Post.uses (hit : Nat → Bool) (p : Post) : Bool :=
  match p.va with
  | some va => hit (va / 4096)
  | none => match p with | .dbar _ _ _ => false | _ => true

/-- The accesses through pages that `hit` names that are not performed: of threads, of drays, and of peers and other modules. -/
def State.usersOf (s : State) (tn : BitVec 4) (va : Nat) (hit : Nat → Bool) : Inval :=
  let mine (e : Elem) : Bool := e.tid.tenant == tn && hit (e.va / 4096)
  ⟨tn, va, (s.net.amops ++ s.net.awayAmops).filter (fun a => a.id.tenant == tn && hit (a.va / 4096)),
   (s.clusters.flatMap (fun c => c.2.drays.flatMap Dray.elems)
      ++ (s.net.packets ++ s.net.acks ++ s.net.away).flatMap Packet.elems).filter mine,
   (s.ofTenant tn).filterMap (fun t => match t.post with | some p => if p.uses hit then some (t.id, p) else none | none => none),
   (s.ofTenant tn).flatMap (fun t => (t.arms.filter (fun p => hit (p.2.va / 4096))).map (fun p => (t.id, p))),
   s.net.inbound.filter (fun q => match q.page with | some p => p.1 == tn && hit p.2 | none => false)⟩

/-- The invalidation `n` can be completed: every access that used a removed entry has been performed (R292). -/
def State.canInval (s : State) (n : Nat) : Bool :=
  match s.net.invals[n]? with
  | none => false
  | some i =>
    let now := s.usersOf i.tn i.va (fun _ => true)
    i.amops.all (fun a => !now.amops.contains a) && i.elems.all (fun e => !now.elems.contains e)
      && i.posts.all (fun p => !now.posts.contains p) && i.arms.all (fun p => !now.arms.contains p) && i.inbound.all (fun q => !now.inbound.contains q)

/-- The Invalidation Completion leaves. -/
def State.invalDone (s : State) (n : Nat) : State :=
  match s.net.invals[n]? with
  | none => s
  | some i => ({ s with net := { s.net with invals := ldrop s.net.invals n } } : State).send (.invalidated i.tn i.va)

/-- ATS_INVALIDATION_REQUEST (R292): matching entries leave every TLB, open chunks that used one conflict, the host's tables
answer afresh for the pages, and the completion leaves once the accesses that used them have been performed. -/
def execAtsInvalidationRequest (tn : BitVec 4) (va : Nat) (size : Nat) (s : State) : Out :=
  let within (v : Nat) : Bool := decide (va ≤ v * 4096 + 4095) && decide (v * 4096 < va + size)
  let meets (e : TlbEntry) : Bool :=
    e.tn == tn && decide (va < (e.vpage + 2 ^ (e.lg - 12)) * 4096) && decide (e.vpage * 4096 < va + size)
  let gone := s.tlb.filter meets
  let hit (v : Nat) : Bool := within v || gone.any (fun e => e.holds tn e.pasid v)
  let t := s.tenant tn
  let s1 : State := { s with
    tlb := s.tlb.filter (fun e => !meets e)
    net := { s.net with invals := s.net.invals ++ [s.usersOf tn va hit] } }
  let s2 := (s1.setTenant tn { t with
    ptab := t.ptab.filter (fun p => !within p.1), refused := t.refused.filter (fun q => !within q.2) }).updAll (fun u =>
      if u.live && u.id.tenant == tn && u.chunk.pages.any hit && !u.chunk.conflict then
        { u with chunk := { u.chunk with conflict := true, byChunk := false } }
      else u)
  .next ((s2.askWatches tn hit).recheckWaits (fun u => u.id.tenant == tn))

/-! ## BAR 0 (R322, R329) -/

/-- DOORBELL (R322): a 4-byte write to bits 31:0 of a notify word; it takes effect only through the head that owns the queue. -/
def execDoorbell (h : BitVec 1) (q : BitVec 6) (v : BitVec 32) (s : State) : Out :=
  let k := s.queue q
  .next (if s.headUp h && k.valid && k.head == h && k.note != 0 then
    s.arrive ⟨.bell, k.note, .write ((List.range 4).map (fun i => some (byteOf (v.setWidth 64) i))) false, none, false⟩ else s)

/-- The service queue of a head. -/
def serviceQueue (h : BitVec 1) : BitVec 6 := if h = 0 then 0 else 32

/-- A service queue holds no unserved record (R329): HTAIL equals QHEAD. -/
def State.serviceIdle (s : State) (h : BitVec 1) : Bool :=
  let k := s.queue (serviceQueue h)
  decide (((s.readN k.note 8).extractLsb' 0 32).toNat = k.qhead) || k.note == 0

/-- SVRING (R329): bits 56:7 and 3:0; 0 means no ring. -/
def execSvring (h : BitVec 1) (v : Word) (s : State) : Out :=
  if !s.headUp h || !s.serviceIdle h then .next s
  else
    let w := v &&& 0x01FFFFFFFFFFFF8F#64
    let q := serviceQueue h
    let k := s.queue q
    let s1 := s.setHead h { s.head h with svring := w }
    .next (s1.setQueue q { k with
      ring := if w = 0 then 0 else hostAddr h (w &&& 0x01FFFFFFFFFFFF80#64).toNat
      n := if w = 0 then 0 else min 16 ((w.extractLsb' 0 4).toNat + 4) })

/-- SVREP (R329): bits 56:6 and 5:0. -/
def execSvrep (h : BitVec 1) (v : Word) (s : State) : Out :=
  if !s.headUp h || !s.serviceIdle h then .next s
  else
    let w := v &&& 0x01FFFFFFFFFFFFFF#64
    let q := serviceQueue h
    let s1 := s.setHead h { s.head h with svrep := w }
    let line := (w &&& 0x01FFFFFFFFFFFFC0#64).toNat
    .next (s1.setQueue q { s.queue q with
      repLine := if line = 0 then 0 else hostAddr h line
      repVec := w.extractLsb' 0 6 })

/-- TIMESET (R87, R322): writable until stage 6. -/
def execTimeset (h : BitVec 1) (v : Word) (s : State) : Out :=
  .next (if s.headUp h && s.hub.stage < 6 then { s with hub := { s.hub with timeset := v } } else s)

/-! ### What BAR 0 reads as (R322) -/

/-- BSTAT (R336). -/
def Hub.bstat (h : Hub) : Word :=
  match h.failedAt with
  | some n => BitVec.ofNat 64 (256 * n + 15)
  | none => BitVec.ofNat 64 h.stage

/-- The doublewords of the health record (R315). -/
def Hub.healthWord (h : Hub) (i : Nat) : Word :=
  match i with
  | 0 => 0#60 ++ BitVec.ofBool h.scrubOff ++ BitVec.ofBool h.frozen ++ BitVec.ofBool h.health.degraded ++ BitVec.ofBool h.health.repl
  | 1 => BitVec.ofNat 64 h.health.corr
  | 2 => BitVec.ofNat 64 h.health.unc
  | 3 => 0#16 ++ BitVec.ofNat 16 h.health.rows ++ 0#9 ++ BitVec.ofNat 7 h.health.clustersOut ++ 0#6 ++ BitVec.ofNat 10 h.health.coresOut
  | 4 => h.health.last
  | 5 => BitVec.ofNat 64 h.health.drops
  | _ => 0

/-- A byte at an offset of a head's BAR 0: the registers, the capability list, the health record, the MSI-X table with its
pending bits, and, while the module is frozen, the scan window; a write-only word and any other offset read zero (R322). -/
def State.barByte (s : State) (h : BitVec 1) (o : Nat) : Byte :=
  let k := s.head h
  if o < 0x28 then
    byteOf (match o / 8 with
      | 0 => s.hub.bstat
      | 1 => s.hub.timeset
      | 2 => k.svring
      | 3 => k.svrep
      | _ => BitVec.ofNat 64 (s.queue (serviceQueue h)).note) (o % 8)
  else if 0x10000 ≤ o ∧ o < 0x20000 then s.capByte (o - 0x10000)
  else if 0x20000 ≤ o ∧ o < 0x20040 then byteOf (s.hub.healthWord ((o - 0x20000) / 8)) (o % 8)
  else if 0x40000 ≤ o ∧ o < 0x40400 then
    let e := tget (0, 0x100000000) k.msix ((o - 0x40000) / 16)
    byteOf (if o % 16 < 8 then e.1 else e.2) (o % 8)
  else if 0x40800 ≤ o ∧ o < 0x40808 then byteOf k.pba (o % 8)
  else if 0x100000 ≤ o ∧ s.hub.frozen then Config.scanByte (o - 0x100000)
  else 0

/-- A write of `n` bytes of BAR 0, 4 or 8, that has no event of its own: the MSI-X table takes it where it is aligned, and a
vector that is unmasked sends what was pending; any other word discards it. -/
def State.barWrite (s : State) (h : BitVec 1) (o n : Nat) (v : Word) : State :=
  if 0x40000 ≤ o ∧ o < 0x40400 ∧ o % n = 0 then
    let i := (o - 0x40000) / 16
    let k := s.head h
    let e := tget (0, 0x100000000) k.msix i
    let put (w : Word) : Word := (List.range n).foldl (fun w j => putByte w (o % 8 + j) (byteOf v j)) w
    let e1 := if o % 16 < 8 then (put e.1, e.2) else (e.1, put e.2)
    let k1 : Head := { k with msix := tset k.msix i e1 }
    if k.pba.getLsbD i && !e1.2.getLsbD 32 then
      (s.setHead h { k1 with pba := k1.pba &&& ~~~(1#64 <<< i) }).sendMsix h (BitVec.ofNat 6 i)
    else s.setHead h k1
  else s

/-- REGISTER_WRITE (R322): an access of a head to its BAR 0 that has no event of its own. -/
def execRegisterWrite (h : BitVec 1) (off : BitVec 24) (acc : BarAccess) (s : State) : Out :=
  .next (if !s.headUp h then s
    else
      match acc with
      | .write v => s.barWrite h off.toNat 8 v
      | .write4 v => s.barWrite h off.toNat 4 (v.setWidth 64)
      | .read n => s.send (.bytes h ((List.range n).map (fun i => s.barByte h (off.toNat + i)))))

end Sys2Proof.Machine
end

