-- ==== Sys2Proof/Machine/Failures.lean ====
section
/-! DEFINITION. Surviving failure: detected errors and their containment (R312, R313), degraded operation (R314, R315), links
(R332, R335), the completion of a drain (R308, R309), migration and hints (R310, R311), freeze (R316) and the loss of a host
(R317 to R319). -/

namespace Sys2Proof.Machine

/-! ## Health and the capability list (R7, R315) -/

/-- A field of the health record changes. -/
def State.health (s : State) (f : Health → Health) : State := { s with hub := { s.hub with health := f s.hub.health } }

/-- The factor is to rebuild the capability list: GEN will have gone on by 2 (R7). -/
def State.rebuildCaps (s : State) : State := { s with hub := { s.hub with capGen := s.hub.capGen + 2 } }

/-- A rebuild is under way or due; before stage 4 there is no list. -/
def State.capsDue (s : State) : Bool := s.hub.caps.gen != 0 && decide (s.hub.caps.gen < s.hub.capGen)

/-- The next event of a rebuild (R7): GEN becomes odd, the entries and the header are rewritten, GEN becomes even. -/
def State.capStep (s : State) : State :=
  let l := s.hub.caps
  let put (k : CapList) : State := { s with hub := { s.hub with caps := k } }
  if l.gen % 2 = 0 then (put { l with gen := l.gen + 1, fresh := false }).winWritten (winPa 0 (capVa + 16)) 8
  else if l.fresh then (put { l with gen := l.gen + 1, fresh := false }).winWritten (winPa 0 (capVa + 16)) 8
  else
    let k : CapList := { l with entries := s.capEntries, fresh := true }
    (put k).winWritten (winPa 0 capVa) (max l.bytes k.bytes)

/-! ## The handover area (R318) -/

/-- HEADS. -/
def State.headsWord (s : State) : Word :=
  let on (k : Head) : BitVec 1 := BitVec.ofBool (k.up && !k.standby)
  0#60 ++ BitVec.ofBool s.head1.lost ++ BitVec.ofBool s.head0.lost ++ on s.head1 ++ on s.head0

/-- QRING: the base of a ring, with bit 0 set for one in device memory. -/
def ringWord (ring : Nat) : Word :=
  if ring = 0 then 0 else if isHost ring then BitVec.ofNat 64 ((ring - hostBase) % 2 ^ 63) else BitVec.ofNat 64 (ring + 1)

/-- QOWN. -/
def HostQueue.ownWord (k : HostQueue) : Word :=
  0#52 ++ BitVec.ofBool k.service ++ BitVec.ofBool k.valid ++ BitVec.ofBool k.lost ++ k.head ++ 0#4 ++ (if k.service then 0 else k.owner)

/-- The entry of a queue: QRING, QSIZE, QHEAD, QTAIL, QNOTE, QOWN. -/
def State.queueWords (s : State) (k : HostQueue) : List Word :=
  [ringWord k.ring, if k.ring = 0 then 0 else BitVec.ofNat 64 (2 ^ k.n), BitVec.ofNat 64 k.qhead,
   if k.note = 0 then 0 else s.readN k.note 4, BitVec.ofNat 64 k.note, k.ownWord]

/-- TPAS0 or TPAS1. -/
def pasidWord (p : Option (BitVec 20)) : Word :=
  match p with
  | some v => 1#1 ++ 0#43 ++ v
  | none => 0

/-- The number of a TDISP state (R318). -/
def tdispCode : Tdisp → Nat
  | .unlocked => 0
  | .locked => 1
  | .run => 2
  | .error => 3

/-- TRECT (R318). -/
def Rect.word (r : Rect) : Word := 0#50 ++ r.hm1 ++ r.crow0 ++ r.wm1 ++ r.ccol0

/-- The entry of a tenant: TSTATE, TRECT, TPAS0, TPAS1, TQ0; TQ0 reads 0 before a first launch (log 92). -/
def Tenant.handWords (t : Tenant) : List Word :=
  [0#59 ++ BitVec.ofBool t.keyed1 ++ BitVec.ofBool t.keyed0 ++ BitVec.ofNat 3 (tdispCode t.tdisp), t.rect.word,
   pasidWord t.pasid0, pasidWord t.pasid1, BitVec.ofNat 64 ((t.firstQueue.map BitVec.toNat).getD 0)]

/-- What the area is to hold besides its GEN: the doublewords that are not 0, by index, in ascending order. -/
def State.handoverWords (s : State) : Tab Word :=
  let at_ (i : Nat) (l : List Word) : Tab Word := l.zipIdx.map (fun p => (i + p.2, p.1))
  (at_ 0 [0x4F564448, 0, s.headsWord] ++ s.queues.flatMap (fun p => at_ (8 + 8 * p.1) (s.queueWords p.2))
    ++ s.tenants.flatMap (fun p => at_ (520 + 8 * p.1) p.2.handWords)).filter (fun p => p.2 != 0)

/-- The area is to be updated, or is being updated. -/
def State.handoverDue (s : State) : Bool := s.hub.handover.gen % 2 == 1 || s.hub.handover.words != s.handoverWords

/-- The next event of an update under the GEN rule (R7, R318). -/
def State.handoverStep (s : State) : State :=
  let h := s.hub.handover
  let w := s.handoverWords
  let put (k : Handover) : State := { s with hub := { s.hub with handover := k } }
  let cell (p : Nat × Word) : List Host.Cell := cellsOf (handoverAt + 8 * p.1) 8 p.2
  if h.gen % 2 = 1 ∧ h.words ≠ w then
    let new := w.filter (fun p => tget 0 h.words p.1 != p.2)
    let gone := (h.words.filter (fun p => (tfind w p.1).isNone)).map (fun p => (p.1, (0 : Word)))
    (put { h with words := w }).writeEvent none false ((new ++ gone).flatMap cell)
  else (put { h with gen := h.gen + 1 }).writeEvent none false (cell (1, BitVec.ofNat 64 (h.gen + 1)))

/-- The row of R312 that a mechanism stands in, counted from 1. -/
def mechRow : Mechanism → Nat
  | .dramEcc => 1
  | .secded => 2
  | .parity => 3
  | .crc => 4
  | .residue => 5

/-- HLAST (R315). -/
def hlast (row at_ : Nat) : Word := BitVec.ofNat 8 row ++ 0#46 ++ BitVec.ofNat 10 at_

/-- CORRECTED_ERROR (R312): counted; nothing else changes. -/
def execCorrectedError (mech : Mechanism) (at_ : Nat) (s : State) : Out :=
  .next (s.health (fun h => { h with corr := h.corr + 1, last := hlast (mechRow mech) at_ }))

/-! ## Losing threads, cores and clusters (R314) -/

/-- What is left of a lost root, whose entry names core `c`: its FLTA and its table; every other register and state word reads
zero (R314). -/
def Thread.husk (c : BitVec 10) (t : Thread) : Thread :=
  let a : Arch := { Arch.zero with sts := 0, rngs := 0, live := 0, flta := t.arch.flta }
  { t.ended true 0 with
    core := c
    hollow := true
    arch := a
    chunk := Chunk.fresh a
    region := none
    squashes := 0
    solo := none
    queues := Vector.replicate 8 QHandle.unbound
    post := none
    aslot := .none
    stopped := none
    woken := none
    place := .loft }

/-- A core that runs, for the entry of a lost root: one of its cluster, or the first of the tenant's rectangle (R15, log 115). -/
def State.huskCore (s : State) (t : Thread) : BitVec 10 :=
  ((clusterCores (clusterOf t.core) ++ (s.tenant t.id.tenant).rect.clusters.flatMap clusterCores).find? s.coreOk).getD t.core

/-- A thread is lost (R314): a record goes to the tenant root's line and the rank is freed, except rank 0; it counts as
halted, for its crew's loom too (R113). Whether the last committed PC could be read is a free value (log 17). -/
def State.loseThread (detail : Nat) (s : State) (id : ThreadId) : State :=
  match s.find id with
  | none => s
  | some t =>
    let cl := clusterOf t.core
    let pc := if Config.freeBit s.free then t.chunk.start.pc else 0
    let s1 := (({ s with free := s.free + 1 } : State).releaseGroups t).leaveDomains id none
    let s2 :=
      if id.rank = 0 then (s1.upd id (Thread.husk (s.huskCore t))).rankWritten id
      else (s1.upd id (fun t => { t with run := .halted, post := none, arms := [] })).freeRank t
    (s2.deliver none (coreOf cl 0) (s2.tenant id.tenant).rootFlta
      ⟨0x16, 5, id.tenant, 0, pc, 0, rengWord 5 0 cl, 0, 0, 0, rdetWord detail 0 0⟩).releaseLoom cl

/-- The lines of which a core holds the only modified copy: those modified in its L1, in its slice of the L2, or by its partials
(R305). -/
def State.ownedLines (s : State) (p : BitVec 10 → Bool) : List Nat :=
  lsort ((s.partials.filter (fun q => p q.core && !q.atHome)).map (fun q => lineOf q.pa)
    ++ s.cores.flatMap (fun q =>
      if p (BitVec.ofNat 10 q.1) then q.2.dirty ++ (q.2.l2.filter (fun l => l.2)).map Prod.fst else []))

/-- The caches of the failed cores are gone, and lines lost with what held their only modified copy become poison with detail 2
(R305). -/
def State.loseLines (s : State) (p : BitVec 10 → Bool) : State :=
  let ls := s.ownedLines p
  let s1 : State := { s with
    partials := s.partials.filter (fun q => !(p q.core && !q.atHome))
    cores := s.cores.map (fun q =>
      if p (BitVec.ofNat 10 q.1) then (q.1, { q.2 with l1d := [], l1i := [], dirty := [], l2 := [] }) else q) }
  ls.foldl (fun s l => s.markPoison l 2) s1

/-- An owner and a descriptor after some cores have left: MODE 1 falls back to MODE 0, a MODE 2 mask is homed afresh; none when
nothing changes (R153). -/
def rehomed (h : Option (BitVec 4) × Word × Word) (gone : BitVec 10 → Bool) : Option (Option (BitVec 4) × Word × Word) :=
  let d0 := h.2.1
  match homeMode d0 with
  | 1 => if gone (d0.extractLsb' 0 10) then some (h.1, d0 &&& 0x3FFFFFFFFFFFFFFF#64, h.2.2) else none
  | 2 => if (List.range 64).any (fun b => h.2.2.getLsbD b && gone (groupCore (d0.extractLsb' 32 4).toNat b)) then some h else none
  | _ => none

/-- A region whose homes have left drains and is homed afresh; one that drains already ends at the descriptor that is left
(R153). -/
def State.rehomeOne (gone : BitVec 10 → Bool) (s : State) (r : Nat) : State :=
  let k := s.region r
  match k.drain with
  | none =>
    (match rehomed (k.owner, k.d0, k.d1) gone with
    | some h => s.beginDrain r none (some h)
    | none => s)
  | some (b, h) =>
    match rehomed (h.getD (k.owner, k.d0, k.d1)) gone with
    | some h1 => s.setRegion r { k with drain := some (b, some h1) }
    | none => s

/-- Every region whose homes have left. -/
def State.rehomeAll (s : State) (gone : BitVec 10 → Bool) : State :=
  (s.regions.map (fun p => p.1)).foldl (State.rehomeOne gone) s

/-- What a map-out changes besides the part: the health record and the capability list (R314, R315). -/
def State.mappedOutPart (s : State) (f : Health → Health) : State :=
  (s.health (fun h => { f h with repl := true, degraded := true })).rebuildCaps

/-- Another core of a cluster. -/
def State.otherCore (s : State) (c : BitVec 10) : Option (BitVec 10) :=
  (clusterCores (clusterOf c)).find? (fun k => k != c && s.coreOk k)

/-- Where a thread goes when core `c` has failed and core `o` of the cluster takes its place: one in a slot of `c` moves, or,
when its tenant is switched out, waits in the save area as a woken thread; a docket or a move that was bound for `c` is bound
for the other core (R15, R314). -/
def Thread.leaveCore (now : Nat) (out : Bool) (c o : BitVec 10) (t : Thread) : Thread :=
  match t.place with
  | .slot _ _ =>
    if out then { t with place := .save, core := o, waits := 0, woken := some (t.woken.getD now) }
    else { t with place := .moving o, waits := 0 }
  | .moving d => { t with place := .moving (if d = c then o else d), core := if t.core = d && d = c then o else t.core }
  | _ => { t with core := o }

/-- A thread that a core's failure concerns: in a slot of it, or with a docket or a move bound for it. -/
def Thread.onCore (c : BitVec 10) (t : Thread) : Bool :=
  match t.place with
  | .slot k _ => k == c
  | .moving d => d == c
  | _ => t.core == c

/-- A packet whose home has failed: its elements that are not yet applied are faulted with poison detail 2 (R314). -/
def Packet.failed (p : Packet) : Packet :=
  { p with pos := p.elems.length, bad := p.bad ++ ((List.range p.elems.length).drop p.pos).map (fun i => (i, 0x05#8, 2)) }

/-- The packets bound for a cluster fail. -/
def State.failPackets (s : State) (cl : BitVec 7) : State :=
  let bound (p : Packet) : Bool := p.dest == .cluster cl
  let lost := s.net.packets.filter bound
  let s1 : State := { s with net := { s.net with
    packets := s.net.packets.filter (fun p => !bound p), acks := s.net.acks ++ lost } }
  lost.foldl (fun s p => p.failed.badRanks.foldl (State.rankRecord p.failed) s) s1

/-- A porter is mapped out: its commands complete with ABANDON, one whose completion write has to wait when it can be made
(R314). -/
def State.abandonPorter (s : State) (cl : BitVec 7) (n : BitVec 2) : State :=
  let p := (s.cluster cl).porter n
  (s.setPort cl n { p with mapped := true, st := 0, pres := 0, pfcmd := 0, pfpos := 0, frank := 0 }).skipPort cl n p.queue.length

/-- A command of a loom that is mapped out: as LRES 3 flushes it; the write of a `tsync` that has to wait is made when its line
is free (R130, R314). -/
def State.flushOut (cl : BitVec 7) (lfcmd : Nat) (s : State) (c : LoomCmd) : State :=
  if c.op = .tsync ∧ s.bookHeld c .write (va57 c.opa) then
    let s1 := s.enterLate ⟨.bell, c.id.tenant, va57 c.opa, .write ((natBytes 8 (c.seq + 2 ^ 63)).map some) false⟩
    s1.putLoom cl ((s1.cluster cl).loom.put { c with phase := .done, dropped := true })
  else if c.op = .unwind ∧ c.seq = lfcmd then s.skipCmd cl c
  else s.flushCmd cl c

/-- A loom is mapped out: its commands are flushed as by LRES 3 (R314). -/
def State.flushLoom (s : State) (cl : BitVec 7) : State :=
  let l := (s.cluster cl).loom
  let s1 := s.putLoom cl { l with
    mapped := true, st := if l.st = 2 then 1 else l.st, lres := 0, lfcmd := 0, frank := 0
    queue := l.queue.map (fun c => if c.phase = .done then { c with dropped := true } else c) }
  ((l.queue.filter (fun c => c.phase != .done)).foldl (State.flushOut cl l.lfcmd) s1).loomCount cl none

/-- A cluster is mapped out (R314). -/
def State.mapOutCluster (s : State) (cl : BitVec 7) : State :=
  if (s.cluster cl).mappedOut then s
  else
    let gone (c : BitVec 10) : Bool := clusterOf c == cl
    let s1 := [0#2, 1, 2, 3].foldl (fun s n => s.abandonPorter cl n) s
    let s2 := (s1.flushLoom cl).depart cl (fun _ => true)
    let s3 := s2.setCluster cl { s2.cluster cl with mappedOut := true }
    let ids := (s3.threads.filter (fun t => t.live && gone t.core)).map Thread.id
    let s4 := (ids.foldl (State.loseThread 2) s3).failPackets cl
    let s5 : State := { s4 with net := { s4.net with crewGos := s4.net.crewGos.filter (fun g => g.cl != cl) } }
    ((s5.loseLines gone).rehomeAll gone).mappedOutPart (fun h => { h with clustersOut := h.clustersOut + 1 })

/-- A core is mapped out (R313, R314): its open chunks are squashed, `lost` names the threads that fail their checks, and every
other moves to another core of the cluster. THE MODEL'S CHOICE (log 115): with its last core a cluster is mapped out. -/
def State.mapOutCore (s : State) (c : BitVec 10) (lost : List ThreadId) : State :=
  if (s.core c).mappedOut then lost.foldl (State.loseThread 1) s
  else
    let here := (s.threads.filter (fun t => t.live && t.onCore c)).map Thread.id
    let s1 := (s.setCore c { s.core c with mappedOut := true }).updAll (fun t =>
      if (t.slotOn c).isSome && t.live && t.stopped.isNone && t.run == .ready then t.squash else t)
    let s2 := lost.foldl (State.loseThread 1) s1
    let s3 := match s1.otherCore c with
      | some o => (here.filter (fun i => !lost.contains i)).foldl (fun (s : State) i =>
          s.place i (Thread.leaveCore s.cyc (s.tenant i.tenant).out c o)) s2
      | none => s2.mapOutCluster (clusterOf c)
    ((s3.loseLines (fun k => k == c)).rehomeAll (fun k => k == c)).mappedOutPart (fun h => { h with coresOut := h.coresOut + 1 })

/-! ## Containment (R313) -/

/-- A loom stops at the command concerned with a tile record of detail 5 (R313). -/
def State.loomDamage (s : State) (cl : BitVec 7) (rtile : Word) : State :=
  match (s.cluster cl).loom.queue.find? (fun c => c.phase != .done) with
  | some c => s.loomStop cl c ⟨0x0B, 5, 0, 0, 0, none⟩ 0 rtile
  | none => s

/-- A porter stops as for a storage error (R313). -/
def State.porterDamage (s : State) (cl : BitVec 7) (n : BitVec 2) : State :=
  let p := (s.cluster cl).porter n
  match p.queue.head? with
  | some c => if p.st = 2 then s else s.portStop cl n c ⟨0x0B, 5, 0, 0, 0, none⟩
  | none => s

/-- An access that has an answer with data. -/
def InOp.asks : InOp → Bool
  | .write _ _ => false
  | _ => true

/-- A freeze: every clock but the security engine's stops, and what has been asked of the module and is not performed is
answered poisoned, or dropped (R316). -/
def State.freeze (s : State) : State :=
  let asks := ((s.net.inbound.map (fun q => (q.asker, q.what))) ++ s.net.late.map (fun q => (q.asker, q.what))).filter (fun p => p.2.asks)
  asks.foldl (fun s p => s.answerTo p.1 p.2.len none)
    { s with hub := { s.hub with frozen := true }, net := { s.net with inbound := [], late := [], farPackets := [] } }

/-- A detected error that is not corrected is contained (R313). -/
def State.contain (s : State) : ErrorSite → State
  | .line a => s.markPoison (lineOf a) 1
  | .l2Line a => s.markPoison (lineOf a) 1
  | .thread id =>
    match s.find id with
    | some t => s.mapOutCore t.core [id]
    | none => s
  | .warp cl w => (s.putLoom cl ((s.cluster cl).loom.setWarp w Operand.empty)).loomDamage cl 0
  | .weft cl => (s.putLoom cl { (s.cluster cl).loom with weft := Operand.empty }).loomDamage cl 0
  | .tile cl t => (s.putLoom cl ((s.cluster cl).loom.setTile t Tile.clear)).loomDamage cl (t.setWidth 64)
  | .core c lost => s.mapOutCore c lost
  | .cluster cl => s.mapOutCluster cl
  | .porter cl n again => if again then (s.abandonPorter cl n).mappedOutPart id else s.porterDamage cl n
  | .loom cl again => if again then (s.flushLoom cl).mappedOutPart id else s.loomDamage cl 0
  | .lostCopy a => s.markPoison (lineOf a) 2
  | .uncontained => s.freeze

/-- The core or cluster of an error, for HLAST. -/
def State.siteIndex (s : State) : ErrorSite → Nat
  | .line _ => 0
  | .l2Line a => (s.homeCore a).toNat
  | .thread id => match s.find id with | some t => t.core.toNat | none => 0
  | .warp cl _ => cl.toNat
  | .weft cl => cl.toNat
  | .tile cl _ => cl.toNat
  | .core c _ => c.toNat
  | .cluster cl => cl.toNat
  | .porter cl _ _ => cl.toNat
  | .loom cl _ => cl.toNat
  | .lostCopy _ => 0
  | .uncontained => 0

/-- An uncorrected error is counted and contained. -/
def State.detected (s : State) (m : Mechanism) (e : ErrorSite) : State :=
  (s.health (fun h => { h with unc := h.unc + 1, last := hlast (mechRow m) (s.siteIndex e) })).contain e

/-- The mechanism that finds a storage error (R312). -/
def siteMech : ErrorSite → Mechanism
  | .line _ => .dramEcc
  | _ => .secded

/-- UNCORRECTABLE_ERROR (R313). -/
def execUncorrectableError (e : ErrorSite) (s : State) : Out := .next (s.detected (siteMech e) e)

/-- LOGIC_FAULT (R313). -/
def execLogicFault (e : ErrorSite) (s : State) : Out := .next (s.detected .residue e)

/-- DRAM_ROW_REMAP (R314, R315): a spare row replaces the failed one; once the spares have run out, which is a free value (log
17), the region moves to far memory, and the place that it leaves goes out of service. -/
def execDramRowRemap (r : Nat) (s : State) : Out :=
  let out := Config.freeBit s.free
  let s1 : State := { s with free := s.free + 1 }
  let s2 := s1.mappedOutPart (fun h => { h with rows := h.rows + if out then 0 else 1 })
  let k := s2.region r
  if out && k.tier.isSome then .next (s2.setRegion r { k with moving := some 8, retired := true })
  else .next s2

/-- PATROL_SCRUB (R312): while the scrub is on, a fault that it finds is contained. -/
def execPatrolScrub (found : Option ErrorSite) (s : State) : Out :=
  match found with
  | some e => .next (if s.hub.scrubOff then s else s.detected (siteMech e) e)
  | none => .next s

/-- A unit is mapped out with its bus (R312): a core, a porter, a loom or a cluster. -/
def State.mapOutUnit (s : State) : ErrorSite → State
  | .porter cl n _ => s.contain (.porter cl n true)
  | .loom cl _ => s.contain (.loom cl true)
  | .warp cl _ => s.contain (.loom cl true)
  | .weft cl => s.contain (.loom cl true)
  | .tile cl _ => s.contain (.loom cl true)
  | e => s.contain e

/-- PARITY_REPLAY (R312): after 8 failed replays the bus is mapped out with its unit. -/
def execParityReplay (unit : ErrorSite) (failed : Bool) (s : State) : Out :=
  .next (if failed then
    (s.health (fun h => { h with unc := h.unc + 1, last := hlast (mechRow .parity) (s.siteIndex unit) })).mapOutUnit unit else s)

/-! ## Links (R312, R332, R335) -/

/-- A link of the mesh or between dies is in recovery, or is not. -/
def State.setRecovery (s : State) (l : LinkId) (b : Bool) : State :=
  let rest := s.hub.recovery.filter (fun k => k != l)
  { s with hub := { s.hub with recovery := if b then l :: rest else rest } }

/-- FLIT_REPLAY (R312, R315): after 16 failed replays the link enters recovery, and an error that was not corrected is
counted. -/
def execFlitReplay (link : LinkId) (failed : Bool) (s : State) : Out :=
  if !failed then .next s
  else
    let s1 := s.health (fun h => { h with unc := h.unc + 1, last := hlast (mechRow .crc) 0 })
    match link with
    | .yv l => .next (if (s.link l).up then s1.setLink l { s.link l with recovery := true } else s1)
    | l => .next (s1.setRecovery l true)

/-- LINK_RECOVERY (R312, R332, R335): the link returns; a YV link that does not goes down, and entry 0x0007 is rebuilt; any
other stays in recovery (log 17). -/
def execLinkRecovery (link : LinkId) (failed : Bool) (s : State) : Out :=
  match link with
  | .yv l =>
    if !(s.link l).recovery then .next s
    else if failed then .next ((s.setLink l { s.link l with recovery := false, up := false }).rebuildCaps)
    else .next (s.setLink l { s.link l with recovery := false })
  | l => .next (if failed then s else s.setRecovery l false)

/-- LANE_FAILURE (R332, R335): a link runs on 4 lanes, or with fewer good lanes goes down. -/
def execLaneFailure (link : BitVec 4) (lane : BitVec 3) (s : State) : Out :=
  let l := s.link link
  if !l.good.getLsbD lane.toNat then .next s
  else
    let l1 : Link := { l with good := l.good &&& ~~~(1#8 <<< lane.toNat) }
    let l2 : Link := if l1.lanes < 4 then { l1 with up := false } else l1
    .next (if l.up then (s.setLink link l2).rebuildCaps else s.setLink link l2)

/-- LINK_UP (R335). -/
def execLinkUp (link : BitVec 4) (s : State) : Out :=
  let l := s.link link
  if l.up || l.lanes < 4 then .next s else .next ((s.setLink link { l with up := true }).rebuildCaps)

/-! ## Drains (R308, R309) -/

/-- Step 4 of R308 can be taken: no line of the region is held or leased. -/
def State.canDrain (s : State) (r : Nat) : Bool :=
  (s.region r).drain.isSome && !s.threads.any (fun t => t.live && t.owns.any (fun l => l / 1024 == r))

/-- DRAIN_COMPLETE (R308): the bias or the descriptor changes and the threads that wait for the region are woken, with
CODE 11 those parked on its completion word. -/
def execDrainComplete (r : Nat) (s : State) : Out :=
  if !s.canDrain r then .next s
  else
    let k := s.region r
    match k.drain with
    | none => .next s
    | some (bias, home) =>
      let k1 : Region := { k with drain := none, hostBias := bias.getD k.hostBias }
      let k2 : Region := match home with
        | some (o, d0, d1) => { k1 with owner := o, d0 := d0, d1 := d1 }
        | none => k1
      let ws := s.threads.filterMap (fun t =>
        if t.live && t.stopped.isNone && t.run == .parked (.drain r) then some (⟨t.id, 11⟩ : Wake) else none)
      let s1 := (s.setRegion r k2).backRegion r
      let s2 := { s1 with net := { s1.net with wakes := s1.net.wakes ++ ws } }.recheckWaits (fun t => some t.id.tenant == k.owner)
      .next (k.owner.toList.foldl State.checkWatches s2)

/-! ## Migration and hints (R310, R311) -/

/-- The die with the most accesses, the lowest among equals. -/
def mostOf (l : List Nat) : Nat := (List.range l.length).foldl (fun b d => if l.getD b 0 < l.getD d 0 then d else b) 0

/-- Regions that will be in the near memory of a die once the moves under way are done. -/
def State.nearAfter (s : State) (d : Nat) : Nat := (s.regions.filter (fun p => p.2.moving.orElse (fun _ => p.2.tier) == some d)).length

/-- A region that never moves: one that is pinned, or that holds a cellar or a save area (R310). Lofts are no memory with an
address, and the pages of an indenture pool lie in no region that the model names (DESIGN CHOICE, log 107). -/
def State.neverMoves (s : State) (r : Nat) : Bool :=
  (s.region r).pinned || s.tenants.any (fun p =>
    let t := p.2
    t.valid && ((t.cellarPages != 0 && decide (regionOf t.cellar ≤ r) && decide (r ≤ regionOf (t.cellar + 4096 * t.cellarPages - 1)))
      || (t.save != 0 && regionOf t.save == r)))

/-- The near region of a die with the lowest count, if it may move (R310). THE MODEL'S CHOICE (log 116): among equals it is
the region of the lowest address; and at the end of an epoch the far regions are taken in ascending address (`execEpochEnd`). -/
def State.coldest (s : State) (d : Nat) : Option Nat :=
  let l := s.regions.filter (fun p => p.2.tier == some d && p.2.moving.isNone && !s.neverMoves p.1)
  (l.foldl (fun (b : Option (Nat × Nat)) p =>
    let c := p.2.counts.sum
    match b with
    | none => some (p.1, c)
    | some (_, m) => if c < m then some (p.1, c) else b) none).bind (fun p => if p.2 < 16 then some p.1 else none)

/-- A far region whose count has reached 512 moves to the near memory of the die with the most accesses (R310). -/
def State.migrate (s : State) (r : Nat) : State :=
  let k := s.region r
  if s.neverMoves r || k.tier ≠ some 8 || k.moving.isSome || k.counts.sum < 512 then s
  else
    let d := mostOf k.counts
    let go (s : State) : State := s.setRegion r { s.region r with moving := some d }
    if (s.nearAfter d + s.hub.lostFrames.count d + 1) * 65536 ≤ Config.nearBytes then go s
    else
      match s.coldest d with
      | some v => go (s.setRegion v { s.region v with moving := some 8 })
      | none => s

/-- The counts of a region as a new epoch finds them: those of device memory are halved (R310), and those that hints are given
for start at 0 (R311). -/
def Region.nextEpoch (r : Nat) (k : Region) : Region :=
  { k with counts := if isDevice (65536 * r) then k.counts.map (· / 2) else [], hostCount := 0, hinted := false }

/-- EPOCH_END (R310, R311): the counts of the epoch decide moves and hints, and a new one begins. -/
def execEpochEnd (s : State) : Out :=
  let s0 := s.reach (s.hub.epochAt + Config.epochCycles)
  let s1 : State := { s0 with hub := { s0.hub with epochAt := s0.cyc } }
  let s2 := (s1.regions.map (fun p => p.1)).foldl State.migrate s1
  let s3 := (s2.tenants.map (fun p => BitVec.ofNat 4 p.1)).foldl (fun s tn => s.hintsOf tn (fun _ => true)) s2
  .next { s3 with regions := s3.regions.map (fun p => (p.1, p.2.nextEpoch p.1)) }

/-- The contents of a region can take their new place: near memory has room for them (R310, R374). -/
def State.canMigrate (s : State) (r : Nat) : Bool :=
  match (s.region r).moving with
  | none => false
  | some d => decide (8 ≤ d) || decide (((s.regions.filter (fun p => p.2.tier == some d)).length + s.hub.lostFrames.count d + 1) * 65536
      ≤ Config.nearBytes)

/-- REGION_MIGRATION_COMPLETE (R310, R314, R374): the contents have moved; the address has not changed. A place whose row had
failed goes out of service. -/
def execRegionMigrationComplete (r : Nat) (s : State) : Out :=
  let k := s.region r
  match k.moving, s.canMigrate r with
  | some d, true =>
    let s1 := s.setRegion r { k with tier := some d, moving := none, retired := false }
    match k.retired, k.tier with
    | true, some p =>
      let place := if p < 8 then p else 8 + Config.farChannel r % 48
      .next ({ s1 with hub := { s1.hub with lostFrames := place :: s1.hub.lostFrames } } : State).rebuildCaps
    | _, _ => .next s1
  | _, _ => .next s

/-! ## Freeze (R316) -/

/-- FREEZE_WORD (R316): through an active head. -/
def execFreezeWord (h : BitVec 1) (v : BitVec 32) (s : State) : Out :=
  .next (if v = 0x46525A45 ∧ s.headUp h ∧ !(s.head h).standby then s.freeze else s)

/-! ## The loss of a host (R317, R319) -/

/-- Lines of the lost host leave the device: chunks that hold one conflict, and cached copies go. -/
def State.dropHostLines (s : State) (h : BitVec 1) : State :=
  let mine (l : Nat) : Bool := isHost (64 * l) && hostOf (64 * l) == h
  let s1 := s.updAll (fun t => t.strike none false (t.chunk.lines.filter mine))
  let s2 := s1.writtenBy none false [] (Thread.watching true mine) 10
  { s2 with cores := s2.cores.map (fun p => (p.1, p.2.without mine)) }

/-- Translations that a tenant has asked a lost host for will not come: the threads that wait for a page run their chunk
again, and find the host lost (R317). -/
def State.tenantUnasked (s : State) (tn : BitVec 4) : State :=
  let s1 := s.setTenant tn { s.tenant tn with priWait := [] }
  let s2 : State := { s1 with net := { s1.net with ats := s1.net.ats.filter (fun q => q.1 != tn) } }
  s2.updAll (fun t =>
    if t.live && t.id.tenant == tn && t.priWait.isSome then
      (if t.stopped.isSome then { t with run := .ready } else t.ready s.cyc (fun a => a))
    else t)

/-- What the loss of a head's host does to a tenant (R317, R319): its PASID there is gone, its stream there too, and a tenant
whose stream on the surviving head was not keyed goes to ERROR. -/
def State.tenantLosesHost (h : BitVec 1) (s : State) (tn : BitVec 4) : State :=
  let t := s.tenant tn
  let uses := if h = 0 then t.pasid0.isSome else t.pasid1.isSome
  if !t.valid || !uses then s.setTenant tn (if h = 0 then { t with keyed0 := false } else { t with keyed1 := false })
  else
    let other := if h = 0 then t.keyed1 else t.keyed0
    let s1 := if t.head = h then s.abortHost tn else s
    let s1 := if t.head = h then s1.tenantUnasked tn else s1
    let s2 := s1.setTenant tn (if h = 0 then
        { s1.tenant tn with pasid0 := none, keyed0 := false, hostLost := t.hostLost || t.head == 0 }
      else { s1.tenant tn with pasid1 := none, keyed1 := false, hostLost := t.hostLost || t.head == 1 })
    if s2.frozenConfig tn && !other then s2.toError tn else s2

/-- A host is lost, in one event (R317); the other head is the active one from then on (R22), and what was bound to the session
of the lost one goes by R319 alone (log 114). -/
def State.loseHost (s : State) (h : BitVec 1) : State :=
  let s0 := s.setHead h { s.head h with lost := true, session := false }
  let s1 := (s0.setHead (h + 1) { s0.head (h + 1) with standby := false }).rebuildCaps
  let s2 : State := { s1 with queues := s1.queues.map (fun p =>
    if p.2.valid && isHost p.2.ring && hostOf p.2.ring == h then (p.1, { p.2 with lost := true, st := .idle }) else p) }
  (s2.tenants.map (fun p => BitVec.ofNat 4 p.1)).foldl (State.tenantLosesHost h) (s2.dropHostLines h)

/-- HOST_LINK_DOWN_TIMEOUT (R317). -/
def execHostLinkDownTimeout (h : BitVec 1) (s : State) : Out :=
  let k := s.head h
  if k.up || k.lost || k.downAt = 0 then .next s
  else .next ((s.reach (k.downAt - 1 + Config.hostLostCycles)).loseHost h)

/-- ADOPTION_WORD (R317): the standby host writes it on its own head while the other head's link is down. -/
def execAdoptionWord (h : BitVec 1) (v : BitVec 32) (s : State) : Out :=
  let o := h + 1
  .next (if v = 0x41444F50 ∧ s.headUp h ∧ (s.head h).standby ∧ !(s.head o).up ∧ !(s.head o).lost then s.loseHost o else s)

/-- HOST_LINK_DOWN (R317): the count toward the loss of the host begins. -/
def execHostLinkDown (h : BitVec 1) (s : State) : Out :=
  let k := s.head h
  .next (if k.up then (s.setHead h { k with up := false, downAt := s.cyc + 1, linkIde := false }).rebuildCaps else s)

/-- HOST_LINK_UP (R22): the head is active or on standby; one head is always active. A host that was lost and comes back is lost
no more once no tenant waits for a rebind: the spec says nothing of its return (DESIGN CHOICE, log 69). -/
def execHostLinkUp (h : BitVec 1) (standby : Bool) (s : State) : Out :=
  let k := s.head h
  let o := s.head (h + 1)
  .next (if k.up then s
    else ((s.setHead h { k with up := true, downAt := 0, standby := standby && o.up && !o.standby }).returned).rebuildCaps)

end Sys2Proof.Machine
end

