-- ==== Sys2Proof/Machine/Security.lean ====
section
/-! DEFINITION. Host-facing security: measurements, IDE and SPDM sessions (R293, R294, R296), the TDISP requests (R295, R296)
and the scrub (R297); and the hub die's own events: reset and bring-up (R336), D3hot (R337), PLDM sensors (R338). -/

namespace Sys2Proof.Machine

/-! ## Sessions and streams (R293, R294, R296) -/

/-- Sets the key mark of a tenant's stream on a head. -/
def Tenant.setKeyed (t : Tenant) (h : BitVec 1) (b : Bool) : Tenant :=
  if h = 0 then { t with keyed0 := b } else { t with keyed1 := b }

/-- A tenant has a PASID on a head. -/
def Tenant.onHead (t : Tenant) (h : BitVec 1) : Bool := if h = 0 then t.pasid0.isSome else t.pasid1.isSome

/-- A tenant in CONFIG_LOCKED or RUN goes to ERROR; any other is left as it is (R296). -/
def State.fail (s : State) (tn : BitVec 4) : State := if s.frozenConfig tn then s.toError tn else s

/-- The tenants that satisfy `p`. -/
def State.tenantsWith (s : State) (p : Tenant → Bool) : List (BitVec 4) :=
  (s.tenants.filter (fun q => p q.2)).map (fun q => BitVec.ofNat 4 q.1)

/-- A session ends (R296): its IDE keys are invalidated, and the tenants bound to it go to ERROR. -/
def State.sessionOver (s : State) (h : BitVec 1) : State :=
  if !(s.head h).session then s
  else
    let s1 := s.setHead h { s.head h with session := false, linkIde := false }
    (s1.tenantsWith (fun t => t.keyed h)).foldl (fun s tn =>
      (s.setTenant tn ((s.tenant tn).setKeyed h false)).fail tn) s1

/-- SPDM_SESSION_START (R296): the security engine keys link CXL IDE in it. -/
def execSpdmSessionStart (h : BitVec 1) (s : State) : Out :=
  .next (if s.headUp h then s.setHead h { s.head h with session := true, beat := s.cyc, linkIde := true } else s)

/-- HEARTBEAT (R319): through the head's DOE. -/
def execHeartbeat (h : BitVec 1) (s : State) : Out :=
  .next (if s.headUp h && (s.head h).session then s.setHead h { s.head h with beat := s.cyc } else s)

/-- KEY_UPDATE (R296): a failed one expires the session. -/
def execKeyUpdate (h : BitVec 1) (ok : Bool) (s : State) : Out := .next (if ok then s else s.sessionOver h)

/-- The cycle by which the next heartbeat of a head's session is due (R319). -/
def State.beatDue (s : State) (h : BitVec 1) : Option Nat :=
  if (s.head h).session then some ((s.head h).beat + Config.heartbeatPeriod) else none

/-- SESSION_EXPIRY (R296, R319): a heartbeat is missed. -/
def execSessionExpiry (h : BitVec 1) (s : State) : Out :=
  match s.beatDue h with
  | some c => .next ((s.reach c).sessionOver h)
  | none => .next s

/-- END_SESSION (R296). -/
def execEndSession (h : BitVec 1) (s : State) : Out := .next (s.sessionOver h)

/-- IDE_KM (R294): the keys of a tenant's stream, inside a session. -/
def execIdeKm (h : BitVec 1) (tn : BitVec 4) (s : State) : Out :=
  .next (if (s.head h).session then s.setTenant tn ((s.tenant tn).setKeyed h true) else s)

/-- IDE_INTEGRITY_FAILURE (R294): on a tenant's stream it concerns that tenant, on the link every tenant of the head. -/
def execIdeIntegrityFailure (h : BitVec 1) (tn : Option (BitVec 4)) (s : State) : Out :=
  match tn with
  | some t => .next (s.fail t)
  | none => .next ((s.tenantsWith (fun t => t.onHead h)).foldl State.fail (s.setHead h { s.head h with linkIde := false }))

/-- What a measurement block measures, in numbers: block 3 the map-out state (R313, R314), block 4 the capability list as it
was first built; the firmware, the fuses and the die steppings are the part's own (R293). -/
def State.measured (s : State) (i : Nat) : List Nat :=
  match i with
  | 3 => [bitmapOf 1024 s.coreGone, bitmapOf 128 s.clusterGone, bitmapOf 128 (fun i => (s.cluster (BitVec.ofNat 7 i)).loom.mapped),
      bitmapOf 512 (fun i => ((s.cluster (BitVec.ofNat 7 (i / 4))).porter (BitVec.ofNat 2 i)).mapped)] ++ s.hub.lostFrames
  | 4 => s.hub.builtCaps.flatMap (fun e => [e.id, e.degr.toNat] ++ e.fields.flatMap (fun p => [p.1, p.2]))
  | _ => []

/-- A management request is answered where it came from: on its head, or on the side band, over which they come while the head
takes none (R338, log 6). -/
def State.manage (s : State) (h : BitVec 1) (bs : List Byte) : State :=
  s.send (if s.headUp h then .bytes h bs else .side bs)

/-- GET_MEASUREMENTS (R293): four blocks of 64 bytes, each a digest, which is a free value of what it measures (log 6). -/
def execGetMeasurements (h : BitVec 1) (s : State) : Out :=
  .next (s.manage h ((List.range 4).flatMap (fun i => (List.range 64).map (Config.measurement (i + 1) (s.measured (i + 1))))))

/-! ## TDISP (R295, R296) -/

/-- An answer to a request on a head. -/
def State.reply (s : State) (h : BitVec 1) (bs : List Byte) : State := if s.headUp h then s.send (.bytes h bs) else s

/-- GET_TDISP_VERSION (R295): version 1.0. -/
def execGetTdispVersion (h : BitVec 1) (_tn : BitVec 4) (s : State) : Out := .next (s.reply h [0x10])

/-- GET_TDISP_CAPABILITIES (R295): no rule gives the bytes (log 6). -/
def execGetTdispCapabilities (h : BitVec 1) (_tn : BitVec 4) (s : State) : Out :=
  .next (s.reply h ((List.range 16).map Config.tdispCaps))

/-- GET_DEVICE_INTERFACE_STATE (R295). -/
def execGetDeviceInterfaceState (h : BitVec 1) (tn : BitVec 4) (s : State) : Out :=
  .next (s.reply h [BitVec.ofNat 8 (tdispCode (s.tenant tn).tdisp)])

/-- GET_DEVICE_INTERFACE_REPORT (R295): the rectangle, the regions and the host queues of the tenant. -/
def execGetDeviceInterfaceReport (h : BitVec 1) (tn : BitVec 4) (s : State) : Out :=
  let regions := ((s.regions.filter (fun p => p.2.owner == some tn)).map (fun p => BitVec.ofNat 64 (65536 * p.1)))
  let queues := ((s.queues.filter (fun p => p.2.valid && !p.2.service && p.2.owner == tn)).map (fun p => BitVec.ofNat 64 p.1))
  .next (s.reply h (wordsBytes ((s.tenant tn).rect.word :: BitVec.ofNat 64 regions.length :: regions ++
    BitVec.ofNat 64 queues.length :: queues)))

/-- A request that the table of R296 does not allow. -/
def State.turnDown (s : State) (h : BitVec 1) : State := if s.headUp h then s.send (.refused h) else s

/-- LOCK_INTERFACE_REQUEST (R296): from CONFIG_UNLOCKED, in a live session with the stream keyed; the answer carries a nonce
(log 9). -/
def execLockInterfaceRequest (h : BitVec 1) (tn : BitVec 4) (s : State) : Out :=
  let t := s.tenant tn
  if s.headUp h && (s.head h).session && t.keyed h && t.valid && t.tdisp == .unlocked && t.leaving == 0 then
    let n := Config.nonce s.free
    let s1 : State := { s with free := s.free + 1 }
    .next ((s1.setTenant tn { t with tdisp := .locked, nonce := some n }).reply h ((List.range 32).map (fun i => BitVec.ofNat 8 (n / 256 ^ i))))
  else .next (s.turnDown h)

/-- START_INTERFACE_REQUEST (R296): from CONFIG_LOCKED, with the lock nonce. -/
def execStartInterfaceRequest (h : BitVec 1) (tn : BitVec 4) (nonce : Nat) (s : State) : Out :=
  let t := s.tenant tn
  if s.headUp h && t.tdisp == .locked && t.nonce == some nonce && t.leaving == 0 then
    .next ((s.setTenant tn { t with tdisp := .run, nonce := none }).reply h [])
  else .next (s.turnDown h)

/-! ## The scrub (R297) -/

/-- A region of a tenant. -/
def State.ownsAddr (s : State) (tn : BitVec 4) (pa : Nat) : Bool := isDevice pa && (s.region (regionOf pa)).owner == some tn

/-- Every owned region is written to zero, which clears poison, and open chunks of other agents on its lines conflict. -/
def State.zeroRegions (s : State) (tn : BitVec 4) : State :=
  let s1 : State := { s with
    mem := s.mem.filter (fun c => !s.ownsAddr tn c.1)
    poison := s.poison.filter (fun p => !s.ownsAddr tn (64 * p.1))
    partials := s.partials.filter (fun p => !s.ownsAddr tn p.pa) }
  s1.updAll (fun t => t.strike none false (t.chunk.lines.filter (fun l => s.ownsAddr tn (64 * l))))

/-- What has come from outside for a tenant's addresses and waits is refused: an unsupported request of a peer, and a refusal
for another module (R295, R297, R333). -/
def State.refuseOutside (s : State) (tn : BitVec 4) : State :=
  let ours (q : Inbound) : Bool := match q.page with | some p => p.1 == tn | none => false
  let asked := (s.net.inbound.filter ours).map Inbound.asker ++ (s.net.late.filter (fun q => q.tn == tn)).map Late.asker
  let packets := s.net.farPackets.filter (fun p => p.tn == tn)
  let s1 : State := { s with net := { s.net with
    inbound := s.net.inbound.filter (fun q => !ours q)
    late := s.net.late.filter (fun q => q.tn != tn)
    farPackets := s.net.farPackets.filter (fun p => p.tn != tn) } }
  let answer (s : State) (a : Asker) : State :=
    match a with
    | .peer t => s.peerRefused t
    | .far m => s.send (.farRefused m)
    | _ => s
  packets.foldl (fun s p =>
    s.send (.farAck p.modNum (p.bad ++ (List.range' p.pos (p.elems.length - p.pos)).map (fun i => (i, 4, 6))))) (asked.foldl answer s1)

/-- A tenant as the scrub leaves it: its configuration stands, and nothing that ran is left. -/
def Tenant.scrubbed (t : Tenant) : Tenant :=
  { t with
    tdisp := .unlocked
    nonce := none
    stopped := false
    wasStopped := false
    leaving := 0
    cellarNext := 0
    indent := []
    rootFlta := 0
    ranges := []
    domains := []
    launches := []
    nextLid := 1
    firstQueue := none
    pending := []
    dropped := []
    reports := []
    deadlock := false
    priNo := []
    priWait := []
    refused := [] }

/-- The scrub (R297): regions, caches, dockets, tables and ranks of the tenant. -/
def State.scrub (s : State) (tn : BitVec 4) : State :=
  let t := s.tenant tn
  let s1 := (s.refuseOutside tn).zeroRegions tn
  let s2 := if t.out then s1 else t.rect.clusters.foldl (fun s cl => s.setEngines cl (s.cluster cl).vacated) s1
  let cached (c : Nat) : Bool := t.rect.holds (clusterOf (BitVec.ofNat 10 c))
  let kept (k : Core) : Core := { k with l2 := k.l2.filter (fun l => !s.ownsAddr tn (64 * l.1)) }
  let s3 : State := { s2 with
    cores := s2.cores.map (fun p => if cached p.1 && !t.out then (p.1, { p.2 with l1d := [], l1i := [], dirty := [], l2 := [] })
      else (p.1, kept p.2))
    tlb := s2.tlb.filter (fun e => e.tn != tn)
    saved := s2.saved.filter (fun p => p.1 / 128 != tn.toNat)
    thr := if s2.thr.id.tenant = tn then Thread.void else s2.thr
    others := s2.others.filter (fun u => u.id.tenant != tn) }
  s3.setTenant tn (s3.tenant tn).scrubbed

/-- The tenant stops, its transfers to the host are aborted and it drains (R297 steps 1 to 3). -/
def State.leaveRun (s : State) (tn : BitVec 4) : State :=
  let s1 := ((s.stopTenant tn).abortHost tn).departTenant tn
  s1.setTenant tn { s1.tenant tn with leaving := 2 }

/-- STOP_INTERFACE_REQUEST (R296, R297): from any state; the scrub and CONFIG_UNLOCKED follow once the tenant has drained. -/
def execStopInterfaceRequest (h : BitVec 1) (tn : BitVec 4) (s : State) : Out :=
  if !(s.tenant tn).valid || !(s.headUp h || (s.tenant tn).leaving == 2) then .next s
  else
    let s1 := if (s.tenant tn).leaving = 2 then s else s.leaveRun tn
    if (s1.tenant tn).out || s1.drained tn then .next ((s1.scrub tn).reply h []) else .next s1

/-! ## Reset, bring-up, power and management (R336 to R338) -/

/-- RESET (R336): everything is as at reset; only the model's own fields run on. -/
def execReset (s : State) : Out := .next { State.reset with free := s.free, agenda := s.agenda }

/-- The service queues get their notify words at stage 4 (R322, R329). -/
def State.placeService (s : State) (q : BitVec 6) : State :=
  (s.writeEvent none false (cellsOf (noteAddr q) 8 0)).setQueue q
    { s.queue q with note := noteAddr q, devRing := devRingAddr q }

/-- Entering a stage (R336): 4 builds the capability list, 6 loads the module time. -/
def State.enterStage (s : State) (n : Nat) : State :=
  let s1 : State := { s with hub := { s.hub with stage := n } }
  match n with
  | 4 =>
    let s2 := (({ s1 with hub := { s1.hub with modNum := Config.moduleNumber } } : State).placeService 0).placeService 32
    let g := s2.hub.capGen + 2
    { s2 with hub := { s2.hub with capGen := g, caps := ⟨g, s2.capEntries, false⟩, builtCaps := s2.capEntries } }
  | 6 => { s1 with hub := { s1.hub with timeBase := s1.hub.timeset, timeAt := s1.cyc } }
  | _ => s1

/-- BRING_UP_STAGE (R336). -/
def execBringUpStage (ok : Bool) (s : State) : Out :=
  if s.hub.failedAt.isSome ∨ 6 ≤ s.hub.stage then .next s
  else if ok then .next (s.enterStage (s.hub.stage + 1))
  else .next { s with hub := { s.hub with failedAt := some (s.hub.stage + 1) } }

/-- D3HOT_ENTRY (R337): only while every tenant is CONFIG_UNLOCKED. -/
def execD3hotEntry (s : State) : Out :=
  .next (if s.hub.stage = 6 ∧ s.tenants.all (fun p => p.2.tdisp == .unlocked) then { s with hub := { s.hub with d3 := true } } else s)

/-- D0_RETURN (R337): straight to stage 6, with memory kept. -/
def execD0Return (s : State) : Out := .next (if s.hub.d3 then { s with hub := { s.hub with d3 := false, stage := 6 } } else s)

/-- PLDM_REQUEST (R338): what the sensors of power and inlet temperature read is a free value (log 6). -/
def execPldmRequest (h : BitVec 1) (sensor : Sensor) (s : State) : Out :=
  let v : Word :=
    match sensor with
    | .power => Config.sensorValue 0 s.free
    | .inlet => Config.sensorValue 1 s.free
    | .health i => s.hub.healthWord i.toNat
  .next (({ s with free := s.free + 1 } : State).manage h (wordsBytes [v]))

end Sys2Proof.Machine
end

