-- ==== Sys2Proof/Machine/Dispatch.lean ====
section
/-! DEFINITION. One arm for each constructor of `Instr`. -/

namespace Sys2Proof.Machine

/-- The meaning of each instruction and device event. -/
def exec (i : Instr) (s : State) : Host.Outcome State Fault Refusal :=
  match i with
  | .nop => Sys2Proof.Machine.execNop s
  | .brk n => Sys2Proof.Machine.execBrk n s
  | .bEq a b off => Sys2Proof.Machine.execBEq a b off s
  | .bNe a b off => Sys2Proof.Machine.execBNe a b off s
  | .bLt a b off => Sys2Proof.Machine.execBLt a b off s
  | .bGe a b off => Sys2Proof.Machine.execBGe a b off s
  | .bLtu a b off => Sys2Proof.Machine.execBLtu a b off s
  | .bGeu a b off => Sys2Proof.Machine.execBGeu a b off s
  | .jal d off => Sys2Proof.Machine.execJal d off s
  | .jalr d a off => Sys2Proof.Machine.execJalr d a off s
  | .ld z d a off => Sys2Proof.Machine.execLd z d a off s
  | .st z d a off => Sys2Proof.Machine.execSt z d a off s
  | .prfL1 a off => Sys2Proof.Machine.execPrfL1 a off s
  | .prfL2 a off => Sys2Proof.Machine.execPrfL2 a off s
  | .zline a off => Sys2Proof.Machine.execZline a off s
  | .vld z d a b k off => Sys2Proof.Machine.execVld z d a b k off s
  | .vst z d a b k off => Sys2Proof.Machine.execVst z d a b k off s
  | .vldx z d a b k off => Sys2Proof.Machine.execVldx z d a b k off s
  | .vstx z d a b k off => Sys2Proof.Machine.execVstx z d a b k off s
  | .vldt d a b k off => Sys2Proof.Machine.execVldt d a b k off s
  | .vstt d a b k off => Sys2Proof.Machine.execVstt d a b k off s
  | .amo op z d a b => Sys2Proof.Machine.execAmo op z d a b s
  | .cas z d a b => Sys2Proof.Machine.execCas z d a b s
  | .amop op z a b => Sys2Proof.Machine.execAmop op z a b s
  | .crange f d a b => Sys2Proof.Machine.execCrange f d a b s
  | .radd f a b => Sys2Proof.Machine.execRadd f a b s
  | .rst z a b => Sys2Proof.Machine.execRst z a b s
  | .dflush => Sys2Proof.Machine.execDflush s
  | .ramo op z a b => Sys2Proof.Machine.execRamo op z a b s
  | .chunk => Sys2Proof.Machine.execChunk s
  | .fenceD => Sys2Proof.Machine.execFenceD s
  | .fenceE => Sys2Proof.Machine.execFenceE s
  | .fenceA => Sys2Proof.Machine.execFenceA s
  | .xbegin => Sys2Proof.Machine.execXbegin s
  | .xend d => Sys2Proof.Machine.execXend d s
  | .xabort n => Sys2Proof.Machine.execXabort n s
  | .qbind q a => Sys2Proof.Machine.execQbind q a s
  | .qwaitF q => Sys2Proof.Machine.execQwaitF q s
  | .qwaitE q => Sys2Proof.Machine.execQwaitE q s
  | .qadvH q => Sys2Proof.Machine.execQadvH q s
  | .qadvT q => Sys2Proof.Machine.execQadvT q s
  | .qld d q ix => Sys2Proof.Machine.execQld d q ix s
  | .qst d q ix => Sys2Proof.Machine.execQst d q ix s
  | .qstat d q => Sys2Proof.Machine.execQstat d q s
  | .pcopy d a n => Sys2Proof.Machine.execPcopy d a n s
  | .pcopyt d a n => Sys2Proof.Machine.execPcopyt d a n s
  | .pgath d a n => Sys2Proof.Machine.execPgath d a n s
  | .pscat d a n => Sys2Proof.Machine.execPscat d a n s
  | .pscadd d a n => Sys2Proof.Machine.execPscadd d a n s
  | .pfill d a n => Sys2Proof.Machine.execPfill d a n s
  | .twarp w a b => Sys2Proof.Machine.execTwarp w a b s
  | .tzero t => Sys2Proof.Machine.execTzero t s
  | .tlda a b => Sys2Proof.Machine.execTlda a b s
  | .tmul t w => Sys2Proof.Machine.execTmul t w s
  | .tmult t w => Sys2Proof.Machine.execTmult t w s
  | .touter t a b => Sys2Proof.Machine.execTouter t a b s
  | .tewBias t a => Sys2Proof.Machine.execTewBias t a s
  | .tewScale t a => Sys2Proof.Machine.execTewScale t a s
  | .tewRelu t => Sys2Proof.Machine.execTewRelu t s
  | .tewGelu t => Sys2Proof.Machine.execTewGelu t s
  | .tewSilu t => Sys2Proof.Machine.execTewSilu t s
  | .tewClamp t a b => Sys2Proof.Machine.execTewClamp t a b s
  | .tred t a => Sys2Proof.Machine.execTred t a s
  | .tst t a b => Sys2Proof.Machine.execTst t a b s
  | .tsync a => Sys2Proof.Machine.execTsync a s
  | .trecOn => Sys2Proof.Machine.execTrecOn s
  | .trecOff => Sys2Proof.Machine.execTrecOff s
  | .unwind a => Sys2Proof.Machine.execUnwind a s
  | .tdrop => Sys2Proof.Machine.execTdrop s
  | .watch c n a b => Sys2Proof.Machine.execWatch c n a b s
  | .unwatch n => Sys2Proof.Machine.execUnwatch n s
  | .wait d a => Sys2Proof.Machine.execWait d a s
  | .yield => Sys2Proof.Machine.execYield s
  | .halt => Sys2Proof.Machine.execHalt s
  | .haltRetain => Sys2Proof.Machine.execHaltRetain s
  | .live a => Sys2Proof.Machine.execLive a s
  | .spawn d a b => Sys2Proof.Machine.execSpawn d a b s
  | .pwait => Sys2Proof.Machine.execPwait s
  | .smay => Sys2Proof.Machine.execSmay s
  | .bar d a b => Sys2Proof.Machine.execBar d a b s
  | .dmem d a => Sys2Proof.Machine.execDmem d a s
  | .dbar d a => Sys2Proof.Machine.execDbar d a s
  | .vclaim d a => Sys2Proof.Machine.execVclaim d a s
  | .vrel => Sys2Proof.Machine.execVrel s
  | .vreneg d a => Sys2Proof.Machine.execVreneg d a s
  | .xchg d a b => Sys2Proof.Machine.execXchg d a b s
  | .launch d a => Sys2Proof.Machine.execLaunch d a s
  | .tstop d a => Sys2Proof.Machine.execTstop d a s
  | .tstart d a => Sys2Proof.Machine.execTstart d a s
  | .trds d a item => Sys2Proof.Machine.execTrds d a item s
  | .twrs d a b item => Sys2Proof.Machine.execTwrs d a b item s
  | .igrant d a => Sys2Proof.Machine.execIgrant d a s
  | .irevoke d a => Sys2Proof.Machine.execIrevoke d a s
  | .iquery d a => Sys2Proof.Machine.execIquery d a s
  | .movi d imm => Sys2Proof.Machine.execMovi d imm s
  | .movhi d imm => Sys2Proof.Machine.execMovhi d imm s
  | .srd d ix => Sys2Proof.Machine.execSrd d ix s
  | .swr a ix => Sys2Proof.Machine.execSwr a ix s
  | .time d => Sys2Proof.Machine.execTime d s
  | .add d a b => Sys2Proof.Machine.execAdd d a b s
  | .sub d a b => Sys2Proof.Machine.execSub d a b s
  | .and d a b => Sys2Proof.Machine.execAnd d a b s
  | .or d a b => Sys2Proof.Machine.execOr d a b s
  | .xor d a b => Sys2Proof.Machine.execXor d a b s
  | .shl d a b => Sys2Proof.Machine.execShl d a b s
  | .shr d a b => Sys2Proof.Machine.execShr d a b s
  | .sar d a b => Sys2Proof.Machine.execSar d a b s
  | .slt d a b => Sys2Proof.Machine.execSlt d a b s
  | .sltu d a b => Sys2Proof.Machine.execSltu d a b s
  | .min d a b => Sys2Proof.Machine.execMin d a b s
  | .max d a b => Sys2Proof.Machine.execMax d a b s
  | .minu d a b => Sys2Proof.Machine.execMinu d a b s
  | .maxu d a b => Sys2Proof.Machine.execMaxu d a b s
  | .sel d a b c => Sys2Proof.Machine.execSel d a b c s
  | .mul d a b => Sys2Proof.Machine.execMul d a b s
  | .mulh d a b => Sys2Proof.Machine.execMulh d a b s
  | .mulhu d a b => Sys2Proof.Machine.execMulhu d a b s
  | .div d a b => Sys2Proof.Machine.execDiv d a b s
  | .divu d a b => Sys2Proof.Machine.execDivu d a b s
  | .rem d a b => Sys2Proof.Machine.execRem d a b s
  | .remu d a b => Sys2Proof.Machine.execRemu d a b s
  | .clz d a => Sys2Proof.Machine.execClz d a s
  | .ctz d a => Sys2Proof.Machine.execCtz d a s
  | .popc d a => Sys2Proof.Machine.execPopc d a s
  | .bswap d a => Sys2Proof.Machine.execBswap d a s
  | .ext d a pos lm => Sys2Proof.Machine.execExt d a pos lm s
  | .addi d a imm => Sys2Proof.Machine.execAddi d a imm s
  | .andi d a imm => Sys2Proof.Machine.execAndi d a imm s
  | .ori d a imm => Sys2Proof.Machine.execOri d a imm s
  | .xori d a imm => Sys2Proof.Machine.execXori d a imm s
  | .shli d a sh => Sys2Proof.Machine.execShli d a sh s
  | .shri d a sh => Sys2Proof.Machine.execShri d a sh s
  | .sari d a sh => Sys2Proof.Machine.execSari d a sh s
  | .slti d a imm => Sys2Proof.Machine.execSlti d a imm s
  | .sltiu d a imm => Sys2Proof.Machine.execSltiu d a imm s
  | .padd d a b => Sys2Proof.Machine.execPadd d a b s
  | .pidx d a b => Sys2Proof.Machine.execPidx d a b s
  | .pfmt d a => Sys2Proof.Machine.execPfmt d a s
  | .pclr d a => Sys2Proof.Machine.execPclr d a s
  | .ptag d a fmt blk => Sys2Proof.Machine.execPtag d a fmt blk s
  | .fadd ty rm d a b => Sys2Proof.Machine.execFadd ty rm d a b s
  | .fsub ty rm d a b => Sys2Proof.Machine.execFsub ty rm d a b s
  | .fmul ty rm d a b => Sys2Proof.Machine.execFmul ty rm d a b s
  | .fdiv ty rm d a b => Sys2Proof.Machine.execFdiv ty rm d a b s
  | .fsqrt ty rm d a => Sys2Proof.Machine.execFsqrt ty rm d a s
  | .fma ty rm d a b c => Sys2Proof.Machine.execFma ty rm d a b c s
  | .fnma ty rm d a b c => Sys2Proof.Machine.execFnma ty rm d a b c s
  | .fmin ty d a b => Sys2Proof.Machine.execFmin ty d a b s
  | .fmax ty d a b => Sys2Proof.Machine.execFmax ty d a b s
  | .feq ty d a b => Sys2Proof.Machine.execFeq ty d a b s
  | .flt ty d a b => Sys2Proof.Machine.execFlt ty d a b s
  | .fle ty d a b => Sys2Proof.Machine.execFle ty d a b s
  | .fcls ty d a => Sys2Proof.Machine.execFcls ty d a s
  | .fsgn ty d a b => Sys2Proof.Machine.execFsgn ty d a b s
  | .fcvt dst src rm d a => Sys2Proof.Machine.execFcvt dst src rm d a s
  | .vadd ty d a b h1 h2 k => Sys2Proof.Machine.execVadd ty d a b h1 h2 k s
  | .vsub ty d a b h1 h2 k => Sys2Proof.Machine.execVsub ty d a b h1 h2 k s
  | .vmul ty d a b h1 h2 k => Sys2Proof.Machine.execVmul ty d a b h1 h2 k s
  | .vfma ty d a b h1 h2 k => Sys2Proof.Machine.execVfma ty d a b h1 h2 k s
  | .vfnma ty d a b h1 h2 k => Sys2Proof.Machine.execVfnma ty d a b h1 h2 k s
  | .vdiv ty d a b h1 h2 k => Sys2Proof.Machine.execVdiv ty d a b h1 h2 k s
  | .vsqrt ty d a h1 k => Sys2Proof.Machine.execVsqrt ty d a h1 k s
  | .vmin ty d a b h1 h2 k => Sys2Proof.Machine.execVmin ty d a b h1 h2 k s
  | .vmax ty d a b h1 h2 k => Sys2Proof.Machine.execVmax ty d a b h1 h2 k s
  | .vand ty d a b h1 h2 k => Sys2Proof.Machine.execVand ty d a b h1 h2 k s
  | .vor ty d a b h1 h2 k => Sys2Proof.Machine.execVor ty d a b h1 h2 k s
  | .vxor ty d a b h1 h2 k => Sys2Proof.Machine.execVxor ty d a b h1 h2 k s
  | .vshl ty d a b h1 h2 k => Sys2Proof.Machine.execVshl ty d a b h1 h2 k s
  | .vshr ty d a b h1 h2 k => Sys2Proof.Machine.execVshr ty d a b h1 h2 k s
  | .vsar ty d a b h1 h2 k => Sys2Proof.Machine.execVsar ty d a b h1 h2 k s
  | .vcmp c ty d a b h1 h2 k => Sys2Proof.Machine.execVcmp c ty d a b h1 h2 k s
  | .vsel ty d a b h1 h2 k => Sys2Proof.Machine.execVsel ty d a b h1 h2 k s
  | .vcvt dst src d a h1 k => Sys2Proof.Machine.execVcvt dst src d a h1 k s
  | .vpack f ty inf d a h1 k => Sys2Proof.Machine.execVpack f ty inf d a h1 k s
  | .vunpk f ty d a h1 k => Sys2Proof.Machine.execVunpk f ty d a h1 k s
  | .vred op ty d a h1 k => Sys2Proof.Machine.execVred op ty d a h1 k s
  | .vscan ty d a h1 k => Sys2Proof.Machine.execVscan ty d a h1 k s
  | .vperm ty d a b h1 h2 k => Sys2Proof.Machine.execVperm ty d a b h1 h2 k s
  | .vslideUp ty d a b h1 k => Sys2Proof.Machine.execVslideUp ty d a b h1 k s
  | .vslideDn ty d a b h1 k => Sys2Proof.Machine.execVslideDn ty d a b h1 k s
  | .vbcast ty d a k => Sys2Proof.Machine.execVbcast ty d a k s
  | .vext ty d a b h1 => Sys2Proof.Machine.execVext ty d a b h1 s
  | .vins ty d a b => Sys2Proof.Machine.execVins ty d a b s
  | .vmv ty d a h1 k => Sys2Proof.Machine.execVmv ty d a h1 k s
  | .vrcp ty d a h1 k => Sys2Proof.Machine.execVrcp ty d a h1 k s
  | .vrsq ty d a h1 k => Sys2Proof.Machine.execVrsq ty d a h1 k s
  | .vexp2 ty d a h1 k => Sys2Proof.Machine.execVexp2 ty d a h1 k s
  | .vlog2 ty d a h1 k => Sys2Proof.Machine.execVlog2 ty d a h1 k s
  | .vtanh ty d a h1 k => Sys2Proof.Machine.execVtanh ty d a h1 k s
  | .vmand d a b => Sys2Proof.Machine.execVmand d a b s
  | .vmor d a b => Sys2Proof.Machine.execVmor d a b s
  | .vmxor d a b => Sys2Proof.Machine.execVmxor d a b s
  | .vmnot d a => Sys2Proof.Machine.execVmnot d a s
  | .vmpop d a => Sys2Proof.Machine.execVmpop d a s
  | .vmfirst d a => Sys2Proof.Machine.execVmfirst d a s
  | .vid ty d k => Sys2Proof.Machine.execVid ty d k s
  | .chunkCommit t => Sys2Proof.Machine.execChunkCommit t s
  | .heldChunk => Sys2Proof.Machine.execHeldChunk s
  | .leaseAcquire => Sys2Proof.Machine.execLeaseAcquire s
  | .leaseExpiry => Sys2Proof.Machine.execLeaseExpiry s
  | .fallThrough => Sys2Proof.Machine.execFallThrough s
  | .drayAgeExpiry cl n => Sys2Proof.Machine.execDrayAgeExpiry cl n s
  | .drayPacketApply n => Sys2Proof.Machine.execDrayPacketApply n s
  | .drayAcknowledgement a => Sys2Proof.Machine.execDrayAcknowledgement a s
  | .amoPerform t => Sys2Proof.Machine.execAmoPerform t s
  | .amopPerform a => Sys2Proof.Machine.execAmopPerform a s
  | .partialEviction core line => Sys2Proof.Machine.execPartialEviction core line s
  | .hostCxlMemAccess head acc => Sys2Proof.Machine.execHostCxlMemAccess head acc s
  | .hostLineInvalidate head acc => Sys2Proof.Machine.execHostLineInvalidate head acc s
  | .fenceRelease t => Sys2Proof.Machine.execFenceRelease t s
  | .watchArmEvent t => Sys2Proof.Machine.execWatchArmEvent t s
  | .wakeDelivery n => Sys2Proof.Machine.execWakeDelivery n s
  | .hostWatchRecheck t n => Sys2Proof.Machine.execHostWatchRecheck t n s
  | .waitTimeout t => Sys2Proof.Machine.execWaitTimeout t s
  | .starvationLimit core => Sys2Proof.Machine.execStarvationLimit core s
  | .packComplete t => Sys2Proof.Machine.execPackComplete t s
  | .docketResume t => Sys2Proof.Machine.execDocketResume t s
  | .weighmasterSample moves => Sys2Proof.Machine.execWeighmasterSample moves s
  | .moveComplete t => Sys2Proof.Machine.execMoveComplete t s
  | .notifyWrite q => Sys2Proof.Machine.execNotifyWrite q s
  | .launchRecordRead q => Sys2Proof.Machine.execLaunchRecordRead q s
  | .launchValidated q => Sys2Proof.Machine.execLaunchValidated q s
  | .crewPlacement => Sys2Proof.Machine.execCrewPlacement s
  | .crewStart n => Sys2Proof.Machine.execCrewStart n s
  | .smayObserved n => Sys2Proof.Machine.execSmayObserved n s
  | .launchComplete tn lid => Sys2Proof.Machine.execLaunchComplete tn lid s
  | .pwaitRelease n => Sys2Proof.Machine.execPwaitRelease n s
  | .barArrival t => Sys2Proof.Machine.execBarArrival t s
  | .barTimeout t => Sys2Proof.Machine.execBarTimeout t s
  | .dbarArrival t => Sys2Proof.Machine.execDbarArrival t s
  | .wireRaise t => Sys2Proof.Machine.execWireRaise t s
  | .wireComplete tn n => Sys2Proof.Machine.execWireComplete tn n s
  | .crierBegin tn n cl => Sys2Proof.Machine.execCrierBegin tn n cl s
  | .crierMessage n => Sys2Proof.Machine.execCrierMessage n s
  | .crierAbort n => Sys2Proof.Machine.execCrierAbort n s
  | .dbarTimeout t => Sys2Proof.Machine.execDbarTimeout t s
  | .deadlockDetect tn => Sys2Proof.Machine.execDeadlockDetect tn s
  | .pulsePeriodExpiry tn => Sys2Proof.Machine.execPulsePeriodExpiry tn s
  | .threadStateAction n => Sys2Proof.Machine.execThreadStateAction n s
  | .threadStateResult n => Sys2Proof.Machine.execThreadStateResult n s
  | .loomCommandArrival cl => Sys2Proof.Machine.execLoomCommandArrival cl s
  | .loomCommandStart cl => Sys2Proof.Machine.execLoomCommandStart cl s
  | .loomCommandComplete cl seq => Sys2Proof.Machine.execLoomCommandComplete cl seq s
  | .loomRelease cl => Sys2Proof.Machine.execLoomRelease cl s
  | .loomReleaseComplete cl => Sys2Proof.Machine.execLoomReleaseComplete cl s
  | .lresRetry cl => Sys2Proof.Machine.execLresRetry cl s
  | .lresSkip cl => Sys2Proof.Machine.execLresSkip cl s
  | .lresFlush cl => Sys2Proof.Machine.execLresFlush cl s
  | .lresRetryNoNan cl => Sys2Proof.Machine.execLresRetryNoNan cl s
  | .governorWindow withheld => Sys2Proof.Machine.execGovernorWindow withheld s
  | .porterCommandStart cl n => Sys2Proof.Machine.execPorterCommandStart cl n s
  | .porterCommandComplete cl n => Sys2Proof.Machine.execPorterCommandComplete cl n s
  | .presContinue cl n => Sys2Proof.Machine.execPresContinue cl n s
  | .presAbandon cl n => Sys2Proof.Machine.execPresAbandon cl n s
  | .presAbandonAll cl n => Sys2Proof.Machine.execPresAbandonAll cl n s
  | .queueReservation t => Sys2Proof.Machine.execQueueReservation t s
  | .stampWrite t => Sys2Proof.Machine.execStampWrite t s
  | .pendingRecordDelivery tn n => Sys2Proof.Machine.execPendingRecordDelivery tn n s
  | .correctedError mech at_ => Sys2Proof.Machine.execCorrectedError mech at_ s
  | .uncorrectableError site => Sys2Proof.Machine.execUncorrectableError site s
  | .logicFault site => Sys2Proof.Machine.execLogicFault site s
  | .dramRowRemap region => Sys2Proof.Machine.execDramRowRemap region s
  | .patrolScrub found => Sys2Proof.Machine.execPatrolScrub found s
  | .parityReplay unit failed => Sys2Proof.Machine.execParityReplay unit failed s
  | .flitReplay link failed => Sys2Proof.Machine.execFlitReplay link failed s
  | .linkRecovery link failed => Sys2Proof.Machine.execLinkRecovery link failed s
  | .laneFailure link lane => Sys2Proof.Machine.execLaneFailure link lane s
  | .drainComplete region => Sys2Proof.Machine.execDrainComplete region s
  | .epochEnd => Sys2Proof.Machine.execEpochEnd s
  | .regionMigrationComplete region => Sys2Proof.Machine.execRegionMigrationComplete region s
  | .freezeWord head v => Sys2Proof.Machine.execFreezeWord head v s
  | .hostLinkDownTimeout head => Sys2Proof.Machine.execHostLinkDownTimeout head s
  | .adoptionWord head v => Sys2Proof.Machine.execAdoptionWord head v s
  | .atsCompletion tn core page => Sys2Proof.Machine.execAtsCompletion tn core page s
  | .priResponse t ok => Sys2Proof.Machine.execPriResponse t ok s
  | .atsInvalidationRequest tn va size => Sys2Proof.Machine.execAtsInvalidationRequest tn va size s
  | .peerWrite tn off bytes bad => Sys2Proof.Machine.execPeerWrite tn off bytes bad s
  | .peerRead tn off len => Sys2Proof.Machine.execPeerRead tn off len s
  | .ioCompletion t ok data => Sys2Proof.Machine.execIoCompletion t ok data s
  | .ioCompletionTimeout t => Sys2Proof.Machine.execIoCompletionTimeout t s
  | .fabricRemoteAccess acc => Sys2Proof.Machine.execFabricRemoteAccess acc s
  | .getMeasurements head => Sys2Proof.Machine.execGetMeasurements head s
  | .ideKm head tn => Sys2Proof.Machine.execIdeKm head tn s
  | .ideIntegrityFailure head tn => Sys2Proof.Machine.execIdeIntegrityFailure head tn s
  | .sessionExpiry head => Sys2Proof.Machine.execSessionExpiry head s
  | .getTdispVersion head tn => Sys2Proof.Machine.execGetTdispVersion head tn s
  | .getTdispCapabilities head tn => Sys2Proof.Machine.execGetTdispCapabilities head tn s
  | .lockInterfaceRequest head tn => Sys2Proof.Machine.execLockInterfaceRequest head tn s
  | .getDeviceInterfaceReport head tn => Sys2Proof.Machine.execGetDeviceInterfaceReport head tn s
  | .getDeviceInterfaceState head tn => Sys2Proof.Machine.execGetDeviceInterfaceState head tn s
  | .startInterfaceRequest head tn nonce => Sys2Proof.Machine.execStartInterfaceRequest head tn nonce s
  | .stopInterfaceRequest head tn => Sys2Proof.Machine.execStopInterfaceRequest head tn s
  | .doorbell head q v => Sys2Proof.Machine.execDoorbell head q v s
  | .svring head v => Sys2Proof.Machine.execSvring head v s
  | .svrep head v => Sys2Proof.Machine.execSvrep head v s
  | .timeset head v => Sys2Proof.Machine.execTimeset head v s
  | .registerWrite head off acc => Sys2Proof.Machine.execRegisterWrite head off acc s
  | .reset => Sys2Proof.Machine.execReset s
  | .bringUpStage ok => Sys2Proof.Machine.execBringUpStage ok s
  | .d3hotEntry => Sys2Proof.Machine.execD3hotEntry s
  | .d0Return => Sys2Proof.Machine.execD0Return s
  | .pldmRequest head sensor => Sys2Proof.Machine.execPldmRequest head sensor s
  | .queueSetup head o => Sys2Proof.Machine.execQueueSetup head o s
  | .tenantSetup head o => Sys2Proof.Machine.execTenantSetup head o s
  | .regionSetup head o => Sys2Proof.Machine.execRegionSetup head o s
  | .biasFlip head o => Sys2Proof.Machine.execBiasFlip head o s
  | .orderingSetup head o => Sys2Proof.Machine.execOrderingSetup head o s
  | .pulseSetup head o => Sys2Proof.Machine.execPulseSetup head o s
  | .pin head o => Sys2Proof.Machine.execPin head o s
  | .hintsSetup head o => Sys2Proof.Machine.execHintsSetup head o s
  | .peersSetup head o => Sys2Proof.Machine.execPeersSetup head o s
  | .fabricSetup head o => Sys2Proof.Machine.execFabricSetup head o s
  | .scrubControl head o => Sys2Proof.Machine.execScrubControl head o s
  | .rebind head o => Sys2Proof.Machine.execRebind head o s
  | .issuePolicy head o => Sys2Proof.Machine.execIssuePolicy head o s
  | .powerLimit head o => Sys2Proof.Machine.execPowerLimit head o s
  | .tenantStop head o => Sys2Proof.Machine.execTenantStop head o s
  | .tenantStart head o => Sys2Proof.Machine.execTenantStart head o s
  | .switchOut head o => Sys2Proof.Machine.execSwitchOut head o s
  | .switchIn head o => Sys2Proof.Machine.execSwitchIn head o s
  | .hostLinkDown head => Sys2Proof.Machine.execHostLinkDown head s
  | .hostLinkUp head standby => Sys2Proof.Machine.execHostLinkUp head standby s
  | .linkUp link => Sys2Proof.Machine.execLinkUp link s
  | .spdmSessionStart head => Sys2Proof.Machine.execSpdmSessionStart head s
  | .heartbeat head => Sys2Proof.Machine.execHeartbeat head s
  | .keyUpdate head ok => Sys2Proof.Machine.execKeyUpdate head ok s
  | .endSession head => Sys2Proof.Machine.execEndSession head s

end Sys2Proof.Machine
end

