-- ==== Sys2Proof/Machine/Schedule.lean ====
section
/-! DEFINITION. What happens next: the fetch of a bundle and how its two slots run (R29, R30, R34, R41), the choice of the
thread that a core issues (R222 to R224, R341), and the device events that can happen now. Among the things that can
happen next the spec orders none before another, so the choice is a free value (log 1). -/

namespace Sys2Proof.Machine

/-! ## Events -/

/-- The events that the device performs of itself. Each stands for the event of the opcode table of its name; an inductive of
its own, since an evaluated `Instr` of so high a number cannot be built. -/
inductive Event where
  | chunkCommit
  | heldChunk
  | leaseAcquire
  | leaseExpiry
  | fallThrough
  | drayAgeExpiry (cl : BitVec 7) (n : Nat)
  | drayPacketApply (n : Nat)
  | drayAcknowledgement (n : Nat)
  | amoPerform (t : ThreadId)
  | amopPerform (n : Nat)
  | partialEviction (core : BitVec 10) (line : Nat)
  | fenceRelease (t : ThreadId)
  | watchArmEvent (t : ThreadId)
  | wakeDelivery (n : Nat)
  | hostWatchRecheck (t : ThreadId) (n : BitVec 2)
  | waitTimeout (t : ThreadId)
  | packComplete (t : ThreadId)
  | docketResume (t : ThreadId)
  | weighmasterSample (moves : List MoveCmd)
  | moveComplete (t : ThreadId)
  | notifyWrite (q : BitVec 6)
  | launchRecordRead (q : BitVec 6)
  | launchValidated (q : BitVec 6)
  | crewPlacement
  | crewStart (n : Nat)
  | smayObserved (n : Nat)
  | launchComplete (tn : BitVec 4) (lid : Nat)
  | pwaitRelease (n : Nat)
  | barArrival (t : ThreadId)
  | barTimeout (t : ThreadId)
  | dbarArrival (t : ThreadId)
  | wireRaise (t : ThreadId)
  | wireComplete (tn : BitVec 4) (n : Nat)
  | crierBegin (tn : BitVec 4) (n : Nat) (cl : BitVec 7)
  | crierMessage (n : Nat)
  | crierAbort (n : Nat)
  | dbarTimeout (t : ThreadId)
  | deadlockDetect (tn : BitVec 4)
  | pulsePeriodExpiry (tn : BitVec 4)
  | threadStateAction (n : Nat)
  | threadStateResult (n : Nat)
  | loomCommandArrival (cl : BitVec 7)
  | loomCommandStart (cl : BitVec 7)
  | loomCommandComplete (cl : BitVec 7) (seq : Nat)
  | loomRelease (cl : BitVec 7)
  /-- a part of no event of the table's own: the threads whose turn at a loom's context it is are woken (R112, log 94) -/
  | loomTurn (cl : BitVec 7)
  | loomReleaseComplete (cl : BitVec 7)
  | lresRetry (cl : BitVec 7)
  | lresSkip (cl : BitVec 7)
  | lresFlush (cl : BitVec 7)
  | lresRetryNoNan (cl : BitVec 7)
  | governorWindow (withheld : List (BitVec 7 × Nat))
  | porterCommandStart (cl : BitVec 7) (n : BitVec 2)
  | porterCommandComplete (cl : BitVec 7) (n : BitVec 2)
  | presContinue (cl : BitVec 7) (n : BitVec 2)
  | presAbandon (cl : BitVec 7) (n : BitVec 2)
  | presAbandonAll (cl : BitVec 7) (n : BitVec 2)
  | queueReservation (t : ThreadId)
  | stampWrite (t : ThreadId)
  | pendingRecordDelivery (tn : BitVec 4) (n : Nat)
  | drainComplete (region : Nat)
  | epochEnd
  | regionMigrationComplete (region : Nat)
  | hostLinkDownTimeout (head : BitVec 1)
  | ioCompletionTimeout (t : ThreadId)
  | sessionExpiry (head : BitVec 1)
  | stopInterfaceRequest (head : BitVec 1) (tn : BitVec 4)
  | switchOut (head : BitVec 1) (o : Opers)
  /-- from here on, parts of no event of the table's own: the device gives up the host line of a watch (R229) -/
  | watchDegrade (t : ThreadId) (n : BitVec 2)
  /-- a woken docket returns from the cellar to the loft (R235) -/
  | docketReturn (t : ThreadId)
  /-- a directed wake that was held for a move acts (R238, R270) -/
  | heldPoke (n : Nat)
  /-- an access from outside that waited at its home is performed (R158, R162, R309) -/
  | inbound (n : Nat)
  /-- an access from outside that waited for a translation is tried again (R290) -/
  | late (n : Nat)
  /-- the next element of a packet from another module is applied (R334) -/
  | farNext (n : Nat)
  /-- an Invalidation Completion leaves (R292) -/
  | invalDone (n : Nat)
  /-- a step of a rebuild of the capability list (R7) -/
  | capStep
  /-- a step of an update of the handover area (R318) -/
  | handoverStep
deriving DecidableEq, Repr

/-- What an event does. -/
def Event.run (e : Event) (s : State) : Out :=
  match e with
  | .chunkCommit => execChunkCommit s.thr.id s
  | .heldChunk => execHeldChunk s
  | .leaseAcquire => execLeaseAcquire s
  | .leaseExpiry => execLeaseExpiry s
  | .fallThrough => execFallThrough s
  | .drayAgeExpiry cl n => execDrayAgeExpiry cl n s
  | .drayPacketApply n => execDrayPacketApply n s
  | .drayAcknowledgement n => execDrayAcknowledgement (.here n) s
  | .amoPerform t => execAmoPerform t s
  | .amopPerform n => execAmopPerform (.here n) s
  | .partialEviction core line => execPartialEviction core line s
  | .fenceRelease t => execFenceRelease t s
  | .watchArmEvent t => execWatchArmEvent t s
  | .wakeDelivery n => execWakeDelivery n s
  | .hostWatchRecheck t n => execHostWatchRecheck t n s
  | .waitTimeout t => execWaitTimeout t s
  | .packComplete t => execPackComplete t s
  | .docketResume t => execDocketResume t s
  | .weighmasterSample moves => execWeighmasterSample moves s
  | .moveComplete t => execMoveComplete t s
  | .notifyWrite q => execNotifyWrite q s
  | .launchRecordRead q => execLaunchRecordRead q s
  | .launchValidated q => execLaunchValidated q s
  | .crewPlacement => execCrewPlacement s
  | .crewStart n => execCrewStart n s
  | .smayObserved n => execSmayObserved n s
  | .launchComplete tn lid => execLaunchComplete tn lid s
  | .pwaitRelease n => execPwaitRelease n s
  | .barArrival t => execBarArrival t s
  | .barTimeout t => execBarTimeout t s
  | .dbarArrival t => execDbarArrival t s
  | .wireRaise t => execWireRaise t s
  | .wireComplete tn n => execWireComplete tn n s
  | .crierBegin tn n cl => execCrierBegin tn n cl s
  | .crierMessage n => execCrierMessage n s
  | .crierAbort n => execCrierAbort n s
  | .dbarTimeout t => execDbarTimeout t s
  | .deadlockDetect tn => execDeadlockDetect tn s
  | .pulsePeriodExpiry tn => execPulsePeriodExpiry tn s
  | .threadStateAction n => execThreadStateAction n s
  | .threadStateResult n => execThreadStateResult n s
  | .loomCommandArrival cl => execLoomCommandArrival cl s
  | .loomCommandStart cl => execLoomCommandStart cl s
  | .loomCommandComplete cl seq => execLoomCommandComplete cl seq s
  | .loomRelease cl => execLoomRelease cl s
  | .loomTurn cl => .next (s.callLoom cl)
  | .loomReleaseComplete cl => execLoomReleaseComplete cl s
  | .lresRetry cl => execLresRetry cl s
  | .lresSkip cl => execLresSkip cl s
  | .lresFlush cl => execLresFlush cl s
  | .lresRetryNoNan cl => execLresRetryNoNan cl s
  | .governorWindow withheld => execGovernorWindow withheld s
  | .porterCommandStart cl n => execPorterCommandStart cl n s
  | .porterCommandComplete cl n => execPorterCommandComplete cl n s
  | .presContinue cl n => execPresContinue cl n s
  | .presAbandon cl n => execPresAbandon cl n s
  | .presAbandonAll cl n => execPresAbandonAll cl n s
  | .queueReservation t => execQueueReservation t s
  | .stampWrite t => execStampWrite t s
  | .pendingRecordDelivery tn n => execPendingRecordDelivery tn n s
  | .drainComplete region => execDrainComplete region s
  | .epochEnd => execEpochEnd s
  | .regionMigrationComplete region => execRegionMigrationComplete region s
  | .hostLinkDownTimeout head => execHostLinkDownTimeout head s
  | .ioCompletionTimeout t => execIoCompletionTimeout t s
  | .sessionExpiry head => execSessionExpiry head s
  | .stopInterfaceRequest head tn => execStopInterfaceRequest head tn s
  | .switchOut head o => execSwitchOut head o s
  | .watchDegrade t n => .next (s.degradeWatch t n)
  | .docketReturn t => .next (s.returnDocket t)
  | .heldPoke n => .next (s.heldPoke n)
  | .inbound n => .next (s.serveNext n)
  | .late n => .next (s.lateAgain n)
  | .farNext n => .next (s.farNext n)
  | .invalDone n => .next (s.invalDone n)
  | .capStep => .next s.capStep
  | .handoverStep => .next s.handoverStep

/-! ## One bundle of the thread that issues -/

/-- The draws that a C-slot instruction makes before its A slot's (R71, R79). -/
def State.cDraws (s : State) (i : Instr) : Nat :=
  match i with
  | .vstt _ a b k _ => s.vsttDraws a b k
  | .tst _ _ b => tstDraws s.thr.arch.sts (s.thr.arch.getX b)
  | .pcopyt _ a n => s.pcopytDraws a n
  | _ => 0

/-- The A slot of the bundle that the thread begins. -/
def State.withA (s : State) (a : ASlot) : State := { s with thr := { s.thr with aslot := a } }

/-- The illegal-instruction fault of a word (R41). -/
def badFault (b : BadBundle) : Flt := ⟨0x01, b.code, 0, 0, b.widx, none⟩

/-- A code of the A slot that its registers give outranks codes 4 and 5 (R41). -/
def State.orBad (s : State) (b : BadBundle) : State :=
  match s.thr.aslot with
  | .fault f => if f.kind = 1 then s else s.withA (.fault (badFault b))
  | _ => s.withA (.fault (badFault b))

/-- `live` clears a register that the A slot writes: decided when the bundle issues (R32, R249). -/
def State.liveClash (s : State) (c a : Instr) : Bool :=
  match c with
  | .live r => (writes a).any (fun d => d != 0 && decide (d < 32) && !(liveOf (s.thr.arch.getX r)).getLsbD d)
  | _ => false

/-- The A slot runs first, on the registers as they were before the bundle, and then the C slot (R30). -/
def State.runPair (s : State) (c a : Instr) (bad : Option BadBundle) : Out :=
  match exec a (s.withA (.awaiting (s.cDraws c))) with
  | .next s1 => exec c (match bad with | some b => s1.orBad b | none => s1)
  | r => r

/-- A bundle (R29, R30, R41). -/
def State.runBundle (s : State) (b : Bundle) : Out :=
  match b with
  | .lone c => exec c (s.withA .none)
  | .pair c a => s.runPair c a (if s.liveClash c a then some ⟨5, 1⟩ else none)
  | .late c (some a) bad => if bad.code = 4 ∨ bad.code = 5 then s.runPair c a (some bad) else exec c (s.withA (.fault (badFault bad)))
  | .late c none bad => exec c (s.withA (.fault (badFault bad)))

/-- What fetching a bundle leaves: its line is in the chunk's read set and in the instruction cache, its page among those the
chunk has used (R34, R176, R292, R373). -/
def State.fetched (s : State) (pa : Nat) : State :=
  let s1 := s.allocI s.thr.core (lineOf pa)
  let c := s1.thr.chunk
  { s1 with thr := { s1.thr with chunk := { c with
      reads := ladd c.reads (lineOf pa)
      seen := s.sums [lineOf pa]
      pages := ladd c.pages ((s.thr.arch.pc.toNat % 2 ^ 57) / 4096) } } }

/-- The thread that issues fetches the bundle at its PC and runs it (R33, R34). -/
def State.issueBundle (s : State) : Out :=
  match s.fetchAt s.thr.arch.pc with
  | .error e => .next (s.stopFor e)
  | .ok pa =>
    let s1 := s.fetched pa
    let w := (s1.combined [pa]).bundleWords pa
    match decodeBundle w.1 w.2 with
    | .error b => .next (s1.raise (badFault b))
    | .ok b => s1.runBundle b

/-! ## What a thread has to do before its next bundle -/

/-- The thread that issues has something to do that is no bundle: the commit of an ended chunk, or a step of its region or
of its held re-execution (R155, R158, R162, R163). -/
def State.ownAct (s : State) : Option Event :=
  let t := s.thr
  if t.mustScan then some .fallThrough
  else if s.leaseOver then some .leaseExpiry
  else if t.nextLease.isSome then some .leaseAcquire
  else if t.nextHold.isSome then some .heldChunk
  else if t.chunk.ended then some .chunkCommit
  else none

/-- The same, of any thread. -/
def State.hasAct (s : State) (t : Thread) : Bool :=
  t.mustScan || t.nextLease.isSome || t.nextHold.isSome || t.chunk.ended || ({ s with thr := t } : State).leaseOver

/-- The event that a thread's committed chunk has asked for, when it can be performed now (R159). -/
def State.postNow (s : State) (t : Thread) : Option Event :=
  let id := t.id
  match t.post with
  | none => none
  | some (.amo _ _ _ _ _ _ _) => if s.canAmo id then some (.amoPerform id) else none
  | some (.cas _ _ _ _ _ _ _) => if s.canAmo id then some (.amoPerform id) else none
  | some (.reserve _ _) => some (.queueReservation id)
  | some (.stamp _ _ _ _) => if s.canStamp id then some (.stampWrite id) else none
  | some (.bar _ _ pa _ _ _) => if s.granted (some id) pa then some (.barArrival id) else none
  | some (.dbar _ _ _) => some (.dbarArrival id)
  | some (.ioLoad _ _ _ _) =>
    match t.ioDeadline with
    | some (_, c) => if c ≤ s.cyc then some (.ioCompletionTimeout id) else none
    | none => none
  | some (.fabLoad _ _ _ _ _) => none
  | some (.fabStore _ _ _ _) => none

/-- A deadline has passed. -/
def State.due (s : State) (c : Option Nat) : Bool :=
  match c with
  | some n => decide (n ≤ s.cyc)
  | none => false

/-- An event, if it can happen. -/
def whenB (b : Bool) (i : Event) : List Event := if b then [i] else []

/-- The events about one thread that can happen now. -/
def State.threadEvents (s : State) (t : Thread) : List Event :=
  let id := t.id
  if !t.live || (s.tenant id.tenant).out then []
  else
    (s.postNow t).toList
      ++ whenB (s.nextArm id).isSome (.watchArmEvent id)
      ++ whenB (s.canRelease id) (.fenceRelease id)
      ++ whenB (s.due (t.waitDeadline.map Prod.snd)) (.waitTimeout id)
      ++ whenB (s.due (t.barDeadline.map (fun p => p.2.2.2))) (.barTimeout id)
      ++ whenB (s.due (t.dbarDeadline.map (fun p => p.2.2))) (.dbarTimeout id)
      ++ ((List.range 4).map (BitVec.ofNat 2)).filterMap (fun n =>
          if (t.degradedWatch n).isSome then some (.hostWatchRecheck id n) else none)
      ++ ((List.range 4).map (BitVec.ofNat 2)).filterMap (fun n => if t.hostWatch n then some (.watchDegrade id n) else none)
      ++ whenB (s.canPack t) (.packComplete id)
      ++ whenB (s.canReturn t) (.docketReturn id)
      ++ whenB (s.canResume t) (.docketResume id)
      ++ whenB (match t.place with | .moving _ => true | _ => false) (.moveComplete id)

/-! ## Engines and the fabric -/

/-- The events of a porter that can happen now. -/
def State.porterEvents (s : State) (cl : BitVec 7) (n : BitVec 2) : List Event :=
  whenB (s.canStartPort cl n) (.porterCommandStart cl n)
    ++ whenB (s.canRunPort cl n) (.porterCommandComplete cl n)
    ++ whenB (s.resumes cl n 1) (.presContinue cl n)
    ++ whenB (s.resumes cl n 2) (.presAbandon cl n)
    ++ whenB (s.resumes cl n 3) (.presAbandonAll cl n)

/-- The events of a loom that can happen now. -/
def State.loomEvents (s : State) (cl : BitVec 7) : List Event :=
  let l := (s.cluster cl).loom
  whenB (l.queue.any (fun c => c.phase == .sent)) (.loomCommandArrival cl)
    ++ whenB (l.canStart && s.warmEnough cl) (.loomCommandStart cl)
    ++ (if l.mapped then [] else
        (l.queue.filter (fun c => c.phase == .started)).map (fun c => Event.loomCommandComplete cl c.seq))
    ++ (match l.queue.head? with
        | some c => whenB (c.phase == .done) (.loomCommandComplete cl c.seq)
        | none => [])
    ++ whenB (s.canReleaseLoom cl) (.loomRelease cl)
    ++ whenB (!(s.loomCalls cl).isEmpty) (.loomTurn cl)
    ++ whenB (l.st == 3) (.loomReleaseComplete cl)
    ++ whenB (s.loomResumes cl 1) (.lresRetry cl)
    ++ whenB (s.loomResumes cl 2) (.lresSkip cl)
    ++ whenB (s.loomResumes cl 3) (.lresFlush cl)
    ++ whenB (s.loomResumes cl 4) (.lresRetryNoNan cl)

/-- The events of a cluster that can happen now. -/
def State.clusterEvents (s : State) (cl : BitVec 7) : List Event :=
  ((s.cluster cl).drays.zipIdx.filter (fun p => s.due (some (p.1.since + (s.tenant p.1.tn).dage)))).map
      (fun p => Event.drayAgeExpiry cl p.2)
    ++ s.loomEvents cl
    ++ (s.cluster cl).porters.flatMap (fun p => s.porterEvents cl (BitVec.ofNat 2 p.1))

/-- The events of what travels. -/
def State.netEvents (s : State) : List Event :=
  let n := s.net
  ((List.range n.packets.length).filter s.canApply).map Event.drayPacketApply
    ++ (List.range n.acks.length).map Event.drayAcknowledgement
    ++ ((List.range n.amops.length).filter s.canAmop).map Event.amopPerform
    ++ ((List.range n.wakes.length).filter s.canWake).map Event.wakeDelivery
    ++ ((List.range n.reqs.length).filter s.canAct).map Event.threadStateAction
    ++ (List.range n.results.length).map Event.threadStateResult
    ++ ((List.range n.crewGos.length).filter s.canStart).map Event.crewStart
    ++ (List.range n.smays.length).map Event.smayObserved
    ++ (List.range n.releases.length).map Event.pwaitRelease
    ++ ((List.range n.pokes.length).filter s.canPoke).map Event.heldPoke
    ++ ((List.range n.inbound.length).filter s.canServe).map Event.inbound
    ++ ((List.range n.late.length).filter s.canLate).map Event.late
    ++ ((List.range n.farPackets.length).filter s.canFar).map Event.farNext
    ++ ((List.range n.invals.length).filter s.canInval).map Event.invalDone
    ++ n.criers.zipIdx.map (fun p => if p.1.abort then Event.crierAbort p.2 else Event.crierMessage p.2)
    ++ (s.partials.filter (fun p => !p.atHome)).map (fun p => Event.partialEviction p.core (lineOf p.pa))

/-! ## Tenants, queues, regions and the hub -/

/-- A service request of a queue waits for a tenant's switch out (R288). -/
def State.switchAsked (s : State) (tn : BitVec 4) : Bool :=
  s.queues.any (fun p => match p.2.st with
    | .validating _ r => recType r == 1 && recFunc r == 15 && (recOpers r).o1 == 2 && operTenant (recOpers r).o0 == tn
    | _ => false)

/-- Service operands that name a tenant. -/
def opersOf (tn : BitVec 4) : Opers := ⟨tn.setWidth 64, 2, 0, 0, 0, 0, 0, 0⟩

/-- The events of a tenant's domains that can happen now. -/
def State.domainEvents (s : State) (tn : BitVec 4) : List Event :=
  (s.tenant tn).domains.zipIdx.flatMap (fun p =>
    whenB (s.wiresUp tn p.1) (.wireComplete tn p.2)
      ++ (if p.1.kind.crier then [] else
          (p.1.members.filter (fun m => !m.raised && s.isRaised tn m)).map (fun m => Event.wireRaise ⟨tn, m.rank⟩))
      ++ ((s.crierClusters tn p.1).filter (s.canBegin tn p.1)).map (fun cl => Event.crierBegin tn p.2 cl))

/-- The events of a tenant that can happen now. -/
def State.tenantEvents (s : State) (tn : BitVec 4) : List Event :=
  let t := s.tenant tn
  ((t.launches.filter (fun l => s.canComplete tn l.lid)).map (fun l => Event.launchComplete tn l.lid))
    ++ s.domainEvents tn
    ++ whenB (s.deadlocked tn) (.deadlockDetect tn)
    ++ whenB (s.due t.pulseDeadline) (.pulsePeriodExpiry tn)
    ++ ((s.heldOf tn).zipIdx.filter (fun p => s.canAskHeld tn p.1 || s.canDeliver tn p.1)).map (fun p => Event.pendingRecordDelivery tn p.2)
    ++ whenB (s.canReport tn) (.pendingRecordDelivery tn (s.heldOf tn).length)
    ++ whenB (t.leaving == 1 && s.drained tn && !s.switchAsked tn) (.switchOut 0 (opersOf tn))
    ++ whenB (t.leaving == 2 && (t.out || s.drained tn)) (.stopInterfaceRequest 0 tn)

/-- The events of a host queue that can happen now. -/
def State.queueEvents (s : State) (q : BitVec 6) : List Event :=
  let k := s.queue q
  whenB (s.canNotify q) (.notifyWrite q)
    ++ (match k.st with
      | .idle => []
      | .reading dev => whenB (!s.draining (k.recordAt dev)) (.launchRecordRead q)
      | .validating _ _ => [.launchValidated q]
      | .draining _ g => whenB (s.region g).drain.isNone (.launchValidated q))

/-- A number below `b`, the digit of a free value for one cluster. -/
def digit (n b i : Nat) : Nat := n / b ^ i % b

/-- The weighmaster's commands: which it issues no rule says (R238). -/
def State.freeMoves (s : State) (n : Nat) : List MoveCmd :=
  s.clusters.map (fun p =>
    let cl := BitVec.ofNat 7 p.1
    let d := digit n 20000 p.1
    ⟨coreOf cl (d % 8), coreOf cl (d / 8 % 8), d / 64⟩)

/-- The cycles that the governor withholds from running looms: how many no rule says (R132). -/
def State.freeWithheld (s : State) (n : Nat) : List (BitVec 7 × Nat) :=
  (s.clusters.filter (fun p => p.2.loom.runs)).map (fun p => (BitVec.ofNat 7 p.1, digit n 1025 p.1))

/-- The events of the hub that can happen now. -/
def State.hubEvents (s : State) (f : Nat) : List Event :=
  whenB (s.due (some (s.hub.weighAt + 4096))) (.weighmasterSample (s.freeMoves (Config.choice (f + 1))))
    ++ whenB (s.due (some (s.hub.governAt + 1024))) (.governorWindow (s.freeWithheld (Config.choice (f + 2))))
    ++ whenB (s.due (some (s.hub.epochAt + Config.epochCycles))) .epochEnd
    ++ ([0, 1] : List (BitVec 1)).filterMap (fun h =>
        let k := s.head h
        if !k.up && !k.lost && k.downAt != 0 && s.due (some (k.downAt - 1 + Config.hostLostCycles)) then
          some (.hostLinkDownTimeout h) else none)
    ++ ([0, 1] : List (BitVec 1)).filterMap (fun h => if s.due (s.beatDue h) then some (.sessionExpiry h) else none)
    ++ whenB s.canPlace .crewPlacement
    ++ (s.regions.filter (fun p => s.canDrain p.1)).map (fun p => Event.drainComplete p.1)
    ++ (s.regions.filter (fun p => s.canMigrate p.1)).map (fun p => Event.regionMigrationComplete p.1)
    ++ whenB s.capsDue .capStep
    ++ whenB s.handoverDue .handoverStep

/-- Every device event that can happen now. -/
def State.events (s : State) (f : Nat) : List Event :=
  s.threads.flatMap s.threadEvents
    ++ s.clusters.flatMap (fun p => s.clusterEvents (BitVec.ofNat 7 p.1))
    ++ s.netEvents
    ++ s.tenants.flatMap (fun p => s.tenantEvents (BitVec.ofNat 4 p.1))
    ++ s.queues.flatMap (fun p => s.queueEvents (BitVec.ofNat 6 p.1))
    ++ s.hubEvents f

/-! ## The issue policy (R222 to R224) -/

/-- What a thread's next bundle has been found to wait for has not come about (R158, R162, R290, R332). -/
def State.balking (s : State) (t : Thread) : Bool :=
  match t.balk with
  | some (.line l) => s.blocked (some t.id) l
  | some (.page v) => s.net.ats.contains (t.id.tenant, t.core, v)
  | some (.link m) => !s.carries m
  | some .split => false
  | none => false

/-- A thread has a bundle that core `c` can issue. -/
def State.hasBundle (s : State) (c : BitVec 10) (t : Thread) : Bool := s.canIssue c t && !s.hasAct t && !s.balking t

/-- The threads of a core that are ready and have a bundle to issue. -/
def State.readyOn (s : State) (c : BitVec 10) : List Thread := s.threads.filter (s.hasBundle c)

/-- The cores that have a ready thread. -/
def State.readyCores (s : State) : List (BitVec 10) :=
  s.threads.foldl (fun l t => if s.hasBundle t.core t && !l.contains t.core then l ++ [t.core] else l) []

/-- Those of them that have not issued in this cycle: a core issues at most one bundle a cycle (R17, R222). -/
def State.openCores (s : State) : List (BitVec 10) := s.readyCores.filter (fun c => (s.core c).issuedAt != some s.cyc)

/-- Those of a core's threads whose next bundle waits for no result: which do is a free value (log 18). -/
def unstalled (f : Nat) (l : List Thread) : List Thread := (l.zipIdx.filter (fun p => !Config.stalled f p.2)).map Prod.fst

/-- The threads among which a core chooses: with all of them waiting for results, or with one alone, the issue is only
delayed. -/
def contenders (f : Nat) (l : List Thread) : List Thread :=
  if l.length ≤ 1 ∨ (unstalled f l).isEmpty then l else unstalled f l

/-- Round-robin (R224, R341): the first slot after the one that issued last. -/
def nextSlot (c : BitVec 10) (last : BitVec 8) : List Thread → Option Thread
  | [] => none
  | t :: l =>
    let turn (u : Thread) : Nat := ((u.slotOn c).getD 0 + 255 - last.toNat) % 256
    match nextSlot c last l with
    | none => some t
    | some u => if turn u < turn t then some u else some t

/-- Greedy-then-oldest (R223). -/
def State.greedy (s : State) (c : BitVec 10) (l : List Thread) : Option Thread :=
  match oldestOf c (l.filter (fun t => decide (4096 ≤ t.waits))) with
  | some t => some t
  | none =>
    match l.find? (fun t => (s.core c).lastThread == some t.id && (s.core c).issuedAt == some (s.cyc - 1) && !t.yielded) with
    | some t => some t
    | none =>
      match oldestOf c (l.filter (fun t => !t.yielded)) with
      | some t => some t
      | none => oldestOf c l

/-- The thread that a core picks (R222): all threads of a core are of one tenant. -/
def State.pick (s : State) (f : Nat) (c : BitVec 10) : Option Thread :=
  let l := contenders f (s.readyOn c)
  match l with
  | [] => none
  | t :: _ => if (s.tenant t.id.tenant).rr then nextSlot c (s.core c).lastSlot l else s.greedy c l

/-- The core has issued a bundle of thread `u` (R223, R341): its count of waiting ends, the threads `ids` that were ready
count the cycle, the yields of the others end, and the core keeps which it was; its tenant can be found deadlocked anew
(R246). -/
def State.issued (s : State) (u : Thread) (ids : List ThreadId) : State :=
  let c := u.core
  let s1 := s.setCore c { s.core c with
    lastSlot := BitVec.ofNat 8 ((u.slotOn c).getD 0), lastThread := some u.id, issuedAt := some s.cyc }
  let s2 := s1.setTenant u.id.tenant { s1.tenant u.id.tenant with deadlock := false }
  s2.updAll (fun t =>
    if t.id = u.id then { t with waits := 0 }
    else if t.core = c then { t with yielded := false, waits := if ids.contains t.id then t.waits + 1 else t.waits }
    else t)

/-- A core has tried the next bundle of thread `u`. One that has to wait for a line, a page or a link is not issued (R341); an
access that has taken the host's refusal of its page asks anew when it comes again (R290). -/
def State.tried (s : State) (u : Thread) (ids : List ThreadId) : State :=
  let b := (s.find u.id).bind Thread.balk
  let s1 :=
    match u.balk with
    | some (.page v) => if b = some (.page v) then s else s.forget u.id.tenant u.core (4096 * v)
    | _ => s
  if b.isSome then s1 else s1.issued u ids

/-- The threads of a core, but for `u`, whose next bundle waits for nothing (R223, log 18). -/
def State.waiters (s : State) (f : Nat) (u : Thread) : List ThreadId :=
  ((unstalled f (s.readyOn u.core)).map Thread.id).filter (fun i => i != u.id)

/-! ## The choice of what happens next -/

/-- What can happen next: a device event, an act of a thread that is no bundle, or the issue of a bundle. -/
inductive Move where
  | event (i : Event)
  | act (id : ThreadId)
  | issue (id : ThreadId)
deriving DecidableEq, Repr

/-- Everything that can happen next. -/
def State.moves (s : State) (f : Nat) : List Move :=
  (s.events f).map Move.event
    ++ (s.threads.filter (fun t => s.canIssue t.core t && s.hasAct t)).map (fun t => Move.act t.id)
    ++ (s.openCores.filterMap (s.pick f)).map (fun t => Move.issue t.id)

/-- One of several moves; with only one there is nothing to choose. -/
def choose (f : Nat) (l : List Move) : Option Move :=
  match l with
  | [] => none
  | [m] => some m
  | m :: k => some ((m :: k).getD (Config.choice f % (k.length + 1)) m)

/-- A move is made. -/
def State.make (s : State) (f : Nat) (m : Move) : Out :=
  match m with
  | .event i => i.run s
  | .act id =>
    let s1 := s.focus id
    match s1.ownAct with
    | some i => i.run s1
    | none => .next s1
  | .issue id =>
    let s1 := s.focus id
    match ({ s1 with thr := { s1.thr with balk := none } } : State).issueBundle with
    | .next s2 => .next (s2.tried s1.thr (s.waiters f s1.thr))
    | r => r

/-- Some dray departs in this cycle. -/
def State.draysDue (s : State) : Bool := s.clusters.any (fun c => c.2.drays.any Dray.due)

/-- `d` cycles pass; the drays that depart in this cycle have left (R167). -/
def State.tick (s : State) (d : Nat) : State :=
  { (if s.draysDue && decide (0 < d) then s.sendDrays else s) with cyc := s.cyc + d }

/-- The module's own next step: one of the things that can happen happens, and time passes: how much is a free value, and some
does when nothing happens (log 3). -/
def State.ownStep (s : State) : Out :=
  let f := s.free
  let s1 : State := { s with free := f + 8 }
  match choose f (s1.moves f) with
  | none => .next (s1.tick (max 1 (Config.stepCycles f)))
  | some m =>
    match s1.make f m with
    | .next s2 => .next (s2.tick (Config.stepCycles f))
    | r => r

/-! ## Inputs, power and bring-up (R316, R336, R337) -/

/-- A read of BAR 0. -/
def Instr.readsBar : Instr → Bool
  | .registerWrite _ _ (.read _) => true
  | _ => false

/-- What still happens while the module is frozen: a reset, reads of BAR 0, and what the security engine and the side band
answer (R316). -/
def Instr.whileFrozen : Instr → Bool
  | .reset => true
  | .getMeasurements _ => true
  | .pldmRequest _ _ => true
  | i => Instr.readsBar i

/-- What still happens in D3hot (R337). -/
def Instr.whileAsleep : Instr → Bool
  | .reset => true
  | .d0Return => true
  | _ => false

/-- A reset. -/
def Instr.isReset : Instr → Bool
  | .reset => true
  | _ => false

/-- An event of the agenda can happen in the module's power state; another is dropped. -/
def State.admits (s : State) (i : Instr) : Bool :=
  if s.hub.frozen then Instr.whileFrozen i
  else if s.hub.d3 then Instr.whileAsleep i
  else if s.hub.failedAt.isSome then Instr.isReset i || Instr.readsBar i
  else true

/-- What the module does of itself: nothing while it is frozen or asleep, the next stage of its bring-up, or its own step. -/
def State.runs (s : State) : Out :=
  if s.hub.frozen || s.hub.d3 then .next s
  else if s.hub.failedAt.isSome then .fault .bringUpFailed
  else if s.hub.stage < 6 then execBringUpStage true s
  else s.ownStep

/-- One step: the first of the agenda, where an instruction of a slot stands for a step of the module's own (log 1), or, with
nothing on the agenda, such a step. -/
def State.turn (s : State) : Out :=
  match s.agenda with
  | [] => s.runs
  | i :: l =>
    let s1 : State := { s with agenda := l }
    if i.encodable then s1.runs
    else if s.admits i then exec i s1
    else .next s1

/-! ## Placing one instruction -/

/-- The two words of the bundle that holds an instruction of the opcode table (R29): an A-slot word beside `nop`. -/
def tableBundle (w : Nat) : Half × Half :=
  let h : Half := BitVec.ofNat 32 w
  let c : Bool := match decodeBundle (h &&& 0x7FFFFFFF) 0 with | .ok (.lone _) => true | _ => false
  let a : Bool := match decodeBundle 0x80000000 h with | .ok (.pair _ _) => true | _ => false
  if (if fld h 31 1 = 1 then a else a && !c) then (0x80000000, h) else (h &&& 0x7FFFFFFF, 0)

/-- The address of the bundle that `placeBundle` places, the image base of R51. -/
def placeAt : Nat := 0x40000

/-- The tenant of the placed bundle: in RUN, on cluster 0, with the bundle's page mapped to itself. -/
def placeTenant : Tenant :=
  { Tenant.reset with
    valid := true
    tdisp := .run
    pasid0 := some 0
    ptab := [(placeAt / 4096, ⟨placeAt, true, true, true, false⟩)] }

/-- The translation of that page in the TLB of core 0, and in its cluster's. -/
def placeTlb (c : Option (BitVec 10)) : TlbEntry :=
  ⟨0, some 0, 12, 0, c, placeAt / 4096, ⟨placeAt, true, true, true, false⟩⟩

/-- The module after bring-up with nothing under way, and one thread, ready in slot 0 of core 0, whose PC names a bundle of
two words (log 19). -/
def State.placeThread (s : State) (w : Half × Half) : State :=
  { s with
    thr := Thread.fresh ⟨0, 0⟩ { s.thr.arch with pc := BitVec.ofNat 64 placeAt, hold := [] } 0 0
    others := []
    mem := memWriteAll s.mem (cellsOf placeAt 4 (w.1.setWidth 64) ++ cellsOf (placeAt + 4) 4 (w.2.setWidth 64))
    poison := []
    partials := []
    tenants := [(0, placeTenant)]
    clusters := []
    cores := []
    regions := [(regionOf placeAt, { Region.reset with owner := some 0, tier := some 0 })]
    tlb := [placeTlb (some 0), placeTlb none]
    queues := []
    head0 := Head.reset
    head1 := Head.reset
    net := Net.reset
    hub := { s.hub with
      stage := 6, failedAt := none, frozen := false, d3 := false, weighAt := s.cyc, governAt := s.cyc, epochAt := s.cyc
      caps := { s.hub.caps with gen := s.hub.capGen } }
    agenda := [] }

/-- The same with the handover area up to date. -/
def State.placeBundle (s : State) (w : Half × Half) : State :=
  let s1 := s.placeThread w
  { s1 with hub := { s1.hub with handover := ⟨2, s1.handoverWords⟩ } }

end Sys2Proof.Machine
end

