-- ==== Sys2Proof/Machine/Step.lean ====
section
/-! DEFINITION. The step of the module, and the placing of one instruction where the next step fetches it. -/

namespace Sys2Proof.Machine

/-- One step of the module: the next event of the agenda, or one thing that the module does of itself. -/
def step (s : State) : Host.Outcome State Fault Refusal := s.turn

/-- `s` with an instruction of the opcode table placed where its next step fetches it (log 19). An instruction has 32 bits;
a device event has no encoding and no place in memory, and nothing is changed for it. -/
def State.withFetchWord (s : State) (nbits w : Nat) : State := if nbits = 32 then s.placeBundle (tableBundle w) else s

end Sys2Proof.Machine
end

