-- ==== Sys2Proof/Safety.lean ====
section
/-! DEFINITION. The terms in which claims are made: when a bundle can be performed and what it then leaves, when a chunk can
commit and what the commit leaves, when the module's step issues a bundle, and the form of memory that every step keeps. -/

namespace Sys2Proof.Machine

/-- The A slot of the bundle has come to a fault. -/
def ASlot.faults : ASlot → Bool
  | .fault _ => true
  | _ => false

/-- A bundle with the effect `e` can be performed: its A slot has not faulted, an open region stays within 4,096 bundles and
256 lines (R161), and a store that is not the first bundle of its chunk stays within 64 lines (R154). -/
def State.fits (s : State) (e : Eff) : Bool :=
  !s.thr.aslot.faults &&
    (if s.thr.inRegion then
      decide ((s.chunkAfter e).count ≤ Config.regionBundles) && decide ((s.chunkAfter e).lines.length ≤ Config.regionLines)
    else
      e.stores.isEmpty || s.thr.chunk.count == 0 || decide ((s.chunkAfter e).firsts.length ≤ Config.chunkLines))

/-- A bundle with the effect `e` has been performed: only the thread's registers and its open chunk have changed. -/
def State.retired (s : State) (e : Eff) : State :=
  { s with thr := { s.thr with arch := s.thr.after e, chunk := s.chunkAfter e, aslot := .none } }

/-- A bundle that only writes registers has been performed: `f` of the registers, over the A slot's result, and the chunk has
one bundle more. -/
def State.withRegs (s : State) (f : Arch → Arch) : State :=
  { s with thr := { s.thr with arch := f s.thr.pending, chunk := s.chunkAfter Eff.none, aslot := .none } }

/-- The open chunk can commit (R155, R157, R158, R162, R176, R184): no conflict has met it, no solo chunk or holder has its
lines, no lease has expired, and it stores to no poisoned line that it does not cover. -/
def State.mayCommit (s : State) : Bool :=
  !s.thr.chunk.conflict && !s.meetsSolo && !s.thr.stray && !s.staleSum && !s.leaseOver && s.poisonedStore.isNone
    && !(s.thr.chunk.lines ++ s.thr.chunk.changes).any (s.blocked (some s.thr.id))

/-- A bundle with the effect `e` can end its chunk: no region is open, the bundle can be performed, and the chunk can commit. -/
def State.canEnd (s : State) (e : Eff) : Bool := !s.thr.inRegion && s.fits e && (s.retired e).mayCommit

/-- The state right after the commit of a chunk that a bundle with the effect `e` ends. -/
def State.ended (s : State) (e : Eff) : State := (s.retired e).commitNow

/-- The module runs: it is neither frozen nor asleep, and its bring-up is over. -/
def State.awake (s : State) : Bool :=
  !s.hub.frozen && !s.hub.d3 && s.hub.failedAt.isNone && decide (6 ≤ s.hub.stage)

/-- The state from which a step's own move is made: its free values have been set aside. -/
def State.drawn (s : State) : State := { s with free := s.free + 8 }

/-- A step of the module ends: `d` cycles pass. -/
def State.ticked (d : Nat) : Out → Out
  | .next s => .next (s.tick d)
  | o => o

/-- The step's own move is made and time passes (log 3). -/
def State.passes (s : State) (o : Out) : Out := State.ticked (Config.stepCycles s.free) o

/-- A core has tried a bundle of thread `u` in state `s` (R223, R341). -/
def State.triedBy (s : State) (f : Nat) (u : Thread) : Out → Out
  | .next t => .next (t.tried u (s.waiters f u))
  | o => o

/-- The form that memory keeps: addresses strictly rising, and no entry equal to what an unlisted address reads as. -/
abbrev State.memOk (s : State) : Prop := Memory.wf s.mem = true

/-- A thread other than the one named is as it was. -/
def State.sameOthers (s t : State) (id : ThreadId) : Prop := ∀ i, i ≠ id → t.find i = s.find i

/-- Every byte of memory reads as it did. -/
def State.sameMem (s t : State) : Prop := t.mem = s.mem ∧ t.poison = s.poison ∧ t.partials = s.partials

/-! ## Vector instructions, element by element -/

/-- The elements below `j` that a mask makes active (R100). -/
def activeBelow (m : BitVec 2048) (j : Nat) : Nat := ((List.range j).filter m.getLsbD).length

/-- A vector instruction that rounds: its format and element width, how many elements there are, what stands in the others,
and the exact value of each element before the rounding. -/
structure RoundedForm where
  i : Instr
  hs : List (BitVec 5)
  f : Fmt
  b : Nat
  inf : Bool
  count : Nat
  base : BitVec 16384
  val : Nat → Val

/-- The vector instructions that round on a floating-point type (R102, R104, R105): each with the exact value of its elements. -/
def State.roundedForms (s : State) (ty to' src : VTy) (nf : NarrowFmt) (inf : Bool) (d a b : BitVec 5) (h1 h2 : Bool)
    (k : BitVec 3) : List RoundedForm :=
  let m := stsMode s.thr.arch.sts
  let x (t : VTy) (j : Nat) : Val := decodeVal t.fmt (s.lane t.bits a j).toNat
  let y (j : Nat) : Val := decodeVal ty.fmt (s.lane ty.bits b j).toNat
  let z (j : Nat) : Val := decodeVal ty.fmt (s.lane ty.bits d j).toNat
  let keep := s.thr.arch.getV d
  [⟨.vadd ty d a b h1 h2 k, holds h1 h2 a b, ty.fmt, ty.bits, false, laneCount s.thr.ngrp ty.bits, keep,
      fun j => addVal m (x ty j) (y j)⟩,
    ⟨.vsub ty d a b h1 h2 k, holds h1 h2 a b, ty.fmt, ty.bits, false, laneCount s.thr.ngrp ty.bits, keep,
      fun j => addVal m (x ty j) (y j).neg⟩,
    ⟨.vmul ty d a b h1 h2 k, holds h1 h2 a b, ty.fmt, ty.bits, false, laneCount s.thr.ngrp ty.bits, keep,
      fun j => mulVal (x ty j) (y j)⟩,
    ⟨.vfma ty d a b h1 h2 k, holds h1 h2 a b, ty.fmt, ty.bits, false, laneCount s.thr.ngrp ty.bits, keep,
      fun j => addVal m (mulVal (x ty j) (y j)) (z j)⟩,
    ⟨.vfnma ty d a b h1 h2 k, holds h1 h2 a b, ty.fmt, ty.bits, false, laneCount s.thr.ngrp ty.bits, keep,
      fun j => addVal m (mulVal (x ty j) (y j)).neg (z j)⟩,
    ⟨.vdiv ty d a b h1 h2 k, holds h1 h2 a b, ty.fmt, ty.bits, false, laneCount s.thr.ngrp ty.bits, keep,
      fun j => divVal (x ty j) (y j)⟩,
    ⟨.vsqrt ty d a h1 k, holds h1 false a a, ty.fmt, ty.bits, false, laneCount s.thr.ngrp ty.bits, keep,
      fun j => sqrtVal (x ty j)⟩,
    ⟨.vcvt to' src d a h1 k, holds h1 false a a, to'.fmt, to'.bits, false,
      min (laneCount s.thr.ngrp to'.bits) (laneCount s.thr.ngrp src.bits), 0, fun j => x src j⟩,
    ⟨.vpack nf src inf d a h1 k, holds h1 false a a, nf.fmt, nf.fmt.bits, inf, laneCount s.thr.ngrp src.bits, 0,
      fun j => x src j⟩]

/-- RNGS when element `j` is rounded: the C slot's draws come first, and stochastic rounding has drawn once for each active
element before it (R71, R79). -/
def State.rngAt (s : State) (n : Nat) (k : BitVec 3) (m : Mode) (j : Nat) : BitVec 32 :=
  rngSteps (if m = .sr then activeBelow (s.thr.arch.getM k) j else 0) (s.thr.arch.beside n).rngs

/-- The code of element `j`. -/
def RoundedForm.code (p : RoundedForm) (s : State) (n : Nat) (k : BitVec 3) (m : Mode) (j : Nat) : Nat :=
  roundCode p.f m (rngZ (s.rngAt n k m j)) p.inf (p.val j)

/-- Element `j` is active. -/
def RoundedForm.on (p : RoundedForm) (s : State) (k : BitVec 3) (j : Nat) : Bool :=
  decide (j < p.count) && (s.thr.arch.getM k).getLsbD j

/-- No NaN fault: NANF is clear, or no result is NaN (R76). -/
def RoundedForm.nanFree (p : RoundedForm) (s : State) (n : Nat) (k : BitVec 3) (m : Mode) : Prop :=
  stsNanf s.thr.arch.sts = true → ∀ j, p.on s k j = true → (decodeVal p.f (p.code s n k m j)).isNan = false

/-- The instruction comes to its result: every active element has its code, every other what stood in it. -/
def RoundedForm.completes (p : RoundedForm) (s : State) (n : Nat) (d : BitVec 5) (k : BitVec 3) (m : Mode) : Prop :=
  ∃ v : BitVec 16384,
    exec p.i s = .next (s.withA (.vec
      (({ (s.thr.arch.beside n).aged p.hs with rngs := s.rngAt n k m p.count } : Arch).setV d v)))
    ∧ ∀ j, (j + 1) * p.b ≤ 16384 →
      laneGet p.b j v = if p.on s k j then (BitVec.ofNat p.b (p.code s n k m j)).setWidth 64 else laneGet p.b j p.base

/-- A vector instruction that does not round: which elements it writes, what stands in the others, the word of each element,
and whether that is a NaN produced (R76). -/
structure WordForm where
  i : Instr
  hs : List (BitVec 5)
  b : Nat
  on : Nat → Bool
  base : BitVec 16384
  w : Nat → Word
  nan : Nat → Bool

/-- No NaN fault. -/
def WordForm.nanFree (p : WordForm) (s : State) : Prop :=
  stsNanf s.thr.arch.sts = true → ∀ j, p.on j = true → p.nan j = false

/-- The instruction comes to its result: every element it writes has the low bits of its word, every other what stood in it. -/
def WordForm.completes (p : WordForm) (s : State) (n : Nat) (d : BitVec 5) : Prop :=
  ∃ v : BitVec 16384,
    exec p.i s = .next (s.withA (.vec (((s.thr.arch.beside n).aged p.hs).setV d v)))
    ∧ ∀ j, (j + 1) * p.b ≤ 16384 → laneGet p.b j v = if p.on j then zext p.b (p.w j) else laneGet p.b j p.base

end Sys2Proof.Machine
end

