-- ==== Sys2Proof/Certificates/Slice0/Obligations.lean ====
section
/-! DEFINITION. The statements for the provers: what the instructions and the events of the device do, stated from the rules of
the spec, with completion, frames, traps, encodings and invariants. -/

open Sys2Proof Sys2Proof.Machine


/-! ## The module as a whole -/

/-- Reset (R336, R341): bring-up has passed no stage, no thread exists, no tenant is set up and every tenant is CONFIG_UNLOCKED
with the values of R164 and R269, the engines are idle, round-robin counts from slot 255 and the power limit is 3,400 W. The
memory has its canonical form. -/
def Obligations.ResetState : Prop :=
  State.reset.hub.bstat = 0
  ∧ (∀ c, (State.reset.core c).lastSlot = 255 ∧ (State.reset.core c).mappedOut = false)
  ∧ (∀ id, State.reset.find id = none)
  ∧ (∀ tn, let t := State.reset.tenant tn
      t.valid = false ∧ t.tdisp = .unlocked ∧ t.dage = 1024 ∧ t.leasemax = 20000 ∧ t.rmax = 2 ^ 24 ∧ t.rr = false)
  ∧ (∀ cl n, (State.reset.cluster cl).loom.st = 0 ∧ ((State.reset.cluster cl).porter n).st = 0)
  ∧ (∀ r, (State.reset.region r).owner = none ∧ (State.reset.region r).hostBias = false ∧ (State.reset.region r).tier = none)
  ∧ (∀ h, (State.reset.head h).session = false ∧ (State.reset.head h).svring = 0)
  ∧ State.reset.hub.powerLimit = 3400
  ∧ State.reset.memOk

/-- Words that the spec writes out, by the bundle they stand in, and the instructions they stand for. -/
def Obligations.DecodeSpecWords : Prop :=
  (∀ p ∈ ([(0x0E00C000, 0, .jalr 0 1 (.short 0)), (0x78900000, 0x12345678, .movi 9 (.lit 0x12345678)),
      (0x7A900040, 0, .movhi 9 (.short 0x40)), (0x5E078002, 0, .unwind 15), (0x5E000003, 0, .tdrop),
      (0x50059400, 0, .twarp 0 11 5), (0x54051400, 0, .tlda 10 5), (0x56300100, 0, .tmul 3 2), (0x5C061401, 0, .tst 0 12 5),
      (0x5C068002, 0, .tsync 13), (0x1253AFFC, 0, .st .w 5 7 (.short 0xFFC)), (0x2C931403, 0, .amo .add .d 9 6 5),
      (0x2E931402, 0, .cas .w 9 6 5), (0x36031402, 0, .rst .w 6 5), (0x36031592, 0, .ramo .fadd .w 6 5), (0x36000010, 0, .dflush),
      (0x3A000010, 0, .fenceE), (0x3C700010, 0, .xend 7), (0x3C000023, 0, .xabort 3), (0x42200010, 0, .qwaitE 2),
      (0x46500820, 0, .qld 5 2 2), (0x4C830020, 0, .pgath 8 6 0), (0x4C938041, 0, .pscadd 9 7 1), (0x60231410, 0, .watch .eq 2 6 5),
      (0x62740010, 0, .wait 7 8), (0x62000031, 0, .haltRetain), (0x62028040, 0, .live 5), (0x64931400, 0, .spawn 9 6 5),
      (0x66000010, 0, .smay), (0x68931400, 0, .bar 9 6 5), (0x6A930010, 0, .dbar 9 6), (0x6C930020, 0, .vreneg 9 6),
      (0x6E930010, 0, .launch 9 6), (0x70930010, 0, .tstart 9 6), (0x729300C0, 0, .trds 9 6 12), (0x74931610, 0, .twrs 9 6 5 33),
      (0x76930020, 0, .iquery 9 6), (0, 0, .nop)] : List (Half × Half × Instr)),
    decodeBundle p.1 p.2.1 = .ok (.lone p.2.2))
  ∧ (∀ p ∈ ([(0xF8700008, 0x11200000, .movi 7 (.short 8), .addi 9 0 0), (0x90536000, 0x10C60004, .ld .wu 5 6 (.short 0), .addi 6 6 4),
      (0x80000000, 0x10E7FFFF, .nop, .addi 7 7 0xFFFF), (0x85F383FE, 0x51292810, .bNe 7 0 (.short 0x7FFE), .fadd .s .sts 9 9 5),
      (0x80000000, 0x8C884882, .nop, .vfma .s 4 8 9 true false 2), (0xF8500004, 0xE8200600, .movi 5 (.short 4), .vid .i32 1 0),
      (0x80000000, 0xAC211610, .nop, .vcmp .lt .i32 1 1 2 false false 0), (0x80000000, 0xB9A80801, .nop, .vpack .e4m3 .s true 13 8 false 1),
      (0x80000000, 0xC1280001, .nop, .vred .sum .s 9 8 false 1), (0x80000000, 0x0CA63070, .nop, .ext 5 6 12 7),
      (0x80000000, 0x20A5FC02, .nop, .sari 5 5 63), (0x80000000, 0x20AC1800, .nop, .shli 5 12 6)] :
        List (Half × Half × Instr × Instr)),
    decodeBundle p.1 p.2.1 = .ok (.pair p.2.2.1 p.2.2.2))

/-- Decode and encode agree: the two words of every well-formed instruction are read as that instruction, lone or beside `nop`,
with every operand at every value. -/
def Obligations.RoundTrip : Prop :=
  ∀ i : Instr, i.wf = true → i.encodable = true → ∃ w0 w1, encode i = [w0, w1]
    ∧ (decodeBundle w0 w1 = .ok (.lone i) ∨ decodeBundle w0 w1 = .ok (.pair .nop i))

/-- A step runs the decoded instruction: with nothing on the agenda, and a thread chosen to issue, the two words at its PC are
decoded and run, the A slot before the C slot on the registers as they were (R30), and cycles pass, as many as a free value
says (log 3); words that are no bundle raise the illegal-instruction fault of R41. A bundle that has to wait is no issue
(R341). Which of several threads the step chooses is the model's choice (logs 1 and 18). -/
def Obligations.StepRunsBundle : Prop :=
  ∀ (s : State) (id : ThreadId) (pa : Nat),
    let u0 := (s.drawn.focus id).thr
    let s1 : State := { s.drawn.focus id with thr := { u0 with balk := none } }
    let done (o : Out) : Out := s.passes (s.drawn.triedBy s.free u0 o)
    let s2 := s1.fetched pa
    let w := (s2.combined [pa]).bundleWords pa
    s.awake = true → s.agenda = [] → choose s.free (s.drawn.moves s.free) = some (.issue id) →
    s1.fetchAt s1.thr.arch.pc = .ok pa →
    (∀ c, decodeBundle w.1 w.2 = .ok (.lone c) → step s = done (exec c (s2.withA .none)))
    ∧ (∀ c a u, decodeBundle w.1 w.2 = .ok (.pair c a) → s2.liveClash c a = false →
      exec a (s2.withA (.awaiting (s2.cDraws c))) = .next u → step s = done (exec c u))
    ∧ (∀ b, decodeBundle w.1 w.2 = .error b → step s = done (.next (s2.raise ⟨0x01, b.code, 0, 0, b.widx, none⟩)))

/-- A step with an event on the agenda is that event, if the module's power state admits it; without one, a step makes a
device event that can happen, lets time pass where nothing can (log 3), brings the module up, or, while it is frozen or
asleep, changes nothing (R316, R336, R337). THE MODEL'S CHOICES: the agenda, and the order in which a step makes what can
happen (log 1); and that an event which is not admitted, of a frozen or a sleeping module, is dropped without a trace (logs 85
and 87). -/
def Obligations.StepRunsEvents : Prop :=
  ∀ (s : State) (i : Instr) (l : List Instr) (e : Event),
    (s.agenda = i :: l → i.encodable = false →
      (s.admits i = true → step s = exec i { s with agenda := l })
      ∧ (s.admits i = false → step s = .next { s with agenda := l }))
    ∧ (s.agenda = [] →
      (s.awake = true → choose s.free (s.drawn.moves s.free) = some (.event e) → step s = s.passes (e.run s.drawn))
      ∧ (s.awake = true → s.drawn.moves s.free = [] → step s =
        .next (s.drawn.tick (max 1 (Config.stepCycles s.free))))
      ∧ (s.hub.frozen = true ∨ s.hub.d3 = true → step s = .next s)
      ∧ (s.hub.frozen = false → s.hub.d3 = false → s.hub.failedAt = none → s.hub.stage < 6 →
        step s = exec (.bringUpStage true) s)
      ∧ (s.hub.frozen = false → s.hub.d3 = false → s.hub.failedAt ≠ none → step s = .fault .bringUpFailed))

/-- Every step keeps the memory in its canonical form: addresses strictly rising, and no entry that an unlisted address would
read as. -/
def Obligations.StepKeepsMemory : Prop := ∀ s t : State, s.memOk → step s = .next t → t.memOk

/-- The frame of the A slot (R30): beside a C slot, whatever instruction stands in it, only its result, or the fault it comes
to, is kept for the end of the bundle; no register, no byte of memory and no other thread has changed yet. -/
def Obligations.ASlotFrame : Prop :=
  ∀ (w : Half) (i : Instr), decodeA w = .ok i → ∀ (s : State) (n : Nat), s.thr.aslot = .awaiting n →
    ∃ x : ASlot, exec i s = .next (s.withA x) ∧ ((∃ a, x = .done a ∨ x = .vec a) ∨ ∃ f, x = .fault f)

/-- Taking a fault found at issue (R303): the chunk is squashed, the thread stops, and the record goes to the line of its FLTA
as one 64-byte write when that line is EMPTY, and waits with the thread when it is FULL, or while another thread holds or leases
the line (R158, R162). -/
def Obligations.TakingAFault : Prop :=
  ∀ (s : State) (f : Flt) (l : Word) (pa : Nat), s.thr.chunk.conflict = false → s.thr.live = true →
    let t := s.thr
    let u := s.raise f
    let s1 : State := { s with thr := { t.squash with stopped := some .fault, since := s.cyc } }
    let r : Record := ⟨f.kind, 0, t.id.tenant, t.id.rank, f.pc.getD t.arch.pc, f.addr, 0, 0, BitVec.ofNat 64 f.pos, 0,
      rdetWord f.detail f.widx 0⟩
    u.thr.stopped = some .fault ∧ u.thr.arch = t.chunk.start ∧ u.thr.chunk = Chunk.fresh t.chunk.start
    ∧ u.thr.id = t.id ∧ u.thr.run = t.run ∧ u.thr.place = t.place ∧ u.thr.gmask = t.gmask ∧ u.thr.queues = t.queues
    ∧ (s1.target t.id.tenant t.core t.chunk.start.flta = some (l, some pa) →
      (s1.blocked none (lineOf pa) = true ∨ ((s.readN pa 8).getLsbD 0 = true ∧ s.partials = []) →
        u.thr.records = t.records ++ [⟨l, r, s.cyc⟩] ∧ u.mem = s.mem)
      ∧ (s1.blocked none (lineOf pa) = false → (s.readN pa 8).getLsbD 0 = false → pa % 64 = 0 → s.partials = [] →
        (∀ i, i < 8 → u.readN (pa + 8 * i) 8 =
          (r.words (s.tenant t.id.tenant).gen ((s.tenant t.id.tenant).drops l)).getD i 0)
        ∧ (∀ a, a < pa ∨ pa + 64 ≤ a → memRead u.mem a = memRead s.mem a)))

/-- The commit of a chunk (R155): as one event memory takes the bytes it stored and keeps every other, the thread goes on with
its registers in a new chunk, and every other open chunk that holds a line of them conflicts. -/
def Obligations.CommitWrites : Prop :=
  ∀ s : State, s.partials = [] → s.thr.chunk.elems = [] → twf s.thr.chunk.buf = true → s.thr.live = true →
    (∀ c ∈ s.thr.chunk.buf, isWin c.1 = false) →
    let u := s.commitNow
    (∀ a, memRead u.mem a = (tfind s.thr.chunk.buf a).getD (memRead s.mem a))
    ∧ u.thr.arch = s.thr.arch ∧ u.thr.chunk = Chunk.fresh s.thr.arch ∧ u.thr.squashes = 0 ∧ u.thr.id = s.thr.id
    ∧ u.net.packets = s.net.packets
    ∧ (∀ t ∈ s.others, t.live = true → t.id ≠ s.thr.id → (∃ c ∈ s.thr.chunk.buf, lineOf c.1 ∈ t.chunk.lines) →
      ∃ v ∈ u.others, v.id = t.id ∧ v.chunk.conflict = true ∧ v.arch = t.arch)
    ∧ (s.thr.chunk.radds = [] → u.partials = [])

/-- The issue policies (R17, R222 to R224, R341): a core picks one of its ready threads; under round-robin the first slot
after the one that issued last; under greedy-then-oldest the oldest that has waited 4,096 cycles, else the one that issued in
the previous cycle and has not yielded, else the oldest; an issue sets the slot that round-robin counts from, and the threads
that were ready count the cycle; a bundle that has to wait for a line, a page or a link is no issue; and a core that has
issued in the present cycle issues no other bundle in it. Which ready threads wait for a result is the model's choice (log
18). -/
def Obligations.IssuePolicies : Prop :=
  (∀ (s : State) (f : Nat) (c : BitVec 10) (t : Thread), s.pick f c = some t →
    let l := contenders f (s.readyOn c)
    let turn (u : Thread) : Nat := ((u.slotOn c).getD 0 + 255 - (s.core c).lastSlot.toNat) % 256
    let rr := ((l.head?).map (fun u => (s.tenant u.id.tenant).rr)).getD false
    let last (u : Thread) : Prop := (s.core c).lastThread = some u.id ∧ (s.core c).issuedAt = some (s.cyc - 1)
    t ∈ s.readyOn c ∧ t ∈ l ∧ s.canIssue c t = true
    ∧ (rr = true → ∀ u ∈ l, turn t ≤ turn u)
    ∧ (rr = false → (∃ u ∈ l, 4096 ≤ u.waits) → 4096 ≤ t.waits ∧ ∀ u ∈ l, 4096 ≤ u.waits → u.older t c = false)
    ∧ (rr = false → (∀ u ∈ l, u.waits < 4096) →
      (∀ u ∈ l, last u → u.yielded = false → t.id = u.id)
      ∧ ((∀ u ∈ l, last u → u.yielded = true) → (∃ u ∈ l, u.yielded = false) →
        t.yielded = false ∧ ∀ u ∈ l, u.yielded = false → u.older t c = false)))
  ∧ (∀ (s : State) (u : Thread) (ids : List ThreadId) (n : Nat), u.slotOn u.core = some n → n < 256 →
    let v := s.issued u ids
    (v.core u.core).lastSlot.toNat = n ∧ (v.core u.core).lastThread = some u.id ∧ (v.core u.core).issuedAt = some s.cyc
    ∧ (s.thr.id = u.id → v.thr = { s.thr with waits := 0 })
    ∧ ∀ t ∈ s.others, t.id ≠ u.id → t.core = u.core →
      { t with yielded := false, waits := if t.id ∈ ids then t.waits + 1 else t.waits } ∈ v.others)
  ∧ (∀ (s : State) (u : Thread) (ids : List ThreadId), ((s.find u.id).bind Thread.balk).isSome = true →
    (s.tried u ids).cores = s.cores ∧ (s.tried u ids).thr = s.thr ∧ (s.tried u ids).others = s.others)
  ∧ (∀ (s : State) (f : Nat) (id : ThreadId), Move.issue id ∈ s.moves f →
    ∃ c t, s.pick f c = some t ∧ t.id = id ∧ (s.core c).issuedAt ≠ some s.cyc)

/-! ## The A slot -/

/-- The register forms of R88 but for division: each computes modulo 2^64 from the registers as they stood before the bundle and
writes xD, and nothing else of the machine changes until the C slot ends the bundle. The bit counts and the byte reversal of
R88, by the bits they count. The immediate forms of R90. -/
def Obligations.IntegerForms : Prop :=
  (∀ (s : State) (n : Nat) (d a b c : BitVec 5), s.thr.aslot = .awaiting n →
    let x := s.thr.arch.getX a
    let y := s.thr.arch.getX b
    let z := s.thr.arch.getX c
    ∀ p ∈ ([(.add d a b, x + y), (.sub d a b, x - y), (.and d a b, x &&& y), (.or d a b, x ||| y), (.xor d a b, x ^^^ y),
        (.shl d a b, x <<< (y.toNat % 64)), (.shr d a b, x >>> (y.toNat % 64)), (.sar d a b, x.sshiftRight (y.toNat % 64)),
        (.slt d a b, if x.toInt < y.toInt then 1 else 0), (.sltu d a b, if x.toNat < y.toNat then 1 else 0),
        (.min d a b, BitVec.ofInt 64 (min x.toInt y.toInt)), (.max d a b, BitVec.ofInt 64 (max x.toInt y.toInt)),
        (.minu d a b, BitVec.ofNat 64 (min x.toNat y.toNat)), (.maxu d a b, BitVec.ofNat 64 (max x.toNat y.toNat)),
        (.sel d a b c, if z ≠ 0 then x else y), (.mul d a b, BitVec.ofInt 64 (x.toInt * y.toInt)),
        (.mulh d a b, (x.signExtend 128 * y.signExtend 128).extractLsb' 64 64),
        (.mulhu d a b, (x.setWidth 128 * y.setWidth 128).extractLsb' 64 64)] : List (Instr × Word)),
      exec p.1 s = .next (s.withA (.done ((s.thr.arch.beside n).setX d p.2))))
  ∧ (∀ (s : State) (n : Nat) (d a : BitVec 5), s.thr.aslot = .awaiting n →
    let x := s.thr.arch.getX a
    let out (v : Word) : Out := .next (s.withA (.done ((s.thr.arch.beside n).setX d v)))
    (∃ k ≤ 64, exec (.clz d a) s = out (BitVec.ofNat 64 k) ∧ (∀ i < k, x.getLsbD (63 - i) = false)
      ∧ (k < 64 → x.getLsbD (63 - k) = true))
    ∧ (∃ k ≤ 64, exec (.ctz d a) s = out (BitVec.ofNat 64 k) ∧ (∀ i < k, x.getLsbD i = false)
      ∧ (k < 64 → x.getLsbD k = true))
    ∧ exec (.popc d a) s = out (BitVec.ofNat 64 ((List.range 64).countP x.getLsbD))
    ∧ ∃ w : Word, exec (.bswap d a) s = out w ∧ ∀ i < 8, byteOf w i = byteOf x (7 - i))
  ∧ (∀ (s : State) (n : Nat) (d a : BitVec 5) (pos lm sh : BitVec 6) (imm : BitVec 16), s.thr.aslot = .awaiting n →
    pos.toNat + lm.toNat < 64 →
    let x := s.thr.arch.getX a
    ∀ p ∈ ([(.ext d a pos lm, (x.extractLsb' pos.toNat (lm.toNat + 1)).setWidth 64),
        (.addi d a imm, BitVec.ofInt 64 (x.toInt + imm.toInt)), (.andi d a imm, x &&& imm.setWidth 64),
        (.ori d a imm, x ||| imm.setWidth 64), (.xori d a imm, x ^^^ imm.setWidth 64),
        (.shli d a sh, x <<< sh.toNat), (.shri d a sh, x >>> sh.toNat), (.sari d a sh, x.sshiftRight sh.toNat),
        (.slti d a imm, if x.toInt < imm.toInt then 1 else 0),
        (.sltiu d a imm, if x.toNat < (imm.signExtend 64).toNat then 1 else 0)] : List (Instr × Word)),
      exec p.1 s = .next (s.withA (.done ((s.thr.arch.beside n).setX d p.2))))

/-- R89: division never faults, rounds toward zero, and has the edge cases of its table. -/
def Obligations.DivisionNeverFaults : Prop :=
  ∀ (s : State) (n : Nat) (d a b : BitVec 5), s.thr.aslot = .awaiting n →
    let x := s.thr.arch.getX a
    let y := s.thr.arch.getX b
    let out (v : Word) : Out := .next (s.withA (.done ((s.thr.arch.beside n).setX d v)))
    (y = 0 → exec (.div d a b) s = out (-1) ∧ exec (.divu d a b) s = out (BitVec.ofNat 64 (2 ^ 64 - 1))
      ∧ exec (.rem d a b) s = out x ∧ exec (.remu d a b) s = out x)
    ∧ (x = BitVec.ofInt 64 (-2 ^ 63) → y = -1 →
      exec (.div d a b) s = out (BitVec.ofInt 64 (-2 ^ 63)) ∧ exec (.rem d a b) s = out 0)
    ∧ (y ≠ 0 → exec (.div d a b) s = out (BitVec.ofInt 64 (x.toInt.tdiv y.toInt))
      ∧ exec (.divu d a b) s = out (BitVec.ofNat 64 (x.toNat / y.toNat))
      ∧ exec (.rem d a b) s = out (BitVec.ofInt 64 (x.toInt - y.toInt * x.toInt.tdiv y.toInt))
      ∧ exec (.remu d a b) s = out (BitVec.ofNat 64 (x.toNat - y.toNat * (x.toNat / y.toNat))))
    ∧ (x = 7 → y = BitVec.ofInt 64 (-2) → exec (.div d a b) s = out (BitVec.ofInt 64 (-3)) ∧ exec (.rem d a b) s = out 1)

/-- R91: `padd` is opcode 0x10 with FN 0, adds a byte offset modulo 2^57, keeps the tag and never faults. -/
def Obligations.PaddKeepsTag : Prop :=
  ∀ (s : State) (n : Nat) (d a b : BitVec 5),
    decodeA (packAR 0x10 d a b 0 0) = .ok (.padd d a b)
    ∧ (s.thr.aslot = .awaiting n →
      exec (.padd d a b) s = .next (s.withA (.done ((s.thr.arch.beside n).setX d
        ((s.thr.arch.getX a).extractLsb' 57 7 ++
          BitVec.ofInt 57 (((s.thr.arch.getX a).setWidth 57).toNat + (s.thr.arch.getX b).toInt))))))

/-- `pidx` of R92: its result, and the two faults that its operands can raise. `pfmt`, `pclr` and `ptag` of R93 and R94. THE
MODEL'S CHOICE: the detail of the alignment fault and the 0 in its RADDR (log 24). -/
def Obligations.PointerForms : Prop :=
  (∀ (s : State) (n : Nat) (d a b : BitVec 5), s.thr.aslot = .awaiting n →
    let p := s.thr.arch.getX a
    let i := s.thr.arch.getX b
    let bits := fmtBits (pFmt p)
    (14 ≤ (pFmt p).toNat → exec (.pidx d a b) s = .next (s.withA (.fault ⟨0x01, 9, 0, 0, 1, none⟩)))
    ∧ ((pFmt p).toNat < 14 → bits = 4 → i.toInt % 2 = 1 →
      exec (.pidx d a b) s = .next (s.withA (.fault ⟨0x06, 2, 0, 0, 0, none⟩)))
    ∧ ((pFmt p).toNat < 14 → (bits = 4 → i.toInt % 2 = 0) →
      exec (.pidx d a b) s = .next (s.withA (.done ((s.thr.arch.beside n).setX d
        (p.extractLsb' 57 7 ++ BitVec.ofInt 57 ((p.setWidth 57).toNat + i.toInt * bits / 8)))))))
  ∧ (∀ (s : State) (n : Nat) (d a : BitVec 5) (fmt : BitVec 4) (blk : BitVec 3), s.thr.aslot = .awaiting n →
    let p := s.thr.arch.getX a
    let out (v : Word) : Out := .next (s.withA (.done ((s.thr.arch.beside n).setX d v)))
    (14 ≤ (pFmt p).toNat → exec (.pfmt d a) s = .next (s.withA (.fault ⟨0x01, 9, 0, 0, 1, none⟩)))
    ∧ ((pFmt p).toNat < 14 →
      exec (.pfmt d a) s = out (BitVec.ofNat 64 ((pFmt p).toNat + 16 * (pBlk p).toNat + 256 * fmtBits (pFmt p))))
    ∧ exec (.pclr d a) s = out (BitVec.ofNat 64 (p.toNat % 2 ^ 57))
    ∧ exec (.ptag d a fmt blk) s = out (BitVec.ofNat 64 (fmt.toNat * 2 ^ 60 + blk.toNat * 2 ^ 57 + p.toNat % 2 ^ 57)))

/-- The rounding forms of R95 and R97: one rounding of the exact result, under the mode that RM selects; stochastic rounding
advances RNGS once. The non-rounding forms of R96: they draw nothing. -/
def Obligations.ScalarFloatingPoint : Prop :=
  (∀ (s : State) (n : Nat) (ty : FpTy) (dst src : CvtTy) (rm : RmField) (d a b c : BitVec 5), s.thr.aslot = .awaiting n →
    let r := s.thr.arch.beside n
    let m := rmMode rm s.thr.arch.sts
    let f := ty.fmt
    let x := decodeVal f ((s.thr.arch.getX a).toNat % 2 ^ f.bits)
    let y := decodeVal f ((s.thr.arch.getX b).toNat % 2 ^ f.bits)
    let z := decodeVal f ((s.thr.arch.getX c).toNat % 2 ^ f.bits)
    let drawn : Arch := { r with rngs := if m = .sr then rngStep r.rngs else r.rngs }
    (∀ p ∈ ([(.fadd ty rm d a b, addVal m x y), (.fsub ty rm d a b, addVal m x y.neg), (.fmul ty rm d a b, mulVal x y),
        (.fdiv ty rm d a b, divVal x y), (.fsqrt ty rm d a, sqrtVal x), (.fma ty rm d a b c, addVal m (mulVal x y) z),
        (.fnma ty rm d a b c, addVal m (mulVal x y).neg z)] : List (Instr × Val)),
      exec p.1 s = .next (s.withA (.done (drawn.setX d (BitVec.ofNat 64 (roundCode f m (rngZ r.rngs) false p.2))))))
    ∧ (let w : Word := BitVec.ofNat 64 (roundCode dst.fmt m (rngZ r.rngs) false
          (decodeVal src.fmt ((s.thr.arch.getX a).toNat % 2 ^ src.fmt.bits)))
      exec (.fcvt dst src rm d a) s =
        .next (s.withA (.done (drawn.setX d (if dst = .i32 then (w.setWidth 32).signExtend 64 else w))))))
  ∧ (∀ (s : State) (n : Nat) (ty : FpTy) (d a b : BitVec 5), s.thr.aslot = .awaiting n →
    let f := ty.fmt
    let u := (s.thr.arch.getX a).toNat % 2 ^ f.bits
    let v := (s.thr.arch.getX b).toNat % 2 ^ f.bits
    let x := decodeVal f u
    let y := decodeVal f v
    ∀ p ∈ ([(.fmin ty d a b, BitVec.ofNat 64 (roundCode f .rne 0 false (minVal x y))),
        (.fmax ty d a b, BitVec.ofNat 64 (roundCode f .rne 0 false (maxVal x y))),
        (.feq ty d a b, if eqVal x y then 1 else 0), (.flt ty d a b, if ltVal x y then 1 else 0),
        (.fle ty d a b, if ltVal x y ∨ eqVal x y then 1 else 0), (.fcls ty d a, BitVec.ofNat 64 (2 ^ classBit f u)),
        (.fsgn ty d a b, BitVec.ofNat 64 (u % 2 ^ (f.bits - 1) + v / 2 ^ (f.bits - 1) * 2 ^ (f.bits - 1)))] :
        List (Instr × Word)),
      exec p.1 s = .next (s.withA (.done ((s.thr.arch.beside n).setX d p.2))))

/-- The rounded element-wise instructions of R102 on a floating-point type, `vadd`, `vsub`, `vmul`, `vfma`, `vfnma`, `vdiv` and
`vsqrt`, and `vcvt` and `vpack` (R104, R105), each of which completes: every active element is rounded once, in ascending order;
stochastic rounding draws once for each; no NaN fault with NANF clear or with no NaN among the results. -/
def Obligations.VectorRoundsEachElement : Prop :=
  ∀ (s : State) (n : Nat) (ty to' src : VTy) (nf : NarrowFmt) (inf : Bool) (d a b : BitVec 5) (h1 h2 : Bool) (k : BitVec 3),
    s.thr.aslot = .awaiting n → s.thr.ngrp ≠ 0 → ty.isFp = true →
    let m := stsMode s.thr.arch.sts
    ∀ p ∈ s.roundedForms ty to' src nf inf d a b h1 h2 k, p.nanFree s n k m → p.completes s n d k m

/-- The element-wise instructions that do not round (R102, R103): integer arithmetic modulo 2^b, signed minimum and maximum, the
logic and shift forms, and the floating-point minimum and maximum of R62. -/
def Obligations.VectorExactElements : Prop :=
  ∀ (s : State) (n : Nat) (it ft ty : VTy) (d a b : BitVec 5) (h1 h2 : Bool) (k : BitVec 3),
    s.thr.aslot = .awaiting n → s.thr.ngrp ≠ 0 → it.isFp = false → ft.isFp = true →
    let x (t : VTy) (j : Nat) : Word := s.lane t.bits a j
    let y (t : VTy) (j : Nat) : Word := s.lane t.bits b j
    let num (t : VTy) (w : Word) : Int := ((w.setWidth t.bits).toInt)
    let fp (t : VTy) (w : Word) : Val := decodeVal t.fmt w.toNat
    let on (t : VTy) (j : Nat) : Bool := decide (j < laneCount s.thr.ngrp t.bits) && (s.thr.arch.getM k).getLsbD j
    let keep := s.thr.arch.getV d
    let hs := holds h1 h2 a b
    let low (j : Nat) : Word := BitVec.ofNat 64 (roundCode ft.fmt .rne 0 false (minVal (fp ft (x ft j)) (fp ft (y ft j))))
    let high (j : Nat) : Word := BitVec.ofNat 64 (roundCode ft.fmt .rne 0 false (maxVal (fp ft (x ft j)) (fp ft (y ft j))))
    ∀ p ∈ ([⟨.vadd it d a b h1 h2 k, hs, it.bits, on it, keep, fun j => x it j + y it j, fun _ => false⟩,
        ⟨.vsub it d a b h1 h2 k, hs, it.bits, on it, keep, fun j => x it j - y it j, fun _ => false⟩,
        ⟨.vmul it d a b h1 h2 k, hs, it.bits, on it, keep, fun j => x it j * y it j, fun _ => false⟩,
        ⟨.vmin it d a b h1 h2 k, hs, it.bits, on it, keep,
          fun j => BitVec.ofInt 64 (min (num it (x it j)) (num it (y it j))), fun _ => false⟩,
        ⟨.vmax it d a b h1 h2 k, hs, it.bits, on it, keep,
          fun j => BitVec.ofInt 64 (max (num it (x it j)) (num it (y it j))), fun _ => false⟩,
        ⟨.vmin ft d a b h1 h2 k, hs, ft.bits, on ft, keep, low, fun j => (fp ft (low j)).isNan⟩,
        ⟨.vmax ft d a b h1 h2 k, hs, ft.bits, on ft, keep, high, fun j => (fp ft (high j)).isNan⟩,
        ⟨.vand ty d a b h1 h2 k, hs, ty.bits, on ty, keep, fun j => x ty j &&& y ty j, fun _ => false⟩,
        ⟨.vor ty d a b h1 h2 k, hs, ty.bits, on ty, keep, fun j => x ty j ||| y ty j, fun _ => false⟩,
        ⟨.vxor ty d a b h1 h2 k, hs, ty.bits, on ty, keep, fun j => x ty j ^^^ y ty j, fun _ => false⟩,
        ⟨.vshl ty d a b h1 h2 k, hs, ty.bits, on ty, keep, fun j => x ty j <<< ((y ty j).toNat % ty.bits), fun _ => false⟩,
        ⟨.vshr ty d a b h1 h2 k, hs, ty.bits, on ty, keep, fun j => x ty j >>> ((y ty j).toNat % ty.bits), fun _ => false⟩,
        ⟨.vsar ty d a b h1 h2 k, hs, ty.bits, on ty, keep,
          fun j => (((x ty j).setWidth ty.bits).sshiftRight ((y ty j).toNat % ty.bits)).setWidth 64, fun _ => false⟩,
        ⟨.vsel ty d a b h1 h2 k, hs, ty.bits, fun j => decide (j < laneCount s.thr.ngrp ty.bits), keep,
          fun j => if (s.thr.arch.getM k).getLsbD j then x ty j else y ty j, fun _ => false⟩] : List WordForm),
      p.nanFree s → p.completes s n d

/-- The moves of R107, `vunpk` of R105 and the special functions of R108: which elements are written and with what; every read
is of the registers before the bundle. The special inputs and the exact cases of R108, and the bounds of `vrcp` and `vrsq`. THE
MODEL'S CHOICE: which code within the bound a function gives, a free value, or the nearest code where the free one breaks the
bound (log 4). -/
def Obligations.VectorMovesElements : Prop :=
  (∀ (ft : VTy) (fp : FpTy) (c : Word), ft.isFp = true →
    let f := ft.fmt
    let v := decodeVal f c.toNat
    let code (x : Val) : Word := exactCode f x
    (v = .nan → rcpCode ft fp c = code .nan ∧ rsqCode ft fp c = code .nan ∧ exp2Code ft fp c = code .nan
      ∧ log2Code ft fp c = code .nan ∧ tanhCode ft fp c = code .nan)
    ∧ (∀ n, v = .inf n → rcpCode ft fp c = code (.fin n 0 0) ∧ rsqCode ft fp c = code (if n then .nan else .zero)
      ∧ exp2Code ft fp c = code (if n then .zero else .inf false) ∧ log2Code ft fp c = code (if n then .nan else .inf false)
      ∧ tanhCode ft fp c = code (.fin n 1 0))
    ∧ (∀ n e, v = .fin n 0 e → rcpCode ft fp c = code (.inf n) ∧ rsqCode ft fp c = code (.inf n)
      ∧ log2Code ft fp c = code (.inf true) ∧ tanhCode ft fp c = code (.fin n 0 0))
    ∧ (∀ m e, v = .fin true m e → m ≠ 0 → rsqCode ft fp c = code .nan ∧ log2Code ft fp c = code .nan)
    ∧ (∀ k, v.toInt? = some k → holdsPow2 f k = true → ltVal v (Val.ofInt (f.shape.2.2 + 1)) = true →
      exp2Code ft fp c = code (.pow2 k))
    ∧ (∀ (k : Nat) (e : Int), v = .fin false (2 ^ k) e → log2Code ft fp c = code (Val.ofInt (k + e)))
    ∧ (∀ n m e, v = .fin n m e → m ≠ 0 →
      let y := divVal .one v
      let r := decodeVal f (rcpCode ft fp c).toNat
      (tooLarge f y = true → rcpCode ft fp c = code (.inf n))
      ∧ (tooLarge f y = false → rcpCode ft fp c = code y
        ∨ (r.finite = true ∧ ltVal (mulVal (ulpOf f y) v.abs) (addVal .rne (mulVal r v) Val.one.neg).abs = false)))
    ∧ (∀ m e, v = .fin false m e → m ≠ 0 →
      let y := sqrtVal (divVal .one v)
      let r := decodeVal f (rsqCode ft fp c).toNat
      let lo := addVal .rne r (ulpOf f y).neg
      let hi := addVal .rne r (ulpOf f y)
      rsqCode ft fp c = code y
      ∨ (r.finite = true ∧ (lo.sign = true ∨ ltVal .one (mulVal (mulVal lo lo) v) = false)
        ∧ hi.sign = false ∧ ltVal (mulVal (mulVal hi hi) v) .one = false)))
  ∧ ∀ (s : State) (n : Nat) (ft ty : VTy) (nf : NarrowFmt) (d a b : BitVec 5) (h1 h2 : Bool) (k : BitVec 3),
    s.thr.aslot = .awaiting n → s.thr.ngrp ≠ 0 → ft.isFp = true →
    let E (t : VTy) : Nat := laneCount s.thr.ngrp t.bits
    let x (j : Nat) : Word := s.lane ty.bits a j
    let c := (s.thr.arch.getX b).toNat
    let on (t : VTy) (j : Nat) : Bool := decide (j < E t) && (s.thr.arch.getM k).getLsbD j
    let keep := s.thr.arch.getV d
    let wide (j : Nat) : Word :=
      BitVec.ofNat 64 (roundCode ty.fmt .rne 0 false (decodeVal nf.fmt (s.lane nf.fmt.bits a j).toNat))
    let special (g : VTy → FpTy → Word → Word) (i : Instr) : WordForm :=
      ⟨i, holds h1 false a a, ft.bits, on ft, keep, fun j => g ft (VTy.fp ft) (s.lane ft.bits a j),
        fun j => (decodeVal ft.fmt (g ft (VTy.fp ft) (s.lane ft.bits a j)).toNat).isNan⟩
    (∀ p ∈ ([⟨.vperm ty d a b h1 h2 k, holds h1 h2 a b, ty.bits, on ty, keep,
          fun j => if (s.lane ty.bits b j).toNat < E ty then x (s.lane ty.bits b j).toNat else 0, fun _ => false⟩,
        ⟨.vslideUp ty d a b h1 k, holds h1 false a a, ty.bits, on ty, keep,
          fun j => if c ≤ j then x (j - c) else 0, fun _ => false⟩,
        ⟨.vslideDn ty d a b h1 k, holds h1 false a a, ty.bits, on ty, keep,
          fun j => if j + c < E ty then x (j + c) else 0, fun _ => false⟩,
        ⟨.vbcast ty d a k, [], ty.bits, on ty, keep, fun _ => s.thr.arch.getX a, fun _ => false⟩,
        ⟨.vmv ty d a h1 k, holds h1 false a a, ty.bits, on ty, keep, x, fun _ => false⟩,
        ⟨.vid ty d k, [], ty.bits, on ty, keep, fun j => BitVec.ofNat 64 j, fun _ => false⟩,
        ⟨.vunpk nf ty d a h1 k, holds h1 false a a, ty.bits, on ty, 0, wide,
          fun j => ty.isFp && (decodeVal ty.fmt (wide j).toNat).isNan⟩,
        special rcpCode (.vrcp ft d a h1 k), special rsqCode (.vrsq ft d a h1 k), special exp2Code (.vexp2 ft d a h1 k),
        special log2Code (.vlog2 ft d a h1 k), special tanhCode (.vtanh ft d a h1 k)] : List WordForm),
      p.nanFree s → p.completes s n d)
    ∧ exec (.vext ty d a b h1) s = .next (s.withA (.vec (((s.thr.arch.beside n).aged (holds h1 false a a)).setX d
        (if c < E ty then (if ty.isFp then x c else ((x c).setWidth ty.bits).signExtend 64) else 0))))
    ∧ (E ty ≤ c → exec (.vins ty d a b) s = .next (s.withA (.vec ((s.thr.arch.beside n).aged []))))
    ∧ (c < E ty → ∃ v : BitVec 16384,
      exec (.vins ty d a b) s = .next (s.withA (.vec (((s.thr.arch.beside n).aged []).setV d v)))
      ∧ ∀ j, (j + 1) * ty.bits ≤ 16384 →
        laneGet ty.bits j v = if j = c then zext ty.bits (s.thr.arch.getX a) else laneGet ty.bits j keep)

/-- `vcmp` of R103: bit i of mD is the relation on an active element, and 0 elsewhere, up to bit 2,047. The mask instructions of
R109, which need no vector context: bitwise on all 2,048 bits, the number of one bits, and the index of the lowest, or 2^64
− 1. -/
def Obligations.MaskResults : Prop :=
  (∀ (s : State) (n : Nat) (c : CmpOp) (ty : VTy) (d : BitVec 3) (a b : BitVec 5) (h1 h2 : Bool) (k : BitVec 3),
    s.thr.aslot = .awaiting n → s.thr.ngrp ≠ 0 →
    ∃ m : BitVec 2048, exec (.vcmp c ty d a b h1 h2 k) s =
        .next (s.withA (.vec (((s.thr.arch.beside n).aged (holds h1 h2 a b)).setM d m)))
      ∧ ∀ j < 2048, m.getLsbD j =
        (decide (j < laneCount s.thr.ngrp ty.bits) && (s.thr.arch.getM k).getLsbD j
          && cmpLane c ty (s.lane ty.bits a j) (s.lane ty.bits b j)))
  ∧ (∀ (s : State) (n : Nat) (d a b : BitVec 3) (e : BitVec 5), s.thr.aslot = .awaiting n →
    let r := (s.thr.arch.beside n).aged []
    let x := s.thr.arch.getM a
    let y := s.thr.arch.getM b
    let out (t : Arch) : Out := .next (s.withA (.vec t))
    exec (.vmand d a b) s = out (r.setM d (x &&& y)) ∧ exec (.vmor d a b) s = out (r.setM d (x ||| y))
    ∧ exec (.vmxor d a b) s = out (r.setM d (x ^^^ y)) ∧ exec (.vmnot d a) s = out (r.setM d (~~~x))
    ∧ exec (.vmpop e a) s = out (r.setX e (BitVec.ofNat 64 ((List.range 2048).countP x.getLsbD)))
    ∧ (x = 0 → exec (.vmfirst e a) s = out (r.setX e (BitVec.ofNat 64 (2 ^ 64 - 1))))
    ∧ ∀ j, x.getLsbD j = true → (∀ l < j, x.getLsbD l = false) → exec (.vmfirst e a) s = out (r.setX e (BitVec.ofNat 64 j)))

/-- `vred` of R106 on an integer type: the sum modulo 2^b of the active elements, or the least or greatest of them, whatever the
order of the tree; the identity where none is active; under SR each of the tree's 2^l − 1 additions draws once (R71), and a
minimum or maximum never. `vred` on a floating-point type is the tree of R73 over E(ty) leaves,
an inactive one the identity, with one draw for each addition; `vscan` is the running sum of R74. Neither faults with NANF
clear. -/
def Obligations.Reductions : Prop :=
  (∀ (s : State) (n : Nat) (ty : VTy) (d a : BitVec 5) (h1 : Bool) (k : BitVec 3),
    s.thr.aslot = .awaiting n → s.thr.ngrp ≠ 0 → ty.isFp = false →
    let num (j : Nat) : Int := ((s.lane ty.bits a j).setWidth ty.bits).toInt
    let xs := (activeLanes (s.thr.arch.getM k) (laneCount s.thr.ngrp ty.bits)).map num
    let r := (s.thr.arch.beside n).aged (holds h1 false a a)
    let adds := if stsMode s.thr.arch.sts = .sr then 2 ^ redLevels (laneCount s.thr.ngrp ty.bits) - 1 else 0
    let out (draws : Nat) (i : Int) : Out := .next (s.withA (.vec
      (({ r with rngs := rngSteps draws r.rngs } : Arch).setX d ((BitVec.ofInt ty.bits i).signExtend 64))))
    exec (.vred .sum ty d a h1 k) s = out adds xs.sum
    ∧ exec (.vred .min ty d a h1 k) s = out 0 (xs.foldl min (2 ^ (ty.bits - 1) - 1))
    ∧ exec (.vred .max ty d a h1 k) s = out 0 (xs.foldl max (-2 ^ (ty.bits - 1))))
  ∧ (∀ (s : State) (n : Nat) (op : RedOp) (ft ty : VTy) (d a : BitVec 5) (h1 : Bool) (k : BitVec 3),
    s.thr.aslot = .awaiting n → s.thr.ngrp ≠ 0 → ft.isFp = true → stsNanf s.thr.arch.sts = false →
    let r := (s.thr.arch.beside n).aged (holds h1 false a a)
    let m := stsMode s.thr.arch.sts
    let E (t : VTy) : Nat := laneCount s.thr.ngrp t.bits
    let mask := s.thr.arch.getM k
    let leaf (j : Nat) : Word := if j < E ft ∧ mask.getLsbD j = true then s.lane ft.bits a j else redIdent op ft
    let tree := redTree op ft m (redLevels (E ft)) r.rngs ((List.range (2 ^ redLevels (E ft))).map leaf)
    exec (.vred op ft d a h1 k) s =
      .next (s.withA (.vec (({ r with rngs := tree.2 } : Arch).setX d tree.1)))
    ∧ ∃ (v : BitVec 16384) (sums : Nat → Word) (g : Nat → BitVec 32),
      exec (.vscan ty d a h1 k) s =
        .next (s.withA (.vec (({ r with rngs := g (E ty) } : Arch).setV d v)))
      ∧ sums 0 = redIdent .sum ty ∧ g 0 = r.rngs
      ∧ ∀ j, (j + 1) * ty.bits ≤ 16384 →
        if j < E ty ∧ mask.getLsbD j = true then
          redNode .sum ty m (g j) (sums j) (s.lane ty.bits a j) = (sums (j + 1), g (j + 1))
            ∧ laneGet ty.bits j v = zext ty.bits (sums (j + 1))
        else sums (j + 1) = sums j ∧ g (j + 1) = g j ∧ laneGet ty.bits j v = laneGet ty.bits j (s.thr.arch.getV d))

/-- R98: an instruction of opcode 0x20 to 0x38 or 0x3A without a vector context comes to the vector-context fault. R76, R77:
with NANF set, each vector instruction that rounds raises the NaN fault with its lowest active lane that became NaN. -/
def Obligations.VectorFaults : Prop :=
  (∀ (s : State) (n : Nat) (ty src : VTy) (nf : NarrowFmt) (c : CmpOp) (op : RedOp) (inf h1 h2 : Bool) (m k : BitVec 3)
    (d a b : BitVec 5), s.thr.aslot = .awaiting n → s.thr.ngrp = 0 →
    ∀ i ∈ ([.vadd ty d a b h1 h2 k, .vsub ty d a b h1 h2 k, .vmul ty d a b h1 h2 k, .vfma ty d a b h1 h2 k,
        .vfnma ty d a b h1 h2 k, .vdiv ty d a b h1 h2 k, .vsqrt ty d a h1 k, .vmin ty d a b h1 h2 k, .vmax ty d a b h1 h2 k,
        .vand ty d a b h1 h2 k, .vor ty d a b h1 h2 k, .vxor ty d a b h1 h2 k, .vshl ty d a b h1 h2 k, .vshr ty d a b h1 h2 k,
        .vsar ty d a b h1 h2 k, .vcmp c ty m a b h1 h2 k, .vsel ty d a b h1 h2 k, .vcvt ty src d a h1 k,
        .vpack nf ty inf d a h1 k, .vunpk nf ty d a h1 k, .vred op ty d a h1 k, .vscan ty d a h1 k, .vperm ty d a b h1 h2 k,
        .vslideUp ty d a b h1 k, .vslideDn ty d a b h1 k, .vbcast ty d a k, .vext ty d a b h1, .vins ty d a b, .vmv ty d a h1 k,
        .vrcp ty d a h1 k, .vrsq ty d a h1 k, .vexp2 ty d a h1 k, .vlog2 ty d a h1 k, .vtanh ty d a h1 k, .vid ty d k] :
        List Instr),
      exec i s = .next (s.withA (.fault ⟨0x08, 0, 0, 0, 0, none⟩)))
  ∧ (∀ (s : State) (n : Nat) (ty to' src : VTy) (nf : NarrowFmt) (inf : Bool) (d a b : BitVec 5) (h1 h2 : Bool) (k : BitVec 3)
    (j : Nat), s.thr.aslot = .awaiting n → s.thr.ngrp ≠ 0 → ty.isFp = true → stsNanf s.thr.arch.sts = true →
    let m := stsMode s.thr.arch.sts
    ∀ p ∈ s.roundedForms ty to' src nf inf d a b h1 h2 k,
      p.on s k j = true → (decodeVal p.f (p.code s n k m j)).isNan = true →
      (∀ l < j, p.on s k l = true → (decodeVal p.f (p.code s n k m l)).isNan = false) →
      exec p.i s = .next (s.withA (.fault ⟨0x09, 0, 0, j, 0, none⟩)))

/-! ## Bundles, control transfer and a thread's own state -/

/-- The branches and jumps of R81 and R82, and `nop`: where control goes, what the link register takes, and nothing else; a
transfer counts bundles of 8 bytes, modulo 2^57. -/
def Obligations.ControlTransfers : Prop :=
  ∀ (s : State) (d a b : BitVec 5) (off : Imm 15) (joff : Imm 14),
    let x := s.thr.arch.getX a
    let y := s.thr.arch.getX b
    let pc := s.thr.arch.pc
    let from' (base off : Word) : Word := BitVec.ofNat 64 ((base + 8 * off).toNat % 2 ^ 57)
    let next : Word := BitVec.ofNat 64 ((pc.toNat + 8) % 2 ^ 57)
    let go (c : Bool) : Arch → Arch := fun r => { r with pc := if c then from' pc (immValue off) else next }
    let link (t : Word) : Arch → Arch := fun r => { r.setX d next with pc := t }
    (∀ p ∈ ([(.nop, fun r => { r with pc := next }), (.bEq a b off, go (x = y)), (.bNe a b off, go (x ≠ y)),
        (.bLt a b off, go (x.toInt < y.toInt)), (.bGe a b off, go (y.toInt ≤ x.toInt)),
        (.bLtu a b off, go (x.toNat < y.toNat)), (.bGeu a b off, go (y.toNat ≤ x.toNat)),
        (.jal d joff, link (from' pc (immValue joff)))] : List (Instr × (Arch → Arch))),
      s.fits Eff.none = true → exec p.1 s = .next (s.withRegs p.2))
    ∧ ((x + 8 * immValue joff).toNat % 8 = 0 → s.fits Eff.none = true →
      exec (.jalr d a joff) s = .next (s.withRegs (link (from' x (immValue joff)))))
    ∧ ((x + 8 * immValue joff).toNat % 8 ≠ 0 → s.thr.aslot.faults = false →
      exec (.jalr d a joff) s = .next (s.raise ⟨0x02, 0, from' x (immValue joff), 0, 0, none⟩))

/-- R83: `nop` is opcode 0x00 with B = 0 and CODE = 0 and changes nothing except PC; in a pair its word 0 is 0x8000_0000; a
nonzero CODE is the illegal-instruction fault with code 2. -/
def Obligations.NopOnlyAdvances : Prop :=
  (∀ s : State, s.fits Eff.none = true →
    exec .nop s = .next (s.withRegs (fun r => { r with pc := BitVec.ofNat 64 ((s.thr.arch.pc.toNat + 8) % 2 ^ 57) })))
  ∧ (∀ lit : Half, decodeC 0x80000000 lit = .ok .nop ∧ decodeC (packCN 0 0 0 0) lit = .ok .nop)
  ∧ (∀ (code : BitVec 9) (lit : Half), code ≠ 0 → decodeC (packCN 0 0 0 code) lit = .error 2)
  ∧ (∀ (s : State) (b : BadBundle), b.code = 2 → badFault b = ⟨0x01, 2, 0, 0, b.widx, none⟩)

/-- `movi`, `movhi`, `srd`, `time` and `qstat`: the register written; nothing else but PC and the chunk's count. What `srd`
reads of each state word (R44, R45, R47); XREG and SOLO stand in bits 19 and 18 of STS. `swr` of R86: a value that keeps the
word's rules is read back by `srd` from the next bundle on, but for bits 19:18 of STS and a zero for RNGS; a value that
breaks them, or a read-only word, is the illegal-instruction fault with code 8. -/
def Obligations.OwnState : Prop :=
  (∀ (s : State) (d i : BitVec 5) (q : BitVec 3) (imm : Imm 20), s.fits Eff.none = true →
    let next : Word := BitVec.ofNat 64 ((s.thr.arch.pc.toNat + 8) % 2 ^ 57)
    let out (v : Word) : Out := .next (s.withRegs (fun r => { r.setX d v with pc := next }))
    let v := immValue imm
    exec (.movi d imm) s = out v
    ∧ exec (.movhi d imm) s = out (BitVec.ofNat 64 (v.toNat % 2 ^ 32 * 2 ^ 32 + (s.thr.arch.getX d).toNat % 2 ^ 32))
    ∧ exec (.srd d i) s = out (s.wordOf s.thr i)
    ∧ exec (.time d) s = out (s.hub.timeBase + BitVec.ofNat 64 ((s.cyc - s.hub.timeAt) / 2))
    ∧ exec (.qstat d q) s = out (s.thr.handle q).stat)
  ∧ (∀ s : State,
    let t := s.thr
    let n (i : Nat) : Word := s.wordOf t (BitVec.ofNat 5 i)
    n 0 = t.arch.pc ∧ n 2 = t.arch.rngs.setWidth 64 ∧ n 3 = t.arch.flta ∧ n 5 = t.id.rank.setWidth 64
    ∧ n 6 = BitVec.ofNat 64 (t.id.tenant.toNat + 16 * (s.tenant t.id.tenant).gen.toNat)
    ∧ n 7 = BitVec.ofNat 64 (t.gmask.toNat * 65536 + t.ngrp) ∧ n 16 = t.arch.dbk ∧ n 17 = t.arch.dgo
    ∧ n 18 = t.arch.live.setWidth 64 ∧ n 19 = t.arch.why.setWidth 64 ∧ n 20 = BitVec.ofNat 64 s.cyc
    ∧ (∀ k < 8, n (8 + k) = oat t.arch.swin (BitVec.ofNat 3 k) ∧ n (21 + k) = (oat t.queues (BitVec.ofNat 3 k)).qb)
    ∧ (t.arch.sts.extractLsb' 18 2 = 0 →
      n 1 = BitVec.ofNat 64 (t.arch.sts.toNat + (if t.inRegion then 2 ^ 19 else 0) + if t.solo.isSome then 2 ^ 18 else 0)))
  ∧ (∀ (s : State) (a i : BitVec 5),
    let v := s.thr.arch.getX a
    let next : Word := BitVec.ofNat 64 ((s.thr.arch.pc.toNat + 8) % 2 ^ 57)
    (wordWritable i = true → wordOk i v = true → s.fits Eff.none = true →
      ∃ t, exec (.swr a i) s = .next t
        ∧ t = s.withRegs (fun r => { setWord i v r with pc := next })
        ∧ (i ≠ 1 → i ≠ 2 → t.wordOf t.thr i = v)
        ∧ (i = 2 → t.thr.arch.rngs = if v.setWidth 32 = 0#32 then 1 else v.setWidth 32)
        ∧ (i = 1 → t.thr.arch.sts = v &&& ~~~(BitVec.ofNat 64 (3 * 2 ^ 18)))
        ∧ ∀ j : BitVec 5, j ≠ i → j ≠ 0 → t.wordOf t.thr j = s.wordOf { s.thr with arch := s.thr.pending } j)
    ∧ ((wordWritable i && wordOk i v) = false → s.thr.aslot.faults = false →
      exec (.swr a i) s = .next (s.raise ⟨0x01, 8, 0, 0, 0, none⟩)))

/-! ## Memory -/

/-- `ld` from device or host memory (R184): the bytes, little-endian, as the chunk reads them, extended by the form; the line
joins the read set and is allocated in the core's L1; a partial of the line counts, and memory is as before (R176). `st` and
`zline` on device or host memory (R184, R186): the bytes wait in the chunk, at the address that the base and the offset give;
memory itself is as before. Prefetches never fault, whatever the address, and change caches only (R185). An access to a page
with the I/O attribute or through a fabric window ends its chunk and is performed once, after the commit (R154, R159, R183,
R331, R334); a store to I/O does not wait, the others park until the answer. -/
def Obligations.LoadsAndStores : Prop :=
  (∀ (s : State) (z : LoadSize) (d a : BitVec 5) (off : Imm 12) (pa : Nat),
    let ea : Nat := (s.thr.arch.getX a + immValue off).toNat % 2 ^ 57
    let n := loadBytes z
    let v := (s.combined [pa]).chunkN pa n
    let w : Word := match z with
      | .b => (v.setWidth 8).signExtend 64 | .h => (v.setWidth 16).signExtend 64 | .w => (v.setWidth 32).signExtend 64
      | .d => v | .bu => v &&& 0xFF | .hu => v &&& 0xFFFF | .wu => v &&& 0xFFFFFFFF
    let e : Eff := { Eff.regs (fun r => r.setX d w) with reads := [lineOf pa], pages := [ea / 4096] }
    ea % n = 0 → s.xlate .read ea = .ok pa → isIo pa = false → isFab pa = false → s.poisonOf pa = none →
    s.blocked (some s.thr.id) (lineOf pa) = false → s.fits e = true →
    exec (.ld z d a off) s = .next ((s.retired e).allocD s.thr.core [lineOf pa])
    ∧ ((s.retired e).allocD s.thr.core [lineOf pa]).mem = s.mem)
  ∧ (∀ (s : State) (z : Size) (d a : BitVec 5) (off : Imm 12) (pa : Nat),
    let ea : Nat := (s.thr.arch.getX a + immValue off).toNat % 2 ^ 57
    let line := ea / 64 * 64
    let e : Eff := { Eff.none with stores := [(ea, pa, sizeBytes z, s.thr.arch.getX d)], pages := [ea / 4096] }
    let ez : Eff := { Eff.none with
      stores := (List.range 8).map (fun i => (line + 8 * i, pa + 8 * i, 8, 0)), pages := [line / 4096] }
    isIo pa = false → isFab pa = false → s.blocked (some s.thr.id) (lineOf pa) = false →
    (ea % sizeBytes z = 0 → s.xlate .write ea = .ok pa → s.fits e = true → exec (.st z d a off) s = .next (s.retired e))
    ∧ (s.xlate .write line = .ok pa → s.fits ez = true → exec (.zline a off) s = .next (s.retired ez))
    ∧ (∀ e' : Eff, (s.retired e').mem = s.mem ∧ (s.retired e').poison = s.poison))
  ∧ (∀ (s : State) (a : BitVec 5) (off : Imm 12), s.fits Eff.none = true →
    let next : Arch → Arch := fun r => { r with pc := BitVec.ofNat 64 ((s.thr.arch.pc.toNat + 8) % 2 ^ 57) }
    let line := s.prefetchLine ((s.thr.arch.getX a + immValue off).toNat % 2 ^ 57)
    let near : State := match line with | some l => s.allocD s.thr.core [l] | none => s
    let own : State := match line with | some l => s.l2Own s.thr.core l | none => s
    exec (.prfL1 a off) s = .next (near.withRegs next) ∧ exec (.prfL2 a off) s = .next (own.withRegs next)
    ∧ near.mem = s.mem ∧ own.mem = s.mem)
  ∧ (∀ (s : State) (z : LoadSize) (y : Size) (d a : BitVec 5) (off : Imm 12) (pa : Nat),
    let ea : Nat := (s.thr.arch.getX a + immValue off).toNat % 2 ^ 57
    let e : Eff := { Eff.none with pages := [ea / 4096] }
    let c := s.ended e
    let bs := (List.range (sizeBytes y)).map (byteOf (s.thr.arch.getX d))
    let sent (m : OutMsg) : State := { c with hub := { c.hub with out := c.hub.out ++ [m] } }
    let waits (u : State) (p : Post) : State := { u with thr := { u.thr.park u.cyc .result with post := some p } }
    let tn := c.thr.id.tenant
    let stream : IoStream := ⟨(c.tenant tn).head, tn, (c.tenant tn).teeBit⟩
    let colour : Colour := ⟨tn, (c.tenant tn).gen⟩
    s.canEnd e = true →
    (ea % loadBytes z = 0 → s.xlate .read ea = .ok pa →
      (isIo pa = true → exec (.ld z d a off) s =
        .next (waits (sent (.ioRead stream pa (loadBytes z))) (.ioLoad z d pa (some c.cyc))))
      ∧ (isIo pa = false → isFab pa = true → s.carries (farModuleOf pa) = true → exec (.ld z d a off) s =
        .next (waits (sent (.fabRead colour pa (loadBytes z))) (.fabLoad z d ea pa s.thr.arch.pc))))
    ∧ (ea % sizeBytes y = 0 → s.xlate .write ea = .ok pa →
      (isIo pa = true → exec (.st y d a off) s = .next (sent (.ioWrite stream pa bs)))
      ∧ (isIo pa = false → isFab pa = true → s.carries (farModuleOf pa) = true → exec (.st y d a off) s =
        .next (waits (sent (.fabWrite colour pa bs)) (.fabStore ea pa bs s.thr.arch.pc)))))

/-- The vector loads (R188, R189): every active element is read, in ascending order, at its own address, and the others keep
their value. The vector stores (R188, R189): every active element of vD is stored, in ascending order, at its own address. The
typed vector accesses (R190): a code is decoded with its block's scale and rounded into the register type in RNE; a store
rounds under STS.RM, draws once for each element under SR, and encodes whole blocks (R66). R100, R187: an inactive element is
neither read nor written and cannot fault. THE MODEL'S CHOICES: one draw for each active element, also in a block that gets
its codes without a rounding, and all codes of a block before its scale byte (log 23); the addresses of faults (log 24); a
typed access is a conversion, so that a NaN comes out canonical (log 105). -/
def Obligations.VectorAccesses : Prop :=
  (∀ (s : State) (z : Size) (d a b : BitVec 5) (k : BitVec 3) (off : BitVec 32) (es es' : List ElemAt),
    let w := sizeBytes z
    let ea : Nat := (s.thr.arch.getX a + off.signExtend 64).toNat % 2 ^ 57
    let lanes := (List.range (1024 * s.thr.ngrp / (8 * w))).filter (s.thr.arch.getM k).getLsbD
    let stride : Int := if b = 0 then w else (s.thr.arch.getX b).toInt
    let addr (o : Int) : Nat := (((ea : Int) + o) % (2 ^ 57 : Int)).toNat
    let idx (j : Nat) : Int := ((laneGet (8 * w) j (s.thr.arch.getV b)).setWidth (8 * w)).toInt * w
    let v (es : List ElemAt) : BitVec 16384 :=
      es.foldl (fun v e => laneSet (8 * w) e.i v ((s.combined (elemPas es)).chunkN e.pa w)) (s.thr.arch.getV d)
    let e (es : List ElemAt) : Eff := { Eff.regs (fun r => (s.thr.agedC r).setV d (v es)) with
      reads := laddAll [] (es.map (fun e => lineOf e.pa)), pages := elemPages es }
    let out (es : List ElemAt) : Out := .next ((s.retired (e es)).allocD s.thr.core (e es).reads)
    s.thr.ngrp ≠ 0 →
    (eachOf (s.elemAt .read w) (lanes.map (fun j => (j, addr (j * stride)))) = .ok es →
      s.fits (e es) = true → exec (.vld z d a b k off) s = out es)
    ∧ (eachOf (s.elemAt .read w) (lanes.map (fun j => (j, addr (idx j)))) = .ok es' →
      s.fits (e es') = true → exec (.vldx z d a b k off) s = out es'))
  ∧ (∀ (s : State) (z : Size) (d a b : BitVec 5) (k : BitVec 3) (off : BitVec 32) (es es' : List ElemAt),
    let w := sizeBytes z
    let ea : Nat := (s.thr.arch.getX a + off.signExtend 64).toNat % 2 ^ 57
    let lanes := (List.range (1024 * s.thr.ngrp / (8 * w))).filter (s.thr.arch.getM k).getLsbD
    let stride : Int := if b = 0 then w else (s.thr.arch.getX b).toInt
    let addr (o : Int) : Nat := (((ea : Int) + o) % (2 ^ 57 : Int)).toNat
    let idx (j : Nat) : Int := ((laneGet (8 * w) j (s.thr.arch.getV b)).setWidth (8 * w)).toInt * w
    let e (es : List ElemAt) : Eff := { Eff.regs (fun r => s.thr.agedC r) with
      stores := es.map (fun e => (e.va, e.pa, w, laneGet (8 * w) e.i (s.thr.arch.getV d))), pages := elemPages es
      spots := spotsOf 0 es }
    s.thr.ngrp ≠ 0 →
    (eachOf (s.elemAt .write w) (lanes.map (fun j => (j, addr (j * stride)))) = .ok es → s.fits (e es) = true →
      exec (.vst z d a b k off) s = .next (s.retired (e es)))
    ∧ (eachOf (s.elemAt .write w) (lanes.map (fun j => (j, addr (idx j)))) = .ok es' → s.fits (e es') = true →
      exec (.vstx z d a b k off) s = .next (s.retired (e es'))))
  ∧ (∀ (s : State) (d a b : BitVec 5) (k : BitVec 3) (off : BitVec 32) (es es' : List ElemAt),
    let p := s.thr.arch.getX a
    let ea : Nat := (p + off.signExtend 64).toNat % 2 ^ 57
    let f := pFmt p
    let w := (regTyOf f).bits
    let stride : Int := if b = 0 then 1 else (s.thr.arch.getX b).toInt
    let l : List (Nat × Int) :=
      ((List.range (1024 * s.thr.ngrp / w)).filter (s.thr.arch.getM k).getLsbD).map (fun (j : Nat) => (j, (j : Int) * stride))
    let v := es.foldl (fun v e => laneSet w e.i v ((s.combined (elemPas es)).typedLoad f e)) (s.thr.arch.getV d)
    let el : Eff := { Eff.regs (fun r => (s.thr.agedC r).setV d v) with
      reads := laddAll [] ((elemPas es).map lineOf), pages := elemPages es }
    let scales := s.scalesOf p ea l
    let whole (sa : Nat × Nat) : Bool := (scales.filter (fun x => x == some sa)).length == 2 ^ (pBlk p).toNat
    let est : Eff := { Eff.regs (fun r => s.thr.agedC (s.thr.drawn (if stsMode s.thr.arch.sts = .sr then l.length else 0) r)) with
      stores := (s.typedStores p d es').1, reads := nibbleLines f es', pages := elemPages es', spots := spotsOf (tagBits p) es' }
    s.thr.ngrp ≠ 0 → f.toNat < 14 → tagOk p = true →
    (eachOf (s.typedAt .read p ea (fun _ => true)) l = .ok es → s.fits el = true →
      exec (.vldt d a b k off) s = .next ((s.retired el).allocD s.thr.core el.reads))
    ∧ ((b = 0 ∨ pBlk p = 0) → eachOf (s.typedAt .write p ea whole) l = .ok es' → s.fits est = true →
      exec (.vstt d a b k off) s = .next (s.retired est)))
  ∧ (∀ (s : State) (z : Size) (d a b : BitVec 5) (k : BitVec 3) (off : BitVec 32),
    s.thr.arch.getM k = 0 → s.thr.ngrp ≠ 0 → s.fits Eff.none = true →
    ∀ i ∈ ([.vst z d a b k off, .vstx z d a b k off, .vld z d a b k off, .vldx z d a b k off] : List Instr),
      ∃ t, exec i s = .next t ∧ t.mem = s.mem ∧ t.thr.chunk.buf = s.thr.chunk.buf ∧ t.thr.chunk.reads = s.thr.chunk.reads
        ∧ t.thr.arch.x = s.thr.pending.x ∧ t.thr.arch.v = s.thr.pending.v.set d.toNat (t.thr.arch.getV d) (by omega))

/-- The instructions that add to their chunk without a store (R195, R196): a `radd` joins the chunk as an addend of the core's
partial, `rst` and `ramo` as a dray element, also one for memory of another owner, which faults at its home (R286); registers,
memory and the read and write sets are as before. `crange` (R194): its pages are checked at issue, the chunk commits, and its
event writes xD with the row of the table that applies; a declaration adds the range; a removal combines the range's lines in
ascending address, takes the range away and squashes the tenant's open chunks that hold a `radd` to it; a result other than 0
or 1 leaves the ranges and memory as they were. Which row applies where several do is the model's choice (log 33). -/
def Obligations.ChunkElements : Prop :=
  (∀ (s : State) (f : RangeFmt) (z : Size) (op : AmoOp) (w : AmoSize) (a b : BitVec 5) (r : Range) (pa pe : Nat),
    let va : Nat := (s.thr.arch.getX a).toNat % 2 ^ 57
    let v := s.thr.arch.getX b
    let add : Eff := { Eff.none with radds := [⟨pa, s.thr.core, f, v, false⟩], pages := [va / 4096] }
    let elem (n : Nat) (o : ElemOp) : Eff := { Eff.none with
      elems := [⟨s.thr.id, s.thr.lid, s.thr.arch.flta, va, pe, n, o, BitVec.ofNat 64 (v.toNat % 2 ^ (8 * n)), 0⟩], pages := [va / 4096] }
    (va % rangeBytes f = 0 → s.xlate .write va = .ok pa → isIo pa = false → isFab pa = false → (s.tenant s.thr.id.tenant).rangeAt va = some r → r.fmt = f → s.fits add = true →
      exec (.radd f a b) s = .next (s.retired add))
    ∧ (s.xlateElem va = .ok pe → isIo pe = false → isHost pe = false → va % sizeBytes z = 0 → s.fits (elem (sizeBytes z) .set) = true →
      exec (.rst z a b) s = .next (s.retired (elem (sizeBytes z) .set)))
    ∧ (s.xlateElem va = .ok pe → isIo pe = false → isHost pe = false → va % amoBytes w = 0 → s.fits (elem (amoBytes w) (.op op)) = true →
      exec (.ramo op w a b) s = .next (s.retired (elem (amoBytes w) (.op op))))
    ∧ (s.retired add).thr.arch.x = s.thr.pending.x ∧ (s.retired add).mem = s.mem
    ∧ (s.retired add).thr.chunk.reads = s.thr.chunk.reads ∧ (s.retired add).thr.chunk.buf = s.thr.chunk.buf)
  ∧ (∀ (s : State) (f : RangeFmt) (d a b : BitVec 5) (pas : List Nat),
    let base := (s.thr.arch.getX a).toNat % 2 ^ 57
    let len := (s.thr.arch.getX b).toNat
    let pages := (s.tenant s.thr.id.tenant).crangePages f base len
    let e : Eff := { Eff.none with pages := pages.map (· / 4096) }
    let c := s.ended e
    let k := c.tenant c.thr.id.tenant
    eachOf s.rangePage pages = .ok pas → (len = 0 → s.crangePoison pas = none ∧ s.crangeHeld pas = none) → s.canEnd e = true →
    ∃ t, exec (.crange f d a b) s = .next t
      ∧ (d ≠ 0 → t.thr.arch.getX d = BitVec.ofNat 64 (k.crangeCode f base len))
      ∧ (k.crangeCode f base len = 0 →
        (t.tenant c.thr.id.tenant).ranges = k.ranges ++ [⟨base, len, f⟩] ∧ t.mem = c.mem)
      ∧ (k.crangeCode f base len = 1 →
        let inside (pa : Nat) : Bool := pas.any (fun p => p / 4096 == pa / 4096)
        let m := c.combineAll (some c.thr.id) (lsort ((c.partials.filter (fun p => inside p.pa)).map (fun p => lineOf p.pa)))
        t.mem = m.mem ∧ t.partials = m.partials
        ∧ (t.tenant c.thr.id.tenant).ranges = k.ranges.filter (fun r => r.base != base)
        ∧ ∀ u ∈ t.threads, u.live = true → u.id.tenant = c.thr.id.tenant → ∀ p ∈ u.chunk.radds, inside p.pa = false)
      ∧ (2 ≤ k.crangeCode f base len → (t.tenant c.thr.id.tenant).ranges = k.ranges ∧ t.mem = c.mem))

/-- `amo`, `cas` and `amop` (R191 to R193): the chunk commits with this bundle, and the operation is asked for with the operands
as they stood before the bundle; it is performed later, at the home. -/
def Obligations.AtomicsCommitFirst : Prop :=
  ∀ (s : State) (op : AmoOp) (z : AmoSize) (d a b : BitVec 5) (pa pr : Nat),
    let va : Nat := (s.thr.arch.getX a).toNat % 2 ^ 57
    let cut (w : Word) : Word := BitVec.ofNat 64 (w.toNat % 2 ^ (8 * amoBytes z))
    let v := cut (s.thr.arch.getX b)
    let x := cut (s.thr.arch.getX d)
    let pc := s.thr.arch.pc
    let c := s.ended { Eff.none with pages := [va / 4096] }
    let sent (o : Option AmoOp) (e : Word) (t : State) : State :=
      if isFab pa then { t with hub := { t.hub with out := t.hub.out ++ [OutMsg.fabAtomic (c.colour c.thr.id.tenant) pa o z e v] } } else t
    va % amoBytes z = 0 → s.xlate .write va = .ok pa → s.xlate .read va = .ok pr → isIo pa = false →
    (isFab pa = true → s.carries (farModuleOf pa) = true) →
    s.canEnd { Eff.none with pages := [va / 4096] } = true →
    exec (.amo op z d a b) s = .next (sent (some op) 0 { c with thr := { c.thr with post := some (.amo op z d va pa v pc) } })
    ∧ exec (.cas z d a b) s = .next (sent none x { c with thr := { c.thr with post := some (.cas z d va pa x v pc) } })
    ∧ exec (.amop op z a b) s = .next { c with net := { c.net with
        amops := c.net.amops ++ [⟨c.thr.id, c.thr.lid, c.thr.arch.flta, op, z, va, pa, v, c.net.posted⟩]
        posted := c.net.posted + 1 } }

/-- R198: `chunk` is opcode 0x1C with every field zero, otherwise code 3; it ends its chunk and has no other effect; inside a
region it fails the region as forbidden. -/
def Obligations.ChunkEndsChunk : Prop :=
  (∀ (lit : Half), decodeC (packCR 0x1C 0 0 0 0 0) lit = .ok .chunk)
  ∧ (∀ (d a b : BitVec 5) (fn : BitVec 6) (md : BitVec 4) (lit : Half), (d ≠ 0 ∨ a ≠ 0 ∨ b ≠ 0 ∨ fn ≠ 0 ∨ md ≠ 0) →
    decodeC (packCR 0x1C d a b fn md) lit = .error 3)
  ∧ (∀ s : State, s.canEnd Eff.none = true → exec .chunk s = .next (s.ended Eff.none))
  ∧ (∀ s : State, s.thr.inRegion = true → s.thr.aslot.faults = false →
    exec .chunk s = .next { s with thr := s.thr.failRegion 4 0 })

/-- The fences, `dflush` and `xbegin` (R172, R197, R199, R200): the chunk commits, then drays depart, the thread parks for its
condition, or a region begins with the next bundle at its first attempt. `xend` and `xabort` (R163, R201, R202): `xend`
commits the region or the chunk and writes its status; `xabort n` in a region fails it with CODE 3 and XCODE n, and the
registers are those of the `xbegin`. R161: inside a region, every instruction that ends a chunk, other than `xend` and
`xabort`, makes the region fail as forbidden (CODE 4), whatever its operands; none of its effects happens. Only the
illegal-instruction fault of a tile command's format or warp slot comes first (R41). THE MODEL'S CHOICES: forbidden comes before
every fault of an operand (log 32), and the attempt count that is written outside a region is 0 (log 41). -/
def Obligations.Regions : Prop :=
  (∀ s : State, s.canEnd Eff.none = true →
    let c := s.ended Eff.none
    let f := c.departFor c.thr
    exec .dflush s = .next f
    ∧ exec .fenceD s = .next { f with thr := f.thr.park f.cyc (.fence true false false) }
    ∧ exec .fenceE s = .next { c with thr := c.thr.park c.cyc (.fence false true false) }
    ∧ exec .fenceA s = .next { f with thr := f.thr.park f.cyc (.fence true true true) }
    ∧ exec .xbegin s = .next { c with thr := { c.thr with region := some ⟨1, [], [], none, none, false⟩ } })
  ∧ (∀ (s : State) (d : BitVec 5) (n : BitVec 4),
    let status : Word := match s.thr.region with
      | none => 6
      | some r => match r.failed with
        | none => BitVec.ofNat 64 (256 * (r.attempt % 4))
        | some (code, x) => BitVec.ofNat 64 (256 * (r.attempt % 4) + 16 * (x % 16) + code % 16)
    let e : Eff := Eff.regs (fun a => a.setX d status)
    (s.fits e = true → (s.retired e).mayCommit = true → exec (.xend d) s = .next (s.retired e).commitNow)
    ∧ (s.thr.inRegion = false → s.fits Eff.none = true → (s.retired Eff.none).mayCommit = true →
      exec (.xabort n) s = .next (s.retired Eff.none).commitNow)
    ∧ (s.thr.inRegion = true → s.thr.aslot.faults = false →
      ∃ t, exec (.xabort n) s = .next t ∧ t.thr.arch = s.thr.chunk.start ∧ t.thr.chunk = Chunk.fresh s.thr.chunk.start
        ∧ t.thr.region.map XRegion.failed = some (some (3, n.toNat)) ∧ t.mem = s.mem))
  ∧ (∀ (s : State) (d a b : BitVec 5) (q t : BitVec 3) (n : BitVec 2) (n9 : BitVec 9) (it : BitVec 6) (c : WatchCond)
    (op : AmoOp) (z : AmoSize) (f : RangeFmt), s.thr.inRegion = true → s.thr.aslot.faults = false →
    ∀ i ∈ ([.brk n9, .amo op z d a b, .cas z d a b, .amop op z a b, .crange f d a b, .dflush, .chunk, .fenceD, .fenceE, .fenceA,
        .xbegin, .qbind q a, .qwaitF q, .qwaitE q, .qadvH q, .qadvT q, .pcopy d a n, .pcopyt d a n, .pgath d a n, .pscat d a n,
        .pscadd d a n, .pfill d a n, .tzero t,
        .tewScale t a, .tewRelu t, .tewGelu t, .tewSilu t, .tewClamp t a b, .tsync a, .trecOn, .trecOff,
        .unwind a, .tdrop, .watch c n a b, .unwatch n, .wait d a, .yield, .halt, .haltRetain, .live a, .spawn d a b, .pwait,
        .smay, .bar d a b, .dmem d a, .dbar d a, .vclaim d a, .vrel, .vreneg d a, .xchg d a b, .launch d a, .tstop d a,
        .tstart d a, .trds d a it, .twrs d a b it, .igrant d a, .irevoke d a, .iquery d a] : List Instr),
      exec i s = .next { s with thr := s.thr.failRegion 4 0 })
  ∧ (∀ (s : State) (a b : BitVec 5) (t : BitVec 3) (n : BitVec 2), s.thr.inRegion = true → s.thr.aslot.faults = false →
    let x (r : BitVec 5) : Word := s.thr.arch.getX r
    ∀ p ∈ ([(.twarp n a b, .twarp n, x a, x b), (.tlda a b, .tlda, x a, x b), (.tmul t n, .tmul t n, 0, 0),
        (.tmult t n, .tmult t n, 0, 0), (.touter t a b, .touter t, x a, x b), (.tewBias t a, .bias t, x a, 0),
        (.tred t a, .tred t, x a, 0), (.tst t a b, .tst t, x a, x b)] : List (Instr × LoomOp × Word × Word)),
      let checks := s.pushChecks p.2.1 p.2.2.1 p.2.2.2
      ((∀ f : Flt, checks = .error (.flt f) → f.kind ≠ 1) → exec p.1 s = .next { s with thr := s.thr.failRegion 4 0 })
      ∧ ∀ f : Flt, checks = .error (.flt f) → f.kind = 1 → exec p.1 s = .next (s.raise f))

/-! ## Queues, porters and the loom -/

/-- The queue instructions of R205 to R208 where they go on: a bind, a wait that asks for its reservation or checks its stamp
again, an access to the reserved slot, and a release that asks for the stamp write. -/
def Obligations.QueueInstructions : Prop :=
  ∀ (s : State) (q : BitVec 3) (d a : BitVec 5) (i : BitVec 6) (pa : Nat),
    let h := s.thr.handle q
    let v := s.thr.arch.getX a
    let va := v.toNat % 2 ^ 57
    let S := 2 ^ h.lslot
    let slot := (h.base + h.r.toNat % S * (64 * 2 ^ h.lesz) + 8 * i.toNat) % 2 ^ 57
    let stamp := (h.stamps + 8 * (h.r.toNat % S)) % 2 ^ 57
    let mem (p : Nat) : Bool := !isIo p && !isFab p
    let page (x : Nat) : Eff := { Eff.none with pages := [x / 4096] }
    let ask (p : Post) (c : State) : State := { c with thr := { c.thr with post := some p } }
    let free (c : State) : State := { c with thr := c.thr.setHandle q { h with role := .none, r := 0 } }
    let get : Eff := { Eff.regs (fun r => r.setX d ((s.combined [pa]).chunkN pa 8)) with reads := [lineOf pa], pages := [slot / 4096] }
    let put : Eff := { Eff.none with stores := [(slot, pa, 8, s.thr.arch.getX d)], pages := [slot / 4096] }
    (h.role = .none → v = 0 → s.canEnd Eff.none = true → exec (.qbind q a) s =
      .next { s.ended Eff.none with thr := (s.ended Eff.none).thr.setHandle q QHandle.unbound })
    ∧ (h.role = .none → v ≠ 0 → va % 64 = 0 → s.readAt va 8 = .ok pa → s.canEnd (page va) = true →
      exec (.qbind q a) s = .next ((s.ended (page va)).bindEvent q va pa s.thr.arch.pc))
    ∧ (h.valid = true → h.role = .none → s.xlate .write h.line = .ok pa → mem pa = true → s.canEnd (page h.line) = true →
      exec (.qwaitF q) s = .next (ask (.reserve q true) (s.ended (page h.line)))
      ∧ exec (.qwaitE q) s = .next (ask (.reserve q false) (s.ended (page h.line))))
    ∧ (h.valid = true → s.canEnd Eff.none = true →
      (h.role = .producer → exec (.qwaitF q) s = .next ((s.ended Eff.none).stampCheck (s.ended Eff.none).thr.id q none))
      ∧ (h.role = .consumer → exec (.qwaitE q) s = .next ((s.ended Eff.none).stampCheck (s.ended Eff.none).thr.id q none)))
    ∧ (s.xlate .write stamp = .ok pa → mem pa = true → s.canEnd (page stamp) = true →
      (h.role = .producer → exec (.qadvT q) s = .next (ask (.stamp q stamp pa (h.r + 1)) (free (s.ended (page stamp)))))
      ∧ (h.role = .consumer →
        exec (.qadvH q) s = .next (ask (.stamp q stamp pa (h.r + BitVec.ofNat 64 S)) (free (s.ended (page stamp))))))
    ∧ (i.toNat < 8 * 2 ^ h.lesz →
      (h.role ≠ .none → s.readAt slot 8 = .ok pa → s.fits get = true →
        exec (.qld d q i) s = .next ((s.retired get).allocD s.thr.core [lineOf pa]))
      ∧ (h.role = .producer → s.writeAt slot 8 = .ok pa → s.fits put = true → exec (.qst d q i) s = .next (s.retired put)))

/-- A misaligned scalar access raises the alignment fault with its address, before its translation is looked at (R181, R184).
The queue fault of R205 to R208, with its details: a bind of a handle that holds a reservation (1), a wait in the other role
(2) or on an unbound handle (3), a doubleword past the slot (5), and a missing or wrong role (6). That alignment comes first for
every form, and a missing role before a doubleword past the slot, is the model's choice (log 32). -/
def Obligations.AccessFaults : Prop :=
  (∀ (s : State) (z : LoadSize) (y : Size) (d a b : BitVec 5) (off : Imm 12) (f : RangeFmt) (w : AmoSize) (op : AmoOp),
    let ea : Nat := (s.thr.arch.getX a + immValue off).toNat % 2 ^ 57
    let va : Nat := (s.thr.arch.getX a).toNat % 2 ^ 57
    let bad (at' : Nat) : Out := .next (s.raise ⟨0x02, 0, BitVec.ofNat 64 at', 0, 0, none⟩)
    s.thr.aslot.faults = false →
    (ea % loadBytes z ≠ 0 → exec (.ld z d a off) s = bad ea)
    ∧ (ea % sizeBytes y ≠ 0 → exec (.st y d a off) s = bad ea)
    ∧ (va % rangeBytes f ≠ 0 → exec (.radd f a b) s = bad va)
    ∧ (va % sizeBytes y ≠ 0 → exec (.rst y a b) s = bad va)
    ∧ (va % amoBytes w ≠ 0 → exec (.ramo op w a b) s = bad va
      ∧ (s.thr.inRegion = false → exec (.amo op w d a b) s = bad va ∧ exec (.cas w d a b) s = bad va
        ∧ exec (.amop op w a b) s = bad va)))
  ∧ (∀ (s : State) (q : BitVec 3) (d a : BitVec 5) (i : BitVec 6),
    let h := s.thr.handle q
    let bad (detail : Nat) : Out := .next (s.raise ⟨0x0E, detail, 0, 0, 0, none⟩)
    s.thr.aslot.faults = false →
    (s.thr.inRegion = false →
      (h.role ≠ .none → (s.thr.arch.getX a).toNat % 64 = 0 → exec (.qbind q a) s = bad 1)
      ∧ (h.valid = false → exec (.qwaitF q) s = bad 3 ∧ exec (.qwaitE q) s = bad 3)
      ∧ (h.valid = true → h.role = .consumer → exec (.qwaitF q) s = bad 2)
      ∧ (h.valid = true → h.role = .producer → exec (.qwaitE q) s = bad 2)
      ∧ (h.role ≠ .producer → exec (.qadvT q) s = bad 6) ∧ (h.role ≠ .consumer → exec (.qadvH q) s = bad 6))
    ∧ (h.role = .none → exec (.qld d q i) s = bad 6) ∧ (h.role ≠ .producer → exec (.qst d q i) s = bad 6)
    ∧ (h.role ≠ .none → 8 * 2 ^ h.lesz ≤ i.toNat → exec (.qld d q i) s = bad 5)
    ∧ (h.role = .producer → 8 * 2 ^ h.lesz ≤ i.toNat → exec (.qst d q i) s = bad 5))

/-- R209: `qstat` is opcode 0x25 with S1, FN and MOD zero; it reads the handle only, touches no memory, does not end its chunk,
and gives VALID, ROLE, LESZ, LSLOT, and RIDX, which is 0 while ROLE is 0. -/
def Obligations.QstatFields : Prop :=
  (∀ (d : BitVec 5) (q : BitVec 3) (lit : Half), decodeC (packCR 0x25 d 0 (q.setWidth 5) 0 0) lit = .ok (.qstat d q))
  ∧ (∀ (d a b : BitVec 5) (fn : BitVec 6) (md : BitVec 4) (lit : Half), (a ≠ 0 ∨ fn ≠ 0 ∨ md ≠ 0) →
    decodeC (packCR 0x25 d a b fn md) lit = .error 3)
  ∧ (∀ (s : State) (d : BitVec 5) (q : BitVec 3), s.fits Eff.none = true → ∃ t, exec (.qstat d q) s = .next t
    ∧ t = s.withRegs (fun r => { r.setX d (s.thr.handle q).stat with pc := BitVec.ofNat 64 ((s.thr.arch.pc.toNat + 8) % 2 ^ 57) })
    ∧ t.sameMem s ∧ t.thr.chunk.reads = s.thr.chunk.reads ∧ t.thr.chunk.buf = s.thr.chunk.buf
    ∧ (s.thr.chunk.ended = false → s.thr.chunk.count + 1 < s.thr.chunk.max → s.thr.solo = none →
      s.thr.chunk.firsts.length ≤ Config.chunkLines → t.thr.chunk.ended = false))
  ∧ ∀ h : QHandle, h.lslot < 32 → h.lesz < 8 →
    h.stat.getLsbD 63 = h.valid
    ∧ (h.stat.extractLsb' 61 2).toNat = (match h.role with | .none => 0 | .producer => 1 | .consumer => 2)
    ∧ (h.stat.extractLsb' 58 3).toNat = h.lesz ∧ (h.stat.extractLsb' 53 5).toNat = h.lslot
    ∧ (h.lesz < 4 → h.stat.getLsbD 60 = false)
    ∧ h.stat.extractLsb' 32 21 = 0 ∧ h.stat.setWidth 32 = (if h.role = .none then 0 else h.r.setWidth 32)

/-- The porter instructions (R210 to R212): the request is read at issue, the chunk commits, and the porter accepts the
command with its next number, which xD receives, or refuses it with 0; a push under SR of `pcopyt` draws only when accepted.
The tile and daybook instructions (R112, R115, R128, R134): with operands that pass their checks and the context free or the
crew's own with room, the chunk commits and the command takes the loom's next number with what it captured at issue; a `tst`
under SR draws ROWS × COLS times. The loom's context (R112, R115): a push while another crew owns it, or while its queue of 64
is full, squashes the chunk and parks the thread. THE MODEL'S CHOICES: a push to a porter that is out of service gives 0, one
to a cluster without a loom waits (log 40), and the order of the details of a request (log 32). -/
def Obligations.EnginePushes : Prop :=
  (∀ (s : State) (d a : BitVec 5) (n : BitVec 2) (pa : Nat),
    let va : Nat := (s.thr.arch.getX a).toNat % 2 ^ 57
    let w (j : Nat) : Word := (s.combined [pa]).chunkN (pa + 8 * j) 8
    let t := s.thr
    let cl := clusterOf t.core
    let room := decide (((s.cluster cl).porter n).queue.length < 16) && !((s.cluster cl).porter n).mapped
    let cmd (k : PortKind) (seq : Nat) : PorterCmd := ⟨seq, k, w 0, w 1, w 2, w 3, t.id, t.lid, t.core, t.arch.pc,
      t.arch.sts.extractLsb' 0 3, t.arch.rngs, t.arch.swin, t.arch.flta, .arrived, 0, 0, false, [], [], [], none, 0⟩
    let draws (k : PortKind) : Nat :=
      if k = .copyt ∧ stsMode t.arch.sts = .sr ∧ room = true then ((w 2).extractLsb' 0 32).toNat else 0
    let e (k : PortKind) : Eff := { Eff.regs (fun r => t.drawn (draws k) r) with reads := [lineOf pa], pages := [va / 4096] }
    s.readAt va 32 = .ok pa →
    ∀ p ∈ ([(.pcopy d a n, .copy), (.pcopyt d a n, .copyt), (.pgath d a n, .gath), (.pscat d a n, .scat),
        (.pscadd d a n, .scadd), (.pfill d a n, .fill)] : List (Instr × PortKind)),
      (p.2 = .copyt → copytBlocks t.arch.swin (w 0) (w 1) (reqCount (w 2)) = none) → reqDetail p.2 (w 0) (w 1) (w 2) (w 3) = 0 →
      s.canEnd (e p.2) = true →
      let c := s.ended (e p.2)
      let port := (c.cluster cl).porter n
      let open' := decide (port.queue.length < 16) && !port.mapped
      exec p.1 s = .next (if open' then
        (c.setPort cl n { port with pacc := port.pacc + 1, queue := port.queue ++ [cmd p.2 (port.pacc + 1)] }).setReg d
          (BitVec.ofNat 64 (port.pacc + 1))
        else c.setReg d 0))
  ∧ (∀ (s : State) (w : BitVec 2) (t : BitVec 3) (a b : BitVec 5),
    let x (r : BitVec 5) : Word := s.thr.arch.getX r
    let cl := clusterOf s.thr.core
    let full (n k : Nat) : Nat := if n = 0 then k else n
    let d : Nat := if stsMode s.thr.arch.sts = .sr then
      full ((x b).extractLsb' 32 16).toNat 64 * full ((x b).extractLsb' 48 16).toNat 512 else 0
    ∀ p ∈ ([(.twarp w a b, .twarp w, x a, x b, 0), (.tzero t, .tzero t, 0, 0, 0), (.tlda a b, .tlda, x a, x b, 0),
        (.tmul t w, .tmul t w, 0, 0, 0), (.tmult t w, .tmult t w, 0, 0, 0), (.touter t a b, .touter t, x a, x b, 0),
        (.tewBias t a, .bias t, x a, 0, 0), (.tewScale t a, .scale t, x a, 0, 0), (.tewRelu t, .relu t, 0, 0, 0),
        (.tewGelu t, .gelu t, 0, 0, 0), (.tewSilu t, .silu t, 0, 0, 0), (.tewClamp t a b, .clamp t, x a, x b, 0),
        (.tred t a, .tred t, x a, 0, 0), (.tst t a b, .tst t, x a, x b, d), (.tsync a, .tsync, x a, 0, 0),
        (.trecOn, .trecOn, 0, 0, 0), (.trecOff, .trecOff, 0, 0, 0), (.unwind a, .unwind, x a, 0, 0),
        (.tdrop, .tdrop, 0, 0, 0)] : List (Instr × LoomOp × Word × Word × Nat)),
      let e : Eff := Eff.regs (fun r => s.thr.drawn p.2.2.2.2 r)
      s.pushChecks p.2.1 p.2.2.1 p.2.2.2.1 = .ok () → s.loomGate = .ok () → s.canEnd e = true →
      let c := s.ended e
      let l := (c.cluster cl).loom.claim c.thr.crewKey c.thr.id.rank
      exec p.1 s = .next (c.setLoom (clusterOf c.thr.core) { l with
        lacc := l.lacc + 1
        queue := l.queue ++ [{ s.thr.loomCmd p.2.1 p.2.2.1 p.2.2.2.1 with seq := l.lacc + 1 }] }))
  ∧ (∀ (s : State) (t : BitVec 3),
    let cl := clusterOf s.thr.core
    let l := (s.cluster cl).loom
    s.thr.inRegion = false → s.thr.aslot.faults = false → l.mapped = false →
    (l.st = 1 → l.owner ≠ some s.thr.crewKey → ∃ u, exec (.tzero t) s = .next u
      ∧ u.thr.run = .parked (.loom cl false) ∧ u.thr.arch = { s.thr.chunk.start with hold := [] } ∧ u.mem = s.mem
      ∧ (u.cluster cl).loom.queue = l.queue)
    ∧ (l.st = 1 → l.owner = some s.thr.crewKey → 64 ≤ (l.queue.filter (fun c => c.phase != .done)).length →
      ∃ u, exec (.tzero t) s = .next u ∧ u.thr.run = .parked (.loom cl true)
        ∧ u.thr.arch = { s.thr.chunk.start with hold := [] } ∧ u.cluster cl = s.cluster cl))

/-! ## Threads -/

/-- The waits of R251 to R258: a watch asks for its arming and the thread goes on (R353), `unwatch` ends the watch and its
latch and does nothing to a slot that is neither armed nor about to be, `wait` returns at once on a latch and else, or while
an arming is under way, parks with its deadline counted from the commit; `yield`, the ends of a thread, `smay`, and the
predecessor wait, which keeps or gives up the thread's reserved loft position (R243, R349). -/
def Obligations.WaitInstructions : Prop :=
  ∀ (s : State) (w : WatchCond) (n : BitVec 2) (d a b : BitVec 5) (pa : Nat),
    let va : Nat := (s.thr.arch.getX a).toNat % 2 ^ 57
    let v := s.thr.arch.getX b
    let k := (s.thr.arch.getX a).toNat
    let c := s.ended Eff.none
    let tn := c.thr.id.tenant
    (va % 8 = 0 → s.xlate .read va = .ok pa → isIo pa = false → isFab pa = false →
      s.canEnd { Eff.none with pages := [va / 4096] } = true →
      let u := s.ended { Eff.none with pages := [va / 4096] }
      exec (.watch w n a b) s = .next { u with thr := { u.thr with arms := u.thr.arms ++ [(n, ⟨w, va, pa, v, false, false⟩)] } })
    ∧ (s.canEnd Eff.none = true →
      let held := (qat c.thr.watches n).isSome = true ∨ ∃ p ∈ c.thr.arms, p.1 = n
      let p := c.thr.park c.cyc .pwait
      (held → exec (.unwatch n) s = .next { c with thr := { c.thr with
        watches := qput c.thr.watches n none
        latch := c.thr.latch &&& ~~~(1#4 <<< n.toNat)
        took := c.thr.took &&& ~~~(1#4 <<< n.toNat)
        arms := c.thr.arms.filter (fun p => p.1 != n) } })
      ∧ (¬ held → exec (.unwatch n) s = .next c)
      ∧ (c.thr.arms ≠ [] ∨ c.thr.latch = 0 → exec (.wait d a) s =
        .next { c with thr := c.thr.park c.cyc (.wait d (if k = 0 then none else some (c.cyc + k))) })
      ∧ (c.thr.arms = [] → c.thr.latch ≠ 0 → exec (.wait d a) s = .next { c with thr := c.thr.waitReturn c.cyc c.thr.fireCode d })
      ∧ exec .yield s = .next { c with thr := { c.thr with yielded := !(c.tenant tn).rr } }
      ∧ exec .halt s = .next (c.endThread c.thr.id false) ∧ exec .haltRetain s = .next (c.endThread c.thr.id true)
      ∧ (c.predDone c.thr = true → exec .pwait s = .next { c with thr := { c.thr with spot := c.thr.spot.over } })
      ∧ (c.predDone c.thr = false → exec .pwait s = .next { c with thr := { p with
        spot := if p.spot = .held ∧ p.packable = false then .barred else p.spot } })
      ∧ (c.launchOf c.thr = none → exec .smay s = .next c)
      ∧ ∀ l, c.launchOf c.thr = some l →
        (l.smay = true → exec .smay s = .next c)
        ∧ (l.smay = false → ∃ t, exec .smay s = .next t ∧ t.net.smays = c.net.smays ++ [(tn, l.lid)] ∧ t.mem = c.mem
          ∧ (t.tenant tn).launches = (c.tenant tn).launches.map (fun m => if m.lid = l.lid then { m with smay := true } else m)))

/-- `live` (R255): LIVE takes xS1 with bits 63:32 and 0 zero, every register it does not mark is cleared, and the chunk ends;
what the A slot of the bundle writes stands. A thread ends (R256, R269): its watches, armings, latches and context go; `halt`
of any rank but the root's frees the rank, and the root's, or `halt.retain`, retains it. `brk` of R84: the chunk commits with
this bundle, a breakpoint record with detail n goes to the line FLTA names, and the thread stops with PC at the `brk`; a start
moves PC to the next bundle. -/
def Obligations.ThreadEnds : Prop :=
  (∀ (s : State) (a : BitVec 5),
    let m : BitVec 32 := (s.thr.arch.getX a).setWidth 32 &&& ~~~1
    let upd (r : Arch) : Arch := { r with live := m, x := (r.x.zipIdx).map (fun p => if p.2 = 0 ∨ m.getLsbD p.2 then p.1 else 0) }
    s.canEnd (Eff.regs upd) = true →
    ∃ t, exec (.live a) s = .next t ∧ t = s.ended (Eff.regs upd) ∧ t.thr.arch.live = m
      ∧ ∀ r : BitVec 5, t.thr.arch.getX r = if m.getLsbD r.toNat then s.thr.pending.getX r else 0)
  ∧ (∀ (s : State) (retain : Bool) (t : Thread), s.find s.thr.id = some t → s.thr.live = true →
    let u := s.endThread s.thr.id retain
    (retain = true ∨ s.thr.id.rank = 0 → u.thr.run = .retained) ∧ (retain = false → s.thr.id.rank ≠ 0 → u.thr.run = .halted)
    ∧ u.thr.gmask = 0 ∧ u.thr.watches = Vector.replicate 4 none ∧ u.thr.arms = [] ∧ u.thr.latch = 0 ∧ u.mem = s.mem)
  ∧ (∀ (s : State) (n : BitVec 9), s.canEnd { Eff.none with npc := some s.thr.arch.pc } = true →
    let e := s.ended { Eff.none with npc := some s.thr.arch.pc }
    let u : Thread := { e.thr with arch := { e.thr.arch with hold := [] }, stopped := some .brk, since := e.cyc }
    exec (.brk n) s = .next (({ e with thr := u } : State).deliver (some u.id) u.core u.arch.flta
      ⟨0x11, 0, u.id.tenant, u.id.rank, s.thr.arch.pc, 0, 0, 0, 0, 0, BitVec.ofNat 64 n.toNat⟩)
    ∧ u.arch.pc = s.thr.arch.pc
    ∧ ∀ (now : Nat) (t : Thread), t.stopped = some .brk → t.run = .ready →
      (t.start now).stopped = none ∧ (t.start now).arch.pc = BitVec.ofNat 64 ((t.arch.pc.toNat + 8) % 2 ^ 57)
        ∧ (t.start now).arch.why = 8)

/-- `vclaim`, `vreneg` and `vrel` (R264): the lowest free groups are granted, at least LEAST and at most WANT of them; a request
that cannot be granted is refused with its code and changes no group. -/
def Obligations.VectorContexts : Prop :=
  ∀ (s : State) (d a : BitVec 5), s.canEnd Eff.none = true →
    let c := s.ended Eff.none
    let v := s.thr.arch.getX a
    let want := (v.extractLsb' 0 5).toNat
    let least := (v.extractLsb' 8 5).toNat
    let free := c.groupsFree (clusterOf c.thr.core)
    let held := (List.range 16).filter c.thr.gmask.getLsbD
    let ok := requestOk v = true
    let no (code : Nat) : Out := .next (c.poolRefuse d code)
    (¬ ok → exec (.vclaim d a) s = no 3 ∧ exec (.vreneg d a) s = no 3)
    ∧ (ok → c.thr.gmask ≠ 0 → exec (.vclaim d a) s = no 2) ∧ (ok → c.thr.gmask = 0 → exec (.vreneg d a) s = no 2)
    ∧ (ok → c.thr.gmask = 0 → free.length < least → exec (.vclaim d a) s = no 1)
    ∧ (ok → c.thr.gmask ≠ 0 → held.length + free.length < least → exec (.vreneg d a) s = no 1)
    ∧ (ok → c.thr.gmask = 0 → least ≤ free.length → ∃ t, exec (.vclaim d a) s = .next t
      ∧ t.thr.gmask = groupMask (free.take want) ∧ t.thr.ngrp = min want free.length)
    ∧ (ok → c.thr.gmask ≠ 0 → least ≤ held.length + free.length → c.thr.live = true →
      (c.tenant c.thr.id.tenant).out = false → ∃ t, exec (.vreneg d a) s = .next t
      ∧ t.thr.ngrp = min want (held.length + free.length)
      ∧ t.thr.gmask = groupMask (if want ≤ held.length then held.take want else held ++ free.take (want - held.length)))
    ∧ ∃ t, exec .vrel s = .next t ∧ t.thr.gmask = 0
      ∧ (c.thr.gmask ≠ 0 → (t.cluster (clusterOf c.thr.core)).pend = false)

/-- `spawn` (R237, R257): the refusals, whose order is the model's choice (log 47), and the child: the lowest free rank
(R269), a slot of the cluster or, where none is free or a woken docket has the first claim, its loft; its registers at
creation (R44), the parent's FLTA, launch and crew, and the parent's full rights over it. `xchg` and `launch` (R265, R266): a
directed wake needs an existing rank and the right to it, and the caller goes on or waits; a launch record goes to the device
ring, or 0 comes back while 64 are outstanding. -/
def Obligations.ThreadStarts : Prop :=
  (∀ (s : State) (d a b : BitVec 5),
    let pc : Word := BitVec.ofNat 64 ((s.thr.arch.getX a).toNat % 2 ^ 57)
    let arg := s.thr.arch.getX b
    let c := s.ended Eff.none
    let tn := c.thr.id.tenant
    let cl := clusterOf c.thr.core
    let m := c.makeRoom cl 1
    let no (x : State) (k : Nat) : Out := .next (x.setReg d (BitVec.ofNat 64 (2 ^ 63 + k)))
    let born (x : State) (r : Nat) (p : Place) (k : BitVec 10) : Prop := ∃ (t : State) (u : Thread), exec (.spawn d a b) s = .next t
      ∧ u ∈ t.others ∧ u.id = ⟨tn, BitVec.ofNat 24 r⟩ ∧ u.place = p ∧ u.core = k ∧ u.run = .ready ∧ u.stopped = none
      ∧ u.arch.pc = pc ∧ u.arch.getX 10 = arg ∧ (∀ i, i ≠ 10 → u.arch.getX i = 0) ∧ u.arch.sts = 0x1000 ∧ u.arch.why = 0
      ∧ u.arch.flta = x.thr.arch.flta ∧ u.lid = x.thr.lid ∧ u.crew = x.thr.crew
      ∧ (t.tenant tn).table x.thr.id.rank
        = (x.tenant tn).table x.thr.id.rank ++ [⟨BitVec.ofNat 24 r, BitVec.ofNat 24 r, x.thr.id.rank, 0x3F⟩]
      ∧ (d ≠ 0 → t.thr.arch.getX d = BitVec.ofNat 64 (r % 2 ^ 24)) ∧ t.mem = x.mem
    pc.toNat % 8 = 0 → s.canEnd Eff.none = true →
    ((c.tenant tn).hasRoom c.thr.id.rank = false → exec (.spawn d a b) s = no c 1)
    ∧ ((c.tenant tn).hasRoom c.thr.id.rank = true →
      (c.freeRun tn 1 = none → exec (.spawn d a b) s = no c 2)
      ∧ ∀ r, c.freeRun tn 1 = some r →
        (2048 ≤ c.crewSize c.thr → exec (.spawn d a b) s = no c 3)
        ∧ (c.crewSize c.thr < 2048 →
          (∀ k n, c.resident.any (c.wantsSlot cl) = false → c.slotFor cl none = some (k, n) → born c r (.slot k n) k)
          ∧ (c.resident.any (c.wantsSlot cl) = true ∨ c.slotFor cl none = none →
            (m.2 = false → exec (.spawn d a b) s = no m.1 4) ∧ (m.2 = true → born m.1 r .loft c.thr.core)))))
  ∧ (∀ (s : State) (d a b : BitVec 5) (u : Thread) (pa pa2 : Nat),
    let c := s.ended Eff.none
    let tn := c.thr.id.tenant
    let rank := (s.thr.arch.getX a).setWidth 24
    let o := s.thr.arch.getX b
    let n := o.extractLsb' 0 2
    let refuse (k : Nat) : Word := BitVec.ofNat 64 (2 ^ 63 + k)
    let p := c.sendPoke u n
    let may := ((c.tenant tn).rights c.thr.id.rank rank).getLsbD 4
    let va : Nat := (s.thr.arch.getX a).toNat % 2 ^ 57
    let e : Eff := { Eff.none with pages := [va / 4096] }
    let f := s.ended e
    let k := f.queue (f.queueOf f.thr)
    let tail := (f.readN k.note 8).extractLsb' 32 32
    let f1 := f.combineAll (some f.thr.id) [lineOf pa, lineOf (pa + 64)]
    let ws := (List.range 16).map (fun i =>
      let w := f1.readN (pa + 8 * i) 8
      if i = 4 then (w &&& ~~~0xF#64) ||| f.thr.id.tenant.setWidth 64 else w)
    (s.canEnd Eff.none = true →
      (c.find ⟨tn, rank⟩ = none → exec (.xchg d a b) s = .next (c.setReg d (refuse 1)))
      ∧ (c.find ⟨tn, rank⟩ ≠ none → may = false → exec (.xchg d a b) s = .next (c.setReg d (refuse 2)))
      ∧ (c.find ⟨tn, rank⟩ = some u → may = true →
        (o.getLsbD 8 = false → exec (.xchg d a b) s = .next (p.setReg d 0))
        ∧ (o.getLsbD 8 = true → p.thr.arms ≠ [] ∨ p.thr.latch = 0 →
          exec (.xchg d a b) s = .next { p with thr := p.thr.park p.cyc (.xchg d) })
        ∧ (o.getLsbD 8 = true → p.thr.arms = [] → p.thr.latch ≠ 0 →
          exec (.xchg d a b) s = .next { p with thr := p.thr.waitReturn p.cyc p.thr.fireCode d })
        ∧ ((∀ x, u.place ≠ .moving x) → p.net.wakes = c.net.wakes ++ [⟨⟨tn, rank⟩, 1⟩]
          ∧ ∀ v, p.find ⟨tn, rank⟩ = some v → v.latch = u.latch ||| (1#4 <<< n.toNat))
        ∧ (∀ x, u.place = .moving x → p = { c with net := { c.net with pokes := c.net.pokes ++ [(⟨tn, rank⟩, n)] } })))
    ∧ (va % 128 = 0 → s.readAt va 64 = .ok pa → s.readAt (va + 64) 64 = .ok pa2 → s.canEnd e = true →
      (64 ≤ (tail - BitVec.ofNat 32 k.devHead).toNat → exec (.launch d a) s = .next (f.setReg d 0))
      ∧ ((tail - BitVec.ofNat 32 k.devHead).toNat < 64 → exec (.launch d a) s = .next (
        ((f1.writeEvent none false (cellsFrom (k.devRing + 128 * (tail.toNat % 64)) (wordsBytes ws))).writeEvent none false
          (cellsOf (k.note + 4) 4 ((tail + 1).setWidth 64))).setReg d ((tail + 1).setWidth 64)))))

/-- `bar`, `dmem` and `dbar` (R259 to R261): a barrier arrival is asked for with the word's address and N; a membership is
refused with a code of its table or joins its domain, at the end of its members and with its N for the arrivals; a `dbar`
without a domain answers 4, with a bad operand 5, and else asks for its arrival. THE MODEL'S CHOICES: the order of the faults
of `bar` (log 32), of the rows of `dmem` and of the codes of `dbar` (log 48), and that a domain joined anew counts its phases
from 0 (log 112). -/
def Obligations.BarriersAndDomains : Prop :=
  ∀ (s : State) (d a b : BitVec 5) (pa : Nat),
    let va : Nat := (s.thr.arch.getX a).toNat % 2 ^ 57
    let v := s.thr.arch.getX b
    let m := s.thr.arch.getX a
    let e : Eff := { Eff.none with pages := [va / 4096] }
    let u := s.ended e
    let c := s.ended Eff.none
    let dom := (c.tenant c.thr.id.tenant).domainIn c.thr.id.rank (m.extractLsb' 0 2)
    (va % 8 = 0 → s.xlate .write va = .ok pa → (∃ pr, s.xlate .read va = .ok pr) → isIo pa = false → isFab pa = false → s.canEnd e = true →
      exec (.bar d a b) s = .next { u with thr := { u.thr with
        post := some (.bar d va pa (v.setWidth 32) (v.toNat / 2 ^ 32) s.thr.arch.pc) } })
    ∧ (s.canEnd Eff.none = true →
      (∃ t, exec (.dmem d a) s = .next t ∧ (memberOk m = false → t = c.setReg d 1)
        ∧ (memberOk m = true → c.thr.domainKind m = none → t = (c.leaveDomains c.thr.id (some (m.extractLsb' 59 2))).setReg d 0)
        ∧ ∀ k, memberOk m = true → c.thr.domainKind m = some k →
          (c.rectOk c.thr k = false → t = c.setReg d 2)
          ∧ (c.rectOk c.thr k = true → c.rectTaken c.thr k = true → t = c.setReg d 3)
          ∧ (c.rectOk c.thr k = true → c.rectTaken c.thr k = false →
            let tn := c.thr.id.tenant
            let q := c.tenant tn
            let sl : BitVec 2 := m.extractLsb' 59 2
            let known := q.domains.any (fun x => x.kind == k)
            let full := known = false ∧ (∀ c0 r0 wm hm, k ≠ .rect c0 r0 wm hm)
              ∧ 1024 ≤ (q.domains.filter (fun x => match x.kind with | .rect _ _ _ _ => false | _ => true)).length
            let l := if known then q.domains else q.domains ++ [⟨k, [], 0, [], 0, [], [], false, 0⟩]
            ((q.domainIn c.thr.id.rank sl).isSome = true → t = c.setReg d 4)
            ∧ ((q.domainIn c.thr.id.rank sl).isSome = false →
              (full → t = c.setReg d 5)
              ∧ (¬ full → t = ((c.setTenant tn { q with domains := l.map (fun x =>
                if x.kind = k then { x with
                  members := x.members ++ [⟨c.thr.id.rank, sl, false, false⟩]
                  ns := x.ns.filter (fun p => p.1 != c.thr.id.rank) ++ [(c.thr.id.rank, (m.extractLsb' 20 23).toNat)] }
                else x) }).crierRestart tn k).setReg d 0))))
      ∧ (m.extractLsb' 2 30 ≠ 0 →
        exec (.dbar d a) s = .next (c.setReg d (BitVec.ofNat 64 (((dom.map Domain.phases).getD 0) % 2 ^ 32 * 2 ^ 32 + 5))))
      ∧ (m.extractLsb' 2 30 = 0 → dom = none → exec (.dbar d a) s = .next (c.setReg d 4))
      ∧ (m.extractLsb' 2 30 = 0 → dom ≠ none → exec (.dbar d a) s = .next { c with thr := { c.thr with
        post := some (.dbar d (m.extractLsb' 0 2) (m.toNat / 2 ^ 32)) } }))

/-- The thread-state and indenture instructions (R275 to R284): the chunk commits and the caller parks; the checks at the
caller, in their order, answer with a refusal, and else the request leaves for its target. `igrant` (R282): the request is
read in the chunk; after the commit a bad request is refused with 5, an unknown table with 1, rights that the caller does
not hold over every rank, GRANT among them, with 2; else the entry leaves for the table. -/
def Obligations.ThreadStateRequests : Prop :=
  (∀ (s : State) (d a b : BitVec 5) (it : BitVec 6),
    let v := s.thr.arch.getX a
    let c := s.ended Eff.none
    let me := c.thr.id
    let r : BitVec 24 := v.setWidth 24
    let wait (t : State) : State := { t with thr := t.thr.park t.cyc .result }
    let answer (w : Word) : State := wait { c with net := { c.net with results := c.net.results ++ [⟨me, d, w, false⟩] } }
    let ask (x : TAct) : State := wait { c with net := { c.net with reqs := c.net.reqs ++ [⟨me, d, r, x⟩] } }
    let no (k : Nat) : State := answer (BitVec.ofNat 64 (2 ^ 63 + k))
    s.canEnd Eff.none = true →
    (∀ p ∈ ([(.tstop d a, 0, .stop), (.tstart d a, 1, .start), (.trds d a it, 2, .read it),
        (.twrs d a b it, 3, .write it (s.thr.arch.getX b))] : List (Instr × Nat × TAct)),
      (v.toNat / 2 ^ 24 ≠ 0 → exec p.1 s = .next (no 6))
      ∧ (v.toNat / 2 ^ 24 = 0 → c.find ⟨me.tenant, r⟩ = none → exec p.1 s = .next (no 1))
      ∧ (v.toNat / 2 ^ 24 = 0 → c.find ⟨me.tenant, r⟩ ≠ none →
        exec p.1 s = .next (if ((c.tenant me.tenant).rights me.rank r).getLsbD p.2.1 then ask p.2.2 else no 2)))
    ∧ exec (.iquery d a) s = .next (answer (c.queryWord v))
    ∧ ((v.extractLsb' 24 8 ≠ 0 ∨ v.extractLsb' 44 20 ≠ 0) → exec (.irevoke d a) s = .next (no 5))
    ∧ (v.extractLsb' 24 8 = 0 → v.extractLsb' 44 20 = 0 →
      exec (.irevoke d a) s = .next (if (c.find ⟨me.tenant, r⟩).isNone then no 1 else ask (.revoke (v.extractLsb' 32 12).toNat))))
  ∧ (∀ (s : State) (d a : BitVec 5) (pa : Nat),
    let va : Nat := (s.thr.arch.getX a).toNat % 2 ^ 57
    let s1 := s.combined [pa]
    let w (i : Nat) : Word := s1.chunkN (pa + 8 * i) 8
    let e : Eff := { Eff.none with reads := [lineOf pa], pages := [va / 4096] }
    let c := s.ended e
    let me := c.thr.id
    let g : BitVec 24 := (w 0).setWidth 24
    let lo : BitVec 24 := (w 1).setWidth 24
    let hi : BitVec 24 := (w 1).extractLsb' 24 24
    let rights : BitVec 6 := (w 2).setWidth 6
    let bad := (w 0).toNat / 2 ^ 24 ≠ 0 ∨ (w 1).toNat / 2 ^ 48 ≠ 0 ∨ (w 2).toNat / 2 ^ 6 ≠ 0 ∨ w 3 ≠ 0 ∨ hi.toNat < lo.toNat ∨ rights = 0
    let wait (t : State) : State := { t with thr := t.thr.park t.cyc .result }
    let no (k : Nat) : Out :=
      .next (wait { c with net := { c.net with results := c.net.results ++ [⟨me, d, BitVec.ofNat 64 (2 ^ 63 + k), false⟩] } })
    va % 32 = 0 → s.readAt va 32 = .ok pa → s.canEnd e = true →
    (bad → exec (.igrant d a) s = no 5)
    ∧ (¬ bad → c.find ⟨me.tenant, g⟩ = none → exec (.igrant d a) s = no 1)
    ∧ (¬ bad → c.find ⟨me.tenant, g⟩ ≠ none →
      ((∃ q : BitVec 24, lo.toNat ≤ q.toNat ∧ q.toNat ≤ hi.toNat ∧
        (c.tenant me.tenant).rights me.rank q &&& (rights ||| 0x20) ≠ rights ||| 0x20) → exec (.igrant d a) s = no 2)
      ∧ ((∀ q : BitVec 24, lo.toNat ≤ q.toNat → q.toNat ≤ hi.toNat →
        (c.tenant me.tenant).rights me.rank q &&& (rights ||| 0x20) = rights ||| 0x20) →
        exec (.igrant d a) s = .next (wait { c with net := { c.net with reqs := c.net.reqs ++
          [⟨me, d, g, .grant ⟨lo, hi, me.rank, rights⟩⟩] } }))))

/-! ## Device events -/

/-- The events of a chunk (R155, R158, R162, R163): the commit, a hold and a lease on the next line in ascending address, the
expiry of a lease, and the fall through to the first `xend`. That a region without an `xend` faults with the PC at which it
starts is the model's choice (log 37). -/
def Obligations.ChunkEvents : Prop :=
  ∀ (s : State) (o : Solo) (r : XRegion) (l c : Nat) (pc : Word), s.running = true →
    (s.thr.chunk.ended = true → s.mayCommit = true → exec (.chunkCommit s.thr.id) s = .next s.commitNow)
    ∧ (s.thr.chunk.ended = true → s.mayCommit = false → s.thr.chunk.conflict = true → exec (.chunkCommit s.thr.id) s = .next s.squashConflict)
    ∧ (s.thr.solo = some o → 2 ≤ o.others → o.want.find? (fun k => !o.held.contains k) = some l →
      s.blocked (some s.thr.id) l = false →
      exec .heldChunk s = .next { s with thr := { s.thr with solo := some { o with held := o.held ++ [l] } } })
    ∧ (s.thr.region = some r → r.failed = none → r.attempt = 3 → r.touched.find? (fun k => !r.leases.contains k) = some l →
      s.blocked (some s.thr.id) l = false →
      exec .leaseAcquire s = .next { s with thr := { s.thr with region := some { r with
        leases := r.leases ++ [l], leaseFrom := some (r.leaseFrom.getD s.cyc) } } })
    ∧ (s.thr.region = some r → r.failed = none → r.leaseFrom = some c →
      ∃ t, exec .leaseExpiry s = .next t ∧ t.cyc = max s.cyc (c + (s.tenant s.thr.id.tenant).leasemax)
        ∧ t.thr.region = some { r with leases := [], leaseFrom := none, failed := some (5, 0) }
        ∧ t.thr.arch = s.thr.chunk.start ∧ t.thr.chunk = Chunk.fresh s.thr.chunk.start ∧ t.mem = s.mem)
    ∧ (s.thr.region = some r → r.failed.isSome = true → r.scanned = false →
      (s.scanXend 4096 s.thr.chunk.start.pc = .ok (some pc) →
        exec .fallThrough s = .next { s with thr := { s.thr with
          arch := { s.thr.arch with pc := pc }, region := some { r with scanned := true } } })
      ∧ (s.scanXend 4096 s.thr.chunk.start.pc = .ok none →
        exec .fallThrough s = .next (s.raise ⟨0x10, 0, 0, 0, 0, none⟩)))

/-- Drays (R167, R168, R170): a dray departs DAGE cycles after its first element; its packet's elements are applied one by one
in their order, behind the posted atomics of their threads on their lines, each as one write event or, through the home's write
queue, one read-modify-write event, or they fault there;
a packet of a tenant that the cluster does not belong to is dropped and counted (R287), one for another module leaves for it;
the acknowledgement ends the packet. The home performs an atomic in one event (R174, R191 to R193): the line is combined, the
old value read, the new one written unless a compare failed, and xD takes the old value; a poisoned line raises the poison
fault after the commit, and one that finds its region draining parks its thread (R309). A partial line that leaves its core
goes to the home, tagged with the core, and changes no byte of memory (R176). -/
def Obligations.DrayEvents : Prop :=
  (∀ (s : State) (cl k m : BitVec 7) (n : Nat) (d : Dray) (p : Packet) (e : Elem) (c : BitVec 8) (f : BitVec 8 × Nat),
    ((s.cluster cl).drays[n]? = some d → ∃ t, exec (.drayAgeExpiry cl n) s = .next t
      ∧ t.cyc = max s.cyc (d.since + (s.tenant d.tn).dage)
      ∧ (t.cluster cl).drays = (s.cluster cl).drays.filter (fun q => q ≠ d)
      ∧ (∃ q, t.net.packets = s.net.packets ++ q ∧ q.length = ((s.cluster cl).drays.filter (fun y => y = d)).length ∧ ∀ x ∈ q, x.elems = d.elems ∧ x.dest = d.dest ∧ x.pos = 0 ∧ x.tn = d.tn)
      ∧ t.mem = s.mem)
    ∧ (s.net.packets[n]? = some p →
      (s.net.packets.take n).all (fun q => q.tn != p.tn || q.src != p.src || q.dest != p.dest) = true →
      let q : Packet := { p with pos := p.pos + 1 }
      let s1 : State := if p.pos + 1 < p.elems.length then { s with net := { s.net with packets := s.net.packets.set n q } }
        else { s with net := { s.net with packets := ldrop s.net.packets n, acks := s.net.acks ++ [q] } }
      let free (x : Elem) : Prop := ∀ a ∈ s.net.amops ++ s.net.awayAmops, a.id = x.tid → lineOf a.pa = lineOf x.pa → x.behind ≤ a.seq
      (p.dest = .cluster k → p.elems[p.pos]? = some e → s.granted none e.pa = true → free e →
        (s.foreign p k = true → exec (.drayPacketApply n) s = .next (s.dropPacket n))
        ∧ (s.foreign p k = false →
          (s.homeFault e.tid.tenant e.pa = none →
            (p.pos + 1 < p.elems.length ∨ p.bad = [] → e.op = .set →
              exec (.drayPacketApply n) s = .next (s1.writeEvent none false (cellsOf e.pa e.size e.val)))
            ∧ (∀ o, e.op = .op o →
              let z : AmoSize := if e.size = 8 then .d else .w
              let j := s.net.amops.length + n
              let g := s.merged p.tn o z e.pa j e.val
              let w := (({ s with free := s.free + s.mergeDraws } : State).takeMerged g.1).combineLine none (lineOf e.pa)
              exec (.drayPacketApply n) s = .next (w.writeEvent none false
                (cellsOf e.pa (amoBytes z) (amoNew o z (w.readN e.pa (amoBytes z)) g.2)))
              ∧ (o ≠ .fadd → g = ([j], e.val))))
          ∧ (s.homeFault e.tid.tenant e.pa = some f → p.pos + 1 < p.elems.length →
            exec (.drayPacketApply n) s = .next { s with net := { s.net with
              packets := s.net.packets.set n { q with bad := p.bad ++ [(p.pos, f.1, f.2)] } } })))
      ∧ (p.dest = .remote c m → s.carries c = true → (∀ x ∈ p.elems, free x) → exec (.drayPacketApply n) s = .next { s with
          net := { s.net with packets := ldrop s.net.packets n, away := s.net.away ++ [p] }
          hub := { s.hub with out := s.hub.out ++ [OutMsg.fabPacket p] } }))
    ∧ exec (.drayAcknowledgement (.here n)) s = .next { s with net := { s.net with acks := ldrop s.net.acks n } }
    ∧ (s.net.away[n]? = some p → p.dest.linked s = true →
      exec (.drayAcknowledgement (.far n [])) s = .next { s with net := { s.net with away := ldrop s.net.away n } }))
  ∧ (∀ (s : State) (id : ThreadId) (u : Thread) (op : AmoOp) (z : AmoSize) (d : BitVec 5) (va pa : Nat) (v x pc : Word) (n : Nat)
    (a : Amop) (cause : BitVec 16),
    let back (s1 : State) (fp : Bool) (old : Word) : State := s1.upd id (Thread.between (fun r => r.setX d (amoOld z fp old)))
    let s1 := (s.posted id).combineLine (some id) (lineOf pa)
    let old := s1.readN pa (amoBytes z)
    let put (w : Word) : State := s1.writeEvent (some id) false (cellsOf pa (amoBytes z) w)
    (s.find id = some u → u.run = .ready → isFab pa = false → s.blocked (some id) (lineOf pa) = false →
      (s.draining pa = false → (s.posted id).homePoison id.tenant pa = none →
        (u.post = some (.amo op z d va pa v pc) →
          exec (.amoPerform id) s = .next (back (put (amoNew op z old v)) (op == .fadd) old))
        ∧ (u.post = some (.cas z d va pa x v pc) →
          exec (.amoPerform id) s = .next (back (if old = x then put v else s1) false old)))
      ∧ (s.draining pa = false → (s.posted id).homePoison id.tenant pa = some cause →
        u.post = some (.amo op z d va pa v pc) ∨ u.post = some (.cas z d va pa x v pc) →
        exec (.amoPerform id) s = .next ((s.posted id).faultAfter id 1 pc ⟨0x05, cause.toNat, addrWord va, 0, 0, none⟩))
      ∧ (s.draining pa = true → u.post = some (.amo op z d va pa v pc) ∨ u.post = some (.cas z d va pa x v pc) →
        exec (.amoPerform id) s = .next (s.upd id (Thread.park s.cyc (.drain (regionOf pa))))))
    ∧ (s.net.amops[n]? = some a → s.canAmop n = true → isFab a.pa = false → s.homeFault a.id.tenant a.pa = none →
      let g := s.merged a.id.tenant a.op a.z a.pa n a.val
      let w := (({ s with free := s.free + s.mergeDraws } : State).takeMerged g.1).combineLine (some a.id) (lineOf a.pa)
      exec (.amopPerform (.here n)) s = .next (w.writeEvent (some a.id) false
        (cellsOf a.pa (amoBytes a.z) (amoNew a.op a.z (w.readN a.pa (amoBytes a.z)) g.2)))
      ∧ (a.op ≠ .fadd → g = ([n], a.val)))
    ∧ (s.net.awayAmops[n]? = some a → s.carries (farModuleOf a.pa) = true → exec (.amopPerform (.far n [])) s =
      .next { s with net := { s.net with awayAmops := ldrop s.net.awayAmops n } }))
  ∧ (∀ (s : State) (c : BitVec 10) (line : Nat), ∃ t, exec (.partialEviction c line) s = .next t
    ∧ t.mem = s.mem ∧ t.poison = s.poison ∧ t.threads = s.threads ∧ t.partials.length = s.partials.length
    ∧ (∀ p ∈ t.partials, p.core = c → lineOf p.pa = line → p.atHome = true)
    ∧ t.partials.map (fun p => (p.pa, p.core, p.fmt, p.val)) = s.partials.map (fun p => (p.pa, p.core, p.fmt, p.val)))

/-- What brings a parked thread on (R172, R227, R229 to R231, R253, R353): a fence that has nothing left to wait for, the
arming of a watch with its acknowledgement, a wake, a re-check and a time-out; WHY and the registers that each writes. THE
MODEL'S CHOICES: what arming a watch on a poisoned line does (log 49), and which of several codes a wait returns (log 110). -/
def Obligations.WakeEvents : Prop :=
  ∀ (s : State) (id : ThreadId) (t : Thread) (d e a : Bool) (c : Nat) (r : BitVec 5) (n : BitVec 2) (w : Watch) (k : Nat)
    (m : Wake), s.find id = some t →
    let why (code : Nat) (q : BitVec 4) : BitVec 13 := BitVec.ofBool t.degraded ++ q ++ BitVec.ofNat 8 code
    let back (code : Nat) (t' : Thread) : Prop :=
      t'.run = .ready ∧ t'.arch.why = why code t.latch ∧ t'.latch = 0 ∧ t'.took = 0 ∧ t'.lost = false
        ∧ t'.arch = { t.arch.setX r ((why code t.latch).setWidth 64) with why := why code t.latch }
    (t.stopped = none → (∀ x, t.place ≠ .moving x) → t.run = .parked (.fence d e a) → s.fenceDone id d e a = true →
      exec (.fenceRelease id) s = .next (s.upd id (fun t => { t.between (fun x => { x with why := 7 }) with
        run := .ready, waits := 0, woken := match t.place with | .slot _ _ => none | _ => some (t.woken.getD s.cyc) })))
    ∧ (t.arms.head? = some (n, w) → s.granted (some id) w.pa = true → ∃ (u : State) (lit : Bool) (y : Thread),
      let v := u.upd id (fun t => { t with
        watches := qput t.watches n (some w)
        latch := (t.latch &&& ~~~(1#4 <<< n.toNat)) ||| (if lit then 1#4 <<< n.toNat else 0)
        took := t.took &&& ~~~(1#4 <<< n.toNat)
        arms := t.arms.erase (n, w) })
      v.find id = some y
      ∧ exec (.watchArmEvent id) s = .next { v with net := { v.net with wakes := v.net.wakes ++
        (if y.arms = [] ∧ y.inWait = true ∧ y.stopped = none ∧ (y.latch ≠ 0 ∨ y.lost = true) then [⟨id, if y.lost then 12 else 1⟩]
          else []) } }
      ∧ u = s.combineLine (some id) (lineOf w.pa)
      ∧ (w.cond = .any → lit = false) ∧ (w.cond = .eq → u.poisonOf w.pa = none → lit = (u.readN w.pa 8 == w.val))
      ∧ (w.cond = .ne → u.poisonOf w.pa = none → lit = (u.readN w.pa 8 != w.val))
      ∧ (w.cond = .geu → u.poisonOf w.pa = none → lit = decide (w.val.toNat ≤ (u.readN w.pa 8).toNat))
      ∧ (u.poisonOf w.pa ≠ none → lit = false))
    ∧ (s.net.wakes[k]? = some m → m.id = id → (∀ x, t.place ≠ .moving x) →
      let s1 : State := { s with net := { s.net with wakes := ldrop s.net.wakes k } }
      (t.stopped.isSome = true → exec (.wakeDelivery k) s = .next s1)
      ∧ (t.stopped = none → t.run = .parked (.wait r none) ∨ t.run = .parked (.xchg r) → t.arms = [] →
        (m.code = 1 ∨ m.code = 10) ∧ t.latch ≠ 0 ∨ m.code = 12 ∧ t.lost = true →
        ∃ f : Thread → Thread, exec (.wakeDelivery k) s = .next (s1.upd id f) ∧ back t.fireCode (f t)))
    ∧ (qat t.watches n = some w → w.again = true → w.cond ≠ .any →
      let s1 : State := { s with free := s.free + 1 }
      (s.armedTrue w = false → exec (.hostWatchRecheck id n) s = .next s1)
      ∧ (s.armedTrue w = true → ∃ f : Thread → Thread, exec (.hostWatchRecheck id n) s =
          .next { s1.upd id f with net := { s.net with wakes := s.net.wakes ++ [⟨id, 1⟩] } }
        ∧ (f t).latch = t.latch ||| (1#4 <<< n.toNat) ∧ qat (f t).watches n = some { w with again := false } ∧ (f t).arch = t.arch))
    ∧ (t.lost = true → t.fireCode = 12) ∧ (t.lost = false → t.latch &&& t.took ≠ 0 → t.fireCode = 10)
    ∧ (t.lost = false → t.latch &&& t.took = 0 → t.fireCode = 1)
    ∧ (t.live = true → t.stopped = none → t.arms = [] → t.run = .parked (.wait r (some c)) →
      ∃ f : Thread → Thread, exec (.waitTimeout id) s = .next ({ s with cyc := max s.cyc c }.upd id f)
        ∧ back (if t.latch = 0 ∧ t.lost = false then 2 else t.fireCode) (f t))

/-- The events that a queue or a barrier instruction asks for (R206, R208, R259): the reservation takes the next number of its
side and checks its stamp; the stamp write publishes; an arrival is counted, and the last one advances PHASE; a time-out
withdraws the arrival, or finds PHASE changed. Poison found at the home is recorded and does not stop the thread (R181, R301):
that its record has ORIGIN 1 and this PC is the model's choice (log 111). -/
def Obligations.QueueAndBarrierEvents : Prop :=
  ∀ (s : State) (id : ThreadId) (t : Thread) (q : BitVec 3) (prod : Bool) (pa va : Nat) (v : Word) (d : BitVec 5)
    (n : BitVec 32) (tout c : Nat) (p : BitVec 32) (pc : Word), s.find id = some t → s.granted (some id) pa = true →
    let s1 := s.posted id
    let h := t.handle q
    let role : QRole := if prod then .producer else .consumer
    let l := s1.combineLine (some id) (lineOf pa)
    let at' := pa + if prod then 24 else 32
    let r1 := s1.combineLine (some id) (lineOf at')
    let old := r1.readN at' 8
    let w := l.readN pa 8
    let ph : BitVec 32 := w.extractLsb' 32 32
    let cnt : BitVec 32 := w.extractLsb' 0 32
    let u := ({ s with cyc := max s.cyc c } : State).combineLine (some id) (lineOf pa)
    let uw := u.readN pa 8
    let bad (e : BitVec 16) (pc : Word) (a : Nat) : State := s1.homeRecord id pc ⟨0x05, e.toNat, addrWord a, 0, 0, none⟩
    (t.post = some (.reserve q prod) → s.translate id.tenant t.core .write h.line = .ok pa →
      (s.homePoison id.tenant pa = none →
        exec (.queueReservation id) s = .next (((r1.writeEvent (some id) false (cellsOf at' 8 (old + 1))).upd id
          (fun t => t.setHandle q { h with role := role, r := old })).stampCheck id q none))
      ∧ (∀ e, s.homePoison id.tenant pa = some e → exec (.queueReservation id) s = .next (bad e (prevPc t.arch.pc) h.line)))
    ∧ (t.post = some (.stamp q va pa v) →
      (s1.homePoison id.tenant pa = none → exec (.stampWrite id) s = .next (s1.writeEvent (some id) false (cellsOf pa 8 v)))
      ∧ (∀ e, s1.homePoison id.tenant pa = some e → exec (.stampWrite id) s = .next (bad e (prevPc t.arch.pc) va)))
    ∧ (∀ e, t.post = some (.bar d va pa n tout pc) → s1.homePoison id.tenant pa = some e →
      exec (.barArrival id) s = .next (bad e pc va))
    ∧ (t.post = some (.bar d va pa n tout pc) → s1.homePoison id.tenant pa = none →
      (n.toNat ≤ cnt.toNat + 1 → exec (.barArrival id) s =
        .next ((l.writeEvent (some id) false (cellsOf pa 8 ((ph + 1) ++ 0#32))).upd id
          (fun t => t.between (fun a => a.setX d (1#2 ++ 0#30 ++ ph)))))
      ∧ (cnt.toNat + 1 < n.toNat → exec (.barArrival id) s =
        .next ((l.writeEvent (some id) false (cellsOf pa 8 (ph ++ (cnt + 1)))).upd id
          (fun t => t.park s.cyc (.bar d va pa ph (if tout = 0 then none else some (s.cyc + tout)) pc)))))
    ∧ (t.live = true → t.stopped = none → t.run = .parked (.bar d va pa p (some c) pc) → u.poisonOf pa = none →
      (uw.extractLsb' 32 32 ≠ p → exec (.barTimeout id) s =
        .next (u.upd id (fun t => t.readyCode u.cyc 4 (fun a => a.setX d (0#2 ++ 0#30 ++ p)))))
      ∧ (uw.extractLsb' 32 32 = p → uw.extractLsb' 0 32 = 0#32 → exec (.barTimeout id) s =
        .next (u.upd id (fun t => t.endWait u.cyc d (2#2 ++ 0#30 ++ p) 2)))
      ∧ (uw.extractLsb' 32 32 = p → uw.extractLsb' 0 32 ≠ 0#32 → exec (.barTimeout id) s =
        .next ((u.writeEvent (some id) false (cellsOf pa 8 (p ++ (uw.extractLsb' 0 32 - 1)))).upd id
          (fun t => t.endWait u.cyc d (2#2 ++ 0#30 ++ p) 2))))

/-- Where a thread is held (R223, R234, R237, R238, R243, R314, R364): rule 1 serves the oldest of the threads that have waited
4,096 cycles; a thread is packed into its loft where there is room, into the position that is reserved for it when it waits in
`pwait`, with its first 16 live registers (that a thread which has halted keeps every register is log 113); a woken docket takes
a slot; a command of the weighmaster packs threads of its source core and sends their dockets to its destination, and one that
leaves the cluster, has one core for both or names a failed core does nothing; a move ends in the loft, and a thread that left a
failed core takes a slot that no woken docket waits for or is woken in the save area. -/
def Obligations.PlacementEvents : Prop :=
  ∀ (s : State) (id : ThreadId) (t : Thread) (c : BitVec 10) (k : BitVec 10) (n : BitVec 8) (m : MoveCmd),
    s.find id = some t →
    let written (u : State) : State := u.winWritten (winPa id.tenant (rankVa + 8 * id.rank.toNat)) 8
    let fits (u : State) : Prop := u.docketSize t - (if t.takesSpot then 1 else 0) ≤ u.loftFree (clusterOf t.core)
    let packed (w : State) (d : BitVec 10) : State := written (w.upd id (fun u => { u with
      arch := u.docketArch, chunk := Chunk.fresh u.docketArch, place := .loft, core := d, age := w.cyc, yielded := false, waits := 0
      spot := if t.takesSpot then .used else t.spot }))
    let s2 : State := { s with
      cyc := max s.cyc (s.hub.weighAt + 4096), hub := { s.hub with weighAt := max s.cyc (s.hub.weighAt + 4096) } }
    (oldestOf c (s.starved c) = some t → exec (.starvationLimit c) s = .next (s.focus id))
    ∧ (s.canPack t = true → fits s →
      exec (.packComplete id) s = .next (packed s t.core)
      ∧ (t.run ≠ .retained ∨ 16 < t.arch.liveRegs.length →
        ∀ r : BitVec 5, t.docketArch.getX r = if r.toNat ∈ t.arch.liveRegs.take 16 then t.arch.getX r else 0)
      ∧ (t.run = .retained → t.arch.liveRegs.length ≤ 16 → ∀ r : BitVec 5, t.docketArch.getX r = t.arch.getX r))
    ∧ (s.canResume t = true → s.slotFor (clusterOf t.core) (some t.core) = some (k, n) →
      exec (.docketResume id) s = .next (written ((s.refusedReturn t).upd id (fun t =>
        { t with place := .slot k n, core := k, woken := none, age := s.cyc, waits := 0, spot := t.spotLeft })))
      ∧ (t.place = .loft → s.refusedReturn t = s))
    ∧ exec (.weighmasterSample []) s = .next s2
    ∧ (clusterOf m.src ≠ clusterOf m.dst ∨ m.src = m.dst ∨ s.coreOk m.dst = false → exec (.weighmasterSample [m]) s = .next s2)
    ∧ (clusterOf m.src = clusterOf m.dst → m.src ≠ m.dst → s.coreOk m.dst = true →
      (s2.movable m.src = [] → exec (.weighmasterSample [m]) s = .next s2)
      ∧ ((s2.movable m.src).take m.count = [t] → fits s2 → exec (.weighmasterSample [m]) s =
        .next (written ((packed s2 m.dst).upd id (fun u => { u with place := .moving m.dst })))))
    ∧ (t.place = .moving t.core → exec (.moveComplete id) s = .next (written (s.upd id (fun t => { t with place := .loft }))))
    ∧ (t.place = .moving c → t.core ≠ c →
      let wanted := s.resident.any (s.wantsSlot (clusterOf t.core))
      (wanted = false → s.slotFor (clusterOf t.core) (some c) = some (k, n) → exec (.moveComplete id) s =
        .next (written (s.upd id (fun t => { t with place := .slot k n, core := k, age := s.cyc }))))
      ∧ (wanted = true ∨ s.slotFor (clusterOf t.core) (some c) = none → exec (.moveComplete id) s =
        .next (written (s.upd id (fun t => { t with place := .save, core := c, woken := some s.cyc })))))

/-- A queue's factor thread (R240, R324, R326): it takes the next published record, reads its 128 bytes and counts it in QHEAD,
and then accepts it or refuses it with the code of its first failed check, writing the status word either way. A status write
that has to wait holds it up. A service request that starts a region's drain is done when the drain is over (R308, R327). -/
def Obligations.FactorThread : Prop :=
  ∀ (s : State) (q : BitVec 6) (dev : Bool) (n : Nat) (rest : List (Bool × Nat)) (r : List Word),
    let k := s.queue q
    let a := k.recordAt dev
    let c := s.launchCode q dev r
    let s1 := s.combineAll none [lineOf a, lineOf (a + 64)]
    let idle := s.setQueue q { k with st := .idle }
    let st := (r.getD 5 0) &&& 0x01FFFFFFFFFFFFF8#64
    let entry := (r.getD 0 0) &&& 0x01FFFFFFFFFFFFF8#64
    let answer (u : State) (v : Word) : State := u.writeStatus q st v
      ((r.getD 6 0).getLsbD 15) ((r.getD 6 0).extractLsb' 0 6).toNat
    let done (u : State) : State := answer (u.setQueue q { u.queue q with st := .idle }) (BitVec.ofNat 64 (3 * 2 ^ 62))
    (s.hub.stage = 6 → k.valid = true → k.lost = false → k.st = .idle → k.todo = (dev, n) :: rest →
      exec (.notifyWrite q) s = .next (s.setQueue q { k with st := .reading dev }))
    ∧ (k.st = .reading dev → s.draining a = false → ∃ (t : State) (ws : List Word), exec (.launchRecordRead q) s = .next t
      ∧ (t.queue q).st = .validating dev ws ∧ ws.length = 16 ∧ t.mem = s1.mem
      ∧ (t.queue q).qhead = (if dev then (s1.queue q).qhead else ((s1.queue q).qhead + 1) % 2 ^ 32)
      ∧ (∀ i < 16, (∀ j < 8, s1.poisonOf (a + 8 * i + j) = none) → ws[i]? = some (s1.readN (a + 8 * i) 8)))
    ∧ (k.st = .validating dev r → s.statusHeld q st = true → exec (.launchValidated q) s = .next (s.statusAsk q st))
    ∧ (k.st = .validating dev r → s.statusHeld q st = false →
      (c ≠ 0 → c ≠ 5 → exec (.launchValidated q) s = .next (answer idle (BitVec.ofNat 64 (c % 256))))
      ∧ (c = 5 → s.pageMissing k.owner (s.baseCore k.owner) .fetch entry.toNat = none →
        let u := idle.forget k.owner (idle.baseCore k.owner) entry.toNat
        exec (.launchValidated q) s = .next (answer (u.setQueue q { u.queue q with st := .idle }) 5))
      ∧ (c = 5 → (s.pageMissing k.owner (s.baseCore k.owner) .fetch entry.toNat).isSome = true →
        exec (.launchValidated q) s = .next (s.askAddr k.owner (s.baseCore k.owner) .fetch entry.toNat))
      ∧ (c = 0 → recType r = 0 → exec (.launchValidated q) s = .next (idle.acceptLaunch q r))
      ∧ (∀ u u' : State, c = 0 → recType r = 1 → s.serve k.head (recFunc r) (recOpers r) = (some (u, true), u') →
        (recFunc r ≠ 3 → recFunc r ≠ 4 → exec (.launchValidated q) s = .next (done u))
        ∧ (∀ g, recFunc r = 3 ∧ g = (recOpers r).o4.toNat / 65536 ∨ recFunc r = 4 ∧ g = (recOpers r).o0.toNat / 65536 →
          exec (.launchValidated q) s = .next (u.setQueue q { u.queue q with st := .draining r g })))
      ∧ (∀ u u' : State, c = 0 → recType r = 1 → s.serve k.head (recFunc r) (recOpers r) = (some (u, false), u') →
        exec (.launchValidated q) s = .next (answer (u.setQueue q { u.queue q with st := .idle }) 9))
      ∧ (∀ u', c = 0 → recType r = 1 → s.serve k.head (recFunc r) (recOpers r) = (none, u') → exec (.launchValidated q) s = .next u'))
    ∧ (∀ g, k.st = .draining r g →
      ((s.region g).drain ≠ none → exec (.launchValidated q) s = .next s)
      ∧ ((s.region g).drain = none → s.statusHeld q st = true → exec (.launchValidated q) s = .next (s.statusAsk q st))
      ∧ ((s.region g).drain = none → s.statusHeld q st = false → exec (.launchValidated q) s = .next (done s)))

/-- The foreman (R241, R243, R347): it takes the first pending crew, chooses its cluster and sends the start; it observes a
`smay`. A crew starts (R44, R240, R325, R340, R352): CSIZE threads of consecutive ranks from BASE take free slots of the
cluster, with PC at the entry, x10 ARGP, x11 the crew and x12 the index in the crew. A launch ends (R242, R326, R348): DONE
is written to its status word, and its completion goes to the clusters that wait; there the `pwait` threads of its
successors are woken with code 6. That the crew of a stopped tenant starts, with its threads stopped, is the model's choice (log
102). -/
def Obligations.LaunchEvents : Prop :=
  (∀ (s : State) (tn : BitVec 4) (l : Launch) (cl : BitVec 7), s.nextLaunch = some (tn, l) →
    let early := s.mayStart tn l == some true
    let r := if early then s.reserveAll tn l.pred else (s, true)
    let t := r.1.tenant tn
    r.2 = true → r.1.clusterFor tn l early = some cl → exec .crewPlacement s = .next
      { r.1.setTenant tn { t with launches := t.launches.map (fun m => if m.lid = l.lid then { m with
          placed := m.placed + 1, reserved := m.reserved.filter (fun x => x.1 != l.placed) } else m) } with
        net := { r.1.net with crewGos := r.1.net.crewGos ++ [⟨tn, l.lid, l.placed, cl, early⟩] } })
  ∧ (∀ (s : State) (tn : BitVec 4) (n lid : Nat), s.net.smays[n]? = some (tn, lid) →
    let t := s.tenant tn
    exec (.smayObserved n) s = .next
      { s.setTenant tn { t with launches := t.launches.map (fun m => if m.lid = lid then { m with smaySeen := true } else m) } with
        net := { s.net with smays := ldrop s.net.smays n } })
  ∧ (∀ (s : State) (n : Nat) (g : CrewGo) (l : Launch), s.net.crewGos[n]? = some g → s.launchAt g.tn g.lid = some l →
    s.canStart n = true →
    ∃ t, exec (.crewStart n) s = .next t ∧ t.net.crewGos = ldrop s.net.crewGos n ∧ t.mem = s.mem
      ∧ ∀ i < l.csize, ∃ u ∈ t.others, ∃ (c : BitVec 10) (k : BitVec 8), (s.clusterFree g.cl)[i]? = some (c, k)
        ∧ u.id = ⟨g.tn, BitVec.ofNat 24 (l.base + g.crew * l.csize + i)⟩ ∧ u.place = .slot c k ∧ u.core = c
        ∧ u.run = .ready ∧ u.stopped = (if (s.tenant g.tn).stopped then some .tenant else none) ∧ u.arch.pc = l.entry ∧ u.arch.getX 10 = l.argp ∧ u.arch.getX 11 = BitVec.ofNat 64 g.crew
        ∧ u.arch.getX 12 = BitVec.ofNat 64 i ∧ u.arch.sts = 0x1000 ∧ u.arch.flta = 0 ∧ u.arch.why = 0
        ∧ ∀ r : BitVec 5, r ≠ 10 → r ≠ 11 → r ≠ 12 → u.arch.getX r = 0)
  ∧ (∀ (s : State) (tn : BitVec 4) (lid n : Nat) (l : Launch) (cl : BitVec 7),
    let done := s.updLaunch tn lid (fun m => { m with complete := true })
    let sent : State := { done with net := { s.net with
      releases := s.net.releases ++ (done.waitingClusters tn lid).map (fun k => (tn, lid, k)) } }
    (s.launchAt tn lid = some l → l.complete = false → s.launchBusy tn l = false →
      s.statusHeld l.q l.stata = false → exec (.launchComplete tn lid) s =
      .next (sent.writeStatus l.q l.stata (3#2 ++ 0#6 ++ BitVec.ofNat 48 l.lid ++ 0#8) l.irqe l.irqv))
    ∧ (s.net.releases[n]? = some (tn, lid, cl) → exec (.pwaitRelease n) s = .next { s with net := { s.net with
        releases := ldrop s.net.releases n
        wakes := s.net.wakes ++ ((s.ofTenant tn).filter (fun t => t.run == .parked .pwait && t.stopped.isNone
          && clusterOf t.core == cl && s.predDone t)).map (fun t => (⟨t.id, 6⟩ : Wake)) } }))

/-- Domains (R261 to R263): an arrival parks its thread and the drays of the domain's members depart; a wire rises when
everything the member committed is acknowledged; the wires up release every arrived member with code 5; a crier begins, and
messages and aborts reach their clusters, unless the phase they belong to is over; a time-out withdraws the arrival, or breaks
a phase that its cluster has begun. That a message or an abort of a phase that is over changes nothing is the model's choice
(log 52). -/
def Obligations.DomainEvents : Prop :=
  ∀ (s : State) (id : ThreadId) (t : Thread) (d : BitVec 5) (sl : BitVec 2) (tout n c p : Nat) (e : Domain) (tn : BitVec 4)
    (cl : BitVec 7) (m : CrierMsg),
    let k := s.tenant id.tenant
    (s.find id = some t → t.post = some (.dbar d sl tout) → k.domainIn id.rank sl = some e →
      ∃ u, exec (.dbarArrival id) s = .next (u.upd id (Thread.park s.cyc
          (.dbar d sl e.phases (if tout = 0 then none else some (s.cyc + tout)))))
        ∧ u = ((s.posted id).departMembers id.tenant e).updDomain id.tenant e.kind (fun x => { x.updMember id.rank sl
            (fun m => { m with arrived := true, raised := false }) with
            n := if x.members.any Member.arrived then x.n else ((e.ns.find? (fun p => p.1 == id.rank)).map Prod.snd).getD 0 }))
    ∧ (exec (.wireRaise id) s = .next (s.setTenant id.tenant { k with domains := k.domains.map (fun x =>
        if x.kind.crier then x else { x with members := x.members.map (fun m =>
          if m.rank = id.rank ∧ m.arrived = true ∧ s.hasElems ⟨id.tenant, m.rank⟩ = false
              ∧ s.hasAmops ⟨id.tenant, m.rank⟩ = false then { m with raised := true } else m) }) }))
    ∧ ((s.tenant tn).domains[n]? = some e → s.wiresUp tn e = true → exec (.wireComplete tn n) s = .next
      ((s.updDomain tn e.kind (fun x => { x with phases := x.phases + 1 })).releaseMembers tn e.kind
        (BitVec.ofNat 32 (e.phases + 1) ++ 0#28 ++ 0#4) 5 (fun _ => true)))
    ∧ ((s.tenant tn).domains[n]? = some e → s.canBegin tn e cl = true →
      let x : Domain := if e.ring.isEmpty then { e with ring := s.crierClusters tn e } else e
      let s1 := s.updDomain tn e.kind (fun _ => Domain.setPos { x.posOf cl with begun := true } x)
      exec (.crierBegin tn n cl) s = .next ((if 1 < x.ring.length then s1.crierSend tn x cl 0 false
        else s1).crierAdvance tn e.kind cl 16))
    ∧ (s.net.criers[n]? = some m →
      let s1 : State := { s with net := { s.net with criers := ldrop s.net.criers n } }
      (m.abort = true → s.domain m.tn m.dom = some e →
        exec (.crierAbort n) s = .next (if e.turn = m.turn then s1.crierBreak m.tn m.dom m.dst else s1))
      ∧ (m.abort = false → s.domain m.tn m.dom = some e → e.turn ≠ m.turn → exec (.crierMessage n) s = .next s1)
      ∧ (m.abort = false → s.domain m.tn m.dom = some e → e.turn = m.turn → exec (.crierMessage n) s = .next
        ((s1.updDomain m.tn m.dom (Domain.setPos { e.posOf m.dst with got := (e.posOf m.dst).got ++ [m.round] })).crierAdvance
          m.tn m.dom m.dst 16)))
    ∧ (s.find id = some t → t.live = true → t.run = .parked (.dbar d sl p (some c)) → k.domainIn id.rank sl = some e →
      let u : State := { s with cyc := max s.cyc c }
      let q := e.posOf (clusterOf t.core)
      let began := e.kind.crier && q.begun && !q.finished
      let w := (u.updDomain id.tenant e.kind (Domain.updMember id.rank sl
        (fun m => { m with arrived := false, raised := false }))).upd id
        (fun t => t.endWait u.cyc d (BitVec.ofNat 32 e.phases ++ (if began then 2#32 else 1#32)) 2)
      exec (.dbarTimeout id) s = .next (if began then w.crierBreak id.tenant e.kind (clusterOf t.core) else w))

/-- A thread-state action is performed at its target, where it is the stop, the start, the read, the write, the grant or the
revocation that was asked for, and its result goes back; the caller's xD takes it, with WHY unchanged, and a caller that stops
itself is stopped with its result (R276 to R283). A lost root's docket reads as zero but for FLTA and IDT (R314), a docket
answers for the registers that it keeps (R275), and a thread that has halted keeps its registers (R256; log 113 where LIVE
marks more than 16). -/
def Obligations.ThreadStateEvents : Prop :=
  ∀ (s : State) (n : Nat) (r : TReq) (t : Thread) (v : TRes) (u : Thread),
    let s1 : State := { s with net := { s.net with reqs := ldrop s.net.reqs n } }
    let back (a : State) (w : Word) : State := { a with net := { a.net with results := a.net.results ++
      [⟨r.caller, r.d, w, decide (r.act = .stop ∧ t.id = r.caller)⟩] } }
    let no (k : Nat) : Word := BitVec.ofNat 64 (2 ^ 63 + k)
    let k := s.tenant t.id.tenant
    (s.net.reqs[n]? = some r → s.find ⟨r.caller.tenant, r.target⟩ = some t → (∀ x, t.place ≠ .moving x) →
      (r.act = .stop → t.run ≠ .retained → t.stopped = none → t.id ≠ r.caller →
        exec (.threadStateAction n) s = .next (back (s1.upd t.id (fun x => x.stop .tstop s.cyc)) 0))
      ∧ (r.act = .stop → t.run ≠ .retained → t.stopped = none → t.id = r.caller →
        exec (.threadStateAction n) s = .next (back s1 0))
      ∧ (r.act = .stop → t.run ≠ .retained → t.stopped ≠ none → exec (.threadStateAction n) s = .next (back s1 1))
      ∧ (r.act = .stop → t.run = .retained → exec (.threadStateAction n) s = .next (back s1 (no 3)))
      ∧ (r.act = .start → t.stopped ≠ none → exec (.threadStateAction n) s = .next (back (s1.startThread t.id) 0))
      ∧ (∀ d, r.act = .start → t.stopped = none → t.run = .parked (.wait d none) ∨ t.run = .parked (.xchg d) →
        exec (.threadStateAction n) s = .next (back (s1.upd t.id (fun x => x.waitReturn s.cyc 8 d)) 1))
      ∧ (r.act = .start → t.stopped = none → t.run = .retained → t.id.rank ≠ 0 →
        exec (.threadStateAction n) s = .next (back (s1.freeRetained t) 2))
      ∧ (r.act = .start → t.stopped = none → t.run = .ready → exec (.threadStateAction n) s = .next (back s1 (no 3)))
      ∧ (∀ i : BitVec 6, r.act = .read i → t.stopped ≠ none ∨ t.run = .retained → i.toNat < 32 →
        let kept := t.run = .retained ∧ t.arch.liveRegs.length ≤ 16 ∨ t.run ≠ .retained ∧ t.packed = false
          ∨ i = 0 ∨ i.toNat ∈ t.arch.liveRegs.take 16
        (t.hollow = false → kept → exec (.threadStateAction n) s = .next (back s1 (t.arch.getX (i.setWidth 5))))
        ∧ (t.hollow = false → ¬ kept → exec (.threadStateAction n) s = .next (back s1 (no 4))))
      ∧ (∀ i : BitVec 6, r.act = .read i → t.stopped ≠ none ∨ t.run = .retained → t.hollow = true →
        (i ≠ 35 → i ≠ 36 → exec (.threadStateAction n) s = .next (back s1 0))
        ∧ (i = 35 → exec (.threadStateAction n) s = .next (back s1 (s1.wordOf t 3)))
        ∧ (i = 36 → exec (.threadStateAction n) s = .next (back s1 (s1.wordOf t 4))))
      ∧ (∀ i : BitVec 6, r.act = .read i → t.stopped = none → t.run ≠ .retained →
        exec (.threadStateAction n) s = .next (back s1 (no 3)))
      ∧ (∀ (i : BitVec 6) (w : Word), r.act = .write i w → t.stopped ≠ none → t.run ≠ .retained → i.toNat < 32 →
        t.packed = false → exec (.threadStateAction n) s = .next (back (s1.upd t.id
          (Thread.between (fun a => a.setX (i.setWidth 5) w))) 0))
      ∧ (∀ e : IEntry, r.act = .grant e →
        (k.hasRoom t.id.rank = true → ∃ x, exec (.threadStateAction n) s = .next
            (back x (BitVec.ofNat 64 (k.table t.id.rank).length))
          ∧ (x.tenant t.id.tenant).table t.id.rank = k.table t.id.rank ++ [e])
        ∧ (k.hasRoom t.id.rank = false → exec (.threadStateAction n) s = .next (back s1 (no 7))))
      ∧ (∀ i : Nat, r.act = .revoke i → (k.table t.id.rank).length ≤ i →
        exec (.threadStateAction n) s = .next (back s1 (no 8)))
      ∧ (∀ (i : Nat) (e z : IEntry), r.act = .revoke i → (k.table t.id.rank)[i]? = some e →
        (k.table t.id.rank).getLast? = some z → (r.caller.rank = t.id.rank ∨ e.grantor = r.caller.rank) →
        ∃ x, exec (.threadStateAction n) s = .next (back x 0)
          ∧ (x.tenant t.id.tenant).table t.id.rank = ((k.table t.id.rank).set i z).dropLast))
    ∧ (s.net.results[n]? = some v → s.find v.caller = some u → u.run = .parked .result → u.stopped = none →
      ∃ f : Thread → Thread, exec (.threadStateResult n) s =
          .next ({ s with net := { s.net with results := ldrop s.net.results n } }.upd v.caller f)
        ∧ (f u).run = .ready ∧ (f u).arch = u.arch.setX v.d v.val ∧ (f u).stopped = if v.halt then some .tstop else none)

/-- The device's detectors and the records that wait (R246, R247, R299, R330): a deadlocked tenant gets one record; a silent
pulse period writes a watchdog record, and a second in a row stops the tenant; a held record is delivered when its line is
free, and a report to the host likewise. -/
def Obligations.DetectorEvents : Prop :=
  ∀ (s : State) (tn : BitVec 4) (u : Pulse) (n : Nat) (p : Option ThreadId × Held) (r : Record) (l : List Record),
    let t := s.tenant tn
    let us := s.unhalted tn
    let count (f : Thread → Bool) : Word := BitVec.ofNat 64 (us.filter f).length
    let core := coreOf (t.rect.clusters.headD 0) 0
    let hub : Word := BitVec.ofNat 64 (5 * 2 ^ 56)
    let later (k : Nat) : State := ({ s with cyc := max s.cyc (u.opened + u.period) } : State).setTenant tn
      { t with pulse := some { u with opened := u.opened + u.period, silent := k } }
    let dog (k : Nat) : Record := ⟨0x14, 5, tn, 0, 0, addrWord u.va, hub, BitVec.ofNat 64 k, 0, 0, BitVec.ofNat 64 k⟩
    let barked (k : Nat) : State := (later k).deliver none core t.rootFlta (dog k)
    (s.deadlocked tn = true → exec (.deadlockDetect tn) s =
      .next ((s.setTenant tn { t with deadlock := true }).deliver none core t.rootFlta ⟨0x13, 5, tn, 0, 0,
        count (fun t => t.stopped.isNone && !t.packed), hub, count (fun t => t.stopped.isNone && t.packed),
        count (fun t => t.stopped.isSome), 0, 0⟩))
    ∧ (t.pulse = some u →
      (u.silent = 0 → exec (.pulsePeriodExpiry tn) s = .next (barked 1))
      ∧ (u.silent = 1 → exec (.pulsePeriodExpiry tn) s = .next (((barked 2).stopTenant tn).report (dog 2))))
    ∧ ((s.heldOf tn)[n]? = some p → s.canAskHeld tn p = false → s.canDeliver tn p = true → exec (.pendingRecordDelivery tn n) s =
      .next ((s.takeHeld tn p).deliver p.1 (s.heldCore tn p.1) p.2.line p.2.body))
    ∧ ((s.heldOf tn)[n]? = none → t.reports = r :: l → s.canReport tn = true → exec (.pendingRecordDelivery tn n) s =
      .next ((s.setTenant tn { t with reports := l }).report r))

/-- What the tile commands leave in a tile (R75, R114, R122 to R124), for a command alone in its queue, with its operands
read, the NaN check off and no daybook: every element of a product is the old one plus the rounded group sums in ascending
order, where a `tmult` of a warp of more rows than columns goes on in the next tile, and every element of the others is one
rounding of its function. Of `tew.gelu` and `tew.silu` R124 gives the special operands and a bound of 4 ulp: the value within
the bound is free (log 5). -/
def Obligations.TileResults : Prop :=
  ∀ (s : State) (cl : BitVec 7) (c : LoomCmd) (t : BitVec 3) (w : BitVec 2) (f b : BitVec 4 × BitVec 3),
    let l := (s.cluster cl).loom
    let wide := isWide cl
    let k := l.tile t
    let arg (i r j : Nat) : Val := match (c.readArgs wide)[i]? with | some g => g.valIn c.swin c.buf r j | none => .zero
    let gives (af : TFmt) (v : Nat → Nat → Val) : Prop := ∃ u, exec (.loomCommandComplete cl c.seq) s = .next u
      ∧ ((u.cluster cl).loom.tile t).fmt = af ∧ (u.cluster cl).loom.ldone = c.seq ∧ (u.cluster cl).loom.queue = []
      ∧ ∀ i < 64, ∀ j < af.width, ((u.cluster cl).loom.tile t).code i j = BitVec.ofNat 64 (encodeVal af.fmt (v i j))
    let act (g : Nat → Nat → Bool → Nat → Int) (free : FpTy → Word → Word) : Prop :=
      gives k.fmt.fixed (fun i j => tileRound k.fmt.fixed.fmt (activation g free k.fmt.fixed (k.val i j)))
      ∧ activation g free k.fmt.fixed .nan = .nan ∧ activation g free k.fmt.fixed (.inf false) = .inf false
      ∧ activation g free k.fmt.fixed (.inf true) = .negZero
      ∧ ∀ (b : Bool) (e : Int), activation g free k.fmt.fixed (.fin b 0 e) = .fin b 0 e
    let once (af : TFmt) (v : Nat → Nat → Val) : Prop := gives af (fun i j => tileRound af.fmt (v i j))
    (∃ o, l.owner = some o ∧ s.crewLives o = true) → l.queue = [c] → c.phase = .started → l.mapped = false → (c.nanf = false ∨ c.nanOff = true) → wNpg c.dbk = 0 →
    (((c.readArgs wide).flatMap (fun g => g.needed c.swin)).all (fun a => (tfind c.buf a).isSome)) = true →
    (c.op = .tmul t w → (l.warp w).fmt = some f → l.weft.fmt = some b →
      let af := workFmt (f.1 == 5)
      gives af (fun i j => groupSums af.fmt (groupLen f.1) (warpShape f.1).1 (k.val i j)
        (fun q => mulVal (l.weft.val i q) ((l.warp w).val q j))))
    ∧ (c.op = .tmult t w → (l.warp w).fmt = some f → l.weft.fmt = some b → (warpShape f.1).1 ≤ (warpShape f.1).2 →
      let af := workFmt (f.1 == 5)
      gives af (fun i j => if j < (warpShape f.1).1 then groupSums af.fmt (groupLen f.1) (warpShape f.1).2 (k.val i j)
        (fun q => mulVal (l.weft.val i q) ((l.warp w).val j q)) else .zero))
    ∧ (c.op = .tmult t w → (l.warp w).fmt = some f → l.weft.fmt = some b → (warpShape f.1).2 < (warpShape f.1).1 →
      let af := workFmt (f.1 == 5)
      let n := (warpShape f.1).2
      let col (x : Tile) (i q : Nat) (j : Nat) : Val := groupSums af.fmt (groupLen f.1) n (x.val i j)
        (fun p => mulVal (l.weft.val i p) ((l.warp w).val (q + j) p))
      gives af (fun i j => if j < n then col k i 0 j else .zero)
      ∧ ∃ u, exec (.loomCommandComplete cl c.seq) s = .next u ∧ ((u.cluster cl).loom.tile (t + 1)).fmt = af
        ∧ ∀ i < 64, ∀ j < n, ((u.cluster cl).loom.tile (t + 1)).code i j = BitVec.ofNat 64 (encodeVal af.fmt (col (l.tile (t + 1)) i n j)))
    ∧ (c.op = .gelu t → act geluFix Config.gelu)
    ∧ (c.op = .silu t → act (fun p _ => siluFix p) Config.silu)
    ∧ (c.op = .touter t →
      once (workFmt (fp64Vec c.opa && fp64Vec c.opb)) (fun i j => addVal .rne (k.val i j) (mulVal (arg 0 0 i) (arg 1 0 j))))
    ∧ (c.op = .bias t → once (workFmt (fp64Vec c.opa)) (fun i j => addVal .rne (k.val i j) (arg 0 0 j)))
    ∧ (c.op = .scale t → once k.fmt.fixed (fun i j => mulVal (k.val i j) (tewScalar k.fmt.fixed.fmt c.opa)))
    ∧ (c.op = .relu t → once k.fmt.fixed (fun i j => if (k.val i j).isNan then .nan
        else if ltVal .zero (k.val i j) then k.val i j else .zero))
    ∧ (c.op = .clamp t → once k.fmt.fixed (fun i j => minVal (maxVal (k.val i j) (tewScalar k.fmt.fixed.fmt c.opa))
        (tewScalar k.fmt.fixed.fmt c.opb)))
    ∧ (c.op = .tzero t → gives .clear (fun _ _ => .zero))

/-- A loom's events (R113, R129 to R132): arrival and start of the next command, the resume word's four actions on a stopped
loom, the release of the context in two writes of the status line, and the governor's count. The events of a started command
that is alone in its queue and leaves no entry (R116 to R121, R125 to R128, R134, R145 to R147): one line of its operands is
read; `twarp` and `tlda` fill their slot and their buffer; `tred` and `tst` store the sums and the elements of one line after
another, a blocked `tst` its codes and then its scale byte, and `tsync` its number; `trec.on`, `trec.off` and `tdrop` write
the header; an `unwind` clears RECON, sweeps its entries, of which the adjoint of a `tew.scale` stands for all, writes each
gradient word, and ends with UST, USEQ and its result; with the last event the command leaves the queue and LDONE names it. -/
def Obligations.LoomEvents : Prop :=
  (∀ (s : State) (cl : BitVec 7) (c : LoomCmd) (k : BitVec 4 × Nat × Nat) (ws : List (BitVec 7 × Nat)),
    let l := (s.cluster cl).loom
    let show' (i : Instr) (m : Loom) : Prop := exec i s = .next (s.setLoom cl m)
    let resumed (m : Loom) : Prop := m.st = 1 ∧ m.lres = 0 ∧ m.lfcmd = 0 ∧ m.frank = 0 ∧ m.tiles = l.tiles ∧ m.lacc = l.lacc
    (l.queue.find? (fun d => d.phase == .sent) = some c → exec (.loomCommandArrival cl) s = .next (s.setCluster cl
      { s.cluster cl with loom := { l with queue := l.queue.map (fun d => if d.seq = c.seq then { c with phase := .arrived } else d) } }))
    ∧ (l.canStart = true → s.warmEnough cl = true → l.nextCmd = some c → l.tileFault c = none → c.op.isLoad = false →
      let s1 : State := if l.cold s.cyc then { s with hub := { s.hub with coldStarts := s.hub.coldStarts + 1 } } else s
      exec (.loomCommandStart cl) s = .next (s1.setCluster cl { s.cluster cl with loom := { l with
        lastRun := s.cyc, queue := l.queue.map (fun d => if d.seq = c.seq then { c with phase := .started } else d) } }))
    ∧ (l.st = 1 → l.queue = [] → l.owner = some k → s.crewLives k = false →
      show' (.loomRelease cl) { l with warps := [], weft := Operand.empty, tiles := [], st := 3 })
    ∧ (l.st = 3 → ∃ u, exec (.loomReleaseComplete cl) s = .next u
      ∧ (u.cluster cl).loom = { l with st := 0, owner := none } ∧ u.mem = s.mem)
    ∧ (l.st = 2 → l.mapped = false →
      (l.lres = 1 → ∃ u, exec (.lresRetry cl) s = .next u ∧ resumed (u.cluster cl).loom
        ∧ (u.cluster cl).loom.queue.map LoomCmd.seq = l.queue.map LoomCmd.seq)
      ∧ (l.lres = 4 → ∃ u, exec (.lresRetryNoNan cl) s = .next u ∧ resumed (u.cluster cl).loom
        ∧ ∀ d ∈ (u.cluster cl).loom.queue, d.seq = l.lfcmd → d.nanOff = true)
      ∧ (l.owner = some k → s.crewLives k = true → l.queue = [c] → c.seq = l.lfcmd → c.phase = .arrived → c.op ≠ .unwind → c.op ≠ .tsync →
        (l.lres = 2 → ∃ u, exec (.lresSkip cl) s = .next u ∧ resumed (u.cluster cl).loom
          ∧ (u.cluster cl).loom.queue = [] ∧ (u.cluster cl).loom.ldone = c.seq)
        ∧ (l.lres = 3 → ∃ u, exec (.lresFlush cl) s = .next u ∧ resumed (u.cluster cl).loom
          ∧ (u.cluster cl).loom.queue = [] ∧ (u.cluster cl).loom.ldone = c.seq)))
    ∧ (∃ u, exec (.governorWindow ws) s = .next u ∧ u.cyc = max s.cyc (s.hub.governAt + 1024) ∧ u.mem = s.mem
      ∧ (u.cluster cl).loom.lgov = l.lgov + ((ws.filter (fun p => p.1 == cl)).map Prod.snd).sum))
  ∧ (∀ (s : State) (cl : BitVec 7) (c : LoomCmd) (t : BitVec 3) (w : BitVec 2) (g : TileArg) (u : State) (h : Header) (pa i m : Nat)
    (e : Entry) (p : Nat × List Byte) (ps : List (Nat × List Byte)) (d : Word),
    let l := (s.cluster cl).loom
    let args := c.readArgs (isWide cl)
    let need := args.flatMap (fun g => g.needed c.swin)
    let run : Out := exec (.loomCommandComplete cl c.seq) s
    let goes (v : State) (b : LoomCmd) : Prop := run = .next (v.putLoom cl ((v.cluster cl).loom.put b))
    let lands (v : State) (va : Nat) (bs : List Byte) : Prop :=
      v.engPieces c.id c.core .write false va bs.length = .ok [(pa, bs.length)]
    let put (v : State) (bs : List Byte) : State := v.writeEvent none false (cellsFrom pa bs)
    let ends (v : State) : Prop := ∃ x, run = .next x ∧ x.mem = v.mem ∧ (x.cluster cl).loom.ldone = c.seq
      ∧ (x.cluster cl).loom.queue = [] ∧ (x.cluster cl).loom.tiles = (v.cluster cl).loom.tiles
      ∧ (x.cluster cl).loom.warps = (v.cluster cl).loom.warps ∧ (x.cluster cl).loom.weft = (v.cluster cl).loom.weft
    let stops : Prop := ∃ x, run = .next x ∧ (x.cluster cl).loom.st = 2 ∧ (x.cluster cl).loom.lfcmd = c.seq
      ∧ (x.cluster cl).loom.frank = c.id.rank
    let k := l.tile t
    isFab pa = false → isHost pa = false → (∃ o, l.owner = some o ∧ s.crewLives o = true) → l.queue = [c] → l.st = 1 →
    c.phase = .started → l.mapped = false → c.unrecorded = true → (c.nanf = false ∨ c.nanOff = true) →
    (∀ a, need.find? (fun a => (tfind c.buf a).isNone) = some a →
      (∀ b, s.bookLine c a need c.buf = .ok (u, b) → goes u { c with buf := b })
      ∧ (∀ f, s.bookLine c a need c.buf = .error (.flt f) → stops))
    ∧ ((need.all (fun a => (tfind c.buf a).isSome)) = true →
      (c.op = .twarp w → args = [g] → ends (s.putLoom cl (l.setWarp w (g.loaded c.swin c.buf))))
      ∧ (c.op = .tlda → args = [g] → ends (s.putLoom cl { l with weft := g.loaded c.swin c.buf }))
      ∧ (c.op = .tred t →
        let z := k.fmt.fmt.bits / 8
        let a := (pVa c.opa + c.pos * z) % 2 ^ 57
        let n := min (k.fmt.width - c.pos) ((64 - a % 64) / z)
        let sum (j : Nat) : Val := (List.range 64).foldl (fun x r => tileRound k.fmt.fmt (addVal .rne x (k.val r j))) .negZero
        let bs := (List.range n).flatMap (fun q => natBytes z (encodeVal k.fmt.fmt (sum (c.pos + q))))
        (c.pos < k.fmt.width → lands s a bs → goes (put s bs) { c with pos := c.pos + n })
        ∧ (k.fmt.width ≤ c.pos → ends s))
      ∧ (c.op = .tst t →
        let o := TileArg.shaped c.opa c.opb tstFmt 64 k.fmt.width true
        let f := pFmt o.ptr
        let r := c.pos / o.cols
        let j := c.pos % o.cols
        let a := (typedAddr f (o.rowVa r) j).1
        let n := min (o.cols - j) ((64 - a % 64) / fmtBytes f)
        let cs := (roundList (fmtOf f) (Mode.ofCode c.rm.toNat) (c.rngAt c.pos) ((List.range n).map (fun q => k.val r (j + q)))).1
        (c.pend = [] → c.pos < o.rows * o.cols → pBlk o.ptr = 0 → lands s a (packCodes (fmtBits f) cs) →
          goes (put s (packCodes (fmtBits f) cs)) { c with pos := c.pos + n })
        ∧ (∀ sa, c.pend = [] → c.pos < o.rows * o.cols → pBlk o.ptr ≠ 0 →
          scaleAddr c.swin (pBlk o.ptr).toNat (fmtBits f) a = some sa →
          let n := 2 ^ (pBlk o.ptr).toNat
          let b := encodeBlock (fmtOf f) (Mode.ofCode c.rm.toNat) (c.rngAt c.pos) ((List.range n).map (fun q => k.val r (j + q)))
          goes s { c with pos := c.pos + n, pend := lineWrites a (packCodes (fmtBits f) b.2.1) ++ [(sa.2, [b.1])] })
        ∧ (c.pend = p :: ps → lands s p.1 p.2 → goes (put s p.2) { c with pend := ps })
        ∧ (c.pend = [] → o.rows * o.cols ≤ c.pos → ends s))
      ∧ (c.op = .tsync → lands s (va57 c.opa) (natBytes 8 c.seq) → ends (put s (natBytes 8 c.seq)))
      ∧ (c.op = .trecOn → s.bookHeader c = .ok (u, h) →
        let w1 := (h.dstat &&& ~~~0xFF0000#64) ||| ((h.policy &&& 0xFF) <<< 16) ||| 1
        (h.mine c = true → (∀ r < 4, policyCode (h.policy.extractLsb' 0 8) r ≠ 3) → lands u (c.book + 8) (wordsBytes [w1]) →
          ends (put u (wordsBytes [w1])))
        ∧ (h.mine c = false → ends (u.loomRecord cl c (bookFlt 5) 0 0)))
      ∧ (c.op = .trecOff → s.bookHeader c = .ok (u, h) → h.mine c = true → lands u (c.book + 8) (wordsBytes [h.dstat &&& ~~~1#64]) →
        ends (put u (wordsBytes [h.dstat &&& ~~~1#64])))
      ∧ (c.op = .tdrop →
        let bs := wordsBytes [0, 0#16 ++ c.id.rank ++ 0#24, 64, 0, 0, 0, 0, 0x4B425944]
        lands s c.book bs → ends (put s bs) ∧ ∃ x, run = .next x ∧ (x.cluster cl).loom.links = [])
      ∧ (c.op = .unwind →
        (c.swept = none → c.marks = [] → s.bookHeader c = .ok (u, h) →
          let w1 := h.dstat &&& ~~~1#64
          (h.mine c = true → lands u (c.book + 8) (wordsBytes [w1]) →
            goes (put u (wordsBytes [w1])) { c with hdr := some (w1, h.count), marks := [64] })
          ∧ (h.mine c = false → stops))
        ∧ (c.swept = some (i + 1, m) → c.pend = p :: ps → lands s p.1 p.2 → goes (put s p.2) c.wrote)
        ∧ (c.swept = some (i + 1, m) → c.pend = [] → c.entry i = .ok e → e.op = some (.scale t) →
          (c.pos = 0 → goes s (c.setAdj t (e.af false) (fun r j => tileRound (e.af false).fmt
            (mulVal ((c.adj t).val r j) (tewScalar (e.af false).fmt e.opa)))).stepped)
          ∧ (c.pos ≠ 0 → lands s (c.book + 32) (wordsBytes [BitVec.ofNat 64 i]) →
            goes (put s (wordsBytes [BitVec.ofNat 64 i])) { c with swept := some (i, m), pos := 0, buf := [] }))
        ∧ (c.swept = some (0, m) →
          (c.pos = 0 → c.hdr = some (d, m) → lands s (c.book + 8) (wordsBytes [setUst d 2]) →
            goes (put s (wordsBytes [setUst d 2])) c.stepped)
          ∧ (c.pos = 1 → lands s (c.book + 40) (wordsBytes [BitVec.ofNat 64 c.seq]) →
            let v := put s (wordsBytes [BitVec.ofNat 64 c.seq])
            goes (v.putLoom cl { (v.cluster cl).loom with warps := [], weft := Operand.empty, tiles := [] }) c.stepped)
          ∧ (c.pos = 2 → lands s (va57 c.opa) (natBytes 8 m) → ends (put s (natBytes 8 m)))))))

/-- A porter's events (R173, R210 to R213, R215, R216, R334): a command starts, one with an index list when its header has
been read; each event of a running command reads one line of its list, source or buffer, takes the next bytes or converts the
next element to be written, writes what goes to one destination line, or makes the one access of a position of `pgath`,
`pscat` or `pscadd` to its table. At its end CMODE 1 writes the status doubleword with ABANDON, OOB and COUNT to CADDR, CMODE
2 adds 1 there, and PDONE is written; the completion address of an abandoned command that faults leaves a record. The resume
word continues a stopped command, or abandons it or all. That a copy takes up to 64 bytes at a time, and in which order the
lines are read, is the model's choice (log 35). -/
def Obligations.PorterEvents : Prop :=
  ∀ (s : State) (cl : BitVec 7) (n : BitVec 2) (c : PorterCmd) (rest : List PorterCmd) (q : Nat × Word × Nat) (o : PortOut)
    (l : List PortOut) (pa : Nat) (u : State) (f : Flt),
    let p := (s.cluster cl).porter n
    let count := (c.w2.extractLsb' 0 32).toNat
    let z := min 64 (count - c.pos)
    let takes (f : Nat → Nat) : PorterCmd := { c with
      lines := [], pend := (List.range z).map (fun i => ⟨(c.w1.toNat % 2 ^ 57 + c.pos + i) % 2 ^ 57, 8, false, f i, true, false⟩) }
    let run : Out := exec (.porterCommandComplete cl n) s
    let now (u : State) (x : PorterCmd) : State := u.setCluster cl ((u.cluster cl).setPorter n
      { (u.cluster cl).porter n with queue := x :: ((u.cluster cl).porter n).queue.drop 1 })
    let goes (u : State) (x : PorterCmd) : Prop := run = .next (now u (x.sent s u))
    let out := c.pend.takeWhile (fun x => x.va / 64 == o.va / 64)
    let up (x : Porter) : Prop := x.st = 1 ∧ x.pres = 0 ∧ x.pfcmd = 0 ∧ x.pfpos = 0 ∧ x.frank = 0 ∧ x.queue = p.queue
    let done (v : State) : State := v.setPort cl n
      { (v.cluster cl).porter n with st := 0, pdone := c.seq, queue := ((v.cluster cl).porter n).queue.drop 1 }
    let fresh : State := s.setPort cl n { p with st := 1, pres := 0, pfcmd := 0, pfpos := 0, frank := 0 }
    let skipped : PorterCmd := { c with abandon := true, phase := .started, lines := [], raw := [], pend := [] }
    let at' := c.w3.toNat % 2 ^ 57 / 8 * 8
    let can (v : State) (k : Acc) : Prop := v.engPieces c.id c.core k true at' 8 = .ok [(pa, 8)] ∧ isFab pa = false ∧ isHost pa = false
    let completes (v : State) (a : Bool) (r : State) : Prop :=
      let st : Word := 1#1 ++ BitVec.ofBool a ++ BitVec.ofNat 30 c.oob ++ BitVec.ofNat 32 c.pos
      let old := v.engBytes [(pa, 8)]
      (c.w3.extractLsb' 0 3 = 0 ∧ r = v)
        ∨ (c.w3.extractLsb' 0 3 = 1 ∧ can v .write ∧ r = v.writeEvent none false (cellsFrom pa (natBytes 8 st.toNat)))
        ∨ (c.w3.extractLsb' 0 3 = 2 ∧ can v .read ∧ can old.1 .write
          ∧ r = old.1.writeEvent none false (cellsFrom pa (natBytes 8 ((bytesNat old.2 + 1) % 2 ^ 64))))
    p.queue = c :: rest → p.mapped = false →
    (p.st ≠ 2 → c.phase ≠ .started →
      (c.kind = .copy ∨ c.kind = .copyt ∨ c.kind = .fill →
        exec (.porterCommandStart cl n) s = .next (s.setPort cl n { p with st := 1, queue := { c with phase := .started } :: rest }))
      ∧ (c.kind = .gath ∨ c.kind = .scat ∨ c.kind = .scadd →
        (∀ ps, c.w1.toNat % 8 = 0 → s.engPieces c.id c.core .read true (c.w1.toNat % 2 ^ 57) 24 = .ok ps →
          let r := s.engBytes ps
          let v := bytesNat r.2
          let h : Word := BitVec.ofNat 64 v
          h.extractLsb' 33 31 = 0 → (h.extractLsb' 0 32).toNat ≤ 2 ^ 24 →
          exec (.porterCommandStart cl n) s = .next (r.1.setPort cl n { p with st := 1, queue := { c with
            phase := .started
            hdr := some ((h.extractLsb' 0 32).toNat, h.getLsbD 32, BitVec.ofNat 64 (v / 2 ^ 64), BitVec.ofNat 64 (v / 2 ^ 128)) } :: rest }))
        ∧ (s.readHeader c = .error (.flt f) → exec (.porterCommandStart cl n) s = .next (s.portStop cl n c f))))
    ∧ (p.st = 1 → c.phase = .started → c.abandon = false → c.pos < c.total →
      (c.pend = [] → c.kind = .fill → goes s (takes (fun i => (byteOf c.w0 ((c.pos + i) % 8)).toNat)))
      ∧ (c.due = false → c.wants.find? (fun x => (tfind c.lines (x.1 / 64)).isNone) = some q → aligned q.1 q.2.2 = .ok () →
        s.engAt c.id c.core .read true (q.1, 1) = .ok pa →
        let r := s.engBytes [(pa - q.1 % 64, 64)]
        goes r.1 { c with
          lines := tset (c.lines.filter (fun x => c.wants.any (fun y => y.1 / 64 == x.1))) (q.1 / 64) r.2 })
      ∧ (c.due = false → (∀ x ∈ c.wants, (tfind c.lines (x.1 / 64)).isSome = true ∧ aligned x.1 x.2.2 = .ok ()) →
        let b := fmtBytes (pFmt c.w0)
        let i := (c.cached c.indexVa c.indexSize).getD 0
        let tab := (pVa c.w0 + i * b) % 2 ^ 57
        let buf := (c.cached c.bufVa b).getD 0
        (c.kind = .copy → c.pend = [] → goes s (takes (fun i => (c.cached (c.w0.toNat % 2 ^ 57 + c.pos + i) 1).getD 0)))
        ∧ (c.kind = .copyt → pBlk c.w0 = 0 → pBlk c.w1 = 0 → 8 ≤ fmtBits (pFmt c.w0) → c.raw = [] →
          let mode := Mode.ofCode c.rm.toNat
          let v := scaledVal (fmtOf (pFmt c.w0)) ((c.cached (typedAddr (pFmt c.w0) (pVa c.w0) c.next).1 b).getD 0) none
          let d := typedAddr (pFmt c.w1) (pVa c.w1) c.next
          let code := (roundList (fmtOf (pFmt c.w1)) mode (if mode = .sr then rngSteps c.next c.rngs else c.rngs) [v]).1.headD 0
          goes s { c with pend := c.pend ++ [⟨d.1, fmtBits (pFmt c.w1), d.2, code, true, false⟩] })
        ∧ (c.kind = .gath → aligned c.bufVa b = .ok () →
          let get (v : Nat) (bad : Bool) : PorterCmd := { c with pend := c.pend ++ [⟨c.bufVa, 8 * b, false, v, true, bad⟩] }
          (c.outside i = true → ∀ h, c.hdr = some h → goes s (get (h.2.2.2.toNat % 2 ^ (8 * b)) true))
          ∧ (∀ ps, c.outside i = false → tab % b = 0 → s.engPieces c.id c.core .read true tab b = .ok ps →
            goes (s.engBytes ps).1 (get (bytesNat (s.engBytes ps).2) false)))
        ∧ (c.kind = .scat ∨ c.kind = .scadd → c.outside i = true → goes s { c with pos := c.pos + 1, oob := c.oob + 1 })
        ∧ (∀ ps, c.kind = .scat → c.outside i = false → tab % b = 0 → s.engPieces c.id c.core .write true tab b = .ok ps →
          goes (s.engPutBytes c.id.tenant ps (natBytes b buf)) { c with pos := c.pos + 1 })
        ∧ (∀ ps, c.kind = .scadd → c.outside i = false → tab % b = 0 → s.engPieces c.id c.core .read true tab b = .ok ps →
          let r := s.engBytes ps
          let f := pFmt c.w0
          let sum := if 5 ≤ f.toNat then roundCode (fmtOf f) .rne 0 false (addVal .rne (decodeVal (fmtOf f) (bytesNat r.2)) (decodeVal (fmtOf f) buf))
            else (bytesNat r.2 + buf) % 2 ^ fmtBits f
          r.1.engPieces c.id c.core .write true tab b = .ok ps →
          goes (r.1.engPutBytes c.id.tenant ps (natBytes b sum)) { c with pos := c.pos + 1 }))
      ∧ (c.pend = o :: l → c.due = true → (out.map PortOut.va).Pairwise (· < ·) →
        (∀ x ∈ out, x.bits = 8 ∧ x.counts = true ∧ x.oob = false) →
        s.engAt c.id c.core .write true (o.va, if out.length = 64 then 64 else 1) = .ok pa →
        goes ((s.combineAll none [lineOf pa]).engPut c.id.tenant
          (out.map (fun x => (pa - o.va % 64 + x.va % 64, BitVec.ofNat 8 x.val))))
          { c with pend := c.pend.drop out.length, pos := c.pos + out.length }))
    ∧ (c.phase = .started → c.unacked = 0 → (c.abandon = true ∧ p.st ≠ 2 ∨ c.abandon = false ∧ p.st = 1 ∧ c.total ≤ c.pos) →
      (completes s c.abandon u → run = .next (done u))
      ∧ (s.completion c = .error (.flt f) →
        (c.abandon = true → run = .next (done (s.portRecord cl n c f))) ∧ (c.abandon = false → run = .next (s.portStop cl n c f))))
    ∧ (p.st = 2 →
      (p.pres = 1 → exec (.presContinue cl n) s = .next fresh
        ∧ ∃ v, exec (.presContinue cl n) s = .next v ∧ up ((v.cluster cl).porter n) ∧ v.mem = s.mem)
      ∧ (c.unacked = 0 → completes (now fresh skipped) true u →
        (p.pres = 2 → exec (.presAbandon cl n) s = .next (done u))
        ∧ (p.pres = 3 → rest = [] → exec (.presAbandonAll cl n) s = .next (done u)))
      ∧ (0 < c.unacked →
        (p.pres = 2 → exec (.presAbandon cl n) s = .next (now fresh skipped))
        ∧ (p.pres = 3 → rest = [] → exec (.presAbandonAll cl n) s = .next (now fresh skipped))))

/-- Accesses from outside (R177, R183, R229, R295, R306, R331, R333, R361): a CXL.mem access that the tenant's state allows
reads or writes the enabled bytes of its line as one event, one that it forbids reads as poisoned or is dropped, and one whose
line is held waits; a host that takes a line of its own fires the watches on it, and changes it where it writes; a peer or
another module reaches the homes of what it was given, and is refused outside it; an answer brings a waiting thread its
register. The words of BAR 0 (R322, R329): a doorbell writes the low half of its queue's notify word through the head that
owns the queue; SVRING and SVREP are taken while the service queue is idle, TIMESET before stage 6, and the MSI-X table any
time; a read gives the bytes, the capability list among them. THE MODEL'S CHOICES: one list of addresses holds every address
space (log 68), a failed I/O load gives 64 ones (log 72), the parts of an access that go by line (log 74), and what a read of
BAR 0 gives where R322 names no word (log 85). -/
def Obligations.HostAccesses : Prop :=
  (∀ (s : State) (h : BitVec 1) (a n : Nat) (bs : List (Option Byte)) (w : List Byte) (tee : Option (BitVec 4)) (tn : BitVec 4)
    (off va k : Nat) (ps : List (Nat × Nat × Nat)) (q : Nat × Nat × Nat) (acc : FabricAccess) (o : InOp),
    let sent (u : State) (m : OutMsg) : State := { u with hub := { u.hub with out := u.hub.out ++ [m] } }
    let free (who : Asker) (pa : Nat) : Prop :=
      s.granted none pa = true ∧ s.net.inbound.all (fun x => !x.before ⟨who, pa, .read 0, none, false⟩) = true
    let first (i : BitVec 4) : Prop := s.net.late.all (fun x => x.tn != i) = true
    let on (u : State) (pa : Nat) : State := State.atHome false (u.combineLine none (lineOf pa)) (lineOf pa)
    let data (u : State) (pa m : Nat) : List Byte := (List.range m).map (fun i => u.readByte (pa + i))
    let c := s.countHost a
    let p := hostAddr h a
    let cells (b : Nat) : List Host.Cell := bs.zipIdx.filterMap (fun x => x.1.map (fun y => (b + x.2, y)))
    (s.headUp h = true → 0 < n → a % 64 + n ≤ 64 → bs.length = n →
      (isDevice a = true → free (.host h) a →
        (c.hostMay h none a = true → (on c a).poisonOf a = none →
          exec (.hostCxlMemAccess h (.read a n)) s = .next (sent (on c a) (.bytes h (data (on c a) a n))))
        ∧ (c.hostMay h none a = true → (on c a).poisonOf a ≠ none →
          exec (.hostCxlMemAccess h (.read a n)) s = .next (sent (on c a) (.poisoned h n)))
        ∧ (c.hostMay h none a = false → exec (.hostCxlMemAccess h (.read a n)) s = .next (sent c (.poisoned h n))
          ∧ exec (.hostCxlMemAccess h (.write a bs false)) s = .next c)
        ∧ (c.hostMay h none a = true → cells a ≠ [] →
          (c.poisonOf a = none → exec (.hostCxlMemAccess h (.write a bs false)) s = .next (c.writeEvent none false (cells a)))
          ∧ exec (.hostCxlMemAccess h (.write a bs true)) s = .next (c.markPoison (lineOf a) 4))
        ∧ (s.hostMay h (some tee) a = false → exec (.hostCxlMemAccess h (.ioRead tee a n)) s = .next (sent s (.poisoned h n))))
      ∧ (isDevice a = true → ¬ free (.host h) a → exec (.hostCxlMemAccess h (.write a bs false)) s =
        .next { s with net := { s.net with inbound := s.net.inbound ++ [⟨.host h, a, .write bs false, none, s.draining a⟩] } })
      ∧ (free (.snoop h) p →
        exec (.hostLineInvalidate h (.read a n)) s = .next ((s.combineLine none (lineOf p)).hostReads (lineOf p))
        ∧ exec (.hostLineInvalidate h (.write a bs false)) s = .next ((s.putCells none (cells p)).hostTakes
          (fun l => l == lineOf p) ((cells p).map Prod.fst))))
    ∧ ((s.tenant tn).window = some (va, k) → (s.tenant tn).tdisp = .run →
      (first tn → 0 < w.length → off + w.length ≤ 2 ^ k → s.peerParts tn .write (va + off) w.length = .ok ps →
        exec (.peerWrite tn off w false) s = .next (s.partsArrive (.peer tn) tn (.write (w.map some) false) 0 ps)
        ∧ (ps = [q] → w.length = q.2.2 → free (.peer tn) q.1 → s.poisonOf q.1 = none →
          exec (.peerWrite tn off w false) s = .next (s.writeEvent none false (cellsFrom q.1 w))))
      ∧ (first tn → 0 < n → off + n ≤ 2 ^ k → s.peerParts tn .read (va + off) n = .ok ps →
        exec (.peerRead tn off n) s = .next (s.partsArrive (.peer tn) tn (.read n) 0 ps)
        ∧ (ps = [q] → free (.peer tn) q.1 → (on s q.1).poisonOf q.1 = none → exec (.peerRead tn off n) s =
          .next (sent (on s q.1) (.bytes ((on s q.1).tenant tn).head (data (on s q.1) q.1 q.2.2)))))
      ∧ (2 ^ k < off + n → ∃ u, exec (.peerRead tn off n) s = .next u ∧ u.mem = s.mem
        ∧ u.hub.health.events = s.hub.health.events + 1 ∧ u.hub.out = s.hub.out ++ [.refused (s.tenant tn).head]))
    ∧ ((s.tenant tn).tdisp ≠ .run → ∃ u, exec (.peerWrite tn off w false) s = .next u ∧ exec (.peerRead tn off n) s = .next u ∧ u.mem = s.mem
      ∧ u.hub.health.events = s.hub.health.events + 1 ∧ u.hub.out = s.hub.out ++ [.refused (s.tenant tn).head])
    ∧ (s.carries acc.modNum = false → exec (.fabricRemoteAccess acc) s = .next s)
    ∧ (s.carries acc.modNum = true → ∀ es, acc.op = .packet es → exec (.fabricRemoteAccess acc) s =
      .next { s with net := { s.net with farPackets := s.net.farPackets ++ [⟨acc.modNum, acc.colour, acc.tn, es, 0, []⟩] } })
    ∧ (s.carries acc.modNum = true → (acc.op = .read n ∧ o = .read n ∨ acc.op = .write w ∧ o = .write (w.map some) false
        ∨ ∃ op z e v, acc.op = .atomic op z e v ∧ o = .atomic op z e v) → 0 < o.len →
      ((s.tenant acc.tn).exportAt acc.modNum acc.colour.tn acc.va o.len = false →
        exec (.fabricRemoteAccess acc) s = .next (sent s (.farRefused acc.modNum)))
      ∧ ((s.tenant acc.tn).exportAt acc.modNum acc.colour.tn acc.va o.len = true → first acc.tn →
        s.peerParts acc.tn o.acc acc.va o.len = .ok ps →
        exec (.fabricRemoteAccess acc) s = .next (s.partsArrive (.far acc.modNum) acc.tn o 0 ps)
        ∧ (ps = [q] → q.2.2 = o.len → free (.far acc.modNum) q.1 →
          (∀ m, o = .read m → (on s q.1).poisonOf q.1 = none → exec (.fabricRemoteAccess acc) s =
            .next (sent (on s q.1) (.farBytes acc.modNum (some (data (on s q.1) q.1 m)))))
          ∧ (o = .write (w.map some) false → s.poisonOf q.1 = none → exec (.fabricRemoteAccess acc) s =
            .next (s.writeEvent none false (cellsFrom q.1 w)))
          ∧ (∀ op z e v, o = .atomic (some op) z e v → s.poisonOf q.1 = none →
            let u := s.combineLine none (lineOf q.1)
            let old := u.readN q.1 (amoBytes z)
            exec (.fabricRemoteAccess acc) s = .next (sent (u.writeEvent none false (cellsOf q.1 (amoBytes z) (amoNew op z old v)))
              (.farBytes acc.modNum (some ((List.range (amoBytes z)).map (byteOf old)))))))))) 
  ∧ (∀ (s : State) (id : ThreadId) (t : Thread) (z : LoadSize) (d : BitVec 5) (pa c : Nat) (w : Word),
    s.find id = some t → t.stopped = none →
      let gets (i : Instr) (u : State) (v : Word) : Prop := ∃ f : Thread → Thread, exec i s = .next (u.upd id f)
        ∧ (f t).run = .ready ∧ (f t).post = none ∧ (f t).arch = t.arch.setX d v
      let fails (e : FarAnswer) (pc : Word) (x : Flt) : Prop := ∃ f : Thread → Thread,
        exec (.ioCompletion id e w) s = .next ((s.upd id f).faultAfter id 1 pc x)
        ∧ (f t).run = .ready ∧ (f t).post = none ∧ (f t).arch = t.arch
      let wrong (pc : Word) (va : Nat) : Prop := fails .refused pc ⟨0x04, 6, addrWord va, 0, 0, none⟩
        ∧ ∀ e, fails (.poisoned e) pc ⟨0x05, e.toNat, addrWord va, 0, 0, none⟩
      (t.post = some (.ioLoad z d pa (some c)) → t.run = .parked .result →
        gets (.ioCompletion id .data w) s (loadExtend z w) ∧ gets (.ioCompletion id .refused w) s (BitVec.allOnes 64)
          ∧ (∀ e, gets (.ioCompletion id (.poisoned e) w) s (BitVec.allOnes 64))
          ∧ gets (.ioCompletionTimeout id) { s with cyc := max s.cyc (c + Config.ioTimeout) } (BitVec.allOnes 64))
      ∧ (s.carries (farModuleOf pa) = true →
        (∀ va pc, t.post = some (.fabLoad z d va pa pc) → t.run = .parked .result →
          gets (.ioCompletion id .data w) s (loadExtend z w) ∧ wrong pc va)
        ∧ (∀ op y va v pc, isFab pa = true → t.post = some (.amo op y d va pa v pc) → t.run = .ready →
          gets (.ioCompletion id .data w) s (amoOld y (op == .fadd) w) ∧ wrong pc va)
        ∧ (∀ y va x v pc, isFab pa = true → t.post = some (.cas y d va pa x v pc) → t.run = .ready →
          gets (.ioCompletion id .data w) s (amoOld y false w) ∧ wrong pc va)))
  ∧ (∀ (s : State) (h : BitVec 1) (q : BitVec 6) (v : BitVec 32) (x : Word) (i n : Nat) (off : BitVec 24),
    let k := s.queue q
    let sq : BitVec 6 := if h = 0 then 0 else 32
    let e := tget (0, 0x100000000) (s.head h).msix i
    s.headUp h = true →
    (k.valid = true → k.note ≠ 0 →
      (k.head = h → s.granted none k.note = true →
        s.net.inbound.all (fun y => !y.before ⟨.bell, k.note, .read 0, none, false⟩) = true → s.poisonOf k.note = none →
        exec (.doorbell h q v) s = .next (s.writeEvent none false (cellsOf k.note 4 (v.setWidth 64))))
      ∧ (k.head ≠ h → exec (.doorbell h q v) s = .next s))
    ∧ (s.serviceIdle h = true →
      (∃ u, exec (.svring h x) s = .next u ∧ (u.head h).svring = x &&& 0x01FFFFFFFFFFFF8F#64 ∧ u.mem = s.mem
        ∧ (x &&& 0x01FFFFFFFFFFFF8F#64 = 0 → (u.queue sq).ring = 0 ∧ (u.queue sq).n = 0)
        ∧ (x &&& 0x01FFFFFFFFFFFF8F#64 ≠ 0 → (u.queue sq).ring = hostAddr h (x &&& 0x01FFFFFFFFFFFF80#64).toNat
          ∧ (u.queue sq).n = min 16 ((x.extractLsb' 0 4).toNat + 4)))
      ∧ (∃ u, exec (.svrep h x) s = .next u ∧ (u.head h).svrep = x &&& 0x01FFFFFFFFFFFFFF#64 ∧ u.mem = s.mem
        ∧ (u.queue sq).repVec = x.extractLsb' 0 6
        ∧ (u.queue sq).repLine = (if (x &&& 0x01FFFFFFFFFFFFC0#64) = 0 then 0
          else hostAddr h (x &&& 0x01FFFFFFFFFFFFC0#64).toNat)))
    ∧ (s.serviceIdle h = false → exec (.svring h x) s = .next s ∧ exec (.svrep h x) s = .next s)
    ∧ (s.hub.stage < 6 → exec (.timeset h x) s = .next { s with hub := { s.hub with timeset := x } })
    ∧ (6 ≤ s.hub.stage → exec (.timeset h x) s = .next s)
    ∧ (i < 64 → (s.head h).pba.getLsbD i = false →
      (off.toNat = 0x40000 + 16 * i → exec (.registerWrite h off (.write x)) s =
        .next (s.setHead h { s.head h with msix := tset (s.head h).msix i (x, e.2) }))
      ∧ (off.toNat = 0x40000 + 16 * i + 8 → exec (.registerWrite h off (.write x)) s =
        .next (s.setHead h { s.head h with msix := tset (s.head h).msix i (e.1, x) }))
      ∧ (off.toNat = 0x40000 + 16 * i + 4 → exec (.registerWrite h off (.write4 v)) s =
        .next (s.setHead h { s.head h with msix := tset (s.head h).msix i (v ++ e.1.extractLsb' 0 32, e.2) }))
      ∧ (off.toNat = 0x40000 + 16 * i + 12 → exec (.registerWrite h off (.write4 v)) s =
        .next (s.setHead h { s.head h with msix := tset (s.head h).msix i (e.1, v ++ e.2.extractLsb' 0 32) })))
    ∧ (off.toNat < 0x40000 → exec (.registerWrite h off (.write x)) s = .next s ∧ exec (.registerWrite h off (.write4 v)) s = .next s)
    ∧ exec (.registerWrite h off (.read n)) s = .next { s with hub := { s.hub with
        out := s.hub.out ++ [.bytes h ((List.range n).map (fun j => s.barByte h (off.toNat + j)))] } }
    ∧ (∀ j < 0x10000, s.barByte h (0x10000 + j) = s.capByte j)
    ∧ (∀ j < 64, s.barByte h (0x20000 + j) = byteOf (s.hub.healthWord (j / 8)) (j % 8)))

/-- Translation (R290 to R292): the completion of a request that is outstanding fills the TLBs of the core and of its cluster,
or, where the host's tables give no translation, is the refusal that the waiting access takes; a successful page response lets
the thread run its chunk again, and a failed one is the fault of its access or of its engine command; an invalidation empties
the TLBs of the pages and squashes the chunks that used them, and its completion is left to wait for the accesses that used
them; the watches of the tenant are looked at again. What the host's tables hold is a free value (log 15), and so is whether
they have changed without an invalidation (R9, R292). How an engine's request is answered is the model's choice (log 71). -/
def Obligations.TranslationEvents : Prop :=
  ∀ (s : State) (tn : BitVec 4) (core : BitVec 10) (v lg : Nat) (e : Pte) (id : ThreadId) (t : Thread) (f : Flt) (va size : Nat)
    (r : BitVec 24),
    let mine (i : BitVec 4) (x : Thread) : Bool := x.id.tenant == i
    let a := s.askedDone tn core v
    let b := a.hostAnswers tn v
    let within (v : Nat) : Bool := decide (va ≤ v * 4096 + 4095) && decide (v * 4096 < va + size)
    let meets (x : TlbEntry) : Bool := x.tn == tn && decide (va < (x.vpage + 2 ^ (x.lg - 12)) * 4096) && decide (x.vpage * 4096 < va + size)
    let hit (v : Nat) : Bool := within v || (s.tlb.filter meets).any (fun x => x.holds tn x.pasid v)
    ((tn, core, v) ∉ s.asked core → exec (.atsCompletion tn core ⟨v, lg⟩) s = .next s)
    ∧ ((tfind (a.tenant tn).ptab v).isSome = true → Config.freeBit a.free = false → (b.tenant tn).ptab = (a.tenant tn).ptab)
    ∧ ((tfind (a.tenant tn).ptab v).isSome = false ∨ Config.freeBit a.free = true → (b.tenant tn).ptab =
      (match hostPte (a.tenant tn).head (a.free + 1) with
        | some x => tset (a.tenant tn).ptab v x
        | none => tdel (a.tenant tn).ptab v))
    ∧ ((tn, core, v) ∈ s.asked core → tfind (b.tenant tn).ptab v = some e →
      ∃ (u : State) (x y : TlbEntry), exec (.atsCompletion tn core ⟨v, lg⟩) s = .next (u.checkWatches tn)
      ∧ u.mem = s.mem ∧ (tn, core, v) ∉ u.net.ats ∧ x ∈ u.tlb ∧ y ∈ u.tlb ∧ x.core = some core ∧ y.core = none ∧ y.cluster = clusterOf core
      ∧ (∀ z : TlbEntry, z = x ∨ z = y → z.holds tn (s.tenant tn).pasid v = true ∧ z.page v = e ∧ z.lg ≤ max lg 12)
      ∧ u.tlb.find? (fun z => z.core == some core && z.holds tn (s.tenant tn).pasid v) = some x)
    ∧ ((tn, core, v) ∈ s.asked core → tfind (b.tenant tn).ptab v = none →
      ∃ u : State, exec (.atsCompletion tn core ⟨v, lg⟩) s = .next (u.checkWatches tn)
      ∧ u.mem = s.mem ∧ u.tlb = s.tlb ∧ (core, v) ∈ (u.tenant tn).refused)
    ∧ (s.find id = some t → t.run = .parked (.pri v f) → t.stopped = none →
      (∃ g : Thread → Thread, exec (.priResponse id true) s =
          .next (((s.pageAgain id.tenant v).recheckWaits (mine id.tenant)).upd id g)
        ∧ (g t).run = .ready ∧ (g t).arch = t.arch
        ∧ ((s.pageAgain id.tenant v).tenant id.tenant).ptab = tdel (s.tenant id.tenant).ptab v
        ∧ (∀ x ∈ (s.pageAgain id.tenant v).tlb, x.holds id.tenant x.pasid v = false))
      ∧ exec (.priResponse id false) s =
        .next ((s.upd id (fun t => { t with run := .ready })).faultAfter id 0 (f.pc.getD 0) f))
    ∧ ((s.find id).bind Thread.priWait = none → (s.tenant id.tenant).priWait.find? (fun p => p.1 == id.rank) = some (r, v) →
      let k := s.tenant id.tenant
      let s1 := s.setTenant id.tenant { k with priWait := k.priWait.filter (fun p => p != (r, v)) }
      exec (.priResponse id true) s = .next ((s1.pageAgain id.tenant v).recheckWaits (mine id.tenant))
      ∧ ∃ u : State, exec (.priResponse id false) s = .next u ∧ u.mem = s.mem ∧ (r, v) ∈ (u.tenant id.tenant).priNo
        ∧ (r, v) ∉ (u.tenant id.tenant).priWait)
    ∧ (∃ u : State, exec (.atsInvalidationRequest tn va size) s = .next ((u.askWatches tn hit).recheckWaits (mine tn)) ∧ u.mem = s.mem
      ∧ u.net.invals = s.net.invals ++ [s.usersOf tn va hit]
      ∧ (∀ x ∈ u.tlb, x.tn = tn → ¬ (va < (x.vpage + 2 ^ (x.lg - 12)) * 4096 ∧ x.vpage * 4096 < va + size))
      ∧ (s.thr.live = true → s.thr.id.tenant = tn → (∃ p ∈ s.thr.chunk.pages, hit p = true) → u.thr.chunk.conflict = true)
      ∧ u.thr.arch = s.thr.arch)

/-- Errors (R312 to R315): a corrected one is counted; an uncorrected one is counted and contained: a line becomes poison with
cause 1; a warp slot, the weft or a tile empties and stops its loom at its earliest command (LFCMD, FRANK) with a record of
detail 5, and a loom with no command goes on; a freeze is the last resort. A spare row is used and counted; once the spares
have run out the region moves to far memory. A scrub finds only while it is on. Links (R22, R312, R316, R317, R332, R335):
replays, recovery, the loss of a lane and the return of a link; a host link that is down too long, or an adoption word, loses
the host; the freeze word stops the module. THE MODEL'S CHOICES: when the spare rows have run out is a free value, and a link
whose recovery fails stays in it (log 17); the return of a lost host ends its loss once no tenant waits for a rebind (log 69);
link IDE ends with the link (log 70); a row remap sets both health bits (log 86). -/
def Obligations.FailureEvents : Prop :=
  (∀ (s : State) (m : Mechanism) (i a r : Nat) (cl : BitVec 7) (w : BitVec 2) (c : BitVec 10) (e : ErrorSite),
    let h := s.hub.health
    let row : Mechanism → Nat := fun m => match m with | .dramEcc => 1 | .secded => 2 | .parity => 3 | .crc => 4 | .residue => 5
    let last (m : Mechanism) (x : Nat) : Word := BitVec.ofNat 8 (row m) ++ 0#46 ++ BitVec.ofNat 10 x
    let unc (m : Mechanism) (x : Nat) : State :=
      { s with hub := { s.hub with health := { h with unc := h.unc + 1, last := last m x } } }
    exec (.correctedError m i) s = .next { s with hub := { s.hub with health := { h with corr := h.corr + 1, last := last m i } } }
    ∧ exec (.uncorrectableError (.line a)) s = .next ((unc .dramEcc 0).markPoison (a / 64) 1)
    ∧ exec (.uncorrectableError (.l2Line a)) s = .next ((unc .secded (s.homeCore a).toNat).markPoison (a / 64) 1)
    ∧ (∃ u, exec (.uncorrectableError .uncontained) s = .next u ∧ u.hub.frozen = true ∧ u.mem = s.mem ∧ u.threads = s.threads)
    ∧ ((s.cluster cl).loom.queue = [] → ∃ u, exec (.uncorrectableError (.warp cl w)) s = .next u
      ∧ (u.cluster cl).loom.warp w = Operand.empty ∧ (u.cluster cl).loom.tiles = (s.cluster cl).loom.tiles ∧ u.mem = s.mem
      ∧ u.hub.health.unc = h.unc + 1)
    ∧ (∀ (cmd : LoomCmd) (t : BitVec 3), let l := (s.cluster cl).loom
      l.queue.find? (fun k => k.phase != .done) = some cmd → cmd.op ≠ .unwind → l.st ≠ 2 →
      let v := unc .secded cl.toNat
      let stopped (l1 : Loom) (rtile : Word) : State :=
        let d : LoomCmd := { cmd with phase := .arrived, pos := 0, buf := [], pend := [], marks := [], foreign := false }
        let u := (v.putLoom cl { l1.put d with lastRun := s.cyc }).loomRecord cl cmd ⟨0x0B, 5, 0, 0, 0, none⟩ 0 rtile
        u.setLoom cl { (u.cluster cl).loom with st := 2, lfcmd := cmd.seq, frank := cmd.id.rank }
      exec (.uncorrectableError (.warp cl w)) s = .next (stopped (l.setWarp w Operand.empty) 0)
      ∧ exec (.uncorrectableError (.weft cl)) s = .next (stopped { l with weft := Operand.empty } 0)
      ∧ exec (.uncorrectableError (.tile cl t)) s = .next (stopped (l.setTile t Tile.clear) (t.setWidth 64)))
    ∧ (∃ u, exec (.logicFault .uncontained) s = .next u ∧ u.hub.frozen = true ∧ u.hub.health = (unc .residue 0).hub.health
      ∧ u.net.inbound = [] ∧ u.net.late = [] ∧ u.net.farPackets = [] ∧ u.mem = s.mem ∧ u.threads = s.threads
      ∧ (∀ hh n, s.net.inbound = [⟨.host hh, a, .read n, none, false⟩] → s.net.late = [] → u.hub.out = s.hub.out ++ [.poisoned hh n]))
    ∧ (let k := s.region r
      let remapped (n : Nat) : State := { s with free := s.free + 1, hub := { s.hub with
        health := { h with rows := n, repl := true, degraded := true }, capGen := s.hub.capGen + 2 } }
      (Config.freeBit s.free = false → exec (.dramRowRemap r) s = .next (remapped (h.rows + 1)))
      ∧ (Config.freeBit s.free = true → k.tier ≠ none →
        exec (.dramRowRemap r) s = .next ((remapped h.rows).setRegion r { k with moving := some 8, retired := true }))
      ∧ (Config.freeBit s.free = true → k.tier = none → exec (.dramRowRemap r) s = .next (remapped h.rows)))
    ∧ exec (.patrolScrub none) s = .next s
    ∧ (s.hub.scrubOff = true → exec (.patrolScrub (some (.line a))) s = .next s)
    ∧ (s.hub.scrubOff = false → exec (.patrolScrub (some (.line a))) s = .next ((unc .dramEcc 0).markPoison (a / 64) 1))
    ∧ exec (.parityReplay e false) s = .next s
    ∧ ((s.core c).mappedOut = false → s.coreOk c = true → ∃ u, exec (.parityReplay (.core c []) true) s = .next u
      ∧ (u.core c).mappedOut = true ∧ u.hub.health.coresOut = h.coresOut + 1 ∧ u.hub.health.unc = h.unc + 1))
  ∧ (∀ (s : State) (l : BitVec 4) (lane : BitVec 3) (h : BitVec 1) (b : Bool) (j : LinkId),
    let k := s.link l
    let built (u : State) : State := { u with hub := { u.hub with capGen := u.hub.capGen + 2 } }
    let rest := s.hub.recovery.filter (fun i => i != j)
    let x := s.head h
    let o := s.head (h + 1)
    let good : BitVec 8 := k.good &&& ~~~(1#8 <<< lane.toNat)
    let count (g : BitVec 8) : Nat := ((List.range 8).filter g.getLsbD).length
    let lostFlits : State := { s with hub := { s.hub with
      health := { s.hub.health with unc := s.hub.health.unc + 1, last := 4#8 ++ 0#56 } } }
    let back := s.setHead h { x with up := true, downAt := 0, standby := b && o.up && !o.standby }
    let shown (i : Instr) (m : Link) : Prop := ∃ u, exec i s = .next u ∧ u.link l = m ∧ u.hub.capGen = s.hub.capGen + 2
      ∧ u.mem = s.mem
    exec (.flitReplay j false) s = .next s
    ∧ ((∀ i, j ≠ .yv i) → exec (.flitReplay j true) s = .next { lostFlits with hub := { lostFlits.hub with recovery := j :: rest } }
      ∧ exec (.linkRecovery j false) s = .next { s with hub := { s.hub with recovery := rest } })
    ∧ (k.up = true → exec (.flitReplay (.yv l) true) s = .next (lostFlits.setLink l { k with recovery := true }))
    ∧ (k.up = false → exec (.flitReplay (.yv l) true) s = .next lostFlits)
    ∧ (k.recovery = true → exec (.linkRecovery (.yv l) false) s = .next (s.setLink l { k with recovery := false }))
    ∧ (k.recovery = true → shown (.linkRecovery (.yv l) true) { k with recovery := false, up := false })
    ∧ (k.up = true → k.good.getLsbD lane.toNat = true →
      shown (.laneFailure l lane) { k with good := good, up := decide (4 ≤ count good) })
    ∧ (k.up = false → 4 ≤ count k.good → shown (.linkUp l) { k with up := true })
    ∧ (x.up = true → exec (.hostLinkDown h) s =
      .next (built (s.setHead h { x with up := false, downAt := s.cyc + 1, linkIde := false })))
    ∧ (x.up = false → s.tenants.any (fun p => p.2.hostLost) = true → exec (.hostLinkUp h b) s = .next (built back))
    ∧ (x.up = false → s.tenants.any (fun p => p.2.hostLost) = false → exec (.hostLinkUp h b) s = .next (built { back with
        head0 := { back.head0 with lost := back.head0.lost && !back.head0.up }
        head1 := { back.head1 with lost := back.head1.lost && !back.head1.up } }))
    ∧ (x.up = false → x.lost = false → x.downAt ≠ 0 → ∃ u, exec (.hostLinkDownTimeout h) s = .next u ∧ (u.head h).lost = true
      ∧ u.cyc = max s.cyc (x.downAt - 1 + Config.hostLostCycles) ∧ (u.head (h + 1)).standby = false)
    ∧ (x.up = true → x.lost = false → x.standby = true → o.up = false → o.lost = false →
      ∃ u, exec (.adoptionWord h 0x41444F50) s = .next u ∧ (u.head (h + 1)).lost = true ∧ (u.head h).standby = false)
    ∧ (x.up = true → x.lost = false → x.standby = false →
      ∃ u, exec (.freezeWord h 0x46525A45) s = .next u ∧ u.hub.frozen = true ∧ u.net.inbound = [] ∧ u.net.late = []
        ∧ u.mem = s.mem ∧ u.threads = s.threads)
    ∧ (∀ v : BitVec 32, v ≠ 0x46525A45 → exec (.freezeWord h v) s = .next s))

/-- Regions (R308 to R311, R374): the end of a drain sets the bias or the descriptor and wakes those who wait with CODE 11; at
the end of an epoch a far region with a count of 512 begins to move to the near memory of the die with the most accesses when
that has room, a region whose count has reached the tenant's threshold gets one hint record, the counts of device memory are
halved, and those of the hints start at 0; a migration changes the place and no byte. That the counts are looked at when the
epoch ends, and which of several regions or dies with equal counts comes first, is the model's choice (log 116). -/
def Obligations.RegionEvents : Prop :=
  ∀ (s : State) (r d : Nat) (b : Bool) (own : Option (BitVec 4)) (d0 d1 : Word),
    let k := s.region r
    let at' := max s.cyc (s.hub.epochAt + Config.epochCycles)
    let later : State := { s with cyc := at', hub := { s.hub with epochAt := at' } }
    (s.canDrain r = true →
      (k.drain = some (some b, none) → ∃ u, exec (.drainComplete r) s = .next u ∧ (u.region r).hostBias = b
        ∧ (u.region r).drain = none ∧ (u.region r).owner = k.owner ∧ (k.owner = none → u.mem = s.mem)
        ∧ ∀ t ∈ s.threads, t.live = true → t.stopped = none → t.run = .parked (.drain r) → (⟨t.id, 11⟩ : Wake) ∈ u.net.wakes)
      ∧ (k.drain = some (none, some (own, d0, d1)) → ∃ u, exec (.drainComplete r) s = .next u ∧ (u.region r).owner = own
        ∧ (u.region r).d0 = d0 ∧ (u.region r).d1 = d1 ∧ (u.region r).drain = none ∧ (k.owner = none → u.mem = s.mem)
        ∧ ∀ t ∈ s.threads, t.live = true → t.stopped = none → t.run = .parked (.drain r) → (⟨t.id, 11⟩ : Wake) ∈ u.net.wakes))
    ∧ (s.tenants = [] →
      (∃ u, exec .epochEnd s = .next u ∧ u.mem = s.mem ∧ u.cyc = max s.cyc (s.hub.epochAt + Config.epochCycles)
        ∧ u.hub.epochAt = u.cyc ∧ u.threads = s.threads
        ∧ ∀ q, (u.region q).counts = (if isDevice (65536 * q) then (s.region q).counts.map (· / 2) else [])
          ∧ (u.region q).hostCount = 0 ∧ (u.region q).hinted = false)
      ∧ (s.regions = [(r, k)] →
        let die := mostOf k.counts
        let room := (s.nearAfter die + s.hub.lostFrames.count die + 1) * 65536 ≤ Config.nearBytes
        let k1 : Region := { k with
          counts := if isDevice (65536 * r) then k.counts.map (· / 2) else [], hostCount := 0, hinted := false }
        (k.pinned = false → k.tier = some 8 → k.moving = none → 512 ≤ k.counts.sum → room → exec .epochEnd s = .next { later with
          regions := [(r, { k1 with moving := some die })] })
        ∧ (k.pinned = true ∨ k.tier ≠ some 8 ∨ k.moving ≠ none ∨ k.counts.sum < 512 → exec .epochEnd s = .next { later with
          regions := [(r, k1)] })
        ∧ ∀ j < k.counts.length, k.counts.getD j 0 ≤ k.counts.getD die 0))
    ∧ (∀ (i : Nat) (t : Tenant) (hr : Hints) (v p : Nat) (kp : Region), i < 16 → s.tenants = [(i, t)] → s.regions = [(p, kp)] →
      let n := if isDevice (p * 65536) then kp.hostCount else kp.counts.sum
      let prod := later.readN hr.ring 8
      let q := later.setRegion p { kp with hinted := true }
      let q1 := q.writeEvent none false (cellsFrom (hr.ring + 16 + 32 * (prod.toNat % 2 ^ hr.n)) (wordsBytes
        [(if isDevice (p * 65536) then 2#2 else 1#2) ++ 0#5 ++ BitVec.ofNat 41 v ++ BitVec.ofNat 16 hr.drop,
          0#12 ++ BitVec.ofNat 20 (t.pasid.getD 0).toNat ++ 0#28 ++ BitVec.ofNat 4 i, BitVec.ofNat 64 n, BitVec.ofNat 64 later.cyc]))
      t.hints = some hr → t.vregions = [(v, p)] → kp.tier ≠ some 8 → kp.hinted = false → hr.hintt ≤ n →
      s.blocked none (lineOf hr.ring) = false → s.hostGone hr.ring = false → (prod - later.readN (hr.ring + 8) 8).toNat < 2 ^ hr.n →
      ∃ u, exec .epochEnd s = .next u ∧ u.mem = (q1.writeEvent none false (cellsOf hr.ring 8 (prod + 1))).mem
        ∧ (u.tenant (BitVec.ofNat 4 i)).hints = some { hr with drop := 0 })
    ∧ (k.moving = some d → s.canMigrate r = true →
      (∃ u, exec (.regionMigrationComplete r) s = .next u ∧ u.mem = s.mem ∧ u.threads = s.threads
        ∧ u.region r = { k with tier := some d, moving := none, retired := false })
      ∧ (k.retired = false → exec (.regionMigrationComplete r) s =
        .next (s.setRegion r { k with tier := some d, moving := none, retired := false })))

/-- Sessions and streams (R293, R294, R296, R319): measurements, the start of a session, heartbeats and keys, a failed
integrity check, and the three ends of a session, which invalidate its keys and send every tenant that is bound to it and in
CONFIG_LOCKED or RUN to ERROR; one that no heartbeat keeps ends with the period. The TDISP requests (R295 to R297): the
answers to the queries; a lock takes CONFIG_UNLOCKED to CONFIG_LOCKED with a nonce, a start takes that to RUN with the same
nonce, and a stop first stops the tenant and starts its drain, and once it has drained scrubs it, so that its regions read as
zero, to CONFIG_UNLOCKED. THE MODEL'S CHOICES: the bytes of a measurement and of the capabilities, and the side band (log 6),
the layout of the report and the answers without bytes (log 82), the heartbeat period (log 114). -/
def Obligations.SecurityRequests : Prop :=
  (∀ (s : State) (h : BitVec 1) (tn : BitVec 4),
    let x := s.head h
    let t := s.tenant tn
    let key : Tenant := if h = 0 then { t with keyed0 := true } else { t with keyed1 := true }
    let keyed : Bool := if h = 0 then t.keyed0 else t.keyed1
    let gone (i : Instr) (c : Nat) : Prop := ∃ u, exec i s = .next u ∧ (u.head h).session = false ∧ (u.head h).linkIde = false
      ∧ u.mem = s.mem ∧ u.cyc = c
      ∧ (keyed = true → (if h = 0 then (u.tenant tn).keyed0 else (u.tenant tn).keyed1) = false
        ∧ (t.tdisp = .locked ∨ t.tdisp = .run → (u.tenant tn).tdisp = .error ∧ (u.tenant tn).stopped = true)
        ∧ (t.tdisp = .unlocked ∨ t.tdisp = .error → (u.tenant tn).tdisp = t.tdisp ∧ (u.tenant tn).stopped = t.stopped))
    (∃ bs, bs.length = 256 ∧ exec (.getMeasurements h) s =
      .next { s with hub := { s.hub with out := s.hub.out ++ [if s.headUp h then .bytes h bs else .side bs] } })
    ∧ (s.headUp h = true → exec (.spdmSessionStart h) s = .next (s.setHead h { x with session := true, beat := s.cyc, linkIde := true }))
    ∧ (s.headUp h = false → exec (.spdmSessionStart h) s = .next s ∧ exec (.heartbeat h) s = .next s)
    ∧ (x.session = true →
      (s.headUp h = true → exec (.heartbeat h) s = .next (s.setHead h { x with beat := s.cyc }))
      ∧ exec (.ideKm h tn) s = .next (s.setTenant tn key)
      ∧ exec (.keyUpdate h true) s = .next s
      ∧ gone (.keyUpdate h false) s.cyc ∧ gone (.endSession h) s.cyc
      ∧ gone (.sessionExpiry h) (max s.cyc (x.beat + Config.heartbeatPeriod)))
    ∧ (x.session = false → exec (.sessionExpiry h) s = .next s ∧ exec (.heartbeat h) s = .next s
      ∧ exec (.ideKm h tn) s = .next s)
    ∧ (t.tdisp = .locked ∨ t.tdisp = .run → ∃ u, exec (.ideIntegrityFailure h (some tn)) s = .next u
      ∧ (u.tenant tn).tdisp = .error ∧ (u.tenant tn).stopped = true ∧ u.mem = s.mem)
    ∧ (t.tdisp = .unlocked ∨ t.tdisp = .error → exec (.ideIntegrityFailure h (some tn)) s = .next s))
  ∧ (∀ (s : State) (h : BitVec 1) (tn : BitVec 4) (n : Nat), s.headUp h = true →
    let t := s.tenant tn
    let said (u : State) (bs : List Byte) : State := { u with hub := { u.hub with out := u.hub.out ++ [.bytes h bs] } }
    let no : Out := .next { s with hub := { s.hub with out := s.hub.out ++ [.refused h] } }
    let keyed := if h = 0 then t.keyed0 else t.keyed1
    let code : Byte := match t.tdisp with | .unlocked => 0 | .locked => 1 | .run => 2 | .error => 3
    exec (.getTdispVersion h tn) s = .next (said s [0x10])
    ∧ (∃ bs, exec (.getTdispCapabilities h tn) s = .next (said s bs))
    ∧ exec (.getDeviceInterfaceState h tn) s = .next (said s [code])
    ∧ (let rs := (s.regions.filter (fun p => p.2.owner == some tn)).map (fun p => BitVec.ofNat 64 (65536 * p.1))
      let qs := (s.queues.filter (fun p => p.2.valid && !p.2.service && p.2.owner == tn)).map (fun p => BitVec.ofNat 64 p.1)
      exec (.getDeviceInterfaceReport h tn) s = .next (said s (wordsBytes ([0#50 ++ t.rect.hm1 ++ t.rect.crow0 ++ t.rect.wm1 ++
        t.rect.ccol0, BitVec.ofNat 64 rs.length] ++ rs ++ [BitVec.ofNat 64 qs.length] ++ qs))))
    ∧ ((s.head h).session = true → keyed = true → t.valid = true → t.tdisp = .unlocked → t.leaving = 0 →
      ∃ u bs m, exec (.lockInterfaceRequest h tn) s = .next (said u bs) ∧ (u.tenant tn).tdisp = .locked
        ∧ (u.tenant tn).nonce = some m ∧ bs.length = 32 ∧ u.mem = s.mem ∧ u.threads = s.threads)
    ∧ (t.tdisp ≠ .unlocked ∨ keyed = false ∨ (s.head h).session = false → exec (.lockInterfaceRequest h tn) s = no)
    ∧ (t.tdisp = .locked → t.leaving = 0 →
      (t.nonce = some n → exec (.startInterfaceRequest h tn n) s =
        .next (said (s.setTenant tn { t with tdisp := .run, nonce := none }) []))
      ∧ (t.nonce ≠ some n → exec (.startInterfaceRequest h tn n) s = no))
    ∧ (t.valid = true → t.leaving ≠ 2 → t.out = false → (s.leaveRun tn).drained tn = false → ∃ u,
      exec (.stopInterfaceRequest h tn) s = .next u ∧ (u.tenant tn).leaving = 2 ∧ (u.tenant tn).stopped = true
        ∧ (u.tenant tn).tdisp = t.tdisp ∧ u.mem = s.mem ∧ (∀ x ∈ u.threads, x.id.tenant = tn → x.live = true → x.stopped ≠ none
          ∨ x.run = .retained))
    ∧ (t.valid = true → t.leaving = 2 → t.out = false → s.drained tn = false → exec (.stopInterfaceRequest h tn) s = .next s)
    ∧ (t.valid = true → t.leaving = 2 → s.drained tn = true → ∃ u, exec (.stopInterfaceRequest h tn) s = .next u
      ∧ (u.tenant tn).tdisp = .unlocked ∧ (∀ id : ThreadId, id.tenant = tn → u.find id = none)
      ∧ (∀ a, s.ownsAddr tn a = true → memRead u.mem a = 0) ∧ (∀ a, s.ownsAddr tn a = false → memRead u.mem a = memRead s.mem a)))

/-- Reset, bring-up, power and management (R87, R336 to R338): a reset gives the state of R336; bring-up goes stage by stage,
and at 6 the module time is loaded; D3hot is entered only while every tenant is CONFIG_UNLOCKED, and D0 returns to stage 6; a
sensor answers, on the head that was asked or on the side band. THE MODEL'S CHOICES: that a reset takes back every map-out
(log 81), the reset values that R336 does not give (log 11), the notify words of the service queues (log 63), and the side
band (log 6). -/
def Obligations.HubEvents : Prop :=
  ∀ (s : State) (h : BitVec 1) (i : BitVec 3),
    let st (n : Nat) : Hub := { s.hub with stage := n }
    exec .reset s = .next { State.reset with free := s.free, agenda := s.agenda }
    ∧ (s.hub.failedAt = none →
      (∀ n, s.hub.stage = n → n = 0 ∨ n = 1 ∨ n = 2 ∨ n = 4 → exec (.bringUpStage true) s = .next { s with hub := st (n + 1) })
      ∧ (s.hub.stage = 3 → ∃ u, exec (.bringUpStage true) s = .next u ∧ u.hub.stage = 4 ∧ u.hub.modNum = Config.moduleNumber
        ∧ u.hub.capGen = s.hub.capGen + 2 ∧ u.hub.caps.gen = u.hub.capGen
        ∧ (u.queue 0).note = noteAddr 0 ∧ (u.queue 32).note = noteAddr 32)
      ∧ (s.hub.stage = 5 → exec (.bringUpStage true) s =
        .next { s with hub := { st 6 with timeBase := s.hub.timeset, timeAt := s.cyc } })
      ∧ (s.hub.stage < 6 → exec (.bringUpStage false) s = .next { s with hub := { s.hub with failedAt := some (s.hub.stage + 1) } }))
    ∧ (s.hub.stage = 6 → s.tenants.all (fun p => p.2.tdisp == .unlocked) = true →
      exec .d3hotEntry s = .next { s with hub := { s.hub with d3 := true } })
    ∧ (s.tenants.any (fun p => p.2.tdisp != .unlocked) = true → exec .d3hotEntry s = .next s)
    ∧ (s.hub.d3 = true → exec .d0Return s = .next { s with hub := { s.hub with d3 := false, stage := 6 } })
    ∧ (let told (w : Word) : State := { s with
        free := s.free + 1
        hub := { s.hub with out := s.hub.out ++ [if s.headUp h then .bytes h (wordsBytes [w]) else .side (wordsBytes [w])] } }
      exec (.pldmRequest h (.health i)) s = .next (told (s.hub.healthWord i.toNat))
      ∧ (∃ w, exec (.pldmRequest h .power) s = .next (told w)) ∧ (∃ w, exec (.pldmRequest h .inlet) s = .next (told w)))

/-- The functions of the launch service (R164, R222, R235, R247, R286, R288, R310, R311, R318, R319, R327, R328, R331, R333),
each as one event at stage 6: what it writes, and the refusals that leave everything as it was. THE MODEL'S CHOICES: which
operand of a record holds what (log 61); that a refused change of a locked configuration is not made (log 62); the notify word
after FUNC 1 (log 63). -/
def Obligations.ServiceFunctions : Prop :=
  ∀ (s : State) (h : BitVec 1) (o : Opers) (pa : Nat), s.hub.stage = 6 →
    let tn : BitVec 4 := o.o0.setWidth 4
    let t := s.tenant tn
    let q : BitVec 6 := o.o0.setWidth 6
    let r := o.o0.toNat / 65536
    let ten (i : Instr) (t' : Tenant) : Prop := exec i s = .next (s.setTenant tn t')
    let va (w : Word) : Nat := w.toNat % 2 ^ 57
    let rect : Rect := ⟨o.o1.extractLsb' 0 4, o.o1.extractLsb' 4 4, o.o1.extractLsb' 8 3, o.o1.extractLsb' 11 3⟩
    ((s.queue q).service = false → (s.queue q).valid = false → (s.tenant (o.o1.setWidth 4)).tdisp = .unlocked →
      4 ≤ (o.o3.extractLsb' 0 5).toNat → (o.o3.extractLsb' 0 5).toNat ≤ 16 → ∃ u, exec (.queueSetup h o) s = .next u
        ∧ (u.queue q).valid = true ∧ (u.queue q).owner = o.o1.setWidth 4 ∧ (u.queue q).head = h
        ∧ (u.queue q).n = (o.o3.extractLsb' 0 5).toNat ∧ (u.queue q).qhead = 0 ∧ (u.queue q).st = .idle)
    ∧ (t.tdisp = .unlocked → cellarLimit < o.o3.toNat % 4096 → exec (.tenantSetup h o) s = .next s)
    ∧ (t.tdisp = .unlocked → rect.ok = true → s.rectClash tn rect = false → o.o3.toNat % 4096 ≤ cellarLimit →
      o.o6.toNat ≤ 2 ^ 24 → o.o7.toNat ≤ 1 → ∃ u, exec (.tenantSetup h o) s = .next u ∧ (u.tenant tn).valid = true ∧ (u.tenant tn).rect = rect
        ∧ (u.tenant tn).rmax = o.o6.toNat ∧ (u.tenant tn).ptab = [] ∧ (u.tenant tn).cellarPages = o.o3.toNat % 4096 ∧ u.mem = s.mem ∧ u.threads = s.threads)
    ∧ (t.tdisp = .run → ∃ u, exec (.tenantSetup h o) s = .next u ∧ (u.tenant tn).tdisp = .error ∧ (u.tenant tn).rect = t.rect)
    ∧ (t.tdisp = .unlocked → t.valid = true → o.o1.toNat / 2 ^ 62 = 0 → o.o4.toNat < Config.deviceBytes →
      o.o3.extractLsb' 0 4 = 8 → (s.region (o.o4.toNat / 65536)).owner = none → (s.region (o.o4.toNat / 65536)).drain = none →
      ∃ u, exec (.regionSetup h o) s = .next u ∧ u.mem = s.mem ∧ (u.region (o.o4.toNat / 65536)).owner = none
        ∧ (u.region (o.o4.toNat / 65536)).drain = some (none, some (some tn, o.o1 &&& 0xC000000F000003FF#64, o.o2))
        ∧ ((s.region (o.o4.toNat / 65536)).tier = none → (u.region (o.o4.toNat / 65536)).first = 8))
    ∧ (o.o0.toNat < Config.deviceBytes →
      ((s.region r).drain = none → ∃ u, exec (.biasFlip h o) s = .next u
        ∧ (u.region r).drain = some (some (o.o1.getLsbD 0), none) ∧ (u.region r).hostBias = (s.region r).hostBias ∧ u.mem = s.mem)
      ∧ exec (.pin h o) s = .next (s.setRegion r { s.region r with pinned := o.o1.getLsbD 0 }))
    ∧ (t.stopped = true ∨ t.out = true → 64 ≤ o.o1.toNat → o.o1.toNat ≤ 65535 → 1000 ≤ o.o2.toNat → o.o2.toNat ≤ 100000 →
      ∃ u, exec (.orderingSetup h o) s = .next u ∧ (u.tenant tn).dage = o.o1.toNat ∧ (u.tenant tn).leasemax = o.o2.toNat
        ∧ u.mem = s.mem)
    ∧ (o.o2 = 0 → ten (.pulseSetup h o) { t with pulse := none })
    ∧ (2 ^ 20 ≤ o.o2.toNat → o.o2.toNat ≤ 2 ^ 40 → va o.o1 % 8 = 0 →
      s.translate tn (coreOf (t.rect.clusters.headD 0) 0) .read (va o.o1) = .ok pa →
      ten (.pulseSetup h o) { t with pulse := some ⟨pa, va o.o1, o.o2.toNat, s.cyc, 0⟩ })
    ∧ (6 ≤ o.o2.toNat → o.o2.toNat ≤ 20 →
      ten (.hintsSetup h o) { t with hints := some ⟨hostAddr h (va o.o1), o.o2.toNat,
        if o.o3 = 0 then 4096 else o.o3.toNat, 0⟩ })
    ∧ (21 ≤ o.o6.toNat → o.o6.toNat ≤ 40 → o.o2 ≠ 0 → o.o4 ≠ 0 → ten (.peersSetup h o) { t with
        peers := [(va o.o1, o.o2.toNat), (va o.o3, o.o4.toNat)], window := some (va o.o5, o.o6.toNat) })
    ∧ (21 ≤ o.o2.toNat → o.o2.toNat ≤ 40 → va o.o1 % 2 ^ o.o2.toNat = 0 → o.o3.getLsbD 63 = true →
      ten (.fabricSetup h o) { t with fabric := t.fabric ++
        [⟨va o.o1, o.o2.toNat, o.o3.extractLsb' 0 8, o.o3.extractLsb' 8 4, va o.o4, true⟩] })
    ∧ exec (.scrubControl h o) s = .next { s with hub := { s.hub with scrubOff := !o.o0.getLsbD 0 } }
    ∧ (o.o0 = 0 → (s.queue (o.o1.setWidth 6)).valid = true → (s.queue (o.o1.setWidth 6)).lost = false →
      exec (.rebind h o) s = .next (s.setQueue (o.o1.setWidth 6) { s.queue (o.o1.setWidth 6) with head := h }))
    ∧ (let k := s.tenant (o.o1.setWidth 4)
      o.o0 = 1 → k.valid = true → ∃ u, exec (.rebind h o) s = .next u
        ∧ (if h = 0 then (u.tenant (o.o1.setWidth 4)).pasid0 else (u.tenant (o.o1.setWidth 4)).pasid1) = some (o.o2.extractLsb' 0 20)
        ∧ (u.tenant (o.o1.setWidth 4)).hostLost = false ∧ (u.tenant (o.o1.setWidth 4)).ptab = []
        ∧ (∀ e ∈ u.tlb, e.tn ≠ o.o1.setWidth 4) ∧ u.mem = s.mem ∧ u.threads = s.threads)
    ∧ (t.stopped = true ∨ t.out = true → o.o1.toNat ≤ 1 → ten (.issuePolicy h o) { t with rr := o.o1.getLsbD 0 })
    ∧ (1200 ≤ o.o0.toNat → o.o0.toNat ≤ 3400 →
      exec (.powerLimit h o) s = .next { s with hub := { s.hub with powerLimit := o.o0.toNat } })
    ∧ (o.o0.toNat < 1200 ∨ 3400 < o.o0.toNat → exec (.powerLimit h o) s = .next s)
    ∧ (t.tdisp = .run → t.out = false →
      (t.stopped = false → exec (.tenantStop h o) s = .next (s.stopTenant tn))
      ∧ (t.stopped = true → t.leaving = 0 → exec (.tenantStart h o) s = .next (s.startTenant tn)))
    ∧ (t.out = false → t.leaving = 0 → ∃ v : State, (v.tenant tn).leaving = 1 ∧ (v.tenant tn).wasStopped = t.stopped
      ∧ (v.tenant tn).stopped = true ∧ v.mem = s.mem ∧ (v.drained tn = false → exec (.switchOut h o) s = .next v)
      ∧ (v.drained tn = true → ∃ u, exec (.switchOut h o) s = .next u ∧ (u.tenant tn).out = true))
    ∧ (t.out = false → t.leaving = 1 → s.drained tn = false → exec (.switchOut h o) s = .next s)
    ∧ (t.out = false → t.leaving = 1 → s.drained tn = true → ∃ u, exec (.switchOut h o) s = .next u ∧ (u.tenant tn).out = true
      ∧ u.mem = s.mem ∧ ∀ cl, t.rect.holds cl = true → (u.cluster cl).loom.tiles = [] ∧ (u.cluster cl).loom.queue = [])
    ∧ (t.out = true → s.rectClash tn t.rect = false → t.wasStopped = true ∨ t.tdisp = .error → ∃ u, exec (.switchIn h o) s = .next u
      ∧ (u.tenant tn).out = false ∧ (u.tenant tn).gen = t.gen + 1 ∧ u.mem = s.mem)
    ∧ (t.out = true → s.rectClash tn t.rect = false → t.wasStopped = false → t.tdisp ≠ .error → ∃ v : State,
      exec (.switchIn h o) s = .next (v.startTenant tn) ∧ (v.tenant tn).out = false ∧ (v.tenant tn).gen = t.gen + 1 ∧ v.mem = s.mem)
    ∧ (t.out = true → s.rectClash tn t.rect = true → exec (.switchIn h o) s = .next s)
end

