-- ==== Sys2Proof/Laws/Map.lean ====
section
/-! SUPPORT. Laws of sparse data by key: reading back what was written, and that every operation keeps the keys strictly
rising. -/

namespace Sys2Proof.Machine

variable {α : Type}

@[simp] theorem tget_tset_same (d v : α) (t : Tab α) (k : Nat) : tget d (tset t k v) k = v := by
  induction t with
  | nil => simp [tset, tget]
  | cons p t ih =>
    obtain ⟨i, w⟩ := p
    simp only [tset]
    split
    · simp [tget]
    · split
      · simp [tget]
      · have : i ≠ k := by omega
        simp [tget, this, ih]

theorem tget_tset_other (d v : α) (t : Tab α) {k j : Nat} (h : j ≠ k) : tget d (tset t k v) j = tget d t j := by
  induction t with
  | nil => simp [tset, tget, h.symm]
  | cons p t ih =>
    obtain ⟨i, w⟩ := p
    simp only [tset]
    split
    · simp [tget, h.symm]
    · split
      · subst_vars; simp [tget, h.symm]
      · simp [tget, ih]

@[simp] theorem tfind_tset_same (v : α) (t : Tab α) (k : Nat) : tfind (tset t k v) k = some v := by
  induction t with
  | nil => simp [tset, tfind]
  | cons p t ih =>
    obtain ⟨i, w⟩ := p
    simp only [tset]
    split
    · simp [tfind]
    · split
      · simp [tfind]
      · have : i ≠ k := by omega
        simp [tfind, this, ih]

theorem tfind_tset_other (v : α) (t : Tab α) {k j : Nat} (h : j ≠ k) : tfind (tset t k v) j = tfind t j := by
  induction t with
  | nil => simp [tset, tfind, h.symm]
  | cons p t ih =>
    obtain ⟨i, w⟩ := p
    simp only [tset]
    split
    · simp [tfind, h.symm]
    · split
      · subst_vars; simp [tfind, h.symm]
      · simp [tfind, ih]

/-- The keys of a table in canonical form rise strictly. -/
theorem twf_iff_sorted (t : Tab α) : twf t = true ↔ (t.map Prod.fst).Pairwise (· < ·) := by
  rw [← List.isChain_iff_pairwise]
  induction t with
  | nil => simp [twf]
  | cons p t ih =>
    cases t with
    | nil => simp [twf]
    | cons q t => obtain ⟨i, v⟩ := p; obtain ⟨j, w⟩ := q; simpa [twf] using fun _ => by simpa using ih

theorem mem_keys_tset (t : Tab α) (k : Nat) (v : α) (j : Nat) :
    j ∈ (tset t k v).map Prod.fst → j = k ∨ j ∈ t.map Prod.fst := by
  induction t with
  | nil => simp [tset]
  | cons p t ih =>
    obtain ⟨i, w⟩ := p
    simp only [tset]
    split
    · simp
    · split
      · simp only [List.map_cons, List.mem_cons]
        rintro (rfl | h)
        · exact .inl rfl
        · exact .inr (.inr h)
      · simp only [List.map_cons, List.mem_cons]
        rintro (rfl | h)
        · exact .inr (.inl rfl)
        · exact (ih h).imp_right .inr

theorem twf_tset (t : Tab α) (k : Nat) (v : α) (h : twf t = true) : twf (tset t k v) = true := by
  rw [twf_iff_sorted] at h ⊢
  induction t with
  | nil => simp [tset]
  | cons p t ih =>
    obtain ⟨i, w⟩ := p
    simp only [List.map_cons, List.pairwise_cons] at h
    simp only [tset]
    split
    · rename_i hk
      simp only [List.map_cons, List.pairwise_cons, List.mem_cons]
      exact ⟨by rintro j (rfl | hj); exacts [hk, hk.trans (h.1 j hj)], h.1, h.2⟩
    · split
      · subst_vars; simpa using h
      · simp only [List.map_cons, List.pairwise_cons]
        refine ⟨fun j hj => ?_, ih h.2⟩
        rcases mem_keys_tset t k v j hj with rfl | hj'
        · omega
        · exact h.1 j hj'

theorem twf_filter (t : Tab α) (p : Nat × α → Bool) (h : twf t = true) : twf (t.filter p) = true := by
  rw [twf_iff_sorted] at h ⊢
  exact h.sublist ((List.filter_sublist).map _)

theorem twf_tdel (t : Tab α) (k : Nat) (h : twf t = true) : twf (tdel t k) = true := twf_filter t _ h

theorem twf_tput [DecidableEq α] (d : α) (t : Tab α) (k : Nat) (v : α) (h : twf t = true) : twf (tput d t k v) = true := by
  unfold tput
  split
  · exact twf_tdel t k h
  · exact twf_tset t k v h

theorem tget_tdel_same (d : α) (t : Tab α) (k : Nat) : tget d (tdel t k) k = d := by
  induction t with
  | nil => rfl
  | cons p t ih =>
    obtain ⟨i, w⟩ := p
    by_cases h : i = k
    · simpa [tdel, h] using ih
    · simpa [tdel, h, tget] using ih

theorem tget_tdel_other (d : α) (t : Tab α) {k j : Nat} (h : j ≠ k) : tget d (tdel t k) j = tget d t j := by
  induction t with
  | nil => rfl
  | cons p t ih =>
    obtain ⟨i, w⟩ := p
    by_cases hi : i = k
    · subst hi
      simpa [tdel, tget, h.symm] using ih
    · simp only [tdel, List.filter_cons, bne_iff_ne, ne_eq, hi, not_false_eq_true, if_true, tget] at ih ⊢
      split
      · rfl
      · exact ih

@[simp] theorem tget_tput_same [DecidableEq α] (d : α) (t : Tab α) (k : Nat) (v : α) : tget d (tput d t k v) k = v := by
  unfold tput
  split
  · subst_vars; exact tget_tdel_same v t k
  · exact tget_tset_same d v t k

theorem tget_tput_other [DecidableEq α] (d : α) (t : Tab α) {k j : Nat} (v : α) (h : j ≠ k) :
    tget d (tput d t k v) j = tget d t j := by
  unfold tput
  split
  · exact tget_tdel_other d t h
  · exact tget_tset_other d v t h

theorem mem_tset (t : Tab α) (k : Nat) (v : α) (p : Nat × α) : p ∈ tset t k v → p = (k, v) ∨ p ∈ t := by
  induction t with
  | nil => simp [tset]
  | cons q t ih =>
    obtain ⟨i, w⟩ := q
    simp only [tset]
    split
    · simp
    · split
      · simp only [List.mem_cons]
        rintro (rfl | h)
        · exact .inl rfl
        · exact .inr (.inr h)
      · simp only [List.mem_cons]
        rintro (rfl | h)
        · exact .inr (.inl rfl)
        · exact (ih h).imp_right .inr

end Sys2Proof.Machine
end

