-- ==== Sys2Proof/Laws/Memory.lean ====
section
/-! SUPPORT. Laws of memory: reading back what was written, that a write leaves every other address alone, and that every
write keeps the canonical form. -/

namespace Sys2Proof.Machine

@[simp] theorem memRead_memWrite_same (m : List Host.Cell) (a : Nat) (b : Byte) : memRead (memWrite m a b) a = b :=
  tget_tput_same _ m a b

theorem memRead_memWrite_other (m : List Host.Cell) {a c : Nat} (b : Byte) (h : c ≠ a) :
    memRead (memWrite m a b) c = memRead m c := tget_tput_other _ m b h

theorem memWf_iff (m : List Host.Cell) : Memory.wf m = true ↔ twf m = true ∧ ∀ c ∈ m, c.2 ≠ memDefault := by
  simp [Memory.wf]

/-- A write keeps the canonical form. -/
theorem memWf_memWrite (m : List Host.Cell) (a : Nat) (b : Byte) (h : Memory.wf m = true) :
    Memory.wf (memWrite m a b) = true := by
  rw [memWf_iff] at h ⊢
  refine ⟨twf_tput _ m a b h.1, ?_⟩
  unfold memWrite tput
  split
  · exact fun c hc => h.2 c (List.mem_filter.1 hc).1
  · intro c hc
    rcases mem_tset m a b c hc with rfl | hc'
    · assumption
    · exact h.2 c hc'

/-- Writing a list of cells keeps the canonical form. -/
theorem memWf_memWriteAll (m : List Host.Cell) (cs : List Host.Cell) (h : Memory.wf m = true) :
    Memory.wf (memWriteAll m cs) = true := by
  unfold memWriteAll
  induction cs generalizing m with
  | nil => exact h
  | cons c cs ih => exact ih _ (memWf_memWrite m c.1 c.2 h)

/-- Forgetting addresses keeps the canonical form. -/
theorem memWf_filter (m : List Host.Cell) (p : Host.Cell → Bool) (h : Memory.wf m = true) : Memory.wf (m.filter p) = true := by
  rw [memWf_iff] at h ⊢
  exact ⟨twf_filter m p h.1, fun c hc => h.2 c (List.mem_filter.1 hc).1⟩

/-- An address that no cell names reads as before. -/
theorem memRead_memWriteAll_other (m : List Host.Cell) (cs : List Host.Cell) (a : Nat) (h : ∀ c ∈ cs, c.1 ≠ a) :
    memRead (memWriteAll m cs) a = memRead m a := by
  unfold memWriteAll
  induction cs generalizing m with
  | nil => rfl
  | cons c cs ih =>
    rw [List.foldl_cons, ih _ (fun d hd => h d (List.mem_cons_of_mem _ hd))]
    exact memRead_memWrite_other m c.2 (h c (List.mem_cons_self ..)).symm

/-- An address that the last cell for it names reads as that cell. -/
theorem memRead_memWriteAll_last (m : List Host.Cell) (cs ds : List Host.Cell) (a : Nat) (b : Byte) (h : ∀ c ∈ ds, c.1 ≠ a) :
    memRead (memWriteAll m (cs ++ (a, b) :: ds)) a = b := by
  have : memWriteAll m (cs ++ (a, b) :: ds) = memWriteAll (memWrite (memWriteAll m cs) a b) ds := by
    simp [memWriteAll, List.foldl_append]
  rw [this, memRead_memWriteAll_other _ _ _ h, memRead_memWrite_same]

/-- Every cell of a word's stretch lies in it. -/
theorem cellsOf_range {a n : Nat} {v : Word} {c : Host.Cell} (h : c ∈ cellsOf a n v) : a ≤ c.1 ∧ c.1 < a + n := by
  simp only [cellsOf, List.mem_map, List.mem_range] at h
  obtain ⟨i, hi, rfl⟩ := h
  exact ⟨Nat.le_add_right a i, Nat.add_lt_add_left hi a⟩

/-- A word written is a word read. -/
theorem memRead_cellsOf (m : List Host.Cell) (a n i : Nat) (v : Word) (hi : i < n) :
    memRead (memWriteAll m (cellsOf a n v)) (a + i) = byteOf v i := by
  have h : cellsOf a n v = ((List.range i).map fun j => (a + j, byteOf v j)) ++ (a + i, byteOf v i) ::
      ((List.range (n - i - 1)).map fun j => (a + (i + 1 + j), byteOf v (i + 1 + j))) := by
    unfold cellsOf
    have e : n = i + (1 + (n - i - 1)) := by omega
    conv_lhs => rw [e, List.range_add, List.map_append, List.range_add]
    simp [Function.comp_def, Nat.add_assoc]
  rw [h]
  refine memRead_memWriteAll_last _ _ _ _ _ ?_
  intro c hc
  simp only [List.mem_map, List.mem_range] at hc
  obtain ⟨j, _, rfl⟩ := hc
  simp only [ne_eq]
  omega

end Sys2Proof.Machine
end

