-- ==== Sys2Proof/Laws/Ops.lean ====
section
/-! SUPPORT. What the shared operations of a bundle do, said once: performing it, ending its chunk, settling its two slots,
and the A slot's result. -/

namespace Sys2Proof.Machine

/-- A bundle that can be performed is: only registers and the open chunk change. -/
theorem State.retire_fits (s : State) (e : Eff) (h : s.fits e = true) : s.retire e = .ok (s.retired e) := by
  simp only [State.fits, Bool.and_eq_true, Bool.not_eq_true'] at h
  obtain ⟨-, h⟩ := h
  by_cases hi : s.thr.inRegion = true
  · simp only [hi, if_true, Bool.and_eq_true, decide_eq_true_eq] at h
    simp only [State.retire, hi, if_true]
    rw [if_neg (by simp only [Bool.or_eq_true, decide_eq_true_eq]; omega)]
    rfl
  · simp only [hi] at h
    simp only [State.retire, hi]
    rw [if_neg, if_neg]
    · rfl
    · simp only [Bool.and_eq_true, decide_eq_true_eq, bne_iff_ne, ne_eq, Bool.not_eq_true']
      rintro ⟨⟨h1, h2⟩, h3⟩
      simp only [h3, beq_iff_eq, h2, Bool.false_eq_true, if_false, false_or, Bool.or_eq_true, decide_eq_true_eq] at h
      omega
    · simp

/-- The other way round: a bundle that is performed leaves exactly `retired`. -/
theorem State.retire_ok {s t : State} {e : Eff} (h : s.retire e = .ok t) : t = s.retired e := by
  by_cases hi : s.thr.inRegion = true
  · simp only [State.retire, hi, if_true] at h
    split at h
    · cases h
    · exact (Except.ok.inj h).symm
  · simp only [State.retire, hi] at h
    simp only [Bool.false_eq_true, if_false] at h
    split at h
    · cases h
    · exact (Except.ok.inj h).symm

/-- A bundle whose A slot has not faulted settles as its C slot ends it. -/
theorem State.settle_ok (s t : State) (h : s.thr.aslot.faults = false) : s.settle (.ok t) = t := by
  unfold State.settle
  split <;> simp_all [ASlot.faults]

theorem State.fits_noFault {s : State} {e : Eff} (h : s.fits e = true) : s.thr.aslot.faults = false := by
  simp only [State.fits, Bool.and_eq_true, Bool.not_eq_true'] at h
  exact h.1

/-- A bundle that only writes registers, moves PC, stores or joins elements to its chunk. -/
theorem State.runC_retire (s : State) (e : Eff) (h : s.fits e = true) : s.runC (s.retire e) = .next (s.retired e) := by
  rw [State.runC, s.retire_fits e h, s.settle_ok _ (State.fits_noFault h)]

/-- A chunk that can commit does. -/
theorem State.commit_mayCommit (s : State) (h : s.mayCommit = true) : s.commit = .ok s.commitNow := by
  simp only [State.mayCommit, Bool.and_eq_true, Bool.not_eq_true'] at h
  obtain ⟨⟨⟨⟨⟨⟨h1, h2⟩, h3⟩, h4⟩, h5⟩, h6⟩, h7⟩ := h
  have h6' : s.poisonedStore = none := by simpa using h6
  have h7' : (s.thr.chunk.lines ++ s.thr.chunk.changes).find? (s.blocked (some s.thr.id)) = none := by
    rw [List.find?_eq_none]
    exact fun l hl => by simpa using List.any_eq_false.1 h7 l hl
  simp only [State.commit, h1, h2, h3, h4, h5, h6', h7', Bool.or_self, Bool.false_eq_true, if_false]

/-- The other way round: a commit leaves exactly `commitNow`, of a chunk that can commit. -/
theorem State.commit_ok {s t : State} (h : s.commit = .ok t) : t = s.commitNow ∧ s.mayCommit = true := by
  unfold State.commit at h
  split at h
  · cases h
  · rename_i h1
    split at h
    · cases h
    · rename_i h2
      split at h
      · cases h
      · rename_i h3
        split at h
        · cases h
        · rename_i h4
          refine ⟨(Except.ok.inj h).symm, ?_⟩
          simp only [Bool.or_eq_true, not_or, Bool.not_eq_true] at h1 h2
          have h5 : (s.thr.chunk.lines ++ s.thr.chunk.changes).any (s.blocked (some s.thr.id)) = false :=
            List.any_eq_false.2 (List.find?_eq_none.1 h4)
          simp only [State.mayCommit, h1.1.1.1, h1.1.1.2, h1.1.2, h1.2, h2, h3, h5, Bool.not_false, Bool.and_self,
            Option.isNone_none]

/-- A bundle that ends its chunk: the commit, and then what the instruction asks for. -/
theorem State.endChunk_canEnd (s : State) (e : Eff) (k : State → State) (h : s.canEnd e = true) :
    s.endChunk e k = .ok (k (s.ended e)) := by
  simp only [State.canEnd, Bool.and_eq_true, Bool.not_eq_true'] at h
  obtain ⟨⟨h1, h2⟩, h3⟩ := h
  simp [State.endChunk, h1, s.retire_fits e h2, (s.retired e).commit_mayCommit h3, State.ended]

theorem State.canEnd_fits {s : State} {e : Eff} (h : s.canEnd e = true) : s.fits e = true := by
  simp only [State.canEnd, Bool.and_eq_true] at h
  exact h.1.2

theorem State.canEnd_noRegion {s : State} {e : Eff} (h : s.canEnd e = true) : s.thr.inRegion = false := by
  simp only [State.canEnd, Bool.and_eq_true, Bool.not_eq_true'] at h
  exact h.1.1

/-- A chunk-ending instruction completes. -/
theorem State.endC_canEnd (s : State) (e : Eff) (k : State → State) (h : s.canEnd e = true) :
    s.endC e k = .next (k (s.ended e)) := by
  rw [State.endC, State.runC, s.endChunk_canEnd e k h, s.settle_ok _ (State.fits_noFault (State.canEnd_fits h))]

/-- A chunk-ending instruction with checks completes. -/
theorem State.enderC_canEnd (s : State) (e : Eff) (k : State → State) (h : s.canEnd e = true) :
    s.enderC (s.endChunk e k) = .next (k (s.ended e)) := by
  rw [State.enderC, if_neg (by simp [State.canEnd_noRegion h])]
  exact s.endC_canEnd e k h

/-- A chunk-ending instruction in an open region fails it as forbidden (R161). -/
theorem State.enderC_region (s : State) (r : Res State) (h : s.thr.inRegion = true) :
    s.enderC r = .next (s.settle (.error (.region 4 0))) := by
  rw [State.enderC, if_pos h, State.runC]

/-- An A-slot instruction beside a C slot keeps its result for it. -/
theorem State.runA_awaiting (s : State) (n : Nat) (f : Nat → Res Arch) (a : Arch) (h : s.thr.aslot = .awaiting n)
    (hf : f n = .ok a) : s.runA f = .next { s with thr := { s.thr with aslot := .done a } } := by
  simp [State.runA, State.runSlot, h, hf]

/-- A vector instruction beside a C slot keeps its result for it, and its held operands too. -/
theorem State.runV_awaiting (s : State) (n : Nat) (f : Nat → Res Arch) (a : Arch) (h : s.thr.aslot = .awaiting n)
    (hf : f n = .ok a) : s.runV f = .next { s with thr := { s.thr with aslot := .vec a } } := by
  simp [State.runV, State.runSlot, h, hf]

end Sys2Proof.Machine
end

