-- ==== Sys2Proof/Laws/State.lean ====
section
/-! SUPPORT. The small laws of the state's updates: what each leaves as it was, and what it reads back. -/

namespace Sys2Proof.Machine

/-! ## `setTenant` -/

@[simp] theorem State.setTenant_thr (s : State) (n : BitVec 4) (t : Tenant) : (s.setTenant n t).thr = s.thr := rfl
@[simp] theorem State.setTenant_others (s : State) (n : BitVec 4) (t : Tenant) : (s.setTenant n t).others = s.others := rfl
@[simp] theorem State.setTenant_mem (s : State) (n : BitVec 4) (t : Tenant) : (s.setTenant n t).mem = s.mem := rfl
@[simp] theorem State.setTenant_poison (s : State) (n : BitVec 4) (t : Tenant) : (s.setTenant n t).poison = s.poison := rfl
@[simp] theorem State.setTenant_partials (s : State) (n : BitVec 4) (t : Tenant) : (s.setTenant n t).partials = s.partials := rfl
@[simp] theorem State.setTenant_clusters (s : State) (n : BitVec 4) (t : Tenant) : (s.setTenant n t).clusters = s.clusters := rfl
@[simp] theorem State.setTenant_saved (s : State) (n : BitVec 4) (t : Tenant) : (s.setTenant n t).saved = s.saved := rfl
@[simp] theorem State.setTenant_cores (s : State) (n : BitVec 4) (t : Tenant) : (s.setTenant n t).cores = s.cores := rfl
@[simp] theorem State.setTenant_regions (s : State) (n : BitVec 4) (t : Tenant) : (s.setTenant n t).regions = s.regions := rfl
@[simp] theorem State.setTenant_tlb (s : State) (n : BitVec 4) (t : Tenant) : (s.setTenant n t).tlb = s.tlb := rfl
@[simp] theorem State.setTenant_queues (s : State) (n : BitVec 4) (t : Tenant) : (s.setTenant n t).queues = s.queues := rfl
@[simp] theorem State.setTenant_head0 (s : State) (n : BitVec 4) (t : Tenant) : (s.setTenant n t).head0 = s.head0 := rfl
@[simp] theorem State.setTenant_head1 (s : State) (n : BitVec 4) (t : Tenant) : (s.setTenant n t).head1 = s.head1 := rfl
@[simp] theorem State.setTenant_links (s : State) (n : BitVec 4) (t : Tenant) : (s.setTenant n t).links = s.links := rfl
@[simp] theorem State.setTenant_net (s : State) (n : BitVec 4) (t : Tenant) : (s.setTenant n t).net = s.net := rfl
@[simp] theorem State.setTenant_hub (s : State) (n : BitVec 4) (t : Tenant) : (s.setTenant n t).hub = s.hub := rfl
@[simp] theorem State.setTenant_cyc (s : State) (n : BitVec 4) (t : Tenant) : (s.setTenant n t).cyc = s.cyc := rfl
@[simp] theorem State.setTenant_free (s : State) (n : BitVec 4) (t : Tenant) : (s.setTenant n t).free = s.free := rfl
@[simp] theorem State.setTenant_agenda (s : State) (n : BitVec 4) (t : Tenant) : (s.setTenant n t).agenda = s.agenda := rfl

/-! ## `setCluster` -/

@[simp] theorem State.setCluster_thr (s : State) (c : BitVec 7) (k : Cluster) : (s.setCluster c k).thr = s.thr := rfl
@[simp] theorem State.setCluster_others (s : State) (c : BitVec 7) (k : Cluster) : (s.setCluster c k).others = s.others := rfl
@[simp] theorem State.setCluster_mem (s : State) (c : BitVec 7) (k : Cluster) : (s.setCluster c k).mem = s.mem := rfl
@[simp] theorem State.setCluster_poison (s : State) (c : BitVec 7) (k : Cluster) : (s.setCluster c k).poison = s.poison := rfl
@[simp] theorem State.setCluster_partials (s : State) (c : BitVec 7) (k : Cluster) : (s.setCluster c k).partials = s.partials := rfl
@[simp] theorem State.setCluster_tenants (s : State) (c : BitVec 7) (k : Cluster) : (s.setCluster c k).tenants = s.tenants := rfl
@[simp] theorem State.setCluster_saved (s : State) (c : BitVec 7) (k : Cluster) : (s.setCluster c k).saved = s.saved := rfl
@[simp] theorem State.setCluster_cores (s : State) (c : BitVec 7) (k : Cluster) : (s.setCluster c k).cores = s.cores := rfl
@[simp] theorem State.setCluster_regions (s : State) (c : BitVec 7) (k : Cluster) : (s.setCluster c k).regions = s.regions := rfl
@[simp] theorem State.setCluster_tlb (s : State) (c : BitVec 7) (k : Cluster) : (s.setCluster c k).tlb = s.tlb := rfl
@[simp] theorem State.setCluster_queues (s : State) (c : BitVec 7) (k : Cluster) : (s.setCluster c k).queues = s.queues := rfl
@[simp] theorem State.setCluster_head0 (s : State) (c : BitVec 7) (k : Cluster) : (s.setCluster c k).head0 = s.head0 := rfl
@[simp] theorem State.setCluster_head1 (s : State) (c : BitVec 7) (k : Cluster) : (s.setCluster c k).head1 = s.head1 := rfl
@[simp] theorem State.setCluster_links (s : State) (c : BitVec 7) (k : Cluster) : (s.setCluster c k).links = s.links := rfl
@[simp] theorem State.setCluster_net (s : State) (c : BitVec 7) (k : Cluster) : (s.setCluster c k).net = s.net := rfl
@[simp] theorem State.setCluster_hub (s : State) (c : BitVec 7) (k : Cluster) : (s.setCluster c k).hub = s.hub := rfl
@[simp] theorem State.setCluster_cyc (s : State) (c : BitVec 7) (k : Cluster) : (s.setCluster c k).cyc = s.cyc := rfl
@[simp] theorem State.setCluster_free (s : State) (c : BitVec 7) (k : Cluster) : (s.setCluster c k).free = s.free := rfl
@[simp] theorem State.setCluster_agenda (s : State) (c : BitVec 7) (k : Cluster) : (s.setCluster c k).agenda = s.agenda := rfl

/-! ## `setCore` -/

@[simp] theorem State.setCore_thr (s : State) (c : BitVec 10) (k : Core) : (s.setCore c k).thr = s.thr := rfl
@[simp] theorem State.setCore_others (s : State) (c : BitVec 10) (k : Core) : (s.setCore c k).others = s.others := rfl
@[simp] theorem State.setCore_mem (s : State) (c : BitVec 10) (k : Core) : (s.setCore c k).mem = s.mem := rfl
@[simp] theorem State.setCore_poison (s : State) (c : BitVec 10) (k : Core) : (s.setCore c k).poison = s.poison := rfl
@[simp] theorem State.setCore_partials (s : State) (c : BitVec 10) (k : Core) : (s.setCore c k).partials = s.partials := rfl
@[simp] theorem State.setCore_tenants (s : State) (c : BitVec 10) (k : Core) : (s.setCore c k).tenants = s.tenants := rfl
@[simp] theorem State.setCore_clusters (s : State) (c : BitVec 10) (k : Core) : (s.setCore c k).clusters = s.clusters := rfl
@[simp] theorem State.setCore_saved (s : State) (c : BitVec 10) (k : Core) : (s.setCore c k).saved = s.saved := rfl
@[simp] theorem State.setCore_regions (s : State) (c : BitVec 10) (k : Core) : (s.setCore c k).regions = s.regions := rfl
@[simp] theorem State.setCore_tlb (s : State) (c : BitVec 10) (k : Core) : (s.setCore c k).tlb = s.tlb := rfl
@[simp] theorem State.setCore_queues (s : State) (c : BitVec 10) (k : Core) : (s.setCore c k).queues = s.queues := rfl
@[simp] theorem State.setCore_head0 (s : State) (c : BitVec 10) (k : Core) : (s.setCore c k).head0 = s.head0 := rfl
@[simp] theorem State.setCore_head1 (s : State) (c : BitVec 10) (k : Core) : (s.setCore c k).head1 = s.head1 := rfl
@[simp] theorem State.setCore_links (s : State) (c : BitVec 10) (k : Core) : (s.setCore c k).links = s.links := rfl
@[simp] theorem State.setCore_net (s : State) (c : BitVec 10) (k : Core) : (s.setCore c k).net = s.net := rfl
@[simp] theorem State.setCore_hub (s : State) (c : BitVec 10) (k : Core) : (s.setCore c k).hub = s.hub := rfl
@[simp] theorem State.setCore_cyc (s : State) (c : BitVec 10) (k : Core) : (s.setCore c k).cyc = s.cyc := rfl
@[simp] theorem State.setCore_free (s : State) (c : BitVec 10) (k : Core) : (s.setCore c k).free = s.free := rfl
@[simp] theorem State.setCore_agenda (s : State) (c : BitVec 10) (k : Core) : (s.setCore c k).agenda = s.agenda := rfl

/-! ## `setRegion` -/

@[simp] theorem State.setRegion_thr (s : State) (r : Nat) (k : Region) : (s.setRegion r k).thr = s.thr := rfl
@[simp] theorem State.setRegion_others (s : State) (r : Nat) (k : Region) : (s.setRegion r k).others = s.others := rfl
@[simp] theorem State.setRegion_mem (s : State) (r : Nat) (k : Region) : (s.setRegion r k).mem = s.mem := rfl
@[simp] theorem State.setRegion_poison (s : State) (r : Nat) (k : Region) : (s.setRegion r k).poison = s.poison := rfl
@[simp] theorem State.setRegion_partials (s : State) (r : Nat) (k : Region) : (s.setRegion r k).partials = s.partials := rfl
@[simp] theorem State.setRegion_tenants (s : State) (r : Nat) (k : Region) : (s.setRegion r k).tenants = s.tenants := rfl
@[simp] theorem State.setRegion_clusters (s : State) (r : Nat) (k : Region) : (s.setRegion r k).clusters = s.clusters := rfl
@[simp] theorem State.setRegion_saved (s : State) (r : Nat) (k : Region) : (s.setRegion r k).saved = s.saved := rfl
@[simp] theorem State.setRegion_cores (s : State) (r : Nat) (k : Region) : (s.setRegion r k).cores = s.cores := rfl
@[simp] theorem State.setRegion_tlb (s : State) (r : Nat) (k : Region) : (s.setRegion r k).tlb = s.tlb := rfl
@[simp] theorem State.setRegion_queues (s : State) (r : Nat) (k : Region) : (s.setRegion r k).queues = s.queues := rfl
@[simp] theorem State.setRegion_head0 (s : State) (r : Nat) (k : Region) : (s.setRegion r k).head0 = s.head0 := rfl
@[simp] theorem State.setRegion_head1 (s : State) (r : Nat) (k : Region) : (s.setRegion r k).head1 = s.head1 := rfl
@[simp] theorem State.setRegion_links (s : State) (r : Nat) (k : Region) : (s.setRegion r k).links = s.links := rfl
@[simp] theorem State.setRegion_net (s : State) (r : Nat) (k : Region) : (s.setRegion r k).net = s.net := rfl
@[simp] theorem State.setRegion_hub (s : State) (r : Nat) (k : Region) : (s.setRegion r k).hub = s.hub := rfl
@[simp] theorem State.setRegion_cyc (s : State) (r : Nat) (k : Region) : (s.setRegion r k).cyc = s.cyc := rfl
@[simp] theorem State.setRegion_free (s : State) (r : Nat) (k : Region) : (s.setRegion r k).free = s.free := rfl
@[simp] theorem State.setRegion_agenda (s : State) (r : Nat) (k : Region) : (s.setRegion r k).agenda = s.agenda := rfl

/-! ## `setQueue` -/

@[simp] theorem State.setQueue_thr (s : State) (q : BitVec 6) (k : HostQueue) : (s.setQueue q k).thr = s.thr := rfl
@[simp] theorem State.setQueue_others (s : State) (q : BitVec 6) (k : HostQueue) : (s.setQueue q k).others = s.others := rfl
@[simp] theorem State.setQueue_mem (s : State) (q : BitVec 6) (k : HostQueue) : (s.setQueue q k).mem = s.mem := rfl
@[simp] theorem State.setQueue_poison (s : State) (q : BitVec 6) (k : HostQueue) : (s.setQueue q k).poison = s.poison := rfl
@[simp] theorem State.setQueue_partials (s : State) (q : BitVec 6) (k : HostQueue) : (s.setQueue q k).partials = s.partials := rfl
@[simp] theorem State.setQueue_tenants (s : State) (q : BitVec 6) (k : HostQueue) : (s.setQueue q k).tenants = s.tenants := rfl
@[simp] theorem State.setQueue_clusters (s : State) (q : BitVec 6) (k : HostQueue) : (s.setQueue q k).clusters = s.clusters := rfl
@[simp] theorem State.setQueue_saved (s : State) (q : BitVec 6) (k : HostQueue) : (s.setQueue q k).saved = s.saved := rfl
@[simp] theorem State.setQueue_cores (s : State) (q : BitVec 6) (k : HostQueue) : (s.setQueue q k).cores = s.cores := rfl
@[simp] theorem State.setQueue_regions (s : State) (q : BitVec 6) (k : HostQueue) : (s.setQueue q k).regions = s.regions := rfl
@[simp] theorem State.setQueue_tlb (s : State) (q : BitVec 6) (k : HostQueue) : (s.setQueue q k).tlb = s.tlb := rfl
@[simp] theorem State.setQueue_head0 (s : State) (q : BitVec 6) (k : HostQueue) : (s.setQueue q k).head0 = s.head0 := rfl
@[simp] theorem State.setQueue_head1 (s : State) (q : BitVec 6) (k : HostQueue) : (s.setQueue q k).head1 = s.head1 := rfl
@[simp] theorem State.setQueue_links (s : State) (q : BitVec 6) (k : HostQueue) : (s.setQueue q k).links = s.links := rfl
@[simp] theorem State.setQueue_net (s : State) (q : BitVec 6) (k : HostQueue) : (s.setQueue q k).net = s.net := rfl
@[simp] theorem State.setQueue_hub (s : State) (q : BitVec 6) (k : HostQueue) : (s.setQueue q k).hub = s.hub := rfl
@[simp] theorem State.setQueue_cyc (s : State) (q : BitVec 6) (k : HostQueue) : (s.setQueue q k).cyc = s.cyc := rfl
@[simp] theorem State.setQueue_free (s : State) (q : BitVec 6) (k : HostQueue) : (s.setQueue q k).free = s.free := rfl
@[simp] theorem State.setQueue_agenda (s : State) (q : BitVec 6) (k : HostQueue) : (s.setQueue q k).agenda = s.agenda := rfl

/-! ## `setLink` -/

@[simp] theorem State.setLink_thr (s : State) (l : BitVec 4) (k : Link) : (s.setLink l k).thr = s.thr := rfl
@[simp] theorem State.setLink_others (s : State) (l : BitVec 4) (k : Link) : (s.setLink l k).others = s.others := rfl
@[simp] theorem State.setLink_mem (s : State) (l : BitVec 4) (k : Link) : (s.setLink l k).mem = s.mem := rfl
@[simp] theorem State.setLink_poison (s : State) (l : BitVec 4) (k : Link) : (s.setLink l k).poison = s.poison := rfl
@[simp] theorem State.setLink_partials (s : State) (l : BitVec 4) (k : Link) : (s.setLink l k).partials = s.partials := rfl
@[simp] theorem State.setLink_tenants (s : State) (l : BitVec 4) (k : Link) : (s.setLink l k).tenants = s.tenants := rfl
@[simp] theorem State.setLink_clusters (s : State) (l : BitVec 4) (k : Link) : (s.setLink l k).clusters = s.clusters := rfl
@[simp] theorem State.setLink_saved (s : State) (l : BitVec 4) (k : Link) : (s.setLink l k).saved = s.saved := rfl
@[simp] theorem State.setLink_cores (s : State) (l : BitVec 4) (k : Link) : (s.setLink l k).cores = s.cores := rfl
@[simp] theorem State.setLink_regions (s : State) (l : BitVec 4) (k : Link) : (s.setLink l k).regions = s.regions := rfl
@[simp] theorem State.setLink_tlb (s : State) (l : BitVec 4) (k : Link) : (s.setLink l k).tlb = s.tlb := rfl
@[simp] theorem State.setLink_queues (s : State) (l : BitVec 4) (k : Link) : (s.setLink l k).queues = s.queues := rfl
@[simp] theorem State.setLink_head0 (s : State) (l : BitVec 4) (k : Link) : (s.setLink l k).head0 = s.head0 := rfl
@[simp] theorem State.setLink_head1 (s : State) (l : BitVec 4) (k : Link) : (s.setLink l k).head1 = s.head1 := rfl
@[simp] theorem State.setLink_net (s : State) (l : BitVec 4) (k : Link) : (s.setLink l k).net = s.net := rfl
@[simp] theorem State.setLink_hub (s : State) (l : BitVec 4) (k : Link) : (s.setLink l k).hub = s.hub := rfl
@[simp] theorem State.setLink_cyc (s : State) (l : BitVec 4) (k : Link) : (s.setLink l k).cyc = s.cyc := rfl
@[simp] theorem State.setLink_free (s : State) (l : BitVec 4) (k : Link) : (s.setLink l k).free = s.free := rfl
@[simp] theorem State.setLink_agenda (s : State) (l : BitVec 4) (k : Link) : (s.setLink l k).agenda = s.agenda := rfl

/-! ## `upd` -/

@[simp] theorem State.upd_mem (s : State) (i : ThreadId) (f : Thread → Thread) : (s.upd i f).mem = s.mem := rfl
@[simp] theorem State.upd_poison (s : State) (i : ThreadId) (f : Thread → Thread) : (s.upd i f).poison = s.poison := rfl
@[simp] theorem State.upd_partials (s : State) (i : ThreadId) (f : Thread → Thread) : (s.upd i f).partials = s.partials := rfl
@[simp] theorem State.upd_tenants (s : State) (i : ThreadId) (f : Thread → Thread) : (s.upd i f).tenants = s.tenants := rfl
@[simp] theorem State.upd_clusters (s : State) (i : ThreadId) (f : Thread → Thread) : (s.upd i f).clusters = s.clusters := rfl
@[simp] theorem State.upd_saved (s : State) (i : ThreadId) (f : Thread → Thread) : (s.upd i f).saved = s.saved := rfl
@[simp] theorem State.upd_cores (s : State) (i : ThreadId) (f : Thread → Thread) : (s.upd i f).cores = s.cores := rfl
@[simp] theorem State.upd_regions (s : State) (i : ThreadId) (f : Thread → Thread) : (s.upd i f).regions = s.regions := rfl
@[simp] theorem State.upd_tlb (s : State) (i : ThreadId) (f : Thread → Thread) : (s.upd i f).tlb = s.tlb := rfl
@[simp] theorem State.upd_queues (s : State) (i : ThreadId) (f : Thread → Thread) : (s.upd i f).queues = s.queues := rfl
@[simp] theorem State.upd_head0 (s : State) (i : ThreadId) (f : Thread → Thread) : (s.upd i f).head0 = s.head0 := rfl
@[simp] theorem State.upd_head1 (s : State) (i : ThreadId) (f : Thread → Thread) : (s.upd i f).head1 = s.head1 := rfl
@[simp] theorem State.upd_links (s : State) (i : ThreadId) (f : Thread → Thread) : (s.upd i f).links = s.links := rfl
@[simp] theorem State.upd_net (s : State) (i : ThreadId) (f : Thread → Thread) : (s.upd i f).net = s.net := rfl
@[simp] theorem State.upd_hub (s : State) (i : ThreadId) (f : Thread → Thread) : (s.upd i f).hub = s.hub := rfl
@[simp] theorem State.upd_cyc (s : State) (i : ThreadId) (f : Thread → Thread) : (s.upd i f).cyc = s.cyc := rfl
@[simp] theorem State.upd_free (s : State) (i : ThreadId) (f : Thread → Thread) : (s.upd i f).free = s.free := rfl
@[simp] theorem State.upd_agenda (s : State) (i : ThreadId) (f : Thread → Thread) : (s.upd i f).agenda = s.agenda := rfl

/-! ## `updAll` -/

@[simp] theorem State.updAll_mem (s : State) (f : Thread → Thread) : (s.updAll f).mem = s.mem := rfl
@[simp] theorem State.updAll_poison (s : State) (f : Thread → Thread) : (s.updAll f).poison = s.poison := rfl
@[simp] theorem State.updAll_partials (s : State) (f : Thread → Thread) : (s.updAll f).partials = s.partials := rfl
@[simp] theorem State.updAll_tenants (s : State) (f : Thread → Thread) : (s.updAll f).tenants = s.tenants := rfl
@[simp] theorem State.updAll_clusters (s : State) (f : Thread → Thread) : (s.updAll f).clusters = s.clusters := rfl
@[simp] theorem State.updAll_saved (s : State) (f : Thread → Thread) : (s.updAll f).saved = s.saved := rfl
@[simp] theorem State.updAll_cores (s : State) (f : Thread → Thread) : (s.updAll f).cores = s.cores := rfl
@[simp] theorem State.updAll_regions (s : State) (f : Thread → Thread) : (s.updAll f).regions = s.regions := rfl
@[simp] theorem State.updAll_tlb (s : State) (f : Thread → Thread) : (s.updAll f).tlb = s.tlb := rfl
@[simp] theorem State.updAll_queues (s : State) (f : Thread → Thread) : (s.updAll f).queues = s.queues := rfl
@[simp] theorem State.updAll_head0 (s : State) (f : Thread → Thread) : (s.updAll f).head0 = s.head0 := rfl
@[simp] theorem State.updAll_head1 (s : State) (f : Thread → Thread) : (s.updAll f).head1 = s.head1 := rfl
@[simp] theorem State.updAll_links (s : State) (f : Thread → Thread) : (s.updAll f).links = s.links := rfl
@[simp] theorem State.updAll_net (s : State) (f : Thread → Thread) : (s.updAll f).net = s.net := rfl
@[simp] theorem State.updAll_hub (s : State) (f : Thread → Thread) : (s.updAll f).hub = s.hub := rfl
@[simp] theorem State.updAll_cyc (s : State) (f : Thread → Thread) : (s.updAll f).cyc = s.cyc := rfl
@[simp] theorem State.updAll_free (s : State) (f : Thread → Thread) : (s.updAll f).free = s.free := rfl
@[simp] theorem State.updAll_agenda (s : State) (f : Thread → Thread) : (s.updAll f).agenda = s.agenda := rfl

/-! ## `reach` -/

@[simp] theorem State.reach_thr (s : State) (c : Nat) : (s.reach c).thr = s.thr := rfl
@[simp] theorem State.reach_others (s : State) (c : Nat) : (s.reach c).others = s.others := rfl
@[simp] theorem State.reach_mem (s : State) (c : Nat) : (s.reach c).mem = s.mem := rfl
@[simp] theorem State.reach_poison (s : State) (c : Nat) : (s.reach c).poison = s.poison := rfl
@[simp] theorem State.reach_partials (s : State) (c : Nat) : (s.reach c).partials = s.partials := rfl
@[simp] theorem State.reach_tenants (s : State) (c : Nat) : (s.reach c).tenants = s.tenants := rfl
@[simp] theorem State.reach_clusters (s : State) (c : Nat) : (s.reach c).clusters = s.clusters := rfl
@[simp] theorem State.reach_saved (s : State) (c : Nat) : (s.reach c).saved = s.saved := rfl
@[simp] theorem State.reach_cores (s : State) (c : Nat) : (s.reach c).cores = s.cores := rfl
@[simp] theorem State.reach_regions (s : State) (c : Nat) : (s.reach c).regions = s.regions := rfl
@[simp] theorem State.reach_tlb (s : State) (c : Nat) : (s.reach c).tlb = s.tlb := rfl
@[simp] theorem State.reach_queues (s : State) (c : Nat) : (s.reach c).queues = s.queues := rfl
@[simp] theorem State.reach_head0 (s : State) (c : Nat) : (s.reach c).head0 = s.head0 := rfl
@[simp] theorem State.reach_head1 (s : State) (c : Nat) : (s.reach c).head1 = s.head1 := rfl
@[simp] theorem State.reach_links (s : State) (c : Nat) : (s.reach c).links = s.links := rfl
@[simp] theorem State.reach_net (s : State) (c : Nat) : (s.reach c).net = s.net := rfl
@[simp] theorem State.reach_hub (s : State) (c : Nat) : (s.reach c).hub = s.hub := rfl
@[simp] theorem State.reach_free (s : State) (c : Nat) : (s.reach c).free = s.free := rfl
@[simp] theorem State.reach_agenda (s : State) (c : Nat) : (s.reach c).agenda = s.agenda := rfl

/-! ## `retired` -/

@[simp] theorem State.retired_others (s : State) (e : Eff) : (s.retired e).others = s.others := rfl
@[simp] theorem State.retired_mem (s : State) (e : Eff) : (s.retired e).mem = s.mem := rfl
@[simp] theorem State.retired_poison (s : State) (e : Eff) : (s.retired e).poison = s.poison := rfl
@[simp] theorem State.retired_partials (s : State) (e : Eff) : (s.retired e).partials = s.partials := rfl
@[simp] theorem State.retired_tenants (s : State) (e : Eff) : (s.retired e).tenants = s.tenants := rfl
@[simp] theorem State.retired_clusters (s : State) (e : Eff) : (s.retired e).clusters = s.clusters := rfl
@[simp] theorem State.retired_saved (s : State) (e : Eff) : (s.retired e).saved = s.saved := rfl
@[simp] theorem State.retired_cores (s : State) (e : Eff) : (s.retired e).cores = s.cores := rfl
@[simp] theorem State.retired_regions (s : State) (e : Eff) : (s.retired e).regions = s.regions := rfl
@[simp] theorem State.retired_tlb (s : State) (e : Eff) : (s.retired e).tlb = s.tlb := rfl
@[simp] theorem State.retired_queues (s : State) (e : Eff) : (s.retired e).queues = s.queues := rfl
@[simp] theorem State.retired_head0 (s : State) (e : Eff) : (s.retired e).head0 = s.head0 := rfl
@[simp] theorem State.retired_head1 (s : State) (e : Eff) : (s.retired e).head1 = s.head1 := rfl
@[simp] theorem State.retired_links (s : State) (e : Eff) : (s.retired e).links = s.links := rfl
@[simp] theorem State.retired_net (s : State) (e : Eff) : (s.retired e).net = s.net := rfl
@[simp] theorem State.retired_hub (s : State) (e : Eff) : (s.retired e).hub = s.hub := rfl
@[simp] theorem State.retired_cyc (s : State) (e : Eff) : (s.retired e).cyc = s.cyc := rfl
@[simp] theorem State.retired_free (s : State) (e : Eff) : (s.retired e).free = s.free := rfl
@[simp] theorem State.retired_agenda (s : State) (e : Eff) : (s.retired e).agenda = s.agenda := rfl

/-! ## `withA` -/

@[simp] theorem State.withA_others (s : State) (a : ASlot) : (s.withA a).others = s.others := rfl
@[simp] theorem State.withA_mem (s : State) (a : ASlot) : (s.withA a).mem = s.mem := rfl
@[simp] theorem State.withA_poison (s : State) (a : ASlot) : (s.withA a).poison = s.poison := rfl
@[simp] theorem State.withA_partials (s : State) (a : ASlot) : (s.withA a).partials = s.partials := rfl
@[simp] theorem State.withA_tenants (s : State) (a : ASlot) : (s.withA a).tenants = s.tenants := rfl
@[simp] theorem State.withA_clusters (s : State) (a : ASlot) : (s.withA a).clusters = s.clusters := rfl
@[simp] theorem State.withA_saved (s : State) (a : ASlot) : (s.withA a).saved = s.saved := rfl
@[simp] theorem State.withA_cores (s : State) (a : ASlot) : (s.withA a).cores = s.cores := rfl
@[simp] theorem State.withA_regions (s : State) (a : ASlot) : (s.withA a).regions = s.regions := rfl
@[simp] theorem State.withA_tlb (s : State) (a : ASlot) : (s.withA a).tlb = s.tlb := rfl
@[simp] theorem State.withA_queues (s : State) (a : ASlot) : (s.withA a).queues = s.queues := rfl
@[simp] theorem State.withA_head0 (s : State) (a : ASlot) : (s.withA a).head0 = s.head0 := rfl
@[simp] theorem State.withA_head1 (s : State) (a : ASlot) : (s.withA a).head1 = s.head1 := rfl
@[simp] theorem State.withA_links (s : State) (a : ASlot) : (s.withA a).links = s.links := rfl
@[simp] theorem State.withA_net (s : State) (a : ASlot) : (s.withA a).net = s.net := rfl
@[simp] theorem State.withA_hub (s : State) (a : ASlot) : (s.withA a).hub = s.hub := rfl
@[simp] theorem State.withA_cyc (s : State) (a : ASlot) : (s.withA a).cyc = s.cyc := rfl
@[simp] theorem State.withA_free (s : State) (a : ASlot) : (s.withA a).free = s.free := rfl
@[simp] theorem State.withA_agenda (s : State) (a : ASlot) : (s.withA a).agenda = s.agenda := rfl

/-! ## `drawn` -/

@[simp] theorem State.drawn_thr (s : State) : (s.drawn).thr = s.thr := rfl
@[simp] theorem State.drawn_others (s : State) : (s.drawn).others = s.others := rfl
@[simp] theorem State.drawn_mem (s : State) : (s.drawn).mem = s.mem := rfl
@[simp] theorem State.drawn_poison (s : State) : (s.drawn).poison = s.poison := rfl
@[simp] theorem State.drawn_partials (s : State) : (s.drawn).partials = s.partials := rfl
@[simp] theorem State.drawn_tenants (s : State) : (s.drawn).tenants = s.tenants := rfl
@[simp] theorem State.drawn_clusters (s : State) : (s.drawn).clusters = s.clusters := rfl
@[simp] theorem State.drawn_saved (s : State) : (s.drawn).saved = s.saved := rfl
@[simp] theorem State.drawn_cores (s : State) : (s.drawn).cores = s.cores := rfl
@[simp] theorem State.drawn_regions (s : State) : (s.drawn).regions = s.regions := rfl
@[simp] theorem State.drawn_tlb (s : State) : (s.drawn).tlb = s.tlb := rfl
@[simp] theorem State.drawn_queues (s : State) : (s.drawn).queues = s.queues := rfl
@[simp] theorem State.drawn_head0 (s : State) : (s.drawn).head0 = s.head0 := rfl
@[simp] theorem State.drawn_head1 (s : State) : (s.drawn).head1 = s.head1 := rfl
@[simp] theorem State.drawn_links (s : State) : (s.drawn).links = s.links := rfl
@[simp] theorem State.drawn_net (s : State) : (s.drawn).net = s.net := rfl
@[simp] theorem State.drawn_hub (s : State) : (s.drawn).hub = s.hub := rfl
@[simp] theorem State.drawn_cyc (s : State) : (s.drawn).cyc = s.cyc := rfl
@[simp] theorem State.drawn_agenda (s : State) : (s.drawn).agenda = s.agenda := rfl

/-! ## `tick` -/

/-- Drays that leave change the clusters and what travels, and nothing else (R167). -/
theorem State.sendDrays_only (s : State) : ∃ k n, s.sendDrays = { s with clusters := k, net := n } := by
  unfold State.sendDrays
  generalize s.clusters = l
  induction l generalizing s with
  | nil => exact ⟨s.clusters, s.net, rfl⟩
  | cons c l ih =>
    obtain ⟨k, n, h⟩ := ih (s.depart (BitVec.ofNat 7 c.1) Dray.due)
    exact ⟨k, n, h⟩

/-- So does time that passes, but for CYC (log 3). -/
theorem State.tick_only (s : State) (d : Nat) : ∃ k n, s.tick d = { s with clusters := k, net := n, cyc := s.cyc + d } := by
  unfold State.tick
  split
  · obtain ⟨k, n, h⟩ := s.sendDrays_only
    exact ⟨k, n, by rw [h]⟩
  · exact ⟨s.clusters, s.net, rfl⟩

@[simp] theorem State.tick_cyc (s : State) (d : Nat) : (s.tick d).cyc = s.cyc + d := rfl
@[simp] theorem State.tick_thr (s : State) (d : Nat) : (s.tick d).thr = s.thr := by
  obtain ⟨k, n, h⟩ := s.tick_only d; rw [h]
@[simp] theorem State.tick_others (s : State) (d : Nat) : (s.tick d).others = s.others := by
  obtain ⟨k, n, h⟩ := s.tick_only d; rw [h]
@[simp] theorem State.tick_mem (s : State) (d : Nat) : (s.tick d).mem = s.mem := by
  obtain ⟨k, n, h⟩ := s.tick_only d; rw [h]
@[simp] theorem State.tick_poison (s : State) (d : Nat) : (s.tick d).poison = s.poison := by
  obtain ⟨k, n, h⟩ := s.tick_only d; rw [h]
@[simp] theorem State.tick_partials (s : State) (d : Nat) : (s.tick d).partials = s.partials := by
  obtain ⟨k, n, h⟩ := s.tick_only d; rw [h]
@[simp] theorem State.tick_tenants (s : State) (d : Nat) : (s.tick d).tenants = s.tenants := by
  obtain ⟨k, n, h⟩ := s.tick_only d; rw [h]
@[simp] theorem State.tick_saved (s : State) (d : Nat) : (s.tick d).saved = s.saved := by
  obtain ⟨k, n, h⟩ := s.tick_only d; rw [h]
@[simp] theorem State.tick_cores (s : State) (d : Nat) : (s.tick d).cores = s.cores := by
  obtain ⟨k, n, h⟩ := s.tick_only d; rw [h]
@[simp] theorem State.tick_regions (s : State) (d : Nat) : (s.tick d).regions = s.regions := by
  obtain ⟨k, n, h⟩ := s.tick_only d; rw [h]
@[simp] theorem State.tick_tlb (s : State) (d : Nat) : (s.tick d).tlb = s.tlb := by
  obtain ⟨k, n, h⟩ := s.tick_only d; rw [h]
@[simp] theorem State.tick_queues (s : State) (d : Nat) : (s.tick d).queues = s.queues := by
  obtain ⟨k, n, h⟩ := s.tick_only d; rw [h]
@[simp] theorem State.tick_head0 (s : State) (d : Nat) : (s.tick d).head0 = s.head0 := by
  obtain ⟨k, n, h⟩ := s.tick_only d; rw [h]
@[simp] theorem State.tick_head1 (s : State) (d : Nat) : (s.tick d).head1 = s.head1 := by
  obtain ⟨k, n, h⟩ := s.tick_only d; rw [h]
@[simp] theorem State.tick_links (s : State) (d : Nat) : (s.tick d).links = s.links := by
  obtain ⟨k, n, h⟩ := s.tick_only d; rw [h]
@[simp] theorem State.tick_hub (s : State) (d : Nat) : (s.tick d).hub = s.hub := by
  obtain ⟨k, n, h⟩ := s.tick_only d; rw [h]
@[simp] theorem State.tick_free (s : State) (d : Nat) : (s.tick d).free = s.free := by
  obtain ⟨k, n, h⟩ := s.tick_only d; rw [h]
@[simp] theorem State.tick_agenda (s : State) (d : Nat) : (s.tick d).agenda = s.agenda := by
  obtain ⟨k, n, h⟩ := s.tick_only d; rw [h]

/-! ## What is written reads back -/

@[simp] theorem State.tenant_setTenant (s : State) (n : BitVec 4) (t : Tenant) : (s.setTenant n t).tenant n = t :=
  tget_tset_same ..
theorem State.tenant_setTenant_other (s : State) {n m : BitVec 4} (t : Tenant) (h : m ≠ n) :
    (s.setTenant n t).tenant m = s.tenant m := tget_tset_other _ _ _ (fun e => h (BitVec.eq_of_toNat_eq e))
@[simp] theorem State.cluster_setCluster (s : State) (n : BitVec 7) (t : Cluster) : (s.setCluster n t).cluster n = t :=
  tget_tset_same ..
theorem State.cluster_setCluster_other (s : State) {n m : BitVec 7} (t : Cluster) (h : m ≠ n) :
    (s.setCluster n t).cluster m = s.cluster m := tget_tset_other _ _ _ (fun e => h (BitVec.eq_of_toNat_eq e))
@[simp] theorem State.core_setCore (s : State) (n : BitVec 10) (t : Core) : (s.setCore n t).core n = t := tget_tset_same ..
theorem State.core_setCore_other (s : State) {n m : BitVec 10} (t : Core) (h : m ≠ n) :
    (s.setCore n t).core m = s.core m := tget_tset_other _ _ _ (fun e => h (BitVec.eq_of_toNat_eq e))
@[simp] theorem State.region_setRegion (s : State) (n : Nat) (t : Region) : (s.setRegion n t).region n = t := tget_tset_same ..
theorem State.region_setRegion_other (s : State) {n m : Nat} (t : Region) (h : m ≠ n) :
    (s.setRegion n t).region m = s.region m := tget_tset_other _ _ _ h
@[simp] theorem State.queue_setQueue (s : State) (n : BitVec 6) (t : HostQueue) : (s.setQueue n t).queue n = t :=
  tget_tset_same ..
theorem State.queue_setQueue_other (s : State) {n m : BitVec 6} (t : HostQueue) (h : m ≠ n) :
    (s.setQueue n t).queue m = s.queue m := tget_tset_other _ _ _ (fun e => h (BitVec.eq_of_toNat_eq e))
@[simp] theorem State.link_setLink (s : State) (n : BitVec 4) (t : Link) : (s.setLink n t).link n = t := tget_tset_same ..
@[simp] theorem State.head_setHead (s : State) (h : BitVec 1) (k : Head) : (s.setHead h k).head h = k := by
  unfold State.setHead State.head
  split <;> rfl

@[simp] theorem State.setHead_thr (s : State) (h : BitVec 1) (k : Head) : (s.setHead h k).thr = s.thr := by
  unfold State.setHead; split <;> rfl
@[simp] theorem State.setHead_others (s : State) (h : BitVec 1) (k : Head) : (s.setHead h k).others = s.others := by
  unfold State.setHead; split <;> rfl
@[simp] theorem State.setHead_mem (s : State) (h : BitVec 1) (k : Head) : (s.setHead h k).mem = s.mem := by
  unfold State.setHead; split <;> rfl
@[simp] theorem State.setHead_poison (s : State) (h : BitVec 1) (k : Head) : (s.setHead h k).poison = s.poison := by
  unfold State.setHead; split <;> rfl
@[simp] theorem State.setHead_partials (s : State) (h : BitVec 1) (k : Head) : (s.setHead h k).partials = s.partials := by
  unfold State.setHead; split <;> rfl
@[simp] theorem State.setHead_tenants (s : State) (h : BitVec 1) (k : Head) : (s.setHead h k).tenants = s.tenants := by
  unfold State.setHead; split <;> rfl
@[simp] theorem State.setHead_clusters (s : State) (h : BitVec 1) (k : Head) : (s.setHead h k).clusters = s.clusters := by
  unfold State.setHead; split <;> rfl
@[simp] theorem State.setHead_saved (s : State) (h : BitVec 1) (k : Head) : (s.setHead h k).saved = s.saved := by
  unfold State.setHead; split <;> rfl
@[simp] theorem State.setHead_cores (s : State) (h : BitVec 1) (k : Head) : (s.setHead h k).cores = s.cores := by
  unfold State.setHead; split <;> rfl
@[simp] theorem State.setHead_regions (s : State) (h : BitVec 1) (k : Head) : (s.setHead h k).regions = s.regions := by
  unfold State.setHead; split <;> rfl
@[simp] theorem State.setHead_tlb (s : State) (h : BitVec 1) (k : Head) : (s.setHead h k).tlb = s.tlb := by
  unfold State.setHead; split <;> rfl
@[simp] theorem State.setHead_queues (s : State) (h : BitVec 1) (k : Head) : (s.setHead h k).queues = s.queues := by
  unfold State.setHead; split <;> rfl
@[simp] theorem State.setHead_links (s : State) (h : BitVec 1) (k : Head) : (s.setHead h k).links = s.links := by
  unfold State.setHead; split <;> rfl
@[simp] theorem State.setHead_net (s : State) (h : BitVec 1) (k : Head) : (s.setHead h k).net = s.net := by
  unfold State.setHead; split <;> rfl
@[simp] theorem State.setHead_hub (s : State) (h : BitVec 1) (k : Head) : (s.setHead h k).hub = s.hub := by
  unfold State.setHead; split <;> rfl
@[simp] theorem State.setHead_cyc (s : State) (h : BitVec 1) (k : Head) : (s.setHead h k).cyc = s.cyc := by
  unfold State.setHead; split <;> rfl
@[simp] theorem State.setHead_free (s : State) (h : BitVec 1) (k : Head) : (s.setHead h k).free = s.free := by
  unfold State.setHead; split <;> rfl
@[simp] theorem State.setHead_agenda (s : State) (h : BitVec 1) (k : Head) : (s.setHead h k).agenda = s.agenda := by
  unfold State.setHead; split <;> rfl

/-! ## Registers -/

@[simp] theorem xat_xput_same {α : Type} (v : Vector α 32) (i : BitVec 5) (a : α) : xat (xput v i a) i = a := by
  simp [xat, xput]
theorem xat_xput_other {α : Type} (v : Vector α 32) {i j : BitVec 5} (a : α) (h : j ≠ i) : xat (xput v i a) j = xat v j := by
  have hn : i.toNat ≠ j.toNat := fun e => h (BitVec.eq_of_toNat_eq e.symm)
  simp [xat, xput, Vector.getElem_set, hn]
@[simp] theorem oat_oput_same {α : Type} (v : Vector α 8) (i : BitVec 3) (a : α) : oat (oput v i a) i = a := by
  simp [oat, oput]
@[simp] theorem qat_qput_same {α : Type} (v : Vector α 4) (i : BitVec 2) (a : α) : qat (qput v i a) i = a := by
  simp [qat, qput]

end Sys2Proof.Machine
end

