-- ==== Sys2Proof/Laws/KeepsMore.lean ====
section
/-! SUPPORT. The operations of the instruction families, the engines and the services that write no byte of memory: each
leaves `State.mem` as it was. -/

namespace Sys2Proof.Machine

/-- A fold of operations that leave memory as it was leaves it so. -/
@[simp] theorem foldl_mem {α : Type} (f : State → α → State) (hf : ∀ s a, (f s a).mem = s.mem) (l : List α) :
    ∀ s : State, (l.foldl f s).mem = s.mem := by
  induction l with
  | nil => exact fun s => rfl
  | cons a l ih => exact fun s => (ih _).trans (hf s a)

/-! ## Memory -/

@[simp] theorem State.backRegion_mem (s : State) (r : Nat) :
    (State.backRegion s r).mem = s.mem := by
  unfold State.backRegion; dsimp only; split <;> simp

/-! ## Events -/

@[simp] theorem State.countAccess_mem (s : State) (die line : Nat) :
    (State.countAccess s die line).mem = s.mem := rfl
@[simp] theorem State.l2Put_mem (s : State) (die line : Nat) (mod : Bool) :
    (State.l2Put s die line mod).mem = s.mem := by
  unfold State.l2Put; dsimp only; (repeat' split) <;> simp
@[simp] theorem State.askHome_mem (s : State) (c : BitVec 10) (line : Nat) :
    (State.askHome s c line).mem = s.mem := by
  unfold State.askHome; (repeat' split) <;> simp
@[simp] theorem State.l2Own_mem (s : State) (c : BitVec 10) (line : Nat) :
    (State.l2Own s c line).mem = s.mem := by
  unfold State.l2Own; dsimp only; (repeat' split) <;> simp
@[simp] theorem State.writeBack_mem (s : State) (c : BitVec 10) (line : Nat) :
    (State.writeBack s c line).mem = s.mem := by
  unfold State.writeBack; split <;> simp
@[simp] theorem State.atHome_mem (mod : Bool) (s : State) (line : Nat) :
    (State.atHome mod s line).mem = s.mem := by
  unfold State.atHome; split <;> simp
@[simp] theorem State.touchD_mem (c : BitVec 10) (s : State) (line : Nat) :
    (State.touchD c s line).mem = s.mem := by
  unfold State.touchD; dsimp only; split <;> simp
@[simp] theorem State.allocD_mem (s : State) (c : BitVec 10) (ls : List Nat) :
    (State.allocD s c ls).mem = s.mem := by simp [State.allocD]
@[simp] theorem State.storeD_mem (s : State) (c : BitVec 10) (ls : List Nat) :
    (State.storeD s c ls).mem = s.mem := by simp [State.storeD]
@[simp] theorem State.allocI_mem (s : State) (c : BitVec 10) (line : Nat) :
    (State.allocI s c line).mem = s.mem := by
  unfold State.allocI; split <;> simp
@[simp] theorem State.invalidate_mem (s : State) (c : Option (BitVec 10)) (ls : List Nat) :
    (State.invalidate s c ls).mem = s.mem := rfl
@[simp] theorem State.flushRegion_mem (s : State) (r : Nat) :
    (State.flushRegion s r).mem = s.mem := by
  unfold State.flushRegion; rw [foldl_mem]; simp
@[simp] theorem State.flushCores_mem (s : State) (p : BitVec 10 → Bool) :
    (State.flushCores s p).mem = s.mem := by
  unfold State.flushCores; rw [foldl_mem]; simp
@[simp] theorem State.stopTenant_mem (s : State) (tn : BitVec 4) :
    (State.stopTenant s tn).mem = s.mem := rfl
@[simp] theorem State.writtenBy_mem (s : State) (src : Option ThreadId) (byChunk : Bool) (bs : List Nat)
    (f : Thread → BitVec 4) (code : Nat) :
    (State.writtenBy s src byChunk bs f code).mem = s.mem := rfl
@[simp] theorem State.written_mem (s : State) (src : Option ThreadId) (byChunk : Bool) (bs : List Nat) :
    (State.written s src byChunk bs).mem = s.mem := rfl
@[simp] theorem State.winWritten_mem (s : State) (pa n : Nat) :
    (State.winWritten s pa n).mem = s.mem := rfl
@[simp] theorem State.settleLines_mem (s : State) (byChunk : Bool) (ls : List Nat) :
    (State.settleLines s byChunk ls).mem = s.mem := by
  unfold State.settleLines; split <;> simp
@[simp] theorem State.hostTakes_mem (s : State) (p : Nat → Bool) (bs : List Nat) :
    (State.hostTakes s p bs).mem = s.mem := rfl
@[simp] theorem State.hostReads_mem (s : State) (line : Nat) :
    (State.hostReads s line).mem = s.mem := rfl
@[simp] theorem State.markPoison_mem (s : State) (line : Nat) (cause : BitVec 16) :
    (State.markPoison s line cause).mem = s.mem := by
  unfold State.markPoison; split <;> rfl
@[simp] theorem State.askPage_mem (s : State) (tn : BitVec 4) (core : BitVec 10) (vpage : Nat) :
    (State.askPage s tn core vpage).mem = s.mem := by
  unfold State.askPage
  split
  · dsimp only; split <;> rfl
  · rfl
@[simp] theorem State.askAddr_mem (s : State) (tn : BitVec 4) (core : BitVec 10) (k : Acc) (va : Nat) :
    (State.askAddr s tn core k va).mem = s.mem := by
  unfold State.askAddr; split <;> simp
@[simp] theorem State.forget_mem (s : State) (tn : BitVec 4) (core : BitVec 10) (va : Nat) :
    (State.forget s tn core va).mem = s.mem := by
  unfold State.forget; dsimp only; split <;> rfl
@[simp] theorem State.tookFault_mem (s : State) (id : ThreadId) (core : BitVec 10) (f : Flt) :
    (State.tookFault s id core f).mem = s.mem := by
  unfold State.tookFault; dsimp only; split <;> simp
@[simp] theorem State.askedDone_mem (s : State) (tn : BitVec 4) (core : BitVec 10) (vpage : Nat) :
    (State.askedDone s tn core vpage).mem = s.mem := by
  unfold State.askedDone; dsimp only; split <;> rfl
@[simp] theorem State.askWatches_mem (s : State) (tn : BitVec 4) (hit : Nat → Bool) :
    (State.askWatches s tn hit).mem = s.mem := by
  unfold State.askWatches
  refine foldl_mem _ (fun s t => foldl_mem _ (fun s w => ?_) _ s) _ s
  split
  · exact s.askAddr_mem _ _ _ _
  · rfl
@[simp] theorem State.askFor_mem (s : State) (id : ThreadId) (core : BitVec 10) (e : Stop) :
    (State.askFor s id core e).mem = s.mem := by
  unfold State.askFor; split
  · simp
  · dsimp only; split <;> rfl
  · rfl
@[simp] theorem State.sendMsix_mem (s : State) (h : BitVec 1) (v : BitVec 6) :
    (State.sendMsix s h v).mem = s.mem := by
  unfold State.sendMsix; dsimp only; split <;> simp
@[simp] theorem State.storeRecord_mem (s : State) (h : Held) :
    (State.storeRecord s h).mem = s.mem := rfl
@[simp] theorem State.holdRecord_mem (s : State) (who : Option ThreadId) (line : Word) (r : Record) :
    (State.holdRecord s who line r).mem = s.mem := by
  unfold State.holdRecord; split <;> rfl
@[simp] theorem State.holdReport_mem (s : State) (line : Nat) (r : Record) :
    (State.holdReport s line r).mem = s.mem := rfl

/-! ## Ops -/

@[simp] theorem State.depart_mem (s : State) (cl : BitVec 7) (p : Dray → Bool) :
    (State.depart s cl p).mem = s.mem := rfl
@[simp] theorem State.departFor_mem (s : State) (t : Thread) :
    (State.departFor s t).mem = s.mem := rfl
@[simp] theorem State.callDrays_mem (s : State) (cl : BitVec 7) (p : Dray → Bool) :
    (State.callDrays s cl p).mem = s.mem := rfl
@[simp] theorem State.sendDrays_mem (s : State) : (State.sendDrays s).mem = s.mem := by
  obtain ⟨k, n, h⟩ := s.sendDrays_only; rw [h]
@[simp] theorem State.shutDrays_mem (s : State) (cl : BitVec 7) : (State.shutDrays s cl).mem = s.mem := rfl
@[simp] theorem State.enterTurn_mem (s : State) (core : BitVec 10) : (State.enterTurn s core).mem = s.mem := by
  unfold State.enterTurn
  dsimp only
  rw [State.setCluster_mem]
  split
  · exact s.sendDrays_mem
  · rfl
@[simp] theorem State.enterDray_mem (s : State) (cl : BitVec 7) (e : Elem) :
    (State.enterDray s cl e).mem = s.mem := by
  unfold State.enterDray; dsimp only; (repeat' split) <;> simp
@[simp] theorem State.copyRoot_mem (s : State) :
    (State.copyRoot s).mem = s.mem := by
  unfold State.copyRoot; split <;> rfl
@[simp] theorem State.leaveLine_mem (s : State) (t : Thread) :
    (State.leaveLine s t).mem = s.mem := by
  unfold State.leaveLine; dsimp only; split <;> simp
@[simp] theorem State.mistakes_mem (s : State) (t : Thread) :
    (State.mistakes s t).mem = s.mem := rfl
@[simp] theorem State.squashConflict_mem (s : State) :
    (State.squashConflict s).mem = s.mem := rfl
@[simp] theorem State.park_mem (s : State) (p : Park) :
    (State.park s p).mem = s.mem := rfl
@[simp] theorem State.startThread_mem (s : State) (id : ThreadId) :
    (State.startThread s id).mem = s.mem := by
  unfold State.startThread; split <;> rfl
@[simp] theorem State.setReg_mem (s : State) (d : BitVec 5) (v : Word) :
    (State.setReg s d v).mem = s.mem := rfl

/-! ## Atomics -/

@[simp] theorem State.ask_mem (p : Post) (s : State) :
    (State.ask p s).mem = s.mem := rfl
@[simp] theorem State.sendAtomic_mem (tn : BitVec 4) (pa : Nat) (op : Option AmoOp) (z : AmoSize) (expect new : Word)
    (s : State) :
    (State.sendAtomic tn pa op z expect new s).mem = s.mem := by
  unfold State.sendAtomic; split <;> rfl
@[simp] theorem State.postAmop_mem (a : Amop) (s : State) :
    (State.postAmop a s).mem = s.mem := rfl
@[simp] theorem State.posted_mem (s : State) (id : ThreadId) :
    (State.posted s id).mem = s.mem := rfl

/-! ## Threads -/

@[simp] theorem State.rankWritten_mem (s : State) (id : ThreadId) :
    (State.rankWritten s id).mem = s.mem := rfl
@[simp] theorem State.indentWritten_mem (s : State) (tn : BitVec 4) (rank : BitVec 24) (i : Nat) :
    (State.indentWritten s tn rank i).mem = s.mem := rfl
@[simp] theorem State.place_mem (s : State) (id : ThreadId) (f : Thread → Thread) :
    (State.place s id f).mem = s.mem := by simp [State.place]
@[simp] theorem State.addEntry_mem (s : State) (tn : BitVec 4) (r : BitVec 24) (e : IEntry) :
    (State.addEntry s tn r e).mem = s.mem := rfl
@[simp] theorem State.releaseGroups_mem (s : State) (t : Thread) :
    (State.releaseGroups s t).mem = s.mem := by
  unfold State.releaseGroups; split <;> rfl
@[simp] theorem State.updDomain_mem (s : State) (tn : BitVec 4) (k : DKind) (f : Domain → Domain) :
    (State.updDomain s tn k f).mem = s.mem := rfl
@[simp] theorem State.crierSend_mem (s : State) (tn : BitVec 4) (d : Domain) (cl : BitVec 7) (k : Nat) (abort : Bool) :
    (State.crierSend s tn d cl k abort).mem = s.mem := by
  unfold State.crierSend; dsimp only; split <;> simp
@[simp] theorem State.crierRestart_mem (s : State) (tn : BitVec 4) (k : DKind) :
    (State.crierRestart s tn k).mem = s.mem := by
  unfold State.crierRestart; (repeat' split) <;> simp
@[simp] theorem State.leaveDomains_mem (s : State) (id : ThreadId) (sl : Option (BitVec 2)) :
    (State.leaveDomains s id sl).mem = s.mem := by simp [State.leaveDomains]
@[simp] theorem State.setLoom_mem (s : State) (cl : BitVec 7) (l : Loom) :
    (State.setLoom s cl l).mem = s.mem := rfl
@[simp] theorem State.putLoom_mem (s : State) (cl : BitVec 7) (l : Loom) :
    (State.putLoom s cl l).mem = s.mem := rfl
@[simp] theorem State.releaseLoom_mem (s : State) (cl : BitVec 7) :
    (State.releaseLoom s cl).mem = s.mem := by
  unfold State.releaseLoom; split <;> rfl

/-! ## LoadStore -/

@[simp] theorem State.ioLoad_mem (z : LoadSize) (d : BitVec 5) (pa : Nat) (s : State) :
    (State.ioLoad z d pa s).mem = s.mem := rfl
@[simp] theorem State.fabLoad_mem (z : LoadSize) (d : BitVec 5) (va pa : Nat) (pc : Word) (s : State) :
    (State.fabLoad z d va pa pc s).mem = s.mem := rfl
@[simp] theorem State.ioStore_mem (pa : Nat) (bs : List Byte) (s : State) :
    (State.ioStore pa bs s).mem = s.mem := rfl
@[simp] theorem State.fabStore_mem (va pa : Nat) (bs : List Byte) (pc : Word) (s : State) :
    (State.fabStore va pa bs pc s).mem = s.mem := rfl

/-! ## Waits -/

@[simp] theorem State.degradeWatch_mem (s : State) (id : ThreadId) (n : BitVec 2) :
    (State.degradeWatch s id n).mem = s.mem := rfl
@[simp] theorem State.waitNow_mem (d : BitVec 5) (p : Park) (s : State) :
    (State.waitNow d p s).mem = s.mem := by
  unfold State.waitNow; split <;> rfl
@[simp] theorem State.birth_mem (s : State) (d : BitVec 5) (pc arg : Word) (rank : BitVec 24) (c : BitVec 10) (p : Place) :
    (State.birth s d pc arg rank c p).mem = s.mem := by simp [State.birth]
@[simp] theorem State.poolRefuse_mem (s : State) (d : BitVec 5) (code : Nat) :
    (State.poolRefuse s d code).mem = s.mem := rfl
@[simp] theorem State.poolGrant_mem (s : State) (d : BitVec 5) (g : BitVec 16) (returned : Bool) :
    (State.poolGrant s d g returned).mem = s.mem := rfl
@[simp] theorem State.claim_mem (d : BitVec 5) (v : Word) (s : State) :
    (State.claim d v s).mem = s.mem := by
  unfold State.claim; dsimp only; (repeat' split) <;> simp
@[simp] theorem State.reneg_mem (d : BitVec 5) (v : Word) (s : State) :
    (State.reneg d v s).mem = s.mem := by
  unfold State.reneg; dsimp only; (repeat' split) <;> simp
@[simp] theorem State.poke_mem (s : State) (id : ThreadId) (n : BitVec 2) :
    (State.poke s id n).mem = s.mem := rfl
@[simp] theorem State.sendPoke_mem (s : State) (t : Thread) (n : BitVec 2) :
    (State.sendPoke s t n).mem = s.mem := by
  unfold State.sendPoke; split <;> rfl
@[simp] theorem State.heldPoke_mem (s : State) (n : Nat) :
    (State.heldPoke s n).mem = s.mem := by
  unfold State.heldPoke; split <;> rfl
@[simp] theorem State.exchange_mem (d : BitVec 5) (target opts : Word) (s : State) :
    (State.exchange d target opts s).mem = s.mem := by
  unfold State.exchange; dsimp only; (repeat' split) <;> simp

/-! ## Barriers -/

@[simp] theorem State.member_mem (d : BitVec 5) (v : Word) (s : State) :
    (State.member d v s).mem = s.mem := by
  unfold State.member; dsimp only; (repeat' split) <;> simp
@[simp] theorem State.dbarNow_mem (d : BitVec 5) (v : Word) (s : State) :
    (State.dbarNow d v s).mem = s.mem := by
  unfold State.dbarNow; dsimp only; (repeat' split) <;> simp
@[simp] theorem State.departMembers_mem (s : State) (tn : BitVec 4) (d : Domain) :
    (State.departMembers s tn d).mem = s.mem := by
  unfold State.departMembers; rw [foldl_mem]; simp
@[simp] theorem State.crierOver_mem (s : State) (tn : BitVec 4) (k : DKind) :
    (State.crierOver s tn k).mem = s.mem := by
  unfold State.crierOver; (repeat' split) <;> simp

/-! ## Drays -/

@[simp] theorem State.dropPacket_mem (s : State) (n : Nat) :
    (State.dropPacket s n).mem = s.mem := rfl

/-! ## ThreadState -/

@[simp] theorem State.awaitResult_mem (s : State) :
    (State.awaitResult s).mem = s.mem := rfl
@[simp] theorem State.sendResult_mem (s : State) (caller : ThreadId) (d : BitVec 5) (v : Word) (halt : Bool) :
    (State.sendResult s caller d v halt).mem = s.mem := rfl
@[simp] theorem State.answer_mem (d : BitVec 5) (v : Word) (s : State) :
    (State.answer d v s).mem = s.mem := rfl
@[simp] theorem State.request1_mem (d : BitVec 5) (target : BitVec 24) (a : TAct) (s : State) :
    (State.request1 d target a s).mem = s.mem := rfl
@[simp] theorem State.threadState_mem (d : BitVec 5) (v : Word) (right : Nat) (a : TAct) (s : State) :
    (State.threadState d v right a s).mem = s.mem := by
  unfold State.threadState; split <;> rfl
@[simp] theorem State.grant_mem (d : BitVec 5) (w0 w1 w2 w3 : Word) (s : State) :
    (State.grant d w0 w1 w2 w3 s).mem = s.mem := by
  unfold State.grant; dsimp only; (repeat' split) <;> simp
@[simp] theorem State.revoke_mem (d : BitVec 5) (v : Word) (s : State) :
    (State.revoke d v s).mem = s.mem := by
  unfold State.revoke; dsimp only; (repeat' split) <;> simp

/-! ## Loom -/

@[simp] theorem State.pushLoom_mem (c : LoomCmd) (s : State) :
    (State.pushLoom c s).mem = s.mem := rfl

/-! ## Daybook -/

@[simp] theorem State.linkLoad_mem (s : State) (cl : BitVec 7) (c : LoomCmd) (i : Option Nat) :
    (State.linkLoad s cl c i).mem = s.mem := by
  unfold State.linkLoad; dsimp only; (repeat' split) <;> simp

/-! ## LoomRun -/

@[simp] theorem State.popDone_mem (s : State) (cl : BitVec 7) (c : LoomCmd) (i : Option Nat) :
    (State.popDone s cl c i).mem = s.mem := by simp [State.popDone]
@[simp] theorem State.loomRetry_mem (s : State) (cl : BitVec 7) (f : LoomCmd → LoomCmd) :
    (State.loomRetry s cl f).mem = s.mem := by simp [State.loomRetry]
@[simp] theorem State.callLoom_mem (cl : BitVec 7) (s : State) :
    (State.callLoom cl s).mem = s.mem := rfl

/-! ## Service -/

@[simp] theorem State.departTenant_mem (s : State) (tn : BitVec 4) :
    (State.departTenant s tn).mem = s.mem := by
  unfold State.departTenant; rw [foldl_mem]; simp
@[simp] theorem State.abortHost_mem (s : State) (tn : BitVec 4) :
    (State.abortHost s tn).mem = s.mem := rfl
@[simp] theorem State.toError_mem (s : State) (tn : BitVec 4) :
    (State.toError s tn).mem = s.mem := by simp [State.toError]
@[simp] theorem State.startTenant_mem (s : State) (tn : BitVec 4) :
    (State.startTenant s tn).mem = s.mem := by simp [State.startTenant]

/-! ## Launches -/

@[simp] theorem State.statusAsk_mem (s : State) (q : BitVec 6) (stata : Word) :
    (State.statusAsk s q stata).mem = s.mem := by
  unfold State.statusAsk; dsimp only; split <;> simp
@[simp] theorem State.updLaunch_mem (s : State) (tn : BitVec 4) (lid : Nat) (f : Launch → Launch) :
    (State.updLaunch s tn lid f).mem = s.mem := rfl
@[simp] theorem State.focus_mem (s : State) (id : ThreadId) :
    (State.focus s id).mem = s.mem := by
  unfold State.focus; (repeat' split) <;> simp

/-! ## Reports -/

@[simp] theorem State.takeHeld_mem (s : State) (tn : BitVec 4) (p : Option ThreadId × Held) :
    (State.takeHeld s tn p).mem = s.mem := by
  unfold State.takeHeld; split <;> rfl

/-! ## HostAccess -/

@[simp] theorem State.send_mem (s : State) (m : OutMsg) :
    (State.send s m).mem = s.mem := rfl
@[simp] theorem State.answerTo_mem (s : State) (who : Asker) (n : Nat) (bs : Option (List Byte)) :
    (State.answerTo s who n bs).mem = s.mem := by
  unfold State.answerTo; dsimp only; split <;> simp
@[simp] theorem State.peerRefused_mem (s : State) (tn : BitVec 4) :
    (State.peerRefused s tn).mem = s.mem := rfl
@[simp] theorem State.finishPost_mem (s : State) (id : ThreadId) (f : Thread → Thread) :
    (State.finishPost s id f).mem = s.mem := rfl
@[simp] theorem State.newPage_mem (s : State) (tn : BitVec 4) (vpage : Nat) :
    (State.newPage s tn vpage).mem = s.mem := rfl
@[simp] theorem State.fillTlb_mem (s : State) (tn : BitVec 4) (core : BitVec 10) (vpage lg : Nat) (e : Pte) :
    (State.fillTlb s tn core vpage lg e).mem = s.mem := rfl
@[simp] theorem State.recheckWaits_mem (s : State) (p : Thread → Bool) :
    (State.recheckWaits s p).mem = s.mem := rfl
@[simp] theorem State.invalDone_mem (s : State) (n : Nat) :
    (State.invalDone s n).mem = s.mem := by
  unfold State.invalDone; split <;> rfl
@[simp] theorem State.barWrite_mem (s : State) (h : BitVec 1) (o n : Nat) (v : Word) :
    (State.barWrite s h o n v).mem = s.mem := by
  unfold State.barWrite; dsimp only; (repeat' split) <;> simp

/-! ## Porters -/

@[simp] theorem State.setPort_mem (s : State) (cl : BitVec 7) (n : BitVec 2) (p : Porter) :
    (State.setPort s cl n p).mem = s.mem := rfl
@[simp] theorem State.pushPorter_mem (cl : BitVec 7) (n : BitVec 2) (d : BitVec 5) (c : PorterCmd) (s : State) :
    (State.pushPorter cl n d c s).mem = s.mem := by
  unfold State.pushPorter; dsimp only; split <;> simp
@[simp] theorem State.portDone_mem (s : State) (cl : BitVec 7) (n : BitVec 2) (c : PorterCmd) :
    (State.portDone s cl n c).mem = s.mem := rfl
@[simp] theorem State.putPort_mem (s : State) (cl : BitVec 7) (n : BitVec 2) (c : PorterCmd) :
    (State.putPort s cl n c).mem = s.mem := rfl
@[simp] theorem State.portResume_mem (s : State) (cl : BitVec 7) (n : BitVec 2) :
    (State.portResume s cl n).mem = s.mem := by simp [State.portResume]

/-! ## Failures -/

@[simp] theorem State.health_mem (s : State) (f : Health → Health) :
    (State.health s f).mem = s.mem := rfl
@[simp] theorem State.rebuildCaps_mem (s : State) :
    (State.rebuildCaps s).mem = s.mem := rfl
@[simp] theorem State.capStep_mem (s : State) :
    (State.capStep s).mem = s.mem := by
  unfold State.capStep; dsimp only; (repeat' split) <;> simp
@[simp] theorem State.loseLines_mem (s : State) (p : BitVec 10 → Bool) :
    (State.loseLines s p).mem = s.mem := by simp [State.loseLines]
@[simp] theorem State.mappedOutPart_mem (s : State) (f : Health → Health) :
    (State.mappedOutPart s f).mem = s.mem := rfl
@[simp] theorem State.freeze_mem (s : State) :
    (State.freeze s).mem = s.mem := by simp [State.freeze]
@[simp] theorem State.setRecovery_mem (s : State) (l : LinkId) (b : Bool) :
    (State.setRecovery s l b).mem = s.mem := rfl
@[simp] theorem State.migrate_mem (s : State) (r : Nat) :
    (State.migrate s r).mem = s.mem := by
  unfold State.migrate; dsimp only; (repeat' split) <;> simp
@[simp] theorem State.dropHostLines_mem (s : State) (h : BitVec 1) :
    (State.dropHostLines s h).mem = s.mem := by simp [State.dropHostLines]
@[simp] theorem State.tenantUnasked_mem (s : State) (tn : BitVec 4) :
    (State.tenantUnasked s tn).mem = s.mem := rfl
@[simp] theorem State.tenantLosesHost_mem (h : BitVec 1) (s : State) (tn : BitVec 4) :
    (State.tenantLosesHost h s tn).mem = s.mem := by
  unfold State.tenantLosesHost; dsimp only; (repeat' split) <;> simp
@[simp] theorem State.loseHost_mem (s : State) (h : BitVec 1) :
    (State.loseHost s h).mem = s.mem := by simp [State.loseHost]

/-! ## Security -/

@[simp] theorem State.fail_mem (s : State) (tn : BitVec 4) :
    (State.fail s tn).mem = s.mem := by
  unfold State.fail; split <;> simp
@[simp] theorem State.sessionOver_mem (s : State) (h : BitVec 1) :
    (State.sessionOver s h).mem = s.mem := by
  unfold State.sessionOver; split <;> simp
@[simp] theorem State.reply_mem (s : State) (h : BitVec 1) (bs : List Byte) :
    (State.reply s h bs).mem = s.mem := by
  unfold State.reply; split <;> rfl
@[simp] theorem State.turnDown_mem (s : State) (h : BitVec 1) :
    (State.turnDown s h).mem = s.mem := by
  unfold State.turnDown; split <;> rfl
@[simp] theorem State.leaveRun_mem (s : State) (tn : BitVec 4) :
    (State.leaveRun s tn).mem = s.mem := by simp [State.leaveRun]

/-! ## Schedule -/

@[simp] theorem State.orBad_mem (s : State) (b : BadBundle) :
    (State.orBad s b).mem = s.mem := by
  unfold State.orBad; (repeat' split) <;> simp
@[simp] theorem State.fetched_mem (s : State) (pa : Nat) :
    (State.fetched s pa).mem = s.mem := by simp [State.fetched]
@[simp] theorem State.issued_mem (s : State) (u : Thread) (ids : List ThreadId) :
    (State.issued s u ids).mem = s.mem := rfl
@[simp] theorem State.tried_mem (s : State) (u : Thread) (ids : List ThreadId) :
    (State.tried s u ids).mem = s.mem := by
  unfold State.tried
  extract_lets b s1
  have h1 : s1.mem = s.mem := by
    show State.mem (match u.balk with | some (.page v) => _ | _ => _) = s.mem
    split
    · split
      · rfl
      · exact s.forget_mem _ _ _
    · rfl
  split
  · exact h1
  · rw [State.issued_mem]; exact h1

end Sys2Proof.Machine
end

