-- ==== Sys2Proof/Laws/Keeps.lean ====
section
/-! SUPPORT. What the shared operations that may write memory do to it, said once: each keeps its canonical form. -/

namespace Sys2Proof.Machine

/-- A resume word is no byte of memory. -/
@[simp] theorem State.storeResume_mem (s : State) (c : Host.Cell) : (s.storeResume c).mem = s.mem := by
  unfold State.storeResume
  extract_lets va
  clear_value va
  split
  · split <;> simp
  · split
    · split <;> simp
    · rfl

@[simp] theorem State.queueForLoom_mem (s : State) (p : Park) : (s.queueForLoom p).mem = s.mem := by
  unfold State.queueForLoom
  split
  · dsimp only; split <;> simp
  · rfl

@[simp] theorem State.askHost_mem (s : State) (p : Park) : (s.askHost p).mem = s.mem := by
  unfold State.askHost; split <;> simp

/-- A fold of operations that keep the canonical form keeps it. -/
theorem memOk_foldl {α : Type} (f : State → α → State) (hf : ∀ s a, s.memOk → (f s a).memOk) (l : List α) :
    ∀ s : State, s.memOk → (l.foldl f s).memOk := by
  induction l with
  | nil => exact fun s h => h
  | cons a l ih => exact fun s h => ih _ (hf s a h)

/-- A combine keeps the canonical form (R176). -/
@[simp] theorem State.combineLine_memOk (s : State) (src : Option ThreadId) (l : Nat) (h : s.memOk) : (s.combineLine src l).memOk := by
  unfold State.combineLine State.memOk
  dsimp only
  split
  · exact h
  · rw [State.written_mem, State.atHome_mem]; exact memWf_memWriteAll _ _ h

@[simp] theorem State.combineAll_memOk (s : State) (src : Option ThreadId) (ls : List Nat) (h : s.memOk) :
    (s.combineAll src ls).memOk := memOk_foldl _ (fun s l h => s.combineLine_memOk src l h) ls s h

/-- Storing the bytes of an event keeps the canonical form. -/
@[simp] theorem State.putCells_memOk (s : State) (src : Option ThreadId) (cs : List Host.Cell) (h : s.memOk) :
    (s.putCells src cs).memOk := by
  unfold State.putCells
  refine memOk_foldl _ (fun s c h => by rw [State.memOk, State.storeResume_mem]; exact h) _ _ ?_
  exact memWf_memWriteAll _ _ (s.combineAll_memOk src _ h)

/-- A write event keeps the canonical form (R226). -/
@[simp] theorem State.writeEvent_memOk (s : State) (src : Option ThreadId) (b : Bool) (cs : List Host.Cell) (h : s.memOk) :
    (s.writeEvent src b cs).memOk := by
  rw [State.writeEvent, State.memOk, State.written_mem, State.settleLines_mem]
  exact s.putCells_memOk src cs h

/-- A report to the host keeps the canonical form (R330). -/
@[simp] theorem State.report_memOk (s : State) (r : Record) (h : s.memOk) : (s.report r).memOk := by
  unfold State.report
  dsimp only
  split
  · exact h
  · split
    · exact h
    · split
      · rw [State.memOk, State.holdReport_mem]; exact h
      · split
        · rw [State.memOk, State.holdReport_mem]; exact s.combineLine_memOk _ _ h
        · rw [State.memOk, State.sendMsix_mem]
          refine State.writeEvent_memOk _ _ _ _ ?_
          rw [State.memOk, State.setTenant_mem]; exact s.combineLine_memOk _ _ h

/-- Writing a record keeps the canonical form (R299). -/
@[simp] theorem State.writeRecord_memOk (s : State) (l : Word) (pa : Nat) (r : Record) (h : s.memOk) :
    (s.writeRecord l pa r).memOk := by
  unfold State.writeRecord
  refine State.writeEvent_memOk _ _ _ _ ?_
  rw [State.memOk, State.setTenant_mem]; exact h

/-- The delivery of a record keeps the canonical form (R299). -/
@[simp] theorem State.deliver_memOk (s : State) (who : Option ThreadId) (core : BitVec 10) (l : Word) (r : Record) (h : s.memOk) :
    (s.deliver who core l r).memOk := by
  unfold State.deliver
  extract_lets s1
  have h1 : s1.memOk := by rw [State.memOk, State.forget_mem, State.forget_mem]; exact h
  split
  · refine State.report_memOk _ _ ?_
    rw [State.memOk, State.stopTenant_mem]; exact h1
  · rw [State.memOk, State.holdRecord_mem, State.askAddr_mem]; exact h1
  · split
    · rw [State.memOk, State.holdRecord_mem]; exact h1
    · dsimp only
      split
      · rw [State.memOk, State.holdRecord_mem]; exact s1.combineLine_memOk _ _ h1
      · exact State.writeRecord_memOk _ _ _ _ (s1.combineLine_memOk _ _ h1)

@[simp] theorem State.detector_memOk (s : State) (tn : BitVec 4) (kind : BitVec 8) (eng addr seq pos det : Word) (h : s.memOk) :
    (s.detector tn kind eng addr seq pos det).memOk := s.deliver_memOk _ _ _ _ h

/-- A commit keeps the canonical form (R155). -/
@[simp] theorem State.commitNow_memOk (s : State) (h : s.memOk) : s.commitNow.memOk := by
  unfold State.commitNow
  extract_lets t c s0 s1 s2 s3
  have h0 : s0.memOk := by
    show State.memOk (if _ then _ else _)
    split
    · exact h
    · rw [State.memOk, State.enterTurn_mem]; exact h
  have h1 : s1.memOk := State.combineAll_memOk _ _ _ h0
  have h2 : s2.memOk := by
    show State.memOk (if _ then _ else _)
    split
    · exact h1
    · rw [State.memOk, State.mistakes_mem, State.storeD_mem]; exact s1.writeEvent_memOk _ _ _ h1
  rw [State.memOk, State.copyRoot_mem, State.leaveLine_mem]
  exact memOk_foldl _ (fun s e h => by rw [State.memOk, State.enterDray_mem]; exact h) _ s3 h2

theorem State.commit_memOk {s t : State} (h : s.memOk) (hc : s.commit = .ok t) : t.memOk := by
  rw [(State.commit_ok hc).1]; exact s.commitNow_memOk h

/-- Taking a fault keeps the canonical form (R303). -/
@[simp] theorem State.raise_memOk (s : State) (f : Flt) (h : s.memOk) : (s.raise f).memOk := by
  unfold State.raise
  split
  · exact h
  · exact State.deliver_memOk _ _ _ _ _ h

@[simp] theorem State.faultAfter_memOk (s : State) (id : ThreadId) (o : BitVec 4) (pc : Word) (f : Flt) (h : s.memOk) :
    (s.faultAfter id o pc f).memOk := by
  unfold State.faultAfter
  split
  · exact h
  · refine State.deliver_memOk _ _ _ _ _ ?_
    rw [State.memOk, State.tookFault_mem, State.upd_mem]; exact h

/-- A fault that the home finds keeps the canonical form (R181). -/
@[simp] theorem State.homeRecord_memOk (s : State) (id : ThreadId) (pc : Word) (f : Flt) (h : s.memOk) :
    (s.homeRecord id pc f).memOk := by
  unfold State.homeRecord
  split
  · exact h
  · refine State.deliver_memOk _ _ _ _ _ ?_
    rw [State.memOk, State.tookFault_mem]; exact h

@[simp] theorem State.stopFor_memOk (s : State) (e : Stop) (h : s.memOk) : (s.stopFor e).memOk := by
  cases e with
  | flt f => exact s.raise_memOk f h
  | park p => simpa [State.stopFor, State.memOk] using h
  | ats v =>
    show Memory.wf (State.mem (s.askPage _ _ v)) = true
    rw [State.askPage_mem]; exact h
  | _ => exact h

/-- However a bundle ends, the canonical form is kept if its own result keeps it. -/
theorem State.settle_memOk (s : State) (r : Res State) (h : s.memOk) (hr : ∀ t, r = .ok t → t.memOk) : (s.settle r).memOk := by
  unfold State.settle
  split
  · exact s.raise_memOk _ h
  · exact s.raise_memOk _ h
  · exact s.raise_memOk _ h
  · exact s.raise_memOk _ h
  · exact s.raise_memOk _ h
  · exact s.raise_memOk _ h
  · exact s.raise_memOk _ h
  · exact hr _ rfl
  · exact s.stopFor_memOk _ h

/-- A bundle within its chunk leaves memory as it was. -/
theorem State.retire_mem {s t : State} {e : Eff} (h : s.retire e = .ok t) : t.mem = s.mem := by
  rw [State.retire_ok h, State.retired_mem]

/-- The end of a chunk keeps the canonical form if what follows it does. -/
theorem State.endChunk_memOk {s t : State} {e : Eff} {k : State → State} (h : s.memOk) (hk : ∀ u, u.memOk → (k u).memOk)
    (he : s.endChunk e k = .ok t) : t.memOk := by
  unfold State.endChunk at he
  split at he
  · cases he
  · split at he
    · cases he
    · rename_i s1 hr
      have h1 : s1.memOk := by rw [State.memOk, State.retire_mem hr]; exact h
      split at he
      · cases he; exact h1
      · cases he
      · rename_i s2 hc
        cases he
        exact hk _ (State.commit_memOk h1 hc)

/-- A C-slot instruction keeps the canonical form if its result does. -/
theorem State.runC_memOk {s t : State} {r : Res State} (h : s.memOk) (hr : ∀ u, r = .ok u → u.memOk)
    (he : s.runC r = .next t) : t.memOk := by
  cases he; exact s.settle_memOk r h hr

/-- A chunk-ending C-slot instruction keeps the canonical form if what follows its commit does. -/
theorem State.endC_memOk {s t : State} {e : Eff} {k : State → State} (h : s.memOk) (hk : ∀ u, u.memOk → (k u).memOk)
    (he : s.endC e k = .next t) : t.memOk := State.runC_memOk h (fun _ hu => State.endChunk_memOk h hk hu) he

theorem State.enderC_memOk {s t : State} {r : Res State} (h : s.memOk) (hr : ∀ u, r = .ok u → u.memOk)
    (he : s.enderC r = .next t) : t.memOk := by
  refine State.runC_memOk h (fun u hu => ?_) he
  split at hu
  · cases hu
  · exact hr u hu

/-- An A-slot instruction keeps the canonical form. -/
theorem State.runSlot_memOk {s t : State} {k : Arch → ASlot} {f : Nat → Res Arch} (h : s.memOk) (he : s.runSlot k f = .next t) : t.memOk := by
  unfold State.runSlot at he
  split at he
  · split at he <;> cases he
    · exact h
    · exact h
    · exact s.stopFor_memOk _ h
  · split at he <;> cases he
    · exact s.settle_memOk _ h (fun u hu => by rw [State.memOk, State.retire_mem hu]; exact h)
    · exact s.raise_memOk _ h
    · exact s.stopFor_memOk _ h

theorem State.runA_memOk {s t : State} {f : Nat → Res Arch} (h : s.memOk) (he : s.runA f = .next t) : t.memOk :=
  State.runSlot_memOk h he

theorem State.runV_memOk {s t : State} {f : Nat → Res Arch} (h : s.memOk) (he : s.runV f = .next t) : t.memOk :=
  State.runSlot_memOk h he

theorem State.checked_memOk {s t : State} {c : Res Unit} {r : Out} (h : s.memOk) (hr : ∀ u, r = .next u → u.memOk)
    (he : s.checked c r = .next t) : t.memOk := by
  unfold State.checked at he
  split at he
  · exact hr t he
  · cases he; exact s.settle_memOk _ h (fun _ hu => by cases hu)

end Sys2Proof.Machine
end

