-- ==== Sys2Proof/Laws/KeepsMem.lean ====
section
/-! SUPPORT. The operations of the instruction families, the engines and the services that may write memory: each keeps its
canonical form. -/

namespace Sys2Proof.Machine

/-- A fold of operations that keep the canonical form keeps it, as a rule of simp. -/
@[simp] theorem wf_foldl {α : Type} (f : State → α → State) (hf : ∀ s a, s.memOk → (f s a).memOk) (l : List α) (s : State)
    (h : s.memOk) : (l.foldl f s).memOk := memOk_foldl f hf l s h

@[simp] theorem State.dropWatches_memOk (s : State) (t : Thread) (h : s.memOk) :
    (State.dropWatches s t).memOk := by
  unfold State.dropWatches; dsimp only; (repeat' split) <;> simp +contextual [State.memOk, h]

@[simp] theorem State.checkWatches_memOk (s : State) (tn : BitVec 4) (h : s.memOk) :
    (State.checkWatches s tn).memOk := by
  unfold State.checkWatches; simp +contextual [State.memOk, h]

/-- Freeing a rank ends watches, which writes records (R251, R271). -/
@[simp] theorem State.freeRank_memOk (s : State) (t : Thread) (h : s.memOk) : (State.freeRank s t).memOk := by
  unfold State.freeRank
  extract_lets k s1
  have h1 : s1.memOk := by
    rw [State.memOk, State.rankWritten_mem, foldl_mem _ (fun s r => State.storeRecord_mem s r)]; exact h
  split
  · exact h1
  · exact s1.checkWatches_memOk _ h1

@[simp] theorem State.endThread_memOk (s : State) (id : ThreadId) (retain : Bool) (h : s.memOk) :
    (State.endThread s id retain).memOk := by
  unfold State.endThread; dsimp only; (repeat' split) <;> simp [State.memOk, h]

@[simp] theorem State.freeRetained_memOk (s : State) (t : Thread) (h : s.memOk) : (State.freeRetained s t).memOk := by
  unfold State.freeRetained; simp [State.memOk, h]

@[simp] theorem State.drayRecord_memOk (s : State) (id : ThreadId) (flta : Word) (core : BitVec 10) (eng : Word)
    (va : Nat) (bits : Word) (kind : BitVec 8) (detail : Nat) (h : s.memOk) :
    (State.drayRecord s id flta core eng va bits kind detail).memOk := by
  unfold State.drayRecord; simp [State.memOk, h]

@[simp] theorem State.rankRecord_memOk (p : Packet) (s : State) (id : ThreadId) (h : s.memOk) :
    (State.rankRecord p s id).memOk := by
  unfold State.rankRecord; dsimp only; (repeat' split) <;> simp [State.memOk, h]

@[simp] theorem State.packetDone_memOk (s : State) (n : Nat) (p : Packet) (h : s.memOk) :
    (State.packetDone s n p).memOk := by
  unfold State.packetDone; simp +contextual [State.memOk, h]

@[simp] theorem State.passElem_memOk (s : State) (n : Nat) (bad : Option (BitVec 8 × Nat)) (h : s.memOk) :
    (State.passElem s n bad).memOk := by
  unfold State.passElem; dsimp only; (repeat' split) <;> simp [State.memOk, h]

@[simp] theorem State.crangeEvent_memOk (f : RangeFmt) (d : BitVec 5) (base len : Nat) (pages : List Nat) (s : State)
    (h : s.memOk) :
    (State.crangeEvent f d base len pages s).memOk := by
  unfold State.crangeEvent; dsimp only; (repeat' split) <;> simp [State.memOk, h]

@[simp] theorem State.refuseSpill_memOk (s : State) (cl : BitVec 7) (tn : BitVec 4) (n : Nat) (h : s.memOk) :
    (State.refuseSpill s cl tn n).memOk := by
  unfold State.refuseSpill; dsimp only; split <;> simp [State.memOk, h]

@[simp] theorem State.spillTo_memOk (s : State) (cl : BitVec 7) (o : Thread) (p : Nat) (h : s.memOk) :
    (State.spillTo s cl o p).memOk := by
  unfold State.spillTo; simp [State.memOk, h]

@[simp] theorem State.bindEvent_memOk (q : BitVec 3) (va pa : Nat) (pc : Word) (s : State) (h : s.memOk) :
    (State.bindEvent q va pa pc s).memOk := by
  unfold State.bindEvent; dsimp only; (repeat' split) <;> simp [State.memOk, h]

@[simp] theorem State.unqueue_mem (s : State) (id : ThreadId) (code : Option Nat) : (State.unqueue s id code).mem = s.mem := by
  unfold State.unqueue; split <;> simp

@[simp] theorem State.stampCheck_memOk (s : State) (id : ThreadId) (q : BitVec 3) (code : Option Nat) (h : s.memOk) :
    (State.stampCheck s id q code).memOk := by
  unfold State.stampCheck; dsimp only; (repeat' split) <;> simp [State.memOk, h]

@[simp] theorem State.barCheck_memOk (s : State) (id : ThreadId) (d : BitVec 5) (va : Nat) (ph : BitVec 32) (pc : Word)
    (h : s.memOk) :
    (State.barCheck s id d va ph pc).memOk := by
  unfold State.barCheck; dsimp only; (repeat' split) <;> simp [State.memOk, h]

@[simp] theorem State.wakeUp_memOk (s : State) (t : Thread) (code : Nat) (h : s.memOk) :
    (State.wakeUp s t code).memOk := by
  unfold State.wakeUp; (repeat' split) <;> simp [State.memOk, h]

@[simp] theorem State.releaseMembers_memOk (s : State) (tn : BitVec 4) (k : DKind) (v : Word) (code : Nat)
    (p : Member → Bool) (h : s.memOk) :
    (State.releaseMembers s tn k v code p).memOk := by
  unfold State.releaseMembers; dsimp only; (repeat' split) <;> simp +contextual [State.memOk, h]

@[simp] theorem State.crierFinish_memOk (s : State) (tn : BitVec 4) (k : DKind) (cl : BitVec 7) (h : s.memOk) :
    (State.crierFinish s tn k cl).memOk := by
  unfold State.crierFinish; split <;> simp [State.memOk, h]

@[simp] theorem State.breakpoint_memOk (pc : Word) (n : BitVec 9) (s : State) (h : s.memOk) :
    (State.breakpoint pc n s).memOk := by
  unfold State.breakpoint; simp [State.memOk, h]

@[simp] theorem State.engPut_memOk (s : State) (tn : BitVec 4) (cells : List Host.Cell) (h : s.memOk) :
    (State.engPut s tn cells).memOk := by
  unfold State.engPut; (repeat' split) <;> simp [State.memOk, h]

@[simp] theorem State.loomRecord_memOk (s : State) (cl : BitVec 7) (c : LoomCmd) (f : Flt) (pos : Nat) (rtile : Word)
    (h : s.memOk) :
    (State.loomRecord s cl c f pos rtile).memOk := by
  unfold State.loomRecord; simp [State.memOk, h]

@[simp] theorem State.loomStop_memOk (s : State) (cl : BitVec 7) (c : LoomCmd) (f : Flt) (pos : Nat) (rtile : Word)
    (h : s.memOk) :
    (State.loomStop s cl c f pos rtile).memOk := by
  unfold State.loomStop; dsimp only; split <;> simp [State.memOk, h]

@[simp] theorem State.nanHalt_memOk (s : State) (cl : BitVec 7) (c : LoomCmd) (o : CellOut) (h : s.memOk) :
    (State.nanHalt s cl c o).memOk := by
  unfold State.nanHalt; simp [State.memOk, h]

@[simp] theorem State.writeStatus_memOk (s : State) (q : BitVec 6) (stata v : Word) (irqe : Bool) (irqv : Nat)
    (h : s.memOk) :
    (State.writeStatus s q stata v irqe irqv).memOk := by
  unfold State.writeStatus; dsimp only; (repeat' split) <;> simp [State.memOk, h]

@[simp] theorem State.hint_memOk (s : State) (tn : BitVec 4) (dir : BitVec 2) (va n : Nat) (h : s.memOk) :
    (State.hint s tn dir va n).memOk := by
  unfold State.hint; dsimp only; (repeat' split) <;> simp [State.memOk, h]

@[simp] theorem State.agentRead_memOk (s : State) (who : Asker) (pa n : Nat) (h : s.memOk) :
    (State.agentRead s who pa n).memOk := by
  unfold State.agentRead; simp [State.memOk, h]

@[simp] theorem State.agentWrite_memOk (s : State) (pa : Nat) (bs : List (Option Byte)) (poisoned : Bool) (h : s.memOk) :
    (State.agentWrite s pa bs poisoned).memOk := by
  unfold State.agentWrite; dsimp only; (repeat' split) <;> simp [State.memOk, h]

/-- An atomic access keeps the canonical form (R174). -/
@[simp] theorem State.rmw_memOk (s : State) (src : Option ThreadId) (pa n : Nat) (f : Word → Option Word) (h : s.memOk) :
    (s.rmw src pa n f).1.memOk := by
  unfold State.rmw; dsimp only; split <;> simp [State.memOk, h]

@[simp] theorem State.agentAtomic_memOk (s : State) (who : Asker) (pa : Nat) (op : Option AmoOp) (z : AmoSize) (e v : Word)
    (h : s.memOk) : (State.agentAtomic s who pa op z e v).memOk := by
  unfold State.agentAtomic
  dsimp only
  split
  · rw [State.memOk, State.answerTo_mem]; exact h
  · rw [State.memOk, State.answerTo_mem]; exact s.rmw_memOk _ _ _ _ h

@[simp] theorem State.agentEvent_memOk (s : State) (who : Asker) (pa : Nat) (w : InOp) (h : s.memOk) :
    (State.agentEvent s who pa w).memOk := by
  cases w with
  | read n => exact s.agentRead_memOk _ _ _ h
  | write bs bad => exact s.agentWrite_memOk _ _ _ h
  | atomic op z e v => exact s.agentAtomic_memOk _ _ _ _ _ _ h

@[simp] theorem State.snoopEvent_memOk (s : State) (q : Inbound) (h : s.memOk) :
    (State.snoopEvent s q).memOk := by
  unfold State.snoopEvent; (repeat' split) <;> simp [State.memOk, h]

@[simp] theorem State.remoteFault_memOk (s : State) (id : ThreadId) (va : Nat) (pc : Word) (ans : FarAnswer) (h : s.memOk) :
    (State.remoteFault s id va pc ans).memOk := by
  unfold State.remoteFault; simp [State.memOk, h]

@[simp] theorem State.farDone_memOk (s : State) (id : ThreadId) (va pa : Nat) (pc : Word) (ans : FarAnswer) (f : Thread → Thread)
    (h : s.memOk) : (State.farDone s id va pa pc ans f).memOk := by
  unfold State.farDone; (repeat' split) <;> simp [State.memOk, h]

@[simp] theorem State.portRecord_memOk (s : State) (cl : BitVec 7) (n : BitVec 2) (c : PorterCmd) (f : Flt) (h : s.memOk) :
    (State.portRecord s cl n c f).memOk := by
  unfold State.portRecord; simp [State.memOk, h]

@[simp] theorem State.portStop_memOk (s : State) (cl : BitVec 7) (n : BitVec 2) (c : PorterCmd) (f : Flt) (h : s.memOk) :
    (State.portStop s cl n c f).memOk := by
  unfold State.portStop; simp [State.memOk, h]

@[simp] theorem State.handoverStep_memOk (s : State) (h : s.memOk) :
    (State.handoverStep s).memOk := by
  unfold State.handoverStep; dsimp only; split <;> simp [State.memOk, h]

@[simp] theorem State.loseThread_memOk (detail : Nat) (s : State) (id : ThreadId) (h : s.memOk) :
    (State.loseThread detail s id).memOk := by
  unfold State.loseThread; (repeat' split) <;> simp [State.memOk, h]

@[simp] theorem State.loomDamage_memOk (s : State) (cl : BitVec 7) (rtile : Word) (h : s.memOk) :
    (State.loomDamage s cl rtile).memOk := by
  unfold State.loomDamage; split <;> simp [State.memOk, h]

@[simp] theorem State.porterDamage_memOk (s : State) (cl : BitVec 7) (n : BitVec 2) (h : s.memOk) :
    (State.porterDamage s cl n).memOk := by
  unfold State.porterDamage; dsimp only; (repeat' split) <;> simp [State.memOk, h]

@[simp] theorem State.placeService_memOk (s : State) (q : BitVec 6) (h : s.memOk) :
    (State.placeService s q).memOk := by
  unfold State.placeService; simp [State.memOk, h]

@[simp] theorem State.enterStage_memOk (s : State) (n : Nat) (h : s.memOk) :
    (State.enterStage s n).memOk := by
  unfold State.enterStage; split <;> simp [State.memOk, h]

/-! ## Operations that answer with more than a state -/

@[simp] theorem State.combined_memOk (s : State) (pas : List Nat) (h : s.memOk) : (s.combined pas).memOk :=
  memWf_memWriteAll _ _ h

@[simp] theorem State.takeMerged_memOk (s : State) (ks : List Nat) (h : s.memOk) : (s.takeMerged ks).memOk := by
  unfold State.takeMerged
  exact memOk_foldl _ (fun s k h => memOk_foldl _ (fun s _ h => s.passElem_memOk _ _ h) _ s h) _ s h

@[simp] theorem State.performQueued_memOk (s : State) (src : Option ThreadId) (tn : BitVec 4) (op : AmoOp) (z : AmoSize)
    (pa k : Nat) (v : Word) (h : s.memOk) : (s.performQueued src tn op z pa k v).memOk := by
  unfold State.performQueued
  exact State.rmw_memOk _ _ _ _ _ (State.takeMerged_memOk _ _ h)

@[simp] theorem State.makeRoomBy_memOk (cl : BitVec 7) (n : Nat) :
    ∀ (fuel : Nat) (s : State), s.memOk → (State.makeRoomBy cl n fuel s).1.memOk := by
  intro fuel
  induction fuel with
  | zero => exact fun s h => h
  | succ k ih =>
    intro s h
    unfold State.makeRoomBy
    split
    · exact h
    · split
      · exact h
      · split
        · exact s.refuseSpill_memOk _ _ _ h
        · exact ih _ (s.spillTo_memOk _ _ _ h)

@[simp] theorem State.makeRoom_memOk (s : State) (cl : BitVec 7) (n : Nat) (h : s.memOk) : (s.makeRoom cl n).1.memOk :=
  State.makeRoomBy_memOk cl n 2 s h

/-- Packing a thread keeps the canonical form (R234). -/
@[simp] theorem State.pack_memOk (s : State) (id : ThreadId) (dst : BitVec 10) (h : s.memOk) : (s.pack id dst).memOk := by
  unfold State.pack
  split
  · exact h
  · extract_lets r
    have hr : r.1.memOk := s.makeRoom_memOk _ _ h
    split
    · rw [State.memOk, State.place_mem]; exact hr
    · exact hr

@[simp] theorem State.returnDocket_memOk (s : State) (id : ThreadId) (h : s.memOk) : (s.returnDocket id).memOk := by
  unfold State.returnDocket
  split
  · exact h
  · extract_lets r
    have hr : r.1.memOk := s.makeRoom_memOk _ _ h
    split
    · rw [State.memOk, State.upd_mem]; exact hr
    · exact h

/-- A spawn keeps the canonical form (R237). -/
@[simp] theorem State.spawnNow_memOk (d : BitVec 5) (pc arg : Word) (s : State) (h : s.memOk) : (State.spawnNow d pc arg s).memOk := by
  unfold State.spawnNow
  extract_lets t k cl
  split
  · exact h
  · split
    · exact h
    · split
      · exact h
      · dsimp only
        split
        · rw [State.memOk, State.birth_mem]; exact h
        · have hm : (s.makeRoom cl 1).1.memOk := s.makeRoom_memOk cl 1 h
          split
          · rw [State.memOk, State.birth_mem]; exact hm
          · exact hm

/-- A launch record written to the device's ring keeps the canonical form (R253). -/
@[simp] theorem State.submit_memOk (d : BitVec 5) (pa : Nat) (s : State) (h : s.memOk) : (State.submit d pa s).memOk := by
  unfold State.submit
  dsimp only
  split
  · exact h
  · exact State.writeEvent_memOk _ _ _ _ (State.writeEvent_memOk _ _ _ _ (State.combineAll_memOk _ _ _ h))

@[simp] theorem State.crierBreak_memOk (s : State) (tn : BitVec 4) (k : DKind) (cl : BitVec 7) (h : s.memOk) :
    (s.crierBreak tn k cl).memOk := by
  unfold State.crierBreak
  split
  · exact h
  · dsimp only
    split
    · exact h
    · rw [State.memOk, State.crierOver_mem]
      refine memOk_foldl _ (fun s i h => ?_) _ _ (State.releaseMembers_memOk _ _ _ _ _ _ h)
      split
      · rw [State.memOk, State.crierSend_mem]; exact h
      · exact h

/-! ## Accesses of the engines -/

@[simp] theorem State.engBytes_memOk (s : State) (ps : List (Nat × Nat)) (h : s.memOk) : (s.engBytes ps).1.memOk := by
  unfold State.engBytes
  exact memOk_foldl _ (fun s l h => by rw [State.memOk, State.atHome_mem]; exact h) _ _ (s.combineAll_memOk _ _ h)

@[simp] theorem State.engPutBytes_memOk (tn : BitVec 4) (ps : List (Nat × Nat)) :
    ∀ (s : State) (bs : List Byte), s.memOk → (s.engPutBytes tn ps bs).memOk := by
  induction ps with
  | nil => exact fun s bs h => h
  | cons p l ih => exact fun s bs h => ih _ _ (s.engPut_memOk _ _ h)

theorem State.engRead_memOk {s t : State} {id : ThreadId} {core : BitVec 10} {fab : Bool} {va n v : Nat} (h : s.memOk)
    (he : s.engRead id core fab va n = .ok (t, v)) : t.memOk := by
  unfold State.engRead at he
  split at he
  · cases he
  · cases he; exact s.engBytes_memOk _ h

theorem State.engWrite_memOk {s t : State} {id : ThreadId} {core : BitVec 10} {fab : Bool} {va n v : Nat} (h : s.memOk)
    (he : s.engWrite id core fab va n v = .ok t) : t.memOk := by
  unfold State.engWrite at he
  split at he
  · cases he
  · cases he; exact State.engPutBytes_memOk _ _ s _ h

theorem State.bookRead_memOk {s t : State} {c : LoomCmd} {va n : Nat} {bs : List Byte} (h : s.memOk)
    (he : s.bookRead c va n = .ok (t, bs)) : t.memOk := by
  unfold State.bookRead at he
  split at he
  · cases he
  · rename_i ps _
    have e : (s.engBytes ps).1 = t := congrArg Prod.fst (Except.ok.inj he)
    exact e ▸ s.engBytes_memOk ps h

theorem State.bookWrite_memOk {s t : State} {c : LoomCmd} {va : Nat} {bs : List Byte} (h : s.memOk)
    (he : s.bookWrite c va bs = .ok t) : t.memOk := by
  unfold State.bookWrite at he
  split at he
  · cases he
  · cases he; exact State.engPutBytes_memOk _ _ s _ h

/-! ## The loom -/

@[simp] theorem State.wakeLoom_mem (s : State) (cl : BitVec 7) (full : Bool) : (s.wakeLoom cl full).mem = s.mem := by
  simp [State.wakeLoom]

@[simp] theorem State.countDone_mem (cl : BitVec 7) : ∀ (n : Nat) (s : State), (State.countDone cl n s).mem = s.mem := by
  intro n
  induction n with
  | zero => exact fun s => rfl
  | succ n ih =>
    intro s
    unfold State.countDone
    split
    · rfl
    · split
      · rfl
      · rw [ih]; simp

@[simp] theorem State.loomCount_mem (s : State) (cl : BitVec 7) (b : Option Loom) : (s.loomCount cl b).mem = s.mem := by
  unfold State.loomCount; dsimp only; (repeat' split) <;> simp

@[simp] theorem State.loomDone_mem (s : State) (cl : BitVec 7) (c : LoomCmd) : (s.loomDone cl c).mem = s.mem := by
  simp [State.loomDone]

@[simp] theorem State.tilesDone_memOk (s : State) (cl : BitVec 7) (c : LoomCmd) (t : BitVec 3) (f : TFmt) (two : Bool)
    (out : List CellOut) (h : s.memOk) : (s.tilesDone cl c t f two out).memOk := by
  unfold State.tilesDone
  dsimp only
  split
  · exact s.nanHalt_memOk _ _ _ h
  · rw [State.memOk, State.loomDone_mem, State.putLoom_mem]; exact h

@[simp] theorem State.tewDone_memOk (s : State) (cl : BitVec 7) (c : LoomCmd) (t : BitVec 3) (keep : TFmt → Tile → List Byte)
    (h : s.memOk) : (s.tewDone cl c t keep).memOk := s.tilesDone_memOk _ _ _ _ _ _ h

/-- Whatever a write of the engine comes to, a record or the write itself keeps the canonical form. -/
theorem State.orRecord_memOk {s : State} {cl : BitVec 7} {c : LoomCmd} {r : Res State} (h : s.memOk)
    (hr : ∀ t, r = .ok t → t.memOk) : (s.orRecord cl c r).memOk := by
  unfold State.orRecord
  split
  · exact hr _ rfl
  · exact s.loomRecord_memOk _ _ _ _ _ h
  · exact h

@[simp] theorem State.flushCmd_memOk (cl : BitVec 7) (s : State) (c : LoomCmd) (h : s.memOk) : (State.flushCmd cl s c).memOk := by
  unfold State.flushCmd
  dsimp only
  rw [State.memOk, State.putLoom_mem]
  split
  · exact State.orRecord_memOk h (fun t ht => State.engWrite_memOk h ht)
  · exact h

/-! ## Accesses of the host, of peers and of other modules -/

@[simp] theorem State.hintsOf_memOk (s : State) (tn : BitVec 4) (p : Nat → Bool) (h : s.memOk) : (s.hintsOf tn p).memOk := by
  unfold State.hintsOf
  split
  · exact h
  · split
    · exact h
    · refine memOk_foldl _ (fun s q h => ?_) _ _ h
      extract_lets k dev n
      split
      · exact h
      · exact State.hint_memOk _ _ _ _ _ h

@[simp] theorem State.countHost_memOk (s : State) (pa : Nat) (h : s.memOk) : (s.countHost pa).memOk := by
  unfold State.countHost
  dsimp only
  split
  · exact h
  · exact State.hintsOf_memOk _ _ _ h

@[simp] theorem State.hostEvent_memOk (s : State) (hd : BitVec 1) (tee : Option (Option (BitVec 4))) (q : Inbound) (h : s.memOk) :
    (s.hostEvent hd tee q).memOk := by
  unfold State.hostEvent
  extract_lets s1
  have h1 : s1.memOk := by
    show State.memOk (if _ then _ else _)
    split
    · exact s.countHost_memOk _ h
    · exact h
  split
  · exact s1.agentEvent_memOk _ _ _ h1
  · split
    · rw [State.memOk, State.answerTo_mem]; exact h1
    · exact h1

/-- An access served at its home keeps the canonical form (R177, R309). -/
@[simp] theorem State.serveInbound_memOk (s : State) (q : Inbound) (h : s.memOk) : (s.serveInbound q).memOk := by
  unfold State.serveInbound
  split
  · exact s.hostEvent_memOk _ _ _ h
  · exact s.hostEvent_memOk _ _ _ h
  · exact s.snoopEvent_memOk _ h
  · exact s.agentEvent_memOk _ _ _ h
  · split
    · exact s.agentEvent_memOk _ _ _ h
    · rw [State.memOk, State.peerRefused_mem]; exact h
  · exact s.agentEvent_memOk _ _ _ h

@[simp] theorem State.serveNext_memOk (s : State) (n : Nat) (h : s.memOk) : (s.serveNext n).memOk := by
  unfold State.serveNext
  split
  · exact h
  · split
    · exact State.serveInbound_memOk _ _ h
    · exact h

@[simp] theorem State.arrive_memOk (s : State) (q : Inbound) (h : s.memOk) : (s.arrive q).memOk := by
  unfold State.arrive
  split
  · exact s.serveInbound_memOk q h
  · exact h

@[simp] theorem State.partsArrive_memOk (who : Asker) (tn : BitVec 4) (w : InOp) (ps : List (Nat × Nat × Nat)) :
    ∀ (s : State) (o : Nat), s.memOk → (s.partsArrive who tn w o ps).memOk := by
  induction ps with
  | nil => exact fun s o h => h
  | cons p l ih => exact fun s o h => ih _ _ (s.arrive_memOk _ h)

@[simp] theorem State.lateRefused_mem (s : State) (q : Late) : (s.lateRefused q).mem = s.mem := by
  unfold State.lateRefused
  extract_lets s1
  have h1 : s1.mem = s.mem := foldl_mem _ (fun s p => s.forget_mem _ _ _) _ s
  split
  · rw [State.peerRefused_mem]; exact h1
  · rw [State.send_mem]; exact h1
  · exact h1

@[simp] theorem State.enter_memOk (s : State) (q : Late) (h : s.memOk) : (s.enter q).memOk := by
  have hr : (s.lateRefused q).memOk := by rw [State.memOk, State.lateRefused_mem]; exact h
  unfold State.enter
  split
  · exact hr
  · split
    · exact State.partsArrive_memOk _ _ _ _ s _ h
    · rw [State.memOk, State.askPage_mem]; exact h
    · exact hr

@[simp] theorem State.enterLate_memOk (s : State) (q : Late) (h : s.memOk) : (s.enterLate q).memOk := by
  unfold State.enterLate
  split
  · exact h
  · exact s.enter_memOk q h

@[simp] theorem State.lateAgain_memOk (s : State) (n : Nat) (h : s.memOk) : (s.lateAgain n).memOk := by
  unfold State.lateAgain
  split
  · exact h
  · split
    · exact h
    · dsimp only
      split
      · split
        · exact State.enter_memOk _ _ h
        · rw [State.memOk, State.askPage_mem]; exact h
      · exact State.enter_memOk _ _ h

/-! ## Regions, tenants and placing -/

@[simp] theorem State.beginDrain_mem (s : State) (r : Nat) (bias : Option Bool)
    (home : Option (Option (BitVec 4) × Word × Word)) : (s.beginDrain r bias home).mem = s.mem := by
  simp [State.beginDrain]

@[simp] theorem State.rehomeOne_mem (gone : BitVec 10 → Bool) (s : State) (r : Nat) : (State.rehomeOne gone s r).mem = s.mem := by
  unfold State.rehomeOne; dsimp only; (repeat' split) <;> simp

@[simp] theorem State.rehomeAll_mem (s : State) (gone : BitVec 10 → Bool) : (s.rehomeAll gone).mem = s.mem :=
  foldl_mem _ (fun s r => State.rehomeOne_mem gone s r) _ s

@[simp] theorem State.firstEntries_mem (s : State) (tn : BitVec 4) (l : Launch) (root : Bool) :
    (s.firstEntries tn l root).mem = s.mem := by
  unfold State.firstEntries
  extract_lets s1
  have h1 : s1.mem = s.mem := by
    show State.mem (if _ then _ else _) = _
    split <;> rfl
  split
  · exact h1
  · rw [foldl_mem _ (fun s i => ?_) _ s1, h1]
    split <;> rfl

@[simp] theorem State.setEngines_mem (s : State) (cl : BitVec 7) (k : Cluster) : (s.setEngines cl k).mem = s.mem := by
  unfold State.setEngines
  extract_lets old same s1 s2
  have h2 : s2.mem = s.mem := by
    show State.mem (if _ then _ else _) = _
    split <;> simp [s1]
  rw [foldl_mem _ (fun s i => ?_) _ s2, h2]
  dsimp only
  split <;> simp

@[simp] theorem State.saveCluster_mem (tn : BitVec 4) (s : State) (cl : BitVec 7) : (State.saveCluster tn s cl).mem = s.mem :=
  s.setEngines_mem _ _

@[simp] theorem State.restoreCluster_mem (tn : BitVec 4) (s : State) (cl : BitVec 7) :
    (State.restoreCluster tn s cl).mem = s.mem := by
  unfold State.restoreCluster
  dsimp only
  split
  · rfl
  · exact s.setEngines_mem _ _

@[simp] theorem State.leaveMesh_mem (s : State) (tn : BitVec 4) : (s.leaveMesh tn).mem = s.mem := by
  unfold State.leaveMesh
  dsimp only
  show State.mem (State.flushCores _ _) = _
  rw [State.flushCores_mem]
  exact foldl_mem _ (fun s cl => State.saveCluster_mem tn s cl) _ s

@[simp] theorem State.startMove_memOk (s : State) (m : MoveCmd) (h : s.memOk) : (s.startMove m).memOk := by
  unfold State.startMove
  split
  · exact h
  · refine memOk_foldl _ (fun s t h => ?_) _ s h
    have h1 : (s.pack t.id m.dst).memOk := s.pack_memOk _ _ h
    dsimp only
    split
    · split
      · rw [State.memOk, State.place_mem]; exact h1
      · exact h1
    · exact h1

@[simp] theorem State.failPackets_memOk (s : State) (cl : BitVec 7) (h : s.memOk) : (s.failPackets cl).memOk := by
  unfold State.failPackets
  refine memOk_foldl _ (fun s p h => ?_) _ _ h
  exact memOk_foldl _ (fun s i h => State.rankRecord_memOk _ s i h) _ s h

/-- A tenant's memory is zeroed by forgetting it (R297): the canonical form is kept. -/
@[simp] theorem State.zeroRegions_memOk (s : State) (tn : BitVec 4) (h : s.memOk) : (s.zeroRegions tn).memOk :=
  memWf_filter s.mem _ h

@[simp] theorem State.refuseOutside_mem (s : State) (tn : BitVec 4) : (s.refuseOutside tn).mem = s.mem := by
  unfold State.refuseOutside
  extract_lets ours asked packets s1 answer
  rw [foldl_mem _ (fun s p => s.send_mem _), foldl_mem _ (fun s a => ?_)]
  cases a <;> rfl

@[simp] theorem State.scrub_memOk (s : State) (tn : BitVec 4) (h0 : s.memOk) : (s.scrub tn).memOk := by
  unfold State.scrub
  extract_lets t s1 s2 cached kept s3
  have h : (s.refuseOutside tn).memOk := by rw [State.memOk, State.refuseOutside_mem]; exact h0
  have h2 : s2.memOk := by
    show State.memOk (if _ then _ else _)
    split
    · exact State.zeroRegions_memOk _ tn h
    · exact memOk_foldl _ (fun s cl h => by rw [State.memOk, State.setEngines_mem]; exact h) _ _ (State.zeroRegions_memOk _ tn h)
  exact h2

/-- Placing an instruction keeps the canonical form. -/
@[simp] theorem State.placeThread_memOk (s : State) (w : Half × Half) (h : s.memOk) : (s.placeThread w).memOk :=
  memWf_memWriteAll _ _ h

@[simp] theorem State.placeBundle_memOk (s : State) (w : Half × Half) (h : s.memOk) : (s.placeBundle w).memOk :=
  s.placeThread_memOk w h

@[simp] theorem State.withFetchWord_memOk (s : State) (nbits w : Nat) (h : s.memOk) : (s.withFetchWord nbits w).memOk := by
  unfold State.withFetchWord
  split
  · exact s.placeBundle_memOk _ h
  · exact h

end Sys2Proof.Machine
end

