-- ==== Sys2Proof/Tests/Slice0.lean ====
section
/-! SUPPORT. Tests: ill-formed terms that well-formedness refuses, words written out from the spec's encodings, one step of
the instructions on small states, and for the statements a concrete state and operands that meet their hypotheses. Expected
results come from the rules and worked examples of the spec. -/

namespace Sys2Proof.Tests

set_option Elab.async false

open Sys2Proof Sys2Proof.Machine

/-! ## Small states -/

/-- Changes the thread. -/
def setThr (f : Thread → Thread) (s : State) : State := { s with thr := f s.thr }
/-- Changes the thread's registers, with a new chunk. -/
def setArch (f : Arch → Arch) (s : State) : State :=
  setThr (fun t => { t with arch := f t.arch, chunk := Chunk.fresh (f t.arch) }) s
/-- The module with one thread, in slot 0 of core 0, whose page 0x40 holds its code at 0x4_0000 and is mapped to itself, and
its fault line at 0x4_0200. -/
def base : State := setArch (fun a => { a with flta := 0x40200 }) (State.reset.placeBundle (0, 0))
/-- `base` with x registers set. -/
def withX (l : List (BitVec 5 × Word)) (s : State) : State :=
  setArch (fun a => l.foldl (fun a p => a.setX p.1 p.2) a) s
/-- `base` with x registers set, for a C slot. -/
def regs (l : List (BitVec 5 × Word)) : State := withX l base
/-- `base` with x registers set, for the A slot beside a C slot. -/
def slotA (l : List (BitVec 5 × Word)) : State := (withX l base).withA (.awaiting 0)
/-- Changes tenant 0. -/
def setTen (f : Tenant → Tenant) (s : State) : State := s.setTenant 0 (f (s.tenant 0))
/-- The thread has a vector context of one group. -/
def oneGroup (s : State) : State := setThr (fun t => { t with gmask := 1 }) s
/-- Vector registers set. -/
def withV (l : List (BitVec 5 × BitVec 16384)) (s : State) : State :=
  setArch (fun a => l.foldl (fun a p => a.setV p.1 p.2) a) s
/-- Answers of the host for pages of tenant 0, held in the TLB of cluster 0. -/
def mapped (l : List (Nat × Pte)) (s : State) : State :=
  { setTen (fun t => { t with ptab := t.ptab ++ l }) s with
    tlb := s.tlb ++ l.map (fun p => (⟨0, (s.tenant 0).pasid, 12, 0, none, p.1, p.2⟩ : TlbEntry)) }
/-- Page 0x41 is data, page 0x42 has the I/O attribute, page 0x43 lies in the memory of host 0, pages 0x100 and 0x200 lie at
0x4_4000 and 0x4_5000, page 0x46 is read-only, and 2^22 begins a fabric window onto module 3. -/
def pages (s : State) : State :=
  setTen (fun t => { t with fabric := [⟨0x400000, 21, 3, 1, 0, false⟩] }) (mapped [
    (0x41, ⟨0x41000, true, true, false, false⟩), (0x42, ⟨0x42000, true, true, false, true⟩),
    (0x43, ⟨hostBase + 0x43000, true, true, false, false⟩), (0x46, ⟨0x46000, true, false, false, false⟩),
    (0x100, ⟨0x44000, true, true, false, false⟩), (0x200, ⟨0x45000, true, true, false, false⟩)] s)
/-- Bytes of memory written. -/
def poke (pa n : Nat) (v : Word) (s : State) : State := { s with mem := memWriteAll s.mem (cellsOf pa n v) }

/-- The state that an outcome goes to. -/
def next (o : Out) : Option State :=
  match o with
  | .next s => some s
  | _ => none
/-- An x register of the A slot's result. -/
def aX (o : Out) (d : BitVec 5) : Option Word :=
  match o with
  | .next s => (match s.thr.aslot with | .done a => some (a.getX d) | .vec a => some (a.getX d) | _ => none)
  | _ => none
/-- The A slot's result. -/
def aRes (o : Out) : Option Arch :=
  match o with
  | .next s => (match s.thr.aslot with | .done a => some a | .vec a => some a | _ => none)
  | _ => none
/-- The fault that the A slot has come to: its kind and detail. -/
def aFault (o : Out) : Option (Nat × Nat) :=
  match o with
  | .next s => (match s.thr.aslot with | .fault f => some (f.kind.toNat, f.detail) | _ => none)
  | _ => none
/-- An x register after a C slot. -/
def cX (o : Out) (d : BitVec 5) : Option Word := (next o).map (fun s => s.thr.arch.getX d)
/-- The record at the thread's fault line: kind, detail, address (R300). -/
def cFault (o : Out) : Option (Nat × Nat × Nat) :=
  (next o).bind (fun s =>
    let h := (s.readN 0x40200 8).toNat
    if h % 2 = 1 then some (h / 2 ^ 56, (s.readN 0x40238 8).toNat % 65536, (s.readN 0x40210 8).toNat) else none)
/-- Bytes that the open chunk reads after a C slot. -/
def cMem (o : Out) (pa n : Nat) : Option Word := (next o).map (fun s => s.chunkN pa n)
/-- Bytes of memory after a step. -/
def mem (o : Out) (pa n : Nat) : Option Word := (next o).map (fun s => s.readN pa n)
/-- PC after a C slot. -/
def cPc (o : Out) : Option Nat := (next o).map (fun s => s.thr.arch.pc.toNat)

/-! ## Ill-formed terms -/

/-- A literal that the short field would hold is not the encoding's form (R32, R35); nor is a reserved operand value (R41). -/
theorem test_ill_formed_c_slot :
    ∀ i ∈ ([.bEq 1 2 (.lit 0), .bNe 1 2 (.lit 0), .bLt 1 2 (.lit 0), .bGe 1 2 (.lit 0), .bLtu 1 2 (.lit 0), .bGeu 1 2 (.lit 0),
      .jal 1 (.lit 0), .jalr 1 2 (.lit 0), .ld .d 1 2 (.lit 0), .st .d 1 2 (.lit 0), .prfL1 1 (.lit 0), .prfL2 1 (.lit 0),
      .zline 1 (.lit 0), .movi 1 (.lit 0), .movhi 1 (.lit 0), .amop .swap .d 1 2, .ramo .swap .w 1 2, .trds 1 2 61,
      .twrs 1 2 3 61, .twrs 1 2 3 33, .srd 1 29, .swr 1 29, .swr 1 0, .swr 1 5] : List Instr),
      Instr.wf i = decide (i = .twrs 1 2 3 33) := by decide +kernel

theorem test_ill_formed_a_slot :
    ∀ i ∈ ([.ext 1 2 60 4, .ptag 1 2 14 0, .ptag 1 2 0 7, .fcvt .s .s .rne 1 2, .vcvt .h .h 1 2 false 0,
      .vfma .i32 1 2 3 false false 0, .vfnma .i8 1 2 3 false false 0, .vdiv .i64 1 2 3 false false 0, .vsqrt .i16 1 2 false 0,
      .vrcp .i32 1 2 false 0, .vrsq .i32 1 2 false 0, .vexp2 .i32 1 2 false 0, .vlog2 .i32 1 2 false 0, .vtanh .i32 1 2 false 0,
      .vand .s 1 2 3 false false 0, .vor .d 1 2 3 false false 0, .vxor .h 1 2 3 false false 0, .vshl .b 1 2 3 false false 0,
      .vshr .s 1 2 3 false false 0, .vsar .s 1 2 3 false false 0, .vcmp .ltu .s 1 2 3 false false 0,
      .vpack .i4 .s true 1 2 false 0, .vpack .e4m3 .i32 false 1 2 false 0, .vunpk .e4m3 .i32 1 2 false 0,
      .vred .sum .i8 1 2 false 0, .vscan .i16 1 2 false 0, .vid .s 1 0] : List Instr),
      Instr.wf i = false := by decide +kernel

/-! ## Decoding -/

/-- Words written field by field from the encodings of the opcode table: the C slot of a bundle of two words. -/
theorem test_decode_c_slot :
    decodeBundle 0b0_000000_000000000000000_0_000000111#32 0 = .error ⟨2, 0⟩
    ∧ decodeBundle 0b0_000000_0000000000000001_000000101#32 0 = .ok (.lone (.brk 5))
    ∧ decodeBundle 0b0_000011_00000_00111_01001_0000000110#32 0 = .ok (.lone (.bLt 7 9 (.short 6)))
    ∧ decodeBundle 0b0_000111_00001_000000_00000000000010#32 0 = .ok (.lone (.jal 1 (.short 2)))
    ∧ decodeBundle 0b0_001010_00000_00101_001_000001000000#32 0 = .ok (.lone (.prfL2 5 (.short 64)))
    ∧ decodeBundle 0b0_001011_00000_00101_000_000000001000#32 0 = .ok (.lone (.zline 5 (.short 8)))
    ∧ decodeBundle 0b0_010000_00011_00101_00110_010_10_00000#32 0x40 = .ok (.lone (.vld .w 3 5 6 2 0x40))
    ∧ decodeBundle 0b0_010011_00011_00101_00110_010_11_00000#32 8 = .ok (.lone (.vstx .d 3 5 6 2 8))
    ∧ decodeBundle 0b0_010100_00011_00101_00000_001_0000000#32 0 = .ok (.lone (.vldt 3 5 0 1 0))
    ∧ decodeBundle 0b0_011001_01010_00101_00110_000000_0001#32 0 = .ok (.lone (.crange .b 10 5 6))
    ∧ decodeBundle 0b0_011010_00000_00101_00110_000000_0000#32 0 = .ok (.lone (.radd .s 5 6))
    ∧ decodeBundle 0b0_100010_00010_00000_00000_000001_0000#32 0 = .ok (.lone (.qadvT 2))
    ∧ decodeBundle 0b0_101101_00011_00101_00110_000_000_0101#32 0 = .ok (.lone (.tewClamp 3 5 6))
    ∧ decodeBundle 0b0_101110_00011_00101_000000000000000#32 0 = .ok (.lone (.tred 3 5))
    ∧ decodeBundle 0b0_110111_01001_00110_00101_000000_0000#32 0 = .ok (.lone (.xchg 9 6 5))
    ∧ decodeBundle 0b0_111110_01001_00000_10100_000000_0000#32 0 = .ok (.lone (.srd 9 20))
    ∧ decodeBundle 0b0_111110_00000_00110_00001_000001_0000#32 0 = .ok (.lone (.swr 6 1))
    ∧ decodeBundle 0b0_111110_01001_00000_00000_000010_0000#32 0 = .ok (.lone (.time 9)) := by decide +kernel

/-- Words of the A slot, beside `nop`. -/
theorem test_decode_a_slot :
    ∀ p ∈ ([(0b000001_00001_00010_00011_00000000000#32, .mul 1 2 3), (0b000000_00001_00010_00011_00100_001110#32, .sel 1 2 3 4),
        (0b000010_00001_00010_0000000000000000#32, .clz 1 2), (0b010000_00001_00010_00011_00000000000#32, .padd 1 2 3),
        (0b010001_00001_00010_1011_101_000000000#32, .ptag 1 2 11 5), (0b011001_00001_00010_00011_00100_01_100_0#32, .fma .s .rup 1 2 3 4),
        (0b011101_00001_00010_00000_00000_00_0000#32, .fcls .d 1 2), (0b011101_00001_00010_00011_00001_00_0000#32, .fsgn .d 1 2 3),
        (0b100000_00001_00010_00011_110_1_0_000_101#32, .vadd .i32 1 2 3 true false 5),
        (0b101010_00001_00010_00011_110_0_1_000_000#32, .vshl .i32 1 2 3 false true 0),
        (0b110001_00001_00010_00000_000_1_0_000_001#32, .vscan .s 1 2 true 1),
        (0b110011_00001_00010_00011_000_0_0_001_000#32, .vslideDn .s 1 2 3 false 0),
        (0b110110_00001_00010_00011_000_00000000#32, .vins .s 1 2 3), (0b111000_00001_00010_00000_000_0_0_100_000#32, .vtanh .s 1 2 false 0),
        (0b111001_00001_00010_00011_00000000000#32, .vmand 1 2 3), (0b111001_00001_00010_00000_00000_101000#32, .vmfirst 1 2)] :
        List (Half × Instr)),
      decodeBundle 0x80000000 p.1 = .ok (.pair .nop p.2) := by decide +kernel

/-- Reserved words are refused by the code of R41. -/
theorem test_decode_refuses :
    decodeBundle 0x7E000000 0 = .error ⟨1, 0⟩ ∧ decodeBundle 0x38000001 0 = .error ⟨3, 0⟩
    ∧ decodeBundle 0x80000000 0xFC000000 = .ok (.late .nop none ⟨1, 1⟩) := by decide +kernel

/-! ## The A slot: integers and pointers (R88 to R94) -/

/-- Hand calculations of the register forms of R88. -/
theorem test_integer_register_forms :
    let s := slotA [(2, 0xFFFFFFFFFFFFFFFF), (3, 2), (4, 0x8000000000000000), (5, 0x0102030405060708), (6, 65)]
    aX (exec (.add 1 2 3) s) 1 = some 1 ∧ aX (exec (.sub 1 3 2) s) 1 = some 3
    ∧ aX (exec (.and 1 2 3) s) 1 = some 2 ∧ aX (exec (.or 1 4 3) s) 1 = some 0x8000000000000002
    ∧ aX (exec (.xor 1 2 3) s) 1 = some 0xFFFFFFFFFFFFFFFD
    ∧ aX (exec (.shl 1 3 6) s) 1 = some 4 ∧ aX (exec (.shr 1 4 6) s) 1 = some 0x4000000000000000
    ∧ aX (exec (.sar 1 4 6) s) 1 = some 0xC000000000000000
    ∧ aX (exec (.slt 1 2 3) s) 1 = some 1 ∧ aX (exec (.sltu 1 2 3) s) 1 = some 0
    ∧ aX (exec (.min 1 4 3) s) 1 = some 0x8000000000000000 ∧ aX (exec (.max 1 4 3) s) 1 = some 2
    ∧ aX (exec (.minu 1 4 3) s) 1 = some 2 ∧ aX (exec (.maxu 1 4 3) s) 1 = some 0x8000000000000000
    ∧ aX (exec (.sel 1 2 3 0) s) 1 = some 2 ∧ aX (exec (.sel 1 2 3 4) s) 1 = some 0xFFFFFFFFFFFFFFFF
    ∧ aX (exec (.mul 1 2 3) s) 1 = some 0xFFFFFFFFFFFFFFFE
    ∧ aX (exec (.mulh 1 2 3) s) 1 = some 0xFFFFFFFFFFFFFFFF ∧ aX (exec (.mulhu 1 2 3) s) 1 = some 1
    ∧ aX (exec (.clz 1 3) s) 1 = some 62 ∧ aX (exec (.clz 1 0) s) 1 = some 64
    ∧ aX (exec (.ctz 1 4) s) 1 = some 63 ∧ aX (exec (.ctz 1 0) s) 1 = some 64
    ∧ aX (exec (.popc 1 5) s) 1 = some 13 ∧ aX (exec (.bswap 1 5) s) 1 = some 0x0807060504030201 := by decide +kernel

/-- Division: the edge cases of R89, and its example. -/
theorem test_division :
    let s := slotA [(2, 7), (3, 0xFFFFFFFFFFFFFFFE), (4, 0x8000000000000000), (5, 0xFFFFFFFFFFFFFFFF)]
    aX (exec (.div 1 2 3) s) 1 = some 0xFFFFFFFFFFFFFFFD ∧ aX (exec (.rem 1 2 3) s) 1 = some 1
    ∧ aX (exec (.div 1 2 0) s) 1 = some 0xFFFFFFFFFFFFFFFF ∧ aX (exec (.rem 1 2 0) s) 1 = some 7
    ∧ aX (exec (.divu 1 2 0) s) 1 = some 0xFFFFFFFFFFFFFFFF ∧ aX (exec (.remu 1 2 0) s) 1 = some 7
    ∧ aX (exec (.div 1 4 5) s) 1 = some 0x8000000000000000 ∧ aX (exec (.rem 1 4 5) s) 1 = some 0
    ∧ aX (exec (.divu 1 3 2) s) 1 = some 0x2492492492492492 ∧ aX (exec (.remu 1 3 2) s) 1 = some 0 := by decide +kernel

/-- Hand calculations of the immediate forms of R90. -/
theorem test_integer_immediate_forms :
    let s := slotA [(2, 0x8000000000001234), (3, 5)]
    aX (exec (.ext 1 2 4 7) s) 1 = some 0x23 ∧ aX (exec (.ext 1 2 0 63) s) 1 = some 0x8000000000001234
    ∧ aX (exec (.addi 1 3 0xFFFF) s) 1 = some 4 ∧ aX (exec (.andi 1 2 0xFFFF) s) 1 = some 0x1234
    ∧ aX (exec (.ori 1 3 0x8000) s) 1 = some 0x8005 ∧ aX (exec (.xori 1 3 0xFFFF) s) 1 = some 0xFFFA
    ∧ aX (exec (.shli 1 3 63) s) 1 = some 0x8000000000000000 ∧ aX (exec (.shri 1 2 63) s) 1 = some 1
    ∧ aX (exec (.sari 1 2 63) s) 1 = some 0xFFFFFFFFFFFFFFFF
    ∧ aX (exec (.slti 1 3 0xFFFF) s) 1 = some 0 ∧ aX (exec (.sltiu 1 3 0xFFFF) s) 1 = some 1 := by decide +kernel

/-- The example of R94: a pointer of FMT 11 and BLK 5 to 0x10_0000. -/
theorem test_pointer_forms :
    let s := slotA [(6, 0xBA00000000100000), (9, 6), (10, 7), (11, 0xFFFFFFFFFFFFFFFF), (12, 0xE000000000000000)]
    aX (exec (.pfmt 7 6) s) 7 = some 0x45B ∧ aX (exec (.pidx 8 6 9) s) 8 = some 0xBA00000000100003
    ∧ aFault (exec (.pidx 8 6 10) s) = some (6, 2) ∧ aX (exec (.padd 8 6 11) s) 8 = some 0xBA000000000FFFFF
    ∧ aX (exec (.pclr 8 6) s) 8 = some 0x100000 ∧ aX (exec (.ptag 8 9 11 5) s) 8 = some 0xBA00000000000006
    ∧ aFault (exec (.pidx 8 12 9) s) = some (1, 9) ∧ aFault (exec (.pfmt 8 12) s) = some (1, 9) := by decide +kernel

/-- A write to x0 is discarded (R43), and only the result is kept until the end of the bundle (R30). -/
theorem test_x0_and_a_slot : aX (exec (.addi 0 0 7) (slotA [])) 0 = some 0
    ∧ cX (exec (.addi 1 0 7) (slotA [])) 1 = some 0 := by decide +kernel

/-! ## The A slot: scalar floating point (R95 to R97) -/

/-- IEEE arithmetic on hand-chosen codes: 1.5, 2.0, -0.1 and 0.2 in FP32, and the special cases that R95 names. -/
theorem test_scalar_fp :
    let s := slotA [(2, 0x3FC00000), (3, 0x40000000), (4, 0xBDCCCCCD), (5, 0x3E4CCCCD), (6, 0x80000000), (7, 0xBF800000)]
    aX (exec (.fadd .s .sts 1 2 3) s) 1 = some 0x40600000 ∧ aX (exec (.fsub .s .sts 1 2 3) s) 1 = some 0xBF000000
    ∧ aX (exec (.fmul .s .sts 1 2 3) s) 1 = some 0x40400000 ∧ aX (exec (.fdiv .s .sts 1 2 3) s) 1 = some 0x3F400000
    ∧ aX (exec (.fsqrt .s .sts 1 6) s) 1 = some 0x80000000 ∧ aX (exec (.fsqrt .s .sts 1 7) s) 1 = some 0x7FC00000
    ∧ aX (exec (.fma .s .sts 1 3 4 5) s) 1 = some 0 ∧ aX (exec (.fnma .s .sts 1 2 3 3) s) 1 = some 0xBF800000
    ∧ aX (exec (.fdiv .s .sts 1 7 0) s) 1 = some 0xFF800000 ∧ aX (exec (.fdiv .s .sts 1 0 0) s) 1 = some 0x7FC00000 := by decide +kernel

theorem test_scalar_fp_no_rounding :
    let s := slotA [(2, 0x3FC00000), (3, 0x40000000), (4, 0x7FC00000), (6, 0x80000000)]
    aX (exec (.fmin .s 1 2 3) s) 1 = some 0x3FC00000 ∧ aX (exec (.fmax .s 1 2 4) s) 1 = some 0x3FC00000
    ∧ aX (exec (.feq .s 1 0 6) s) 1 = some 1 ∧ aX (exec (.feq .s 1 4 4) s) 1 = some 0
    ∧ aX (exec (.flt .s 1 2 3) s) 1 = some 1 ∧ aX (exec (.fle .s 1 2 4) s) 1 = some 0
    ∧ aX (exec (.fsgn .s 1 2 6) s) 1 = some 0xBFC00000 := by decide +kernel

/-- The example of R71: FP32 1 + 2^-10 to BF16 under SR with RNGS 0xE000_1234; a conversion to I32 rounds under RM. -/
theorem test_conversions :
    let s := setArch (fun a => { a with rngs := 0xE0001234 }) (slotA [(2, 0x3F802000), (3, 0xC0200000)])
    aX (exec (.fcvt .b .s .sr 1 2) s) 1 = some 0x3F81
    ∧ (aRes (exec (.fcvt .b .s .sr 1 2) s)).map Arch.rngs = some 0xAA9A81F7
    ∧ aX (exec (.fcvt .i32 .s .rtz 1 3) s) 1 = some 0xFFFFFFFFFFFFFFFE
    ∧ aX (exec (.fcvt .i32 .s .rdn 1 3) s) 1 = some 0xFFFFFFFFFFFFFFFD := by decide +kernel

/-- The examples of R64: D8 under RNE (0.3 and 0.005 by dyadic numbers beside them). -/
theorem test_d8_codes :
    (∀ p ∈ ([(.fin false 3 0, 0x18), (.fin false 1229 (-12), 0x53), (.fin true 20 0, 0x82), (.fin false 3 (-7), 0x42),
        (.fin false 45 0, 0x01), (.fin false 50 0, 0x01), (.fin false 5 (-10), 0x00), (.nan, 0x80)] : List (Val × Nat)),
      roundCode .d8 .rne 0 false p.1 = p.2)
    ∧ roundCode .d8 .rne 0 true (.fin false 50 0) = 0x40 := by decide +kernel

/-- The classes of R96: -0, a subnormal, a signalling NaN. -/
theorem test_classes :
    let s := slotA [(2, 0x80000000), (3, 0x80000001), (4, 0x7F800001)]
    aX (exec (.fcls .s 1 2) s) 1 = some 8 ∧ aX (exec (.fcls .s 1 3) s) 1 = some 4
    ∧ aX (exec (.fcls .s 1 4) s) 1 = some 0x100 := by decide +kernel

/-! ## The A slot: vectors (R98 to R109) -/

/-- The low 128 bits of a vector register of the A slot's result. -/
def aV (o : Out) (d : BitVec 5) : Option Nat := (aRes o).map (fun a => (a.getV d).toNat % 2 ^ 128)
/-- The low 64 bits of a mask register of the A slot's result. -/
def aM (o : Out) (d : BitVec 3) : Option Nat := (aRes o).map (fun a => (a.getM d).toNat % 2 ^ 64)
/-- The registers of the example of R109: x in v4, y in v8, 2.0 in v3, 0 to 3 in v1, 4 in v2, elements 0 to 3 in m1. -/
def axpy : State :=
  setArch (fun a => (a.setM 1 0xF).setM 2 0x6) (withV [(1, 0x00000003000000020000000100000000),
    (2, 0x00000004000000040000000400000004), (3, 0x40000000400000004000000040000000),
    (4, 0xBDCCCCCD4396000042C800003FC00000), (8, 0x3E4CCCCD43C80000424800003E800000),
    (9, 0x00000000447A0000437A000040500000)] (oneGroup (slotA [(2, 2), (5, 0x40000000), (6, 32)])))

/-- The example of R109, instruction by instruction. -/
theorem test_axpy_fma : aV (exec (.vfma .s 8 3 4 false false 1) axpy) 8 = some 0x00000000447A0000437A000040500000 := by decide +kernel
theorem test_axpy_pack : aV (exec (.vpack .e4m3 .s false 12 9 false 1) axpy) 12 = some 0x007E7845
    ∧ aV (exec (.vpack .e4m3 .s true 13 9 false 1) axpy) 13 = some 0x007F7845 := by decide +kernel
theorem test_axpy_sum : aX (exec (.vred .sum .s 9 9 false 1) axpy) 9 = some 0x449CA800 := by decide +kernel
theorem test_axpy_compare : aM (exec (.vcmp .lt .i32 1 1 2 false false 0) axpy) 1 = some 0xF
    ∧ aM (exec (.vcmp .ne .s 2 3 3 false false 0) axpy) 2 = some 0 := by decide +kernel

/-- Hand calculations on those registers: -0.1 + 0.2 = 0.1, and so on by element; inactive elements keep their value. -/
theorem test_vector_arithmetic :
    aV (exec (.vadd .s 8 3 4 false false 2) axpy) 8 = some 0x3E4CCCCD4397000042CC00003E800000
    ∧ aV (exec (.vsub .s 8 3 4 false false 2) axpy) 8 = some 0x3E4CCCCDC3950000C2C400003E800000
    ∧ aV (exec (.vmul .s 8 3 4 false false 2) axpy) 8 = some 0x3E4CCCCD44160000434800003E800000
    ∧ aV (exec (.vfnma .s 8 3 3 false false 2) axpy) 8 = some 0x3E4CCCCD43C60000423800003E800000
    ∧ aV (exec (.vdiv .s 8 4 3 false false 2) axpy) 8 = some 0x3E4CCCCD43160000424800003E800000
    ∧ aV (exec (.vsqrt .s 8 3 false 2) axpy) 8 = some 0x3E4CCCCD3FB504F33FB504F33E800000
    ∧ aV (exec (.vmin .s 8 3 4 false false 1) axpy) 8 = some 0xBDCCCCCD40000000400000003FC00000
    ∧ aV (exec (.vmax .s 8 3 4 false false 1) axpy) 8 = some 0x400000004396000042C8000040000000 := by decide +kernel
theorem test_vector_integers :
    aV (exec (.vadd .i32 8 1 2 false false 1) axpy) 8 = some 0x00000007000000060000000500000004
    ∧ aV (exec (.vsub .i32 8 1 2 false false 1) axpy) 8 = some 0xFFFFFFFFFFFFFFFEFFFFFFFDFFFFFFFC
    ∧ aV (exec (.vmul .i32 8 1 2 false false 1) axpy) 8 = some 0x0000000C000000080000000400000000
    ∧ aV (exec (.vand .i32 8 1 2 false false 1) axpy) 8 = some 0
    ∧ aV (exec (.vor .i32 8 1 2 false false 1) axpy) 8 = some 0x00000007000000060000000500000004
    ∧ aV (exec (.vxor .i32 8 1 1 false false 1) axpy) 8 = some 0
    ∧ aV (exec (.vshl .i32 8 2 1 false false 1) axpy) 8 = some 0x00000020000000100000000800000004
    ∧ aV (exec (.vshr .i32 8 2 1 false false 1) axpy) 8 = some 0x00000000000000010000000200000004
    ∧ aV (exec (.vsar .i32 8 4 2 false false 1) axpy) 8 = some 0xFBDCCCCC04396000042C800003FC0000
    ∧ aV (exec (.vsel .i32 8 1 2 false false 2) axpy) 8 = some 0x00000004000000020000000100000004 := by decide +kernel
theorem test_vector_moves :
    aV (exec (.vperm .i32 8 4 1 false false 1) axpy) 8 = some 0xBDCCCCCD4396000042C800003FC00000
    ∧ aV (exec (.vslideUp .i32 8 1 2 false 1) axpy) 8 = some 0x00000001000000000000000000000000
    ∧ aV (exec (.vslideDn .i32 8 1 2 false 1) axpy) 8 = some 0x00000000000000000000000300000002
    ∧ aV (exec (.vbcast .s 8 5 1) axpy) 8 = some 0x40000000400000004000000040000000
    ∧ aV (exec (.vmv .s 8 3 false 2) axpy) 8 = some 0x3E4CCCCD40000000400000003E800000
    ∧ aV (exec (.vid .i32 8 1) axpy) 8 = some 0x00000003000000020000000100000000
    ∧ aX (exec (.vext .i32 9 4 2 false) axpy) 9 = some 0x43960000 ∧ aX (exec (.vext .i32 9 4 6 false) axpy) 9 = some 0
    ∧ aV (exec (.vins .i32 8 5 2) axpy) 8 = some 0x3E4CCCCD40000000424800003E800000
    ∧ aV (exec (.vins .i32 8 5 6) axpy) 8 = some 0x3E4CCCCD43C80000424800003E800000 := by decide +kernel
theorem test_vector_conversions :
    aV (exec (.vcvt .b .s 8 4 false 1) axpy) 8 = some 0xBDCD439642C83FC0
    ∧ aV (exec (.vcvt .i32 .s 8 9 false 1) axpy) 8 = some 0x00000000000003E8000000FA00000003
    ∧ aV (exec (.vunpk .e4m3 .s 8 10 false 1) (withV [(10, 0x007E7845)] axpy)) 8 = some 0x0000000043E000004380000040500000 := by
  decide +kernel
/-- `vscan` gives 3.25, 253.25 and 1,253.25 twice; the integer reductions. -/
theorem test_reductions :
    aV (exec (.vscan .s 8 9 false 1) axpy) 8 = some 0x449CA800449CA800437D400040500000
    ∧ aX (exec (.vred .sum .i32 9 1 false 1) axpy) 9 = some 6 ∧ aX (exec (.vred .max .i32 9 1 false 2) axpy) 9 = some 2
    ∧ aX (exec (.vred .min .i32 9 1 false 2) axpy) 9 = some 1 := by decide +kernel
theorem test_masks :
    aM (exec (.vmand 3 1 2) axpy) 3 = some 6 ∧ aM (exec (.vmor 3 1 2) axpy) 3 = some 0xF
    ∧ aM (exec (.vmxor 3 1 2) axpy) 3 = some 9 ∧ aM (exec (.vmnot 3 1) axpy) 3 = some 0xFFFFFFFFFFFFFFF0
    ∧ aX (exec (.vmpop 9 0) axpy) 9 = some 2048 ∧ aX (exec (.vmfirst 9 2) axpy) 9 = some 1
    ∧ aX (exec (.vmfirst 9 3) axpy) 9 = some 0xFFFFFFFFFFFFFFFF := by decide +kernel
/-- The special functions complete, with a value that R108 leaves open within a bound: the inactive elements are kept. -/
theorem test_special_functions :
    ∀ i ∈ ([.vrcp .s 8 3 false 3, .vrsq .s 8 3 false 3, .vexp2 .s 8 3 false 3, .vlog2 .s 8 3 false 3, .vtanh .s 8 3 false 3] : List Instr),
      aV (exec i axpy) 8 = some 0x3E4CCCCD43C80000424800003E800000 := by decide +kernel
/-- R98 without a context, and R76 with NANF set: the lowest element that becomes a NaN, here 1. -/
theorem test_vector_faults :
    aFault (exec (.vadd .s 8 3 4 false false 2) (slotA [])) = some (8, 0)
    ∧ (next (exec (.vadd .s 8 3 10 false false 2)
        (setArch (fun a => { a with sts := a.sts ||| 8 }) (withV [(10, 0x7FC00000FFFFFFFFFFFFFFFF7FC00000)] axpy)))).map
        (fun s => s.thr.aslot) = some (.fault ⟨9, 0, 0, 1, 0, none⟩) := by decide +kernel

/-! ## Witnesses: the statements about the A slot -/

theorem witness_a_slot : (slotA []).thr.aslot = .awaiting 0 ∧ decodeA 0x11200000 = .ok (.addi 9 0 0) := by decide +kernel
theorem witness_IntegerForms : (slotA []).thr.aslot = .awaiting 0 ∧ (0#6).toNat + (63#6).toNat < 64
    ∧ (63#6).toNat + (0#6).toNat < 64 := by decide +kernel
/-- Each corner of division: y = 0, the most negative by -1, and 7 by -2. -/
theorem witness_DivisionNeverFaults :
    let s := slotA [(2, 0x8000000000000000), (3, -1), (4, 7), (5, BitVec.ofInt 64 (-2))]
    s.thr.aslot = .awaiting 0 ∧ s.thr.arch.getX 0 = 0 ∧ s.thr.arch.getX 2 = BitVec.ofInt 64 (-2 ^ 63) ∧ s.thr.arch.getX 3 = -1
    ∧ s.thr.arch.getX 3 ≠ 0 ∧ s.thr.arch.getX 4 = 7 ∧ s.thr.arch.getX 5 = BitVec.ofInt 64 (-2) := by decide +kernel
/-- The reserved formats 14 and 15, an odd index into 4-bit elements, and both ends of the formats that are not reserved. -/
theorem witness_PointerForms :
    let s := slotA [(2, 0xE000000000000000), (3, 0xF000000000000000), (4, 0xBA00000000100000), (5, 7), (6, 6),
      (7, 0xD000000000000000), (8, 0xFFFFFFFFFFFFFFFF)]
    let x (r : BitVec 5) : Word := s.thr.arch.getX r
    s.thr.aslot = .awaiting 0 ∧ 14 ≤ (pFmt (x 2)).toNat ∧ 14 ≤ (pFmt (x 3)).toNat ∧ (pFmt (x 0)).toNat < 14
    ∧ (pFmt (x 7)).toNat = 13 ∧ fmtBits (pFmt (x 4)) = 4 ∧ (pFmt (x 4)).toNat < 14 ∧ (x 5).toInt % 2 = 1
    ∧ (x 8).toInt % 2 = 1 ∧ (x 6).toInt % 2 = 0 := by decide +kernel
/-- Vector instructions: a context of one group and of sixteen, a rounding type and an integer one, NANF clear and set with no
NaN among the results. -/
theorem witness_vectors :
    axpy.thr.aslot = .awaiting 0 ∧ axpy.thr.ngrp = 1
    ∧ (setThr (fun t => { t with gmask := 0xFFFF }) axpy).thr.ngrp = 16
    ∧ VTy.isFp .s = true ∧ VTy.isFp .i32 = false ∧ stsNanf axpy.thr.arch.sts = false := by decide +kernel
theorem witness_nan_free :
    let s := setArch (fun a => { a with sts := a.sts ||| 8 }) axpy
    let p : RoundedForm := ⟨.vadd .s 8 3 4 false false 2, [], .fp32, 32, false, 32, s.thr.arch.getV 8,
      fun j => addVal .rne (s.laneVal .s 3 j) (s.laneVal .s 4 j)⟩
    stsNanf s.thr.arch.sts = true
    ∧ (List.range 32).all (fun j => !p.on s 2 j || !(decodeVal p.f (p.code s 0 2 .rne j)).isNan) = true := by decide +kernel
/-- A mask with bits, and one with none; an index inside E(ty) and past it. -/
theorem witness_MaskResults : axpy.thr.arch.getM 3 = 0 ∧ (axpy.thr.arch.getM 2).getLsbD 1 = true
    ∧ (axpy.thr.arch.getM 2).getLsbD 0 = false := by decide +kernel
theorem witness_VectorMovesElements : (axpy.thr.arch.getX 2).toNat < laneCount axpy.thr.ngrp 32
    ∧ laneCount axpy.thr.ngrp 32 ≤ (axpy.thr.arch.getX 6).toNat ∧ (31 + 1) * 32 ≤ 16384 := by decide +kernel
/-- No context; and with NANF set, element 1 the lowest active one that becomes a NaN. -/
theorem witness_VectorFaults : (slotA []).thr.ngrp = 0 ∧
    (let s := setArch (fun a => { a with sts := a.sts ||| 8 }) (withV [(10, 0x7FC00000FFFFFFFFFFFFFFFF7FC00000)] axpy)
    let p : RoundedForm := ⟨.vadd .s 8 3 10 false false 2, [], .fp32, 32, false, 32, s.thr.arch.getV 8,
      fun j => addVal .rne (s.laneVal .s 3 j) (s.laneVal .s 10 j)⟩
    p.on s 2 1 = true ∧ (decodeVal p.f (p.code s 0 2 .rne 1)).isNan = true ∧ p.on s 2 0 = false) := by decide +kernel

/-! ## Control transfer and the thread's own state -/

/-- A branch counts bundles of 8 bytes from its own, and wraps below 2^57 (R33, R81). -/
theorem test_branches :
    let s := regs [(2, 0xFFFFFFFFFFFFFFFF), (3, 2)]
    cPc (exec (.bEq 2 3 (.short 6)) s) = some 0x40008 ∧ cPc (exec (.bNe 2 3 (.short 6)) s) = some 0x40030
    ∧ cPc (exec (.bLt 2 3 (.short 0x7FFE)) s) = some 0x3FFF0 ∧ cPc (exec (.bGe 2 3 (.short 6)) s) = some 0x40008
    ∧ cPc (exec (.bLtu 2 3 (.short 6)) s) = some 0x40008 ∧ cPc (exec (.bGeu 2 3 (.short 6)) s) = some 0x40030
    ∧ cPc (exec (.bEq 0 0 (.lit 0xFFFF0000)) s) = some 0x1FFFFFFFFFC0000 := by decide +kernel
theorem test_jumps :
    let s := regs [(2, 0x40100), (3, 0x40104)]
    cPc (exec (.jal 1 (.short 2)) s) = some 0x40010 ∧ cX (exec (.jal 1 (.short 2)) s) 1 = some 0x40008
    ∧ cPc (exec (.jalr 0 2 (.short 1)) s) = some 0x40108 ∧ cX (exec (.jalr 2 2 (.short 1)) s) 2 = some 0x40008
    ∧ cFault (exec (.jalr 1 3 (.short 0)) s) = some (2, 0, 0x40104) := by decide +kernel
theorem test_nop : cPc (exec .nop base) = some 0x40008 := by decide +kernel
theorem test_constants :
    let s := regs [(5, 0x1122334455667788)]
    cX (exec (.movi 5 (.short 0xFFFFF)) s) 5 = some 0xFFFFFFFFFFFFFFFF ∧ cX (exec (.movi 5 (.lit 0x40000000)) s) 5 = some 0x40000000
    ∧ cX (exec (.movhi 5 (.short 0x40)) s) 5 = some 0x4055667788 ∧ cX (exec (.time 5) s) 5 = some 0 := by decide +kernel
/-- STS at creation is CHUNKMAX 256 (R44, R45); PC; GEN and tenant; SWIN and the queue bases. -/
theorem test_state_words :
    let s := regs [(2, 0x1237), (3, 0x1100), (4, 0)]
    cX (exec (.srd 1 1) s) 1 = some 0x1000 ∧ cX (exec (.srd 1 0) s) 1 = some 0x40000 ∧ cX (exec (.srd 1 18) s) 1 = some 0xFFFE
    ∧ (next (exec (.swr 3 3) s)).map (fun t => t.thr.arch.flta) = some 0x1100
    ∧ (next (exec (.swr 3 1) s)).map (fun t => t.thr.arch.sts) = some 0x1100
    ∧ (next (exec (.swr 4 2) s)).map (fun t => t.thr.arch.rngs) = some 1
    ∧ cFault (exec (.swr 2 0) s) = some (1, 8, 0) := by decide +kernel

theorem witness_ControlTransfers :
    let s := regs [(2, 0x40100), (3, 0x40104)]
    s.fits Eff.none = true ∧ (s.thr.arch.getX 2 + 8 * immValue (Imm.short (1 : BitVec 14))).toNat % 8 = 0
    ∧ (s.thr.arch.getX 3 + 8 * immValue (Imm.short (1 : BitVec 14))).toNat % 8 ≠ 0 ∧ s.thr.aslot.faults = false := by decide +kernel
/-- A word for every writable state word, and one that breaks a rule. -/
theorem witness_OwnState : base.fits Eff.none = true ∧ base.thr.aslot.faults = false
    ∧ base.thr.arch.sts.extractLsb' 18 2 = 0
    ∧ ((List.range 29).map (BitVec.ofNat 5)).all (fun i => !wordWritable i || wordOk i 0 || wordOk i 0x1000) = true
    ∧ (wordWritable 0 && wordOk 0 0) = false ∧ (wordWritable 1 && wordOk 1 0) = false := by decide +kernel
theorem witness_QstatFields : base.fits Eff.none = true ∧ base.thr.chunk.ended = false
    ∧ base.thr.chunk.count + 1 < base.thr.chunk.max ∧ base.thr.solo = none ∧ base.thr.chunk.firsts.length ≤ Config.chunkLines
    ∧ (⟨0, 0, 0, 31, 7, .producer, 0⟩ : QHandle).lslot < 32 ∧ (⟨0, 0, 0, 31, 7, .producer, 0⟩ : QHandle).lesz < 8 := by decide +kernel

/-! ## Memory instructions (R181 to R202) -/

/-- Registers that name the pages, and two words in memory at 0x4_1000. -/
def lab : State := pages (poke 0x41008 8 0x0000000200000001 (poke 0x41000 8 0x8877665544332281
  (regs [(2, 0x41000), (3, 0x42000), (4, 0x43000), (5, 0x400000), (6, 0x41040), (7, 0x1122334455667788), (8, 1), (9, 0x50000),
    (10, 0x46000), (11, 0x41004)])))

theorem test_loads :
    cX (exec (.ld .b 1 2 (.short 0)) lab) 1 = some 0xFFFFFFFFFFFFFF81 ∧ cX (exec (.ld .bu 1 2 (.short 0)) lab) 1 = some 0x81
    ∧ cX (exec (.ld .h 1 2 (.short 2)) lab) 1 = some 0x4433 ∧ cX (exec (.ld .hu 1 2 (.short 6)) lab) 1 = some 0x8877
    ∧ cX (exec (.ld .w 1 2 (.short 4)) lab) 1 = some 0xFFFFFFFF88776655 ∧ cX (exec (.ld .wu 1 2 (.short 4)) lab) 1 = some 0x88776655
    ∧ cX (exec (.ld .d 1 6 (.short 0xFC0)) lab) 1 = some 0x8877665544332281
    ∧ (next (exec (.ld .d 1 2 (.short 0)) lab)).map (fun s => s.thr.chunk.reads) = some [0x1040] := by decide +kernel
/-- Misaligned, unmapped and forbidden addresses (R181, R184, R291). -/
theorem test_load_faults :
    cFault (exec (.ld .w 1 2 (.short 2)) lab) = some (2, 0, 0x41002)
    ∧ cFault (exec (.st .w 7 10 (.short 0)) lab) = some (4, 1, 0x46000) := by decide +kernel
/-- A store waits in its chunk (R184); `zline` stores the whole line that holds its address (R186). -/
theorem test_stores :
    cMem (exec (.st .w 7 2 (.short 0)) lab) 0x41000 8 = some 0x8877665555667788
    ∧ mem (exec (.st .w 7 2 (.short 0)) lab) 0x41000 8 = some 0x8877665544332281
    ∧ cMem (exec (.zline 2 (.short 8)) lab) 0x41000 8 = some 0 ∧ cMem (exec (.zline 2 (.short 8)) lab) 0x41008 8 = some 0 := by
  decide +kernel
/-- A prefetch never faults (R185). -/
theorem test_prefetches :
    cPc (exec (.prfL1 9 (.short 1)) lab) = some 0x40008 ∧ cPc (exec (.prfL2 9 (.short 1)) lab) = some 0x40008
    ∧ (next (exec (.prfL1 2 (.short 0)) lab)).map (fun s => (s.core 0).l1d) = some [0x1040] := by decide +kernel

/-- Vector registers for the accesses: v1 the indices 3, 1, 2, 0; m1 elements 0 and 2. -/
def vlab : State := setArch (fun a => { (a.setM 1 0x5) with
    swin := oput (oput a.swin 0 0x0000200000000100) 1 0x200000 })
  (withV [(1, 0x00000000000000020000000100000003), (4, 0x00000000412000003E99999ABFA00000),
    (5, 0x0000000041200000BE99999A3FA00000)] (oneGroup (withX [(12, 0xBA00000000100040), (13, 2)] lab)))
/-- The low 128 bits of a vector register after a C slot. -/
def cV (o : Out) (d : BitVec 5) : Option Nat := (next o).map (fun s => (s.thr.arch.getV d).toNat % 2 ^ 128)

theorem test_vector_loads :
    cV (exec (.vld .w 4 2 0 1 0) vlab) 4 = some 0x00000000000000013E99999A44332281
    ∧ cV (exec (.vld .w 4 2 13 1 0) vlab) 4 = some 0x00000000887766553E99999A44332281
    ∧ cV (exec (.vldx .w 4 2 1 1 0) vlab) 4 = some 0x00000000000000013E99999A00000002 := by decide +kernel
theorem test_vector_stores :
    cMem (exec (.vst .w 4 2 0 1 0x20) vlab) 0x41020 8 = some 0x00000000BFA00000
    ∧ cMem (exec (.vst .w 4 2 0 1 0x20) vlab) 0x41028 8 = some 0x0000000041200000
    ∧ cMem (exec (.vstx .w 4 2 1 1 0) vlab) 0x41008 8 = some 0xBFA0000041200000 := by decide +kernel
/-- The example of R67: one MXFP4 block, scale byte 0x80 at 0x20_0004, codes 0x81 and 0x06; and its decoding. -/
theorem test_typed_accesses :
    cMem (exec (.vstt 5 12 0 0 0) vlab) 0x44040 4 = some 0x0681 ∧ cMem (exec (.vstt 5 12 0 0 0) vlab) 0x45004 1 = some 0x80
    ∧ cV (exec (.vldt 6 12 0 0 0) (poke 0x44040 2 0x0681 (poke 0x45004 1 0x80 vlab))) 6 =
      some 0x0000000041000000800000003F800000 := by decide +kernel
theorem test_vector_mask_none :
    cV (exec (.vld .d 4 9 0 2 3) vlab) 4 = some 0x00000000412000003E99999ABFA00000 := by decide +kernel

/-- What an instruction asks for after its commit. -/
def cPost (o : Out) : Option (Option Post) := (next o).map (fun s => s.thr.post)

/-- The chunk commits, and the atomic is asked for (R191 to R193). -/
theorem test_atomics :
    cPost (exec (.amo .add .w 1 2 7) lab) = some (some (.amo .add .w 1 0x41000 0x41000 0x55667788 0x40000))
    ∧ cPost (exec (.cas .d 8 2 7) lab) = some (some (.cas .d 8 0x41000 0x41000 1 0x1122334455667788 0x40000))
    ∧ (next (exec (.amop .max .d 2 7) lab)).map (fun s => s.net.amops.map Amop.val) = some [0x1122334455667788] := by decide +kernel
/-- The rows of R194: declared; not a multiple of 4 KiB; a removal that finds none. -/
theorem test_crange :
    cX (exec (.crange .s 1 2 12) (withX [(12, 0x1000)] lab)) 1 = some 0
    ∧ (next (exec (.crange .s 1 2 12) (withX [(12, 0x1000)] lab))).map (fun s => (s.tenant 0).ranges) =
      some [⟨0x41000, 0x1000, .s⟩]
    ∧ cX (exec (.crange .s 1 2 12) (withX [(12, 0x100)] lab)) 1 = some 5
    ∧ cX (exec (.crange .s 1 2 0) lab) 1 = some 4 := by decide +kernel
theorem test_chunk_elements :
    (next (exec (.radd .s 2 7) (setTen (fun t => { t with ranges := [⟨0x41000, 0x1000, .s⟩] }) lab))).map
      (fun s => s.thr.chunk.radds) = some [⟨0x41000, 0, .s, 0x1122334455667788, false⟩]
    ∧ (next (exec (.rst .w 2 7) lab)).map (fun s => s.thr.chunk.elems.map (fun e => (e.pa, e.size, e.val))) =
      some [(0x41000, 4, 0x55667788)]
    ∧ (next (exec (.ramo .fadd .w 2 7) lab)).map (fun s => s.thr.chunk.elems.map Elem.op) = some [.op .fadd] := by decide +kernel
/-- A chunk-end commits the stores before it (R154, R155, R198). -/
theorem test_chunk_ends :
    ((next (exec (.st .w 7 2 (.short 0)) lab)).bind (fun s => mem (exec .chunk s) 0x41000 8)) = some 0x8877665555667788
    ∧ ((next (exec (.rst .w 2 7) lab)).bind (fun s => next (exec .dflush s))).map (fun s => (s.cluster 0).drays.map Dray.due) = some [true]
    ∧ ((next (exec .fenceE lab)).map (fun s => s.thr.run)) = some (.parked (.fence false true false))
    ∧ ((next (exec .fenceD lab)).map (fun s => s.thr.run)) = some (.parked (.fence true false false))
    ∧ ((next (exec .fenceA lab)).map (fun s => s.thr.run)) = some (.parked (.fence true true true)) := by decide +kernel
/-- A region's `xend` gives the attempts in bits 9:8; outside a region, 6 (R163, R201). -/
theorem test_regions :
    cX (exec (.xend 7) lab) 7 = some 6
    ∧ ((next (exec .xbegin lab)).bind (fun s => cX (exec (.xend 7) s) 7)) = some 0x100
    ∧ ((next (exec .xbegin lab)).bind (fun s => next (exec (.xabort 3) s))).map (fun s => s.thr.region.map XRegion.failed) =
      some (some (some (3, 3))) := by decide +kernel
theorem test_region_forbids : ((next (exec .xbegin lab)).bind (fun s => next (exec .halt s))).map
    (fun s => s.thr.region.map XRegion.failed) = some (some (some (4, 0))) := by decide +kernel
/-- I/O is reached after the commit: a load waits for its answer, a store does not (R159, R183); in RUN with the TEE bit
(R294). -/
theorem test_io :
    (next (exec (.ld .d 1 3 (.short 0)) lab)).map (fun s => (s.thr.run, s.hub.out)) =
      some (.parked .result, [.ioRead ⟨0, 0, true⟩ (ioBase + 0x42000) 8])
    ∧ (next (exec (.st .b 7 3 (.short 0)) lab)).map (fun s => (s.thr.run, s.hub.out)) =
      some (.ready, [.ioWrite ⟨0, 0, true⟩ (ioBase + 0x42000) [0x88]]) := by decide +kernel

/-! ## Queues (R203 to R209) -/

/-- Handle 2: a ring of 4 slots of 64 bytes at 0x4_1100 with stamps at 0x4_1200, and the reservation 5. -/
def ring (role : QRole) (s : State) : State :=
  setThr (Thread.setHandle 2 ⟨0x41041, 0x41100, 0x41200, 2, 0, role, 5⟩) s
theorem test_queue_bind :
    (next (exec (.qbind 2 6) (poke 0x41040 8 0x41100 (poke 0x41048 8 2 (poke 0x41050 8 0x41200 lab))))).map
      (fun s => s.thr.handle 2) = some ⟨0x41041, 0x41100, 0x41200, 2, 0, .none, 0⟩
    ∧ cPost (exec (.qwaitF 2) (ring .none lab)) = some (some (.reserve 2 true))
    ∧ cPost (exec (.qwaitE 2) (ring .none lab)) = some (some (.reserve 2 false)) := by decide +kernel
/-- Slot 5 mod 4 = 1 lies at 0x4_1140 and its stamp at 0x4_1208 (R203, R207, R208). -/
theorem test_queue_slot :
    cX (exec (.qld 1 2 3) (poke 0x41158 8 77 (ring .consumer lab))) 1 = some 77
    ∧ cMem (exec (.qst 7 2 3) (ring .producer lab)) 0x41158 8 = some 0x1122334455667788
    ∧ cPost (exec (.qadvT 2) (ring .producer lab)) = some (some (.stamp 2 0x41208 0x41208 6))
    ∧ cPost (exec (.qadvH 2) (ring .consumer lab)) = some (some (.stamp 2 0x41208 0x41208 9))
    ∧ cFault (exec (.qld 1 2 8) (ring .consumer lab)) = some (14, 5, 0)
    ∧ cX (exec (.qstat 1 2) (ring .consumer lab)) 1 = some 0xC040000000000005 := by decide +kernel

/-! ## Witnesses: memory, regions and queues -/

/-- In a region begun by `xbegin`. -/
def inX (s : State) : State := setThr (fun t => { t with region := some ⟨1, [], [], none, none, false⟩ }) s

/-- A load and a store of a doubleword at the first and at the last of page 0x41, and the line of each. -/
theorem witness_LoadsAndStores_device :
    let s := withX [(13, 0x41FF8)] lab
    let w : Word := (s.combined [0x41FF8]).chunkN 0x41FF8 8
    let e : Eff := { Eff.regs (fun r => r.setX 1 w) with reads := [lineOf 0x41FF8], pages := [0x41] }
    let ez : Eff := { Eff.none with
      stores := (List.range 8).map (fun i => (0x41FC0 + 8 * i, 0x41FC0 + 8 * i, 8, 0)), pages := [0x41] }
    (s.thr.arch.getX 13 + immValue (Imm.short (0 : BitVec 12))).toNat % 2 ^ 57 = 0x41FF8 ∧ 0x41FF8 % loadBytes .d = 0
    ∧ s.xlate .read 0x41FF8 = .ok 0x41FF8 ∧ s.xlate .write 0x41FF8 = .ok 0x41FF8 ∧ s.xlate .write 0x41FC0 = .ok 0x41FC0
    ∧ isIo 0x41FF8 = false ∧ isFab 0x41FF8 = false ∧ s.poisonOf 0x41FF8 = none
    ∧ s.blocked (some s.thr.id) (lineOf 0x41FF8) = false ∧ s.fits e = true
    ∧ s.fits { Eff.none with stores := [(0x41FF8, 0x41FF8, 8, 7)], pages := [0x41] } = true ∧ s.fits ez = true := by decide +kernel
/-- Host memory is reached by the same rule. -/
theorem witness_LoadsAndStores_host : lab.xlate .read 0x43000 = .ok (hostBase + 0x43000) ∧ isIo (hostBase + 0x43000) = false
    ∧ isFab (hostBase + 0x43000) = false ∧ lab.xlate .write 0x43000 = .ok (hostBase + 0x43000) := by decide +kernel
/-- An I/O page and a fabric window. -/
theorem witness_LoadsAndStores_io :
    lab.xlate .read 0x42000 = .ok (ioBase + 0x42000) ∧ lab.xlate .write 0x42000 = .ok (ioBase + 0x42000)
    ∧ isIo (ioBase + 0x42000) = true
    ∧ (∃ pa, lab.xlate .read 0x400000 = .ok pa ∧ lab.xlate .write 0x400000 = .ok pa ∧ isFab pa = true)
    ∧ lab.canEnd { Eff.none with pages := [0x42] } = true ∧ lab.canEnd { Eff.none with pages := [0x400] } = true := by
  refine ⟨by decide +kernel, by decide +kernel, by decide +kernel, ⟨fabBase + 259 * 2 ^ 57, ?_⟩, by decide +kernel, by decide +kernel⟩
  decide +kernel

theorem witness_VectorAccesses :
    let l := ([0, 2] : List Nat)
    vlab.thr.ngrp ≠ 0
    ∧ (List.range 32).filter (vlab.thr.arch.getM 1).getLsbD = l
    ∧ (match eachOf (vlab.elemAt .read 4) (l.map (fun j => (j, 0x41000 + 4 * j))) with
      | .ok es => vlab.fits { Eff.regs (fun r => vlab.thr.agedC r) with
          reads := laddAll [] (es.map (fun e => lineOf e.pa)), pages := elemPages es }
      | .error _ => false) = true
    ∧ (match eachOf (vlab.elemAt .write 4) (l.map (fun j => (j, 0x41000 + 4 * j))) with
      | .ok es => vlab.fits { Eff.regs (fun r => vlab.thr.agedC r) with
          stores := es.map (fun e => (e.va, e.pa, 4, laneGet 32 e.i (vlab.thr.arch.getV 4))), pages := elemPages es
          spots := spotsOf 0 es }
      | .error _ => false) = true
    ∧ vlab.thr.arch.getM 3 = 0 ∧ vlab.fits Eff.none = true := by decide +kernel
/-- A block of 32 MXFP4 elements, whole and aligned. -/
theorem witness_VectorAccesses_typed :
    let p := vlab.thr.arch.getX 12
    let ea : Nat := p.toNat % 2 ^ 57
    let l : List (Nat × Int) := (List.range 32).map (fun (j : Nat) => (j, (j : Int)))
    let scales := vlab.scalesOf p ea l
    let whole (sa : Nat × Nat) : Bool := (scales.filter (fun x => x == some sa)).length == 2 ^ (pBlk p).toNat
    (pFmt p).toNat < 14 ∧ tagOk p = true ∧ (regTyOf (pFmt p)).bits = 32
    ∧ (match eachOf (vlab.typedAt .read p ea (fun _ => true)) l with
      | .ok es => vlab.fits { Eff.regs (fun r => vlab.thr.agedC r) with
          reads := laddAll [] ((elemPas es).map lineOf), pages := elemPages es }
      | .error _ => false) = true
    ∧ (match eachOf (vlab.typedAt .write p ea whole) l with
      | .ok es => vlab.fits { Eff.regs (fun r => vlab.thr.agedC r) with
          stores := (vlab.typedStores p 5 es).1, reads := nibbleLines (pFmt p) es, pages := elemPages es, spots := spotsOf (tagBits p) es }
      | .error _ => false) = true := by decide +kernel

theorem witness_ChunkElements :
    let r : Range := ⟨0x41000, 0x1000, .s⟩
    let s := withX [(12, 0x1000), (13, 0x100)] (setTen (fun t => { t with ranges := [r] }) lab)
    let other := mapped [(0x47, ⟨0x50000, true, true, false, false⟩)] s
    s.xlate .write 0x41000 = .ok 0x41000 ∧ isIo 0x41000 = false ∧ isFab 0x41000 = false ∧ isHost 0x41000 = false
    ∧ s.xlateElem 0x41000 = .ok 0x41000 ∧ other.xlateElem 0x47000 = .ok 0x50000 ∧ isHost 0x50000 = false ∧ isIo 0x50000 = false
    ∧ 0x41000 % rangeBytes .s = 0 ∧ (s.tenant 0).rangeAt 0x41000 = some r
    ∧ s.fits { Eff.none with radds := [⟨0x41000, 0, .s, 1, false⟩], pages := [0x41] } = true
    ∧ s.fits { Eff.none with elems := [⟨s.thr.id, 0, 0, 0x41000, 0x41000, 4, .set, 1, 0⟩], pages := [0x41] } = true := by decide +kernel
/-- The rows of R194 that declare, remove and refuse. -/
theorem witness_ChunkElements_crange :
    let k := lab.tenant 0
    let gone := setTen (fun t => { t with ranges := [⟨0x41000, 0x1000, .s⟩] }) lab
    eachOf lab.rangePage (k.crangePages .s 0x41000 0x1000) = .ok [0x41000] ∧ lab.canEnd { Eff.none with pages := [0x41] } = true
    ∧ k.crangeCode .s 0x41000 0x1000 = 0 ∧ k.crangeCode .s 0x41000 0x100 = 5 ∧ k.crangeCode .s 0x41000 0 = 4
    ∧ (gone.tenant 0).crangeCode .s 0x41000 0x1000 = 3 ∧ (gone.tenant 0).crangeCode .s 0x41000 0 = 1
    ∧ (∃ pas, eachOf gone.rangePage ((gone.tenant 0).crangePages .s 0x41000 0) = .ok pas ∧ gone.crangePoison pas = none
      ∧ gone.crangeHeld pas = none) := by
  refine ⟨by decide +kernel, by decide +kernel, by decide +kernel, by decide +kernel, by decide +kernel, by decide +kernel,
    by decide +kernel, ⟨[0x41000], ?_⟩⟩
  decide +kernel
theorem witness_AtomicsCommitFirst :
    0x41000 % amoBytes .d = 0 ∧ lab.xlate .write 0x41000 = .ok 0x41000 ∧ lab.xlate .read 0x41000 = .ok 0x41000
    ∧ isIo 0x41000 = false ∧ isFab 0x41000 = false ∧ lab.canEnd { Eff.none with pages := [0x41] } = true
    ∧ (∃ pa, lab.xlate .write 0x400000 = .ok pa ∧ lab.xlate .read 0x400000 = .ok pa ∧ isIo pa = false ∧ isFab pa = true)
    ∧ lab.canEnd { Eff.none with pages := [0x400] } = true := by
  refine ⟨by decide +kernel, by decide +kernel, by decide +kernel, by decide +kernel, by decide +kernel, by decide +kernel,
    ⟨fabBase + 259 * 2 ^ 57, ?_⟩, by decide +kernel⟩
  decide +kernel

/-- Each field of `chunk` alone, at its last bit. -/
theorem witness_ChunkEndsChunk : lab.canEnd Eff.none = true ∧ (inX lab).thr.inRegion = true ∧ (inX lab).thr.aslot.faults = false
    ∧ (16#5 ≠ 0 ∧ 32#6 ≠ 0 ∧ 8#4 ≠ 0) := by decide +kernel
/-- Outside a region, in one, and in one that has failed. -/
theorem witness_Regions :
    let lost := setThr (fun t => { t with region := some ⟨3, [], [], none, some (4, 0), true⟩ }) lab
    lab.canEnd Eff.none = true ∧ (lab.retired Eff.none).mayCommit = true ∧ lab.thr.inRegion = false
    ∧ (inX lab).thr.inRegion = true ∧ (inX lab).thr.aslot.faults = false ∧ (inX lab).fits (Eff.regs (fun a => a.setX 7 0x100)) = true
    ∧ ((inX lab).retired (Eff.regs (fun a => a.setX 7 0x100))).mayCommit = true
    ∧ lost.fits (Eff.regs (fun a => a.setX 7 0x304)) = true ∧ (lost.retired (Eff.regs (fun a => a.setX 7 0x304))).mayCommit = true := by
  decide +kernel
/-- In a region: a tile command that passes its checks, one that fails them otherwise, and the formats and the warp slot that
the illegal-instruction fault names (R41). -/
theorem witness_Regions_tiles :
    let x := inX (withX [(11, 0xC000000000041100), (12, 0xF000000000041100), (5, 0x0002000400000002)] lab)
    let kind (o : LoomOp) (a b : Word) : Option (BitVec 8) :=
      match x.pushChecks o a b with | .error (.flt f) => some f.kind | _ => none
    kind (.twarp 0) 0xC000000000041100 0x0002000400000002 = none ∧ kind (.twarp 0) 0x6000000000041100 0x0002000400000002 = some 0x0A
    ∧ kind (.twarp 0) 0xF000000000041100 0x0002000400000002 = some 1 ∧ x.thr.inRegion = true ∧ x.thr.aslot.faults = false := by
  decide +kernel

/-- A handle without a reservation, and as producer and consumer; the last doubleword of the slot. -/
theorem witness_QueueInstructions :
    let n := ring .none lab
    let p := ring .producer lab
    let c := ring .consumer lab
    (n.thr.handle 2).role = .none ∧ (n.thr.handle 2).valid = true ∧ n.thr.arch.getX 0 = 0 ∧ n.thr.arch.getX 6 ≠ 0
    ∧ 0x41040 % 64 = 0 ∧ n.readAt 0x41040 8 = .ok 0x41040 ∧ n.canEnd { Eff.none with pages := [0x41] } = true
    ∧ (n.thr.handle 2).line = 0x41040 ∧ n.xlate .write 0x41040 = .ok 0x41040
    ∧ (p.thr.handle 2).role = .producer ∧ (c.thr.handle 2).role = .consumer ∧ p.canEnd Eff.none = true ∧ c.canEnd Eff.none = true
    ∧ p.xlate .write 0x41208 = .ok 0x41208 ∧ p.canEnd { Eff.none with pages := [0x41] } = true
    ∧ (7#6).toNat < 8 * 2 ^ (p.thr.handle 2).lesz ∧ p.readAt 0x41178 8 = .ok 0x41178 ∧ p.writeAt 0x41178 8 = .ok 0x41178
    ∧ p.fits { Eff.regs (fun r => r.setX 1 0) with reads := [lineOf 0x41178], pages := [0x41] } = true
    ∧ p.fits { Eff.none with stores := [(0x41178, 0x41178, 8, 0)], pages := [0x41] } = true := by decide +kernel
/-- Every misalignment, every wrong role, and the first doubleword past the slot. -/
theorem witness_AccessFaults :
    let n := ring .none lab
    let p := ring .producer lab
    let c := ring .consumer lab
    lab.thr.aslot.faults = false ∧ lab.thr.inRegion = false
    ∧ (0x41002 % loadBytes .w ≠ 0 ∧ 0x41007 % sizeBytes .d ≠ 0 ∧ 0x41001 % sizeBytes .h ≠ 0 ∧ 0x41002 % rangeBytes .s ≠ 0
      ∧ 0x41004 % amoBytes .d ≠ 0)
    ∧ (p.thr.handle 2).role ≠ .none ∧ (p.thr.arch.getX 6).toNat % 64 = 0 ∧ (lab.thr.handle 0).valid = false
    ∧ (c.thr.handle 2).valid = true ∧ (c.thr.handle 2).role = .consumer ∧ (p.thr.handle 2).valid = true
    ∧ (p.thr.handle 2).role = .producer ∧ (c.thr.handle 2).role ≠ .producer ∧ (p.thr.handle 2).role ≠ .consumer
    ∧ (n.thr.handle 2).role = .none ∧ 8 * 2 ^ (p.thr.handle 2).lesz = (8#6).toNat := by decide +kernel

/-! ## Engines (R110 to R132, R210 to R216) -/

/-- A porter command of the thread. -/
def portCmd (k : PortKind) (w0 w1 w2 w3 : Word) (phase : CmdPhase) : PorterCmd :=
  ⟨1, k, w0, w1, w2, w3, lab.thr.id, 0, 0, 0x40000, 0, 1, lab.thr.arch.swin, 0x40200, phase, 0, 0, false, [], [], [], none, 0⟩
/-- Porter 1 of cluster 0 with one command. -/
def porting (st : Nat) (c : PorterCmd) (s : State) : State :=
  s.setCluster 0 ((s.cluster 0).setPorter 1 { Porter.reset with st := st, pacc := 1, queue := [c] })
/-- Porter 1 of cluster 0 after a step. -/
def porter1 (o : Out) : Option Porter := (next o).map (fun s => (s.cluster 0).porter 1)

/-- An event, as often as it is said, one after the other. -/
def often (i : Instr) : Nat → State → Out
  | 0, s => .next s
  | n + 1, s => match exec i s with | .next t => often i n t | o => o

/-- The porter accepts the command with number 1, or the request is refused with its detail (R210 to R212). -/
theorem test_porter_push :
    let s := poke 0x41040 8 0x1122334455667788 (poke 0x41048 8 0x41300 (poke 0x41050 8 100 (poke 0x41058 8 0 lab)))
    let t := poke 0x41040 8 0x1000000000041000 (poke 0x41048 8 0x41300 (poke 0x41050 8 0x41400 lab))
    cX (exec (.pfill 8 6 1) s) 8 = some 1 ∧ (porter1 (exec (.pfill 8 6 1) s)).map (fun p => p.queue.map PorterCmd.kind) = some [.fill]
    ∧ cX (exec (.pcopy 8 6 1) s) 8 = some 1 ∧ cX (exec (.pcopyt 8 6 1) t) 8 = some 1
    ∧ cX (exec (.pgath 8 6 1) t) 8 = some 1 ∧ cX (exec (.pscat 8 6 1) t) 8 = some 1 ∧ cX (exec (.pscadd 8 6 1) t) 8 = some 1
    ∧ cFault (exec (.pfill 8 6 1) (poke 0x41058 8 3 s)) = some (15, 4, 0x41040) := by decide +kernel
theorem test_porter_start :
    (porter1 (exec (.porterCommandStart 0 1) (porting 0 (portCmd .fill 0x22334455 0x41300 3 1 .arrived) lab))).map
      (fun p => (p.st, p.queue.map PorterCmd.phase)) = some (1, [.started]) := by decide +kernel
/-- Three bytes of a fill and of a copy, which reads its source line first (R173). -/
theorem test_porter_steps :
    mem (often (.porterCommandComplete 0 1) 2 (porting 1 (portCmd .fill 0x22334455 0x41300 3 1 .started) lab)) 0x41300 4 = some 0x334455
    ∧ mem (often (.porterCommandComplete 0 1) 2 (porting 1 (portCmd .copy 0x41000 0x41300 3 1 .started) lab)) 0x41300 4 = some 0
    ∧ mem (often (.porterCommandComplete 0 1) 3 (porting 1 (portCmd .copy 0x41000 0x41300 3 1 .started) lab)) 0x41300 4 = some 0x332281 := by decide +kernel
/-- In the example of R213, the last position of a gather, whose index 9 is out of bound; and one of a scatter with addition. -/
theorem test_porter_table_steps :
    mem (often (.porterCommandComplete 0 1) 3 (poke 0x4141C 4 9 (porting 1 { portCmd .gath 0x6000000000041000 0x41400 0x41300 1 .started with
        pos := 1, hdr := some (2, false, 8, 0xBF800000) } lab))) 0x41304 4 = some 0xBF800000
    ∧ mem (often (.porterCommandComplete 0 1) 3 (poke 0x4141C 4 1 (poke 0x41304 4 0x4B800000 (poke 0x41104 4 0x3F800000
        (porting 1 { portCmd .scadd 0x6000000000041100 0x41400 0x41300 1 .started with
          pos := 1, hdr := some (5, false, 8, 0) } lab))))) 0x41104 4 = some 0x4B800000 := by decide +kernel
/-- The completion write and PDONE (R211): DONE, OOB 1, COUNT 5 as in the example. -/
theorem test_porter_completion :
    let o := exec (.porterCommandComplete 0 1) (porting 1 { portCmd .gath 0 0x41400 0x41300 0x41041 .started with
      pos := 5, oob := 1, hdr := some (5, false, 8, 0) } lab)
    mem o 0x41040 8 = some 0x8000000100000005 ∧ (porter1 o).map (fun p => (p.st, p.pdone)) = some (0, 1) := by decide +kernel
theorem test_porter_resume :
    let s (v : Word) : State := lab.setCluster 0 ((lab.cluster 0).setPorter 1 { Porter.reset with
      st := 2, pacc := 1, pfcmd := 1, pfpos := 3, pres := v, queue := [{ portCmd .copy 0x41000 0x41300 9 0x41040 .started with pos := 3 }] })
    (porter1 (exec (.presContinue 0 1) (s 1))).map (fun p => (p.st, p.pfpos, p.pres, p.queue.length)) = some (1, 0, 0, 1)
    ∧ (porter1 (exec (.presAbandon 0 1) (s 2))).map (fun p => (p.pdone, p.queue.length)) = some (1, 0)
    ∧ (porter1 (exec (.presAbandonAll 0 1) (s 3))).map (fun p => (p.pdone, p.queue.length)) = some (1, 0)
    ∧ (porter1 (exec (.presContinue 0 1) (s 2))).map Porter.st = some 2 := by decide +kernel

/-- Pointers and shapes of the example of R131: A and W in D8, Y in BF16. -/
def lay : State := withX [(5, 0x0002000400000002), (9, 0x0004000200000004), (11, 0xC000000000041100), (10, 0xC000000000041140),
  (12, 0x7000000000041200), (13, 0x41240), (14, 0x0002000200000004)] lab
/-- The loom of cluster 0 after a step. -/
def loom0 (o : Out) : Option Loom := (next o).map (fun s => (s.cluster 0).loom)

/-- Each push of the example is the loom's first command: the context is claimed, and LACC is 1 (R112, R115). -/
theorem test_loom_push :
    ∀ p ∈ ([(.twarp 0 11 5, .twarp 0), (.tlda 10 9, .tlda), (.tzero 0, .tzero 0), (.tmul 0 0, .tmul 0 0), (.tewRelu 0, .relu 0),
        (.tst 0 12 14, .tst 0), (.tsync 13, .tsync), (.tmult 0 0, .tmult 0 0), (.tewGelu 1, .gelu 1), (.tewSilu 1, .silu 1),
        (.tewScale 1 5, .scale 1), (.tewClamp 1 5 9, .clamp 1)] : List (Instr × LoomOp)),
      (loom0 (exec p.1 lay)).map (fun l => (l.st, l.lacc, l.queue.map LoomCmd.op)) = some (1, 1, [p.2]) := by decide +kernel
/-- The vector operands; a daybook instruction needs a daybook (R134); a format that the loom does not take (R128). -/
theorem test_loom_push_vectors :
    let s := setArch (fun a => { a with dbk := 0x0000200000000041 }) (withX [(11, 0x6000000000041100)] lay)
    (∀ p ∈ ([(.touter 2 11 11, .touter 2), (.tewBias 2 11, .bias 2), (.tred 2 11, .tred 2), (.trecOn, .trecOn),
        (.trecOff, .trecOff), (.unwind 13, .unwind), (.tdrop, .tdrop)] : List (Instr × LoomOp)),
      (loom0 (exec p.1 s)).map (fun l => l.queue.map LoomCmd.op) = some [p.2])
    ∧ cFault (exec .trecOn lay) = some (12, 8, 0) ∧ cFault (exec (.twarp 0 11 5) s) = some (10, 1, 0) := by decide +kernel

/-- The loom of cluster 0 with one command, its second of a started loom. -/
def weaving (st : Nat) (c : LoomCmd) (f : Loom → Loom) (s : State) : State :=
  s.setCluster 0 { s.cluster 0 with loom := f { Loom.reset with
    st := st, owner := some s.thr.crewKey, lacc := 2, ldone := 1, queue := [{ c with seq := 2 }] } }
/-- A command of the thread, in a phase. -/
def loomed (op : LoomOp) (a b : Word) (p : CmdPhase) : LoomCmd := { lay.thr.loomCmd op a b with phase := p }

/-- Arrival and start; a product of empty operands is the tile-operand fault with detail 3 (R129, R131). -/
theorem test_loom_order :
    (loom0 (exec (.loomCommandArrival 0) (weaving 1 (loomed (.tzero 0) 0 0 .sent) id lay))).map (fun l => l.queue.map LoomCmd.phase) =
      some [.arrived]
    ∧ (loom0 (exec (.loomCommandStart 0) (weaving 1 (loomed (.tzero 0) 0 0 .arrived) id lay))).map (fun l => l.queue.map LoomCmd.phase) =
      some [.started]
    ∧ (loom0 (exec (.loomCommandStart 0) (weaving 1 (loomed (.tmul 0 0) 0 0 .arrived) id lay))).map (fun l => (l.st, l.lfcmd)) =
      some (2, 2)
    ∧ cFault (exec (.loomCommandStart 0) (weaving 1 (loomed (.tmul 0 0) 0 0 .arrived) id lay)) = some (11, 3, 0) := by decide +kernel
/-- A load reads its line, then fills its slot; `tsync` writes its number; `tst` stores a row of two BF16 codes: 2.0 and
-2.75. -/
theorem test_loom_completes :
    let w := weaving 1 (loomed (.twarp 0) 0xC000000000041100 0x0002000400000002 .started) id (poke 0x41100 8 0x18206010A0601020 lay)
    (loom0 (exec (.loomCommandComplete 0 2) w)).map (fun l => l.queue.map (fun c => c.buf.length)) = some [8]
    ∧ ((next (exec (.loomCommandComplete 0 2) w)).bind (fun s => loom0 (exec (.loomCommandComplete 0 2) s))).map
      (fun l => (l.ldone, (l.warp 0).val 2 1, (l.warp 0).val 3 0, (l.warp 0).val 4 0)) =
        some (2, decodeVal .d8 0x60, decodeVal .d8 0x20, .zero)
    ∧ mem (exec (.loomCommandComplete 0 2) (weaving 1 (loomed .tsync 0x41240 0 .started) id lay)) 0x41240 8 = some 2
    ∧ mem (exec (.loomCommandComplete 0 2) (weaving 1 (loomed (.tst 0) 0x7000000000041200 0x0002000200000004 .started)
        (fun l => l.setTile 0 ⟨.fp32, [(0, 0x40000000), (1, 0xC0300000)]⟩) lay)) 0x41200 4 = some 0xC0304000 := by decide +kernel
/-- The example of R131 in exact sums: row 0 of A by the columns of W, and row 1; and the example of R75. -/
theorem test_products :
    let a : List Nat := [0x20, 0x10, 0x60, 0xA0]
    let b : List Nat := [0x18, 0x50, 0x08, 0x10]
    let c0 : List Nat := [0x20, 0x60, 0x10, 0x20]
    let c1 : List Nat := [0x10, 0xA0, 0x60, 0x18]
    let dot (x y : List Nat) : Nat := encodeVal .fp32 (groupSums .fp32 32 4 .zero
      (fun q => mulVal (decodeVal .d8 (x.getD q 0)) (decodeVal .d8 (y.getD q 0))))
    dot a c0 = 0x40000000 ∧ dot a c1 = 0xC0300000 ∧ dot b c0 = 0x41520000 ∧ dot b c1 = 0x415C0000
    ∧ encodeVal .fp32 (groupSums .fp32 16 16 .zero (fun q => if q = 0 then .fin false 1 24 else .fin false 1 0)) = 0x4B800008 := by
  decide +kernel
theorem test_tew_functions :
    let x : Val := .fin true 11 (-2)
    let on (op : LoomOp) : Nat := roundCode .fp32 .rne 0 false (tewFun op .fp32 0x40000000 0x40800000 (fun _ => .fin false 1 0) 0 x)
    on (.relu 0) = 0 ∧ on (.bias 0) = 0xBFE00000 ∧ on (.scale 0) = 0xC0B00000 ∧ on (.clamp 0) = 0x40000000 := by decide +kernel
/-- The four actions of the resume word (R130), the release in two writes (R113), and the governor's count (R132). -/
theorem test_loom_resume :
    let s (v : Word) (op : LoomOp) : State :=
      weaving 2 (loomed op 0x41240 0 .arrived) (fun l => { l with lfcmd := 2, lres := v }) lay
    (loom0 (exec (.lresRetry 0) (s 1 .tlda))).map (fun l => (l.st, l.lres, l.lfcmd, l.queue.length)) = some (1, 0, 0, 1)
    ∧ (loom0 (exec (.lresSkip 0) (s 2 .tlda))).map (fun l => (l.st, l.ldone, l.queue.length)) = some (1, 2, 0)
    ∧ mem (exec (.lresFlush 0) (s 3 .tsync)) 0x41240 8 = some 0x8000000000000002
    ∧ (loom0 (exec (.lresRetryNoNan 0) (s 4 .tlda))).map (fun l => l.queue.map LoomCmd.nanOff) = some [true]
    ∧ (loom0 (exec (.lresSkip 0) (s 1 .tlda))).map Loom.st = some 2 := by decide +kernel
theorem test_loom_release :
    let s := lay.setCluster 0 { Cluster.reset with loom := { Loom.reset with st := 1, owner := some (0, 7, 0) } }
    (loom0 (exec (.loomRelease 0) s)).map Loom.st = some 3
    ∧ ((next (exec (.loomRelease 0) s)).bind (fun s => loom0 (exec (.loomReleaseComplete 0) s))).map (fun l => (l.st, l.owner)) =
      some (0, none)
    ∧ (loom0 (exec (.governorWindow [(0, 7), (1, 2), (0, 3)]) lay)).map Loom.lgov = some 10 := by decide +kernel

/-! ### Witnesses -/

theorem witness_EnginePushes_porter :
    let s := poke 0x41040 8 0x6000000000041000 (poke 0x41048 8 0x41300 (poke 0x41050 8 64 lab))
    let w (i : Nat) : Word := (s.combined [0x41040]).chunkN (0x41040 + 8 * i) 8
    s.readAt 0x41040 32 = .ok 0x41040 ∧ copytBlocks s.thr.arch.swin (w 0) 0x6000000000041300 (reqCount (w 2)) = none
    ∧ (∀ k ∈ ([.copy, .gath, .scat, .scadd, .fill] : List PortKind), reqDetail k (w 0) (w 1) (w 2) (w 3) = 0)
    ∧ reqDetail .copyt (w 0) (0x6000000000041300) (w 2) (w 3) = 0
    ∧ s.canEnd { Eff.regs (fun r => s.thr.drawn 0 r) with reads := [lineOf 0x41040], pages := [0x41] } = true
    ∧ (s.ended { Eff.regs (fun r => s.thr.drawn 0 r) with reads := [lineOf 0x41040], pages := [0x41] }).thr.id = s.thr.id := by
  decide +kernel
theorem witness_EnginePushes_loom :
    let s := setArch (fun a => { a with dbk := 0x0000200000000041 }) (withX [(15, 0x6000000000041100)] lay)
    let x (r : BitVec 5) : Word := s.thr.arch.getX r
    (∀ p ∈ ([(.twarp 0, x 11, x 5), (.tzero 0, 0, 0), (.tlda, x 10, x 9), (.tmul 0 0, 0, 0), (.tmult 7 3, 0, 0), (.touter 0, x 15, x 15),
        (.bias 0, x 15, 0), (.tred 0, x 15, 0), (.tst 0, x 12, x 14), (.tsync, x 13, 0), (.trecOn, 0, 0), (.trecOff, 0, 0),
        (.unwind, x 13, 0), (.tdrop, 0, 0)] : List (LoomOp × Word × Word)), s.pushChecks p.1 p.2.1 p.2.2 = .ok ())
    ∧ s.loomGate = .ok () ∧ s.canEnd (Eff.regs (fun r => s.thr.drawn 4 r)) = true
    ∧ lay.thr.inRegion = false ∧ lay.thr.aslot.faults = false
    ∧ (let k := (lay.setCluster 0 { Cluster.reset with loom := { Loom.reset with st := 1, owner := some (0, 7, 0) } })
      (k.cluster 0).loom.mapped = false ∧ (k.cluster 0).loom.st = 1 ∧ (k.cluster 0).loom.owner ≠ some k.thr.crewKey)
    ∧ (let k := weaving 1 (loomed (.tzero 0) 0 0 .sent) (fun l => { l with queue := List.replicate 64 (loomed (.tzero 0) 0 0 .sent) }) lay
      (k.cluster 0).loom.mapped = false ∧ (k.cluster 0).loom.st = 1 ∧ (k.cluster 0).loom.owner = some k.thr.crewKey
        ∧ 64 ≤ ((k.cluster 0).loom.queue.filter (fun c => c.phase != .done)).length) := by decide +kernel
/-- A product with its operands loaded, in the order 1 and in the wide order of `tmult`; and commands that read nothing. -/
theorem witness_TileResults :
    let f (l : Loom) : Loom := { l.setWarp 0 { Operand.empty with fmt := some (12, 0) } with weft := { Operand.empty with fmt := some (11, 5) } }
    let s := weaving 1 (loomed (.tmul 0 0) 0 0 .started) f lay
    let l := (s.cluster 0).loom
    l.queue.length = 1 ∧ (l.queue.map LoomCmd.phase) = [.started] ∧ l.mapped = false ∧ (l.queue.map LoomCmd.nanf) = [false]
    ∧ (l.queue.map (fun c => wNpg c.dbk)) = [0] ∧ (l.warp 0).fmt = some (12, 0) ∧ l.weft.fmt = some (11, 5)
    ∧ (warpShape 12).1 ≤ (warpShape 12).2 ∧ (∀ op ∈ ([.tmul 0 0, .tmult 0 0, .scale 0, .relu 0, .clamp 0, .tzero 0] : List LoomOp),
      (((loomed op 0 0 .started).readArgs (isWide 0)).flatMap (fun g => g.needed lay.thr.arch.swin)) = []) := by decide +kernel
/-- A vector whose bytes have all been read. -/
theorem witness_TileResults_vectors :
    let c : LoomCmd := { loomed (.touter 0) 0x6000000000041000 0x6000000000041000 .started with
      buf := (List.range 2048).map (fun i => (0x41000 + i, 0)) }
    ((c.readArgs (isWide 0)).map (fun g => (g.rows, g.cols))) = [(1, 64), (1, 512)]
    ∧ ((({ c with op := .bias 0 } : LoomCmd).readArgs (isWide 0)).map (fun g => (g.rows, g.cols))) = [(1, 512)]
    ∧ ((c.readArgs (isWide 0)).map (fun g => g.elemBytes c.swin 0 (g.cols - 1))) =
      [[0x410FC, 0x410FD, 0x410FE, 0x410FF], [0x417FC, 0x417FD, 0x417FE, 0x417FF]]
    ∧ ([0x41000, 0x410FF, 0x417FF].all (fun a => (tfind c.buf a).isSome)) = true := by decide +kernel
theorem witness_LoomEvents :
    let a := weaving 1 (loomed (.tzero 0) 0 0 .sent) id lay
    let b := weaving 1 (loomed (.tzero 0) 0 0 .arrived) id lay
    let k := lay.setCluster 0 { Cluster.reset with loom := { Loom.reset with st := 1, owner := some (0, 7, 0) } }
    let z (v : Word) : Loom := ((weaving 2 (loomed .tlda 0 0 .arrived) (fun l => { l with lfcmd := 2, lres := v }) lay).cluster 0).loom
    ((a.cluster 0).loom.queue.find? (fun d => d.phase == .sent)).map LoomCmd.seq = some 2
    ∧ (b.cluster 0).loom.canStart = true ∧ ((b.cluster 0).loom.nextCmd).map (fun c => ((b.cluster 0).loom.tileFault c, c.op.isLoad)) =
      some (none, false)
    ∧ (k.cluster 0).loom.st = 1 ∧ (k.cluster 0).loom.queue = [] ∧ k.crewLives (0, 7, 0) = false
    ∧ ([1, 2, 3, 4] : List Word).all (fun v => (z v).st == 2 && !(z v).mapped && (z v).lres == v
      && (z v).queue.map LoomCmd.seq == [(z v).lfcmd] && (z v).queue.map LoomCmd.phase == [.arrived]
      && (z v).queue.map LoomCmd.op == [.tlda]) = true := by decide +kernel
theorem witness_PorterEvents :
    let f := portCmd .fill 0x22334455 0x41300 3 0 .started
    let s := porting 1 f lab
    let done := { f with pos := 3 }
    let c := portCmd .copy 0x41000 0x41300 3 0 .started
    let out : List PortOut := (List.range 3).map (fun i => ⟨0x41300 + i, 8, false, i, true, false⟩)
    f.w3.extractLsb' 0 3 = 0 ∧ f.pos < (f.w2.extractLsb' 0 32).toNat ∧ (done.w2.extractLsb' 0 32).toNat ≤ done.pos
    ∧ f.pend = [] ∧ pieces (c.w0.toNat % 2 ^ 57 + c.pos) 3 = [(0x41000, 3)]
    ∧ ([(0x41000, 3)].find? (fun x => (tfind c.lines (x.1 / 64)).isNone)) = some (0x41000, 3)
    ∧ s.engAt c.id c.core .read true (0x41000, 1) = .ok 0x41000
    ∧ (tfind ([(0x1040, [0x81, 0x22, 0x33])] : Tab (List Byte)) (0x41000 / 64)).isSome = true
    ∧ ((out.takeWhile (fun x => x.va / 64 == 0x41300 / 64)).map PortOut.va).Pairwise (· < ·)
    ∧ (out.all (fun x => x.bits == 8 && x.counts && !x.oob)) = true
    ∧ s.engAt c.id c.core .write true (0x41300, 1) = .ok 0x41300
    ∧ ((s.cluster 0).porter 1).queue = f :: [] ∧ ((s.cluster 0).porter 1).mapped = false ∧ ((s.cluster 0).porter 1).st = 1 := by decide +kernel

/-! ## Threads (R249 to R284) -/

/-- A second thread, of rank `r`, in slot 1 of core 0. -/
def mate (r : BitVec 24) (f : Thread → Thread) : Thread := f (Thread.fresh ⟨0, r⟩ { Arch.zero with pc := 0x40000 } 0 1)
/-- The lab with a pool of four pages, the root's full rights over every rank, and rank 7 beside it. -/
def team (f : Thread → Thread) : State :=
  { setTen (fun t => { t with ipool := 4, indent := [(0, [⟨0, 0xFFFFFF, 0, 0x3F⟩])] }) lab with others := [mate 7 f] }
/-- A thread after a step. -/
def who (r : BitVec 24) (o : Out) : Option Thread := (next o).bind (fun s => s.find ⟨0, r⟩)
/-- The results on their way. -/
def results (o : Out) : Option (List Word) := (next o).map (fun s => s.net.results.map TRes.val)
/-- A grant of 0x2B rights, `spawn` and the other operands. -/
def crew : State := withX [(12, 0x0101), (13, 0x1010), (14, 0x0201), (15, 7), (16, 9), (17, 0x40100), (18, 0x1), (19, 0x8000000000000000),
  (20, 0x101), (21, 3000000000003)] (team id)

/-- A watch of any write to the line of 0x4_1008. -/
def watched : Watch := ⟨.any, 0x41008, 0x41008, 0, false, false⟩
/-- The watch instructions (R251 to R254): an `unwatch` does nothing to a slot that is not armed, and a `wait` waits for an
arming under way (R353). -/
theorem test_watches :
    (next (exec (.watch .geu 3 2 8) lab)).map (fun s => (s.thr.arms, s.thr.run)) =
      some ([(3, ⟨.geu, 0x41000, 0x41000, 1, false, false⟩)], .ready)
    ∧ (next (exec (.unwatch 1) (setThr (fun t => { t with latch := 3, watches := qput t.watches 1 (some watched) }) lab))).map
      (fun s => (s.thr.latch, s.thr.watches)) = some (1, lab.thr.watches)
    ∧ (next (exec (.unwatch 1) (setThr (fun t => { t with latch := 3 }) lab))).map (fun s => s.thr.latch) = some 3
    ∧ (next (exec (.wait 1 0) (setThr (fun t => { t with latch := 4, arms := [(3, watched)] }) lab))).map (fun s => s.thr.run) =
      some (.parked (.wait 1 none))
    ∧ (next (exec (.wait 1 8) lab)).map (fun s => s.thr.run) = some (.parked (.wait 1 (some 1)))
    ∧ cX (exec (.wait 1 8) (setThr (fun t => { t with latch := 4 }) lab)) 1 = some 0x401
    ∧ (next (exec .yield lab)).map (fun s => s.thr.yielded) = some true := by decide +kernel
/-- R255, R256: LIVE keeps x2 alone; the root is retained by `halt`, another rank is freed. -/
theorem test_thread_ends :
    cX (exec (.live 12) (withX [(12, 0x5)] lab)) 2 = some 0x41000 ∧ cX (exec (.live 12) (withX [(12, 0x5)] lab)) 3 = some 0
    ∧ (next (exec .halt lab)).map (fun s => s.thr.run) = some .retained
    ∧ (next (exec .halt (setThr (fun t => { t with id := ⟨0, 3⟩ }) lab))).map (fun s => s.thr.run) = some .halted
    ∧ (next (exec .haltRetain (setThr (fun t => { t with id := ⟨0, 3⟩ }) lab))).map (fun s => s.thr.run) = some .retained := by
  decide +kernel
/-- R84: a breakpoint record of detail 9, PC at the `brk`. -/
theorem test_brk :
    cFault (exec (.brk 9) lab) = some (0x11, 9, 0)
    ∧ (next (exec (.brk 9) lab)).map (fun s => (s.thr.stopped, s.thr.arch.pc)) = some (some .brk, 0x40000) := by decide +kernel
/-- R257: the lowest free rank, 1, with x10 and PC; no room in the table; an unaligned entry. -/
theorem test_spawn :
    cX (exec (.spawn 9 17 16) crew) 9 = some 1
    ∧ (who 1 (exec (.spawn 9 17 16) crew)).map (fun t => (t.arch.pc, t.arch.getX 10, t.arch.flta, t.run)) =
      some (0x40100, 9, 0x40200, .ready)
    ∧ cX (exec (.spawn 9 17 16) lab) 9 = some 0x8000000000000001
    ∧ cFault (exec (.spawn 9 12 16) crew) = some (2, 0, 0x101) := by decide +kernel
/-- R264: WANT 1 of LEAST 1; 16 of 16; LEAST above WANT is refused with 3, a second claim with 2. -/
theorem test_vector_contexts :
    (next (exec (.vclaim 9 12) crew)).map (fun s => (s.thr.gmask, s.thr.arch.getX 9)) = some (1, 1)
    ∧ (next (exec (.vclaim 9 13) crew)).map (fun s => (s.thr.gmask, s.thr.arch.getX 9)) = some (0xFFFF, 16)
    ∧ cX (exec (.vclaim 9 14) crew) 9 = some 0x8000000000000300
    ∧ cX (exec (.vclaim 9 12) (oneGroup crew)) 9 = some 0x8000000000000201
    ∧ (next (exec (.vreneg 9 13) (oneGroup crew))).map (fun s => s.thr.gmask) = some 0xFFFF
    ∧ (next (exec .vrel (oneGroup crew))).map (fun s => s.thr.gmask) = some 0 := by decide +kernel
/-- R265: a wake for rank 7, none for rank 9, and the caller waits when bit 8 asks for it. -/
theorem test_xchg :
    (next (exec (.xchg 9 15 18) crew)).map (fun s => (s.net.wakes, s.thr.arch.getX 9)) = some ([⟨⟨0, 7⟩, 1⟩], 0)
    ∧ cX (exec (.xchg 9 16 18) crew) 9 = some 0x8000000000000001
    ∧ (next (exec (.xchg 9 15 20) crew)).map (fun s => s.thr.run) = some (.parked (.xchg 9)) := by decide +kernel
/-- R266: a record goes to the device ring and DTAIL rises; a ring of 64 outstanding records takes no more. -/
theorem test_launch :
    let s := setTen (fun t => t) ((poke 0x41800 8 0x2000 (withX [(12, 0x41800)] crew)).setQueue 0
      { HostQueue.reset with valid := true, note := 0x4E000, devRing := 0x4C000 })
    cX (exec (.launch 9 12) s) 9 = some 1 ∧ mem (exec (.launch 9 12) s) 0x4C000 8 = some 0x2000
    ∧ mem (exec (.launch 9 12) s) 0x4E004 4 = some 1
    ∧ cX (exec (.launch 9 12) (poke 0x4E004 4 64 s)) 9 = some 0 := by decide +kernel
/-- R258: without a predecessor `pwait` goes on, with one it parks; `smay` is told to the foreman. -/
theorem test_launch_order :
    let l : Launch := ⟨1, 0, 0, 0x40000, false, 0, 0, 1, 1, 0, 2, 0, 0, false, 0, 0, 1, [], false, false, false⟩
    let s := setTen (fun t => { t with launches := [l, { l with lid := 2, pred := 0 }] }) (setThr (fun t => { t with lid := 1 }) lab)
    (next (exec .pwait lab)).map (fun s => s.thr.run) = some .ready
    ∧ (next (exec .pwait s)).map (fun s => s.thr.run) = some (.parked .pwait)
    ∧ (next (exec .smay s)).map (fun s => s.net.smays) = some [(0, 1)] := by decide +kernel
/-- R259 to R261: a barrier of 3 with a time-out; a core domain; a `dbar` without a domain answers 4. -/
theorem test_barriers :
    cPost (exec (.bar 9 2 12) (withX [(12, 0x00000FA000000003)] lab)) = some (some (.bar 9 0x41000 0x41000 3 4000 0x40000))
    ∧ cX (exec (.dmem 9 12) (withX [(12, 0x2000000000200000)] lab)) 9 = some 0
    ∧ (next (exec (.dmem 9 12) (withX [(12, 0x2000000000200000)] lab))).map (fun s => ((s.tenant 0).domains.map Domain.kind)) =
      some [.core 0 0]
    ∧ cX (exec (.dmem 9 12) (withX [(12, 0x2000000000000000)] lab)) 9 = some 1
    ∧ cX (exec (.dbar 9 12) (withX [(12, 0)] lab)) 9 = some 4 ∧ cX (exec (.dbar 9 12) (withX [(12, 4)] lab)) 9 = some 5
    ∧ cPost (exec (.dbar 9 12) (withX [(12, 0x700000000)] (setTen (fun t => { t with
        domains := [⟨.core 0 0, [⟨0, 0, false, false⟩], 2, [(0, 2)], 0, [0], [], false, 0⟩] }) lab))) = some (some (.dbar 9 0 7)) := by decide +kernel
/-- R276 to R281: the request leaves, and a rank that does not exist, a bad operand and a missing right are refused. -/
theorem test_thread_state_requests :
    (next (exec (.tstop 9 15) crew)).map (fun s => s.net.reqs) = some [⟨⟨0, 0⟩, 9, 7, .stop⟩]
    ∧ (next (exec (.tstart 9 15) crew)).map (fun s => s.net.reqs) = some [⟨⟨0, 0⟩, 9, 7, .start⟩]
    ∧ (next (exec (.trds 9 15 12) crew)).map (fun s => s.net.reqs) = some [⟨⟨0, 0⟩, 9, 7, .read 12⟩]
    ∧ (next (exec (.twrs 9 15 16 33) crew)).map (fun s => s.net.reqs) = some [⟨⟨0, 0⟩, 9, 7, .write 33 9⟩]
    ∧ results (exec (.tstop 9 16) crew) = some [0x8000000000000001] ∧ results (exec (.tstop 9 19) crew) = some [0x8000000000000006]
    ∧ results (exec (.tstop 9 15) (setTen (fun t => { t with indent := [] }) crew)) = some [0x8000000000000002] := by decide +kernel

/-- The example of R284: rank 5 with the tables of ranks 5 and 7. -/
def granter (rights : Word) : State :=
  poke 0x41040 8 7 (poke 0x41048 8 0x9B000078 (poke 0x41050 8 rights
    { setTen (fun t => { t with ipool := 4, indent := [(5, [⟨100, 199, 0, 0x27⟩, ⟨150, 160, 0, 0x08⟩]),
      (7, [⟨1, 2, 0, 1⟩, ⟨3, 4, 0, 1⟩])] }) (setThr (fun t => { t with id := ⟨0, 5⟩ }) (withX [(15, 155), (16, 120)] lab)) with
      others := [mate 7 id] }))
theorem test_grant_example :
    results (exec (.iquery 9 15) (granter 0)) = some [0x2F] ∧ results (exec (.iquery 9 16) (granter 0)) = some [0x27]
    ∧ results (exec (.igrant 9 6) (granter 0x0C)) = some [0x8000000000000002]
    ∧ (next (exec (.igrant 9 6) (granter 0x05))).map (fun s => s.net.reqs) = some [⟨⟨0, 5⟩, 9, 7, .grant ⟨120, 155, 5, 5⟩⟩] := by decide +kernel
/-- The append of that grant: its doublewords, its index, and rank 7's IDT, of which R46 and R271 give BASEPG (log 20). -/
theorem test_grant_append :
    let s := granter 0x05
    let o := exec (.threadStateAction 0) { s with net := { s.net with reqs := [⟨⟨0, 5⟩, 9, 7, .grant ⟨120, 155, 5, 5⟩⟩] } }
    results o = some [2] ∧ mem o (winPa 0 0x01FF000000070020) 8 = some 0x9B000078 ∧ mem o (winPa 0 0x01FF000000070028) 8 = some 0x0000000005000005
    ∧ (next o).map (fun s => (s.tenant 0).idt 7) = some 0x00007FF000000070 := by decide +kernel
theorem test_revoke :
    (next (exec (.irevoke 9 12) (withX [(12, 0x0000000100000007)] crew))).map (fun s => s.net.reqs) = some [⟨⟨0, 0⟩, 9, 7, .revoke 1⟩]
    ∧ results (exec (.irevoke 9 12) (withX [(12, 0x0000000101000007)] crew)) = some [0x8000000000000005] := by decide +kernel

/-! ### Witnesses -/

theorem witness_WaitInstructions :
    let s := setThr (fun t => { t with lid := 1 }) lab
    let l : Launch := ⟨1, 0, 0, 0x40000, false, 0, 0, 1, 1, 0, 0, 0, 0, false, 0, 0, 1, [], false, false, false⟩
    0x41000 % 8 = 0 ∧ lab.xlate .read 0x41000 = .ok 0x41000 ∧ isIo 0x41000 = false ∧ isFab 0x41000 = false
    ∧ lab.canEnd { Eff.none with pages := [0x41] } = true ∧ lab.canEnd Eff.none = true
    ∧ (lab.ended Eff.none).thr.latch = 0 ∧ ((setThr (fun t => { t with latch := 8 }) lab).ended Eff.none).thr.latch ≠ 0
    ∧ (lab.ended Eff.none).launchOf (lab.ended Eff.none).thr = none
    ∧ ((setTen (fun t => { t with launches := [l] }) s).ended Eff.none).launchOf (s.ended Eff.none).thr = some l
    ∧ ((setTen (fun t => { t with launches := [{ l with smay := true }] }) s).ended Eff.none).launchOf (s.ended Eff.none).thr =
      some { l with smay := true } := by decide +kernel
theorem witness_ThreadEnds :
    let t := setThr (fun t => { t with id := ⟨0, 3⟩ }) lab
    lab.thr.aslot = .none ∧ lab.canEnd (Eff.regs (fun r => { r with live := 4 })) = true
    ∧ lab.find lab.thr.id = some lab.thr ∧ t.find t.thr.id = some t.thr ∧ t.thr.id.rank ≠ 0 ∧ lab.thr.id.rank = 0 ∧ lab.thr.live = true
    ∧ lab.canEnd { Eff.none with npc := some lab.thr.arch.pc } = true
    ∧ ({ t.thr with stopped := some .brk } : Thread).run = .ready := by decide +kernel
/-- Each row of R264: a bad operand, a context held or not, too few groups free, and enough. -/
theorem witness_VectorContexts :
    let full (s : State) : State := { s with others := [mate 7 (fun t => { t with gmask := 0xFFFE })] }
    lab.canEnd Eff.none = true ∧ requestOk 0x201 = false ∧ requestOk 0x1010 = true ∧ requestOk 0x101 = true ∧ requestOk 0x1F = false
    ∧ (lab.ended Eff.none).thr.gmask = 0 ∧ ((oneGroup lab).ended Eff.none).thr.gmask ≠ 0
    ∧ ((full lab).ended Eff.none).groupsFree 0 = [0] ∧ ((full (oneGroup lab)).ended Eff.none).groupsFree 0 = []
    ∧ (lab.ended Eff.none).groupsFree 0 = List.range 16 ∧ ((oneGroup lab).ended Eff.none).thr.live = true
    ∧ ((lab.ended Eff.none).tenant 0).out = false := by decide +kernel
/-- The rows of R257: no room in the table, a free rank with and without a slot, no free rank. -/
theorem witness_ThreadStarts_spawn :
    let c := crew.ended Eff.none
    (0x40100 : Nat) % 8 = 0 ∧ crew.canEnd Eff.none = true ∧ ((lab.ended Eff.none).tenant 0).hasRoom 0 = false
    ∧ (c.tenant 0).hasRoom 0 = true ∧ c.freeRun 0 1 = some 1 ∧ c.crewSize c.thr < 2048
    ∧ c.slotFor 0 none = some (0, 2) ∧ c.resident.any (c.wantsSlot 0) = false
    ∧ (({ crew with others := [mate 7 (fun t => { t with place := .loft, woken := some 3 })] } : State).ended Eff.none).resident.any
      (c.wantsSlot 0) = true
    ∧ ((setTen (fun t => { t with rmax := 1 }) crew).ended Eff.none).freeRun 0 1 = none := by decide +kernel
theorem witness_ThreadStarts_no_slot :
    let s := { crew with cores := (clusterCores 0).map (fun (c : BitVec 10) => (c.toNat, { Core.reset with mappedOut := true })) }
    (s.ended Eff.none).slotFor 0 none = none ∧ s.canEnd Eff.none = true ∧ (s.ended Eff.none).freeRun 0 1 = some 1
    ∧ ((s.ended Eff.none).makeRoom 0 1).2 = true := by decide +kernel
/-- A crew of 2,048 threads. -/
theorem witness_ThreadStarts_crew :
    let s : State := { crew with others := List.replicate 2047 (mate 7 id) }
    s.canEnd Eff.none = true ∧ (s.ended Eff.none).freeRun 0 1 = some 1 ∧ 2048 ≤ (s.ended Eff.none).crewSize (s.ended Eff.none).thr
    ∧ ((s.ended Eff.none).tenant 0).hasRoom 0 = true := by decide +kernel
theorem witness_ThreadStarts_wakes :
    let c := crew.ended Eff.none
    let far := ({ crew with others := [mate 7 (fun t => { t with place := .moving 3 })] } : State).ended Eff.none
    let lit := (setThr (fun t => { t with latch := 8 }) crew).ended Eff.none
    let s := (withX [(12, 0x41800)] crew).setQueue 0 { HostQueue.reset with valid := true, note := 0x4E000, devRing := 0x4C000 }
    let e : Eff := { Eff.none with pages := [0x41] }
    c.find ⟨0, 9⟩ = none ∧ (c.find ⟨0, 7⟩).isSome = true ∧ ((c.tenant 0).rights 0 7).getLsbD 4 = true
    ∧ (((setTen (fun t => { t with indent := [] }) crew).ended Eff.none).tenant 0).rights 0 7 = 0
    ∧ (1#64).getLsbD 8 = false ∧ (0x101#64).getLsbD 8 = true ∧ (c.sendPoke (mate 7 id) 1).thr.latch = 0
    ∧ c.find ⟨0, 7⟩ = some (mate 7 id) ∧ (mate 7 id).place = .slot 0 1 ∧ (lit.sendPoke (mate 7 id) 1).thr.latch ≠ 0
    ∧ (lit.tenant 0).rights 0 7 = 0x3F ∧ (far.find ⟨0, 7⟩).map Thread.place = some (.moving 3)
    ∧ 0x41800 % 128 = 0 ∧ s.readAt 0x41800 64 = .ok 0x41800 ∧ s.readAt 0x41840 64 = .ok 0x41840 ∧ s.canEnd e = true
    ∧ ((((s.ended e).readN 0x4E000 8).extractLsb' 32 32) - BitVec.ofNat 32 0).toNat < 64
    ∧ 64 ≤ ((((poke 0x4E004 4 64 s).ended e).readN 0x4E000 8).extractLsb' 32 32).toNat := by decide +kernel
/-- Every row of R260, a rectangle on the core's own place and one beside it, and the rows of R261. -/
theorem witness_BarriersAndDomains :
    let c := lab.ended Eff.none
    let own : DKind := .rect 0 0 1 0
    let held := { setTen (fun t => { t with domains := [⟨own, [⟨7, 0, false, false⟩], 0, [(7, 0)], 0, [0], [], false, 0⟩] }) lab with
      others := [mate 7 id] }
    let in0 := setTen (fun t => { t with domains := [⟨.core 0 0, [⟨0, 0, false, false⟩], 2, [(0, 2)], 0, [0], [], false, 0⟩] }) lab
    memberOk 0x2000000000000000 = false ∧ memberOk 0 = true ∧ c.thr.domainKind 0 = none ∧ memberOk 0x8000000000000010 = true
    ∧ c.thr.domainKind 0x8000000000000010 = some own ∧ c.rectOk c.thr own = true ∧ c.rectOk c.thr (.rect 1 0 1 0) = false
    ∧ c.rectTaken c.thr own = false ∧ (held.ended Eff.none).rectTaken (held.ended Eff.none).thr own = true
    ∧ (((in0.ended Eff.none).tenant 0).domainIn 0 0).isSome = true ∧ ((c.tenant 0).domainIn 0 0) = none
    ∧ (4#64).extractLsb' 2 30 ≠ 0 ∧ (3#64).extractLsb' 2 30 = 0
    ∧ lab.canEnd { Eff.none with pages := [0x41] } = true ∧ lab.xlate .write 0x41000 = .ok 0x41000
    ∧ lab.xlate .read 0x41000 = .ok 0x41000 ∧ isIo 0x41000 = false ∧ isFab 0x41000 = false := by decide +kernel
theorem witness_ThreadStateRequests :
    let c := crew.ended Eff.none
    let g := granter 0x05
    let gc := g.ended { Eff.none with reads := [lineOf 0x41040], pages := [0x41] }
    crew.canEnd Eff.none = true ∧ (0x1000000#64).toNat / 2 ^ 24 ≠ 0 ∧ (0xFFFFFF#64).toNat / 2 ^ 24 = 0
    ∧ c.find ⟨0, 9⟩ = none ∧ (c.find ⟨0, 7⟩).isSome = true
    ∧ 0x41040 % 32 = 0 ∧ g.readAt 0x41040 32 = .ok 0x41040
    ∧ (0x24#6 ||| 0x20#6) = 0x24#6 ∧ g.canEnd { Eff.none with reads := [lineOf 0x41040], pages := [0x41] } = true
    ∧ (gc.find ⟨0, 7⟩).isSome = true ∧ gc.find ⟨0, 8⟩ = none
    ∧ ((gc.tenant 0).rights 5 120 &&& 0x2C ≠ 0x2C) ∧ (List.range 36).all (fun i =>
      (gc.tenant 0).rights 5 (BitVec.ofNat 24 (120 + i)) &&& 0x25 == 0x25) = true := by decide +kernel

/-! ## The module as a whole -/

/-- `movi x7, 8 | addi x9, x0, 0` (R35): one step, both registers, PC 8 on. -/
theorem test_step_runs : ((next (step (State.reset.placeBundle (0xF8700008, 0x11200000)))).map
    (fun t => (t.thr.arch.getX 7, t.thr.arch.getX 9, t.thr.arch.pc, t.thr.chunk.count))) = some (8, 0, 0x40008, 1) := by decide +kernel
/-- Reserved opcode 0x3F is the illegal-instruction fault with code 1 (R41): nothing takes the record of a thread without a
fault line, and the tenant stops (R299). -/
theorem test_step_illegal : ((next (step (State.reset.placeBundle (0x7E000000, 0)))).map
    (fun t => (t.thr.stopped, t.thr.arch.pc))) = some (some .fault, 0x40000) := by decide +kernel
/-- The record of R300 on the example of R303: KIND 0x03, tenant 2, rank 0x41, generation 1. -/
theorem test_record_words :
    (⟨0x03, 0, 2, 0x41, 0x10040, 0x70002000, 0, 0, 0, 0, 1⟩ : Record).words 1 0 =
      [0x0302000041100001, 0x10040, 0x70002000, 0, 0, 0, 0, 1] := by decide +kernel
/-- Bring-up goes stage by stage (R336), and a module that failed only takes a reset. -/
theorem test_bring_up :
    (next (step State.reset)).map (fun s => s.hub.stage) = some 1
    ∧ (match step { State.reset with hub := { State.reset.hub with failedAt := some 3 } } with
      | .fault .bringUpFailed => true | _ => false) = true := by decide +kernel

theorem witness_StepRunsBundle :
    let s := State.reset.placeBundle (0, 0)
    let t := State.reset.placeBundle (0xF8700008, 0x11200000)
    let b := State.reset.placeBundle (0x7E000000, 0)
    let s1 (s : State) : State :=
      { s.drawn.focus ⟨0, 0⟩ with thr := { (s.drawn.focus ⟨0, 0⟩).thr with balk := none } }
    let at' (s : State) : Res Nat := (s1 s).fetchAt (s1 s).thr.arch.pc
    let f (s : State) : State := (s1 s).fetched 0x40000
    let w (s : State) : Half × Half := ((f s).combined [0x40000]).bundleWords 0x40000
    s.awake = true ∧ s.agenda = [] ∧ choose s.free (s.drawn.moves s.free) = some (.issue ⟨0, 0⟩) ∧ at' s = .ok 0x40000
    ∧ decodeBundle (w s).1 (w s).2 = .ok (.lone .nop)
    ∧ t.awake = true ∧ t.agenda = [] ∧ choose t.free (t.drawn.moves t.free) = some (.issue ⟨0, 0⟩) ∧ at' t = .ok 0x40000
    ∧ decodeBundle (w t).1 (w t).2 = .ok (.pair (.movi 7 (.short 8)) (.addi 9 0 0))
    ∧ (f t).liveClash (.movi 7 (.short 8)) (.addi 9 0 0) = false
    ∧ (next (exec (.addi 9 0 0) ((f t).withA (.awaiting ((f t).cDraws (.movi 7 (.short 8))))))).isSome = true
    ∧ b.awake = true ∧ b.agenda = [] ∧ choose b.free (b.drawn.moves b.free) = some (.issue ⟨0, 0⟩) ∧ at' b = .ok 0x40000
    ∧ decodeBundle (w b).1 (w b).2 = .error ⟨1, 0⟩ := by decide +kernel
theorem witness_StepRunsEvents :
    let frozen (s : State) : State := { s with hub := { s.hub with frozen := true } }
    let asleep (s : State) : State := { s with hub := { s.hub with d3 := true } }
    let lone := { State.reset.placeBundle (0, 0) with thr := Thread.void }
    let woken := { lone with net := { lone.net with acks := [⟨0, 0, 0, .cluster 0, [], 0, []⟩] } }
    (Instr.reset).encodable = false ∧ (frozen lone).admits .reset = true ∧ (frozen lone).admits .epochEnd = false
    ∧ (asleep lone).admits .d0Return = true ∧ lone.admits .epochEnd = true
    ∧ woken.agenda = [] ∧ woken.awake = true ∧ choose woken.free (woken.drawn.moves woken.free) = some (.event (.drayAcknowledgement 0))
    ∧ lone.awake = true ∧ lone.drawn.moves lone.free = [] ∧ (frozen lone).hub.frozen = true ∧ (asleep lone).hub.d3 = true
    ∧ State.reset.hub.frozen = false ∧ State.reset.hub.d3 = false ∧ State.reset.hub.failedAt = none ∧ State.reset.hub.stage < 6 := by
  decide +kernel
theorem witness_StepKeepsMemory : lab.memOk ∧ State.reset.memOk ∧ (next (step (State.reset.placeBundle (0, 0)))).isSome = true := by decide +kernel
theorem witness_RoundTrip : Instr.wf (.bNe 7 0 (.short 0x7FFE)) = true ∧ (Instr.bNe 7 0 (.short 0x7FFE)).encodable = true
    ∧ Instr.wf (.movi 1 (.lit 0x80000)) = true ∧ Instr.wf (.ext 1 2 0 63) = true ∧ Instr.wf (.srd 1 28) = true := by decide +kernel
/-- The fault line EMPTY, and FULL. -/
theorem witness_TakingAFault :
    let s1 (s : State) : State := { s with thr := { s.thr.squash with stopped := some .fault, since := s.cyc } }
    let full := poke 0x40200 1 1 lab
    let kept : State := { lab with others := [mate 7 (fun t => { t with solo := some ⟨1, 2, [0x1008], [0x1008]⟩ })] }
    lab.thr.chunk.conflict = false ∧ lab.thr.live = true ∧ (s1 lab).target 0 0 0x40200 = some (0x40200, some 0x40200)
    ∧ lab.thr.chunk.start.flta = 0x40200 ∧ (lab.readN 0x40200 8).getLsbD 0 = false ∧ 0x40200 % 64 = 0 ∧ lab.partials = []
    ∧ (full.readN 0x40200 8).getLsbD 0 = true ∧ (s1 full).target 0 0 0x40200 = some (0x40200, some 0x40200)
    ∧ lineOf 0x40200 = 0x1008 ∧ (s1 kept).blocked none 0x1008 = true ∧ (s1 lab).blocked none 0x1008 = false
    ∧ (s1 kept).target 0 0 0x40200 = some (0x40200, some 0x40200) := by decide +kernel
/-- A chunk that has stored to a line another open chunk holds. -/
theorem witness_CommitWrites :
    let t := mate 7 (fun t => { t with chunk := { t.chunk with reads := [lineOf 0x41000] } })
    let s := { lab with others := [t] }
    (match exec (.st .w 7 2 (.short 0)) s with
    | .next s => decide (s.partials = [] ∧ s.thr.chunk.elems = [] ∧ twf s.thr.chunk.buf = true ∧ s.thr.live = true
        ∧ (s.thr.chunk.buf.all (fun c => isWin c.1 == false)) = true ∧ s.others = [t] ∧ t.live = true ∧ t.id ≠ s.thr.id
        ∧ (s.thr.chunk.buf.any (fun c => t.chunk.lines.contains (lineOf c.1))) = true ∧ s.thr.chunk.radds = [])
    | _ => false) = true := by decide +kernel
/-- Round-robin; and under greedy-then-oldest a thread at 4,096 waits, the one that issued last, and one that has not. -/
theorem witness_IssuePolicies :
    let t := lab.thr
    let one (f : Thread → Thread) (rr : Bool) (last : Option ThreadId) : State :=
      (setThr f (setTen (fun k => { k with rr := rr }) lab)).setCore 0 { Core.reset with lastThread := last, issuedAt := some (lab.cyc - 1) }
    ((one id true none).pick 0 0).map Thread.id = some t.id
    ∧ ((one (fun t => { t with waits := 4096 }) false none).pick 0 0).map Thread.waits = some 4096
    ∧ ((one id false (some t.id)).pick 0 0).map Thread.yielded = some false
    ∧ ((one (fun t => { t with yielded := true }) false (some t.id)).pick 0 0).map Thread.yielded = some true
    ∧ ((one id false none).pick 0 0).map Thread.waits = some 0 ∧ t.slotOn t.core = some 0 := by decide +kernel


/-! ## Events of chunks, drays and waits -/

/-- The lab with code at its PC. -/
def coded (a b : Half) (s : State) : State := poke 0x40004 4 (b.setWidth 64) (poke 0x40000 4 (a.setWidth 64) s)
/-- A region at its third attempt. -/
def third (f : XRegion → XRegion) (s : State) : State :=
  setThr (fun t => { t with region := some (f { XRegion.first with attempt := 3, touched := [0x1000, 0x1040] }) }) s
/-- An element of the root: a word set at 0x4_1000. -/
def elemR (op : ElemOp) : Elem := ⟨⟨0, 0⟩, 0, 0x40200, 0x41000, 0x41000, 4, op, 0x55667788, 0⟩
/-- A packet of `n` such elements from and to cluster 0. -/
def packet (n : Nat) : Packet := ⟨0, 0, 0, .cluster 0, List.replicate n (elemR (.op .add)), 0, []⟩
/-- The lab with that packet on its way. -/
def sent (n : Nat) : State := { lab with net := { lab.net with packets := [packet n] } }
/-- The lab with its first thread asking for an event. -/
def asking (p : Post) (s : State) : State := setThr (fun t => { t with post := some p }) s
/-- The lab with its first thread arming a watch. -/
def arming (n : BitVec 2) (w : Watch) (s : State) : State := setThr (fun t => { t with arms := [(n, w)] }) s
/-- The lab with its thread parked. -/
def parked (p : Park) (s : State) : State := setThr (fun t => { t with run := .parked p }) s

/-- The element adds to the word at its home, the packet ends, and the acknowledgement ends it (R168, R170). -/
theorem test_dray_events :
    mem (exec (.drayPacketApply 0) (sent 1)) 0x41000 8 = some 0x8877665599999A09
    ∧ (next (exec (.drayPacketApply 0) (sent 1))).map (fun s => (s.net.packets.length, s.net.acks.length)) = some (0, 1)
    ∧ (next (exec (.drayPacketApply 0) (sent 2))).map (fun s => s.net.packets.map Packet.pos) = some [1]
    ∧ (next (exec (.drayAcknowledgement (.here 0)) { lab with net := { lab.net with acks := [packet 1] } })).map (fun s => s.net.acks) =
      some [] := by decide +kernel
/-- `amo.add.w` returns the old word sign-extended; `cas.d` writes when the old value is as expected (R191, R192). -/
theorem test_amo_events :
    cX (exec (.amoPerform ⟨0, 0⟩) (asking (.amo .add .w 1 0x41000 0x41000 0x10 0x40000) lab)) 1 = some 0x44332281
    ∧ mem (exec (.amoPerform ⟨0, 0⟩) (asking (.amo .add .w 1 0x41000 0x41000 0x10 0x40000) lab)) 0x41000 8 = some 0x8877665544332291
    ∧ mem (exec (.amoPerform ⟨0, 0⟩) (asking (.cas .d 1 0x41000 0x41000 0x8877665544332281 7 0x40000) lab)) 0x41000 8 = some 7
    ∧ mem (exec (.amoPerform ⟨0, 0⟩) (asking (.cas .d 1 0x41000 0x41000 6 7 0x40000) lab)) 0x41000 8 = some 0x8877665544332281
    ∧ cX (exec (.amoPerform ⟨0, 0⟩) (asking (.cas .d 1 0x41000 0x41000 6 7 0x40000) lab)) 1 = some 0x8877665544332281 := by
  decide +kernel
theorem test_amop_event :
    let q (a : Amop) : State := { lab with net := { lab.net with amops := [a] } }
    mem (exec (.amopPerform (.here 0)) (q ⟨⟨0, 0⟩, 0, 0x40200, .max, .w, 0x41008, 0x41008, 0xFFFFFFFF, 0⟩)) 0x41008 8 = some 0x0000000200000001
    ∧ mem (exec (.amopPerform (.here 0)) (q ⟨⟨0, 0⟩, 0, 0x40200, .or, .w, 0x41000, 0x41000, 0xF0, 0⟩)) 0x41000 8 = some 0x88776655443322F1 := by
  decide +kernel
/-- The time-out of a `wait` gives code 2, a latch gives code 1 with its slot in bits 11:8 (R231, R253). -/
theorem test_wait_events :
    cX (exec (.waitTimeout ⟨0, 0⟩) (parked (.wait 1 (some 50)) lab)) 1 = some 2
    ∧ cX (exec (.wakeDelivery 0) { parked (.wait 1 none) (setThr (fun t => { t with latch := 4 }) lab) with
        net := { lab.net with wakes := [⟨⟨0, 0⟩, 1⟩] } }) 1 = some 0x401
    ∧ (next (exec (.fenceRelease ⟨0, 0⟩) (parked (.fence true true true) lab))).map (fun s => (s.thr.run, s.thr.arch.why)) =
      some (.ready, 7)
    ∧ (next (exec (.watchArmEvent ⟨0, 0⟩) (arming 3 ⟨.geu, 0x41008, 0x41008, 0x200000001, false, false⟩ lab))).map
      (fun s => s.thr.latch) = some 8 := by decide +kernel
/-- Barrier example of R259: PHASE 5, COUNT 3 of 4; the last arriver gets 0x4000000000000005 and PHASE becomes 6; a waiter that
is released gets 0x5; a time-out withdraws the arrival, 0x8000000000000005. -/
theorem test_barrier_events :
    let w (c : Word) := poke 0x41000 8 (0x500000000 + c) lab
    cX (exec (.barArrival ⟨0, 0⟩) (asking (.bar 1 0x41000 0x41000 4 0 0x40000) (w 3))) 1 = some 0x4000000000000005
    ∧ mem (exec (.barArrival ⟨0, 0⟩) (asking (.bar 1 0x41000 0x41000 4 0 0x40000) (w 3))) 0x41000 8 = some 0x600000000
    ∧ mem (exec (.barArrival ⟨0, 0⟩) (asking (.bar 1 0x41000 0x41000 4 0 0x40000) (w 2))) 0x41000 8 = some 0x500000003
    ∧ cX (exec (.barTimeout ⟨0, 0⟩) (parked (.bar 1 0x41000 0x41000 5 (some 9) 0x40000) (w 2))) 1 = some 0x8000000000000005
    ∧ mem (exec (.barTimeout ⟨0, 0⟩) (parked (.bar 1 0x41000 0x41000 5 (some 9) 0x40000) (w 2))) 0x41000 8 = some 0x500000001
    ∧ cX (exec (.barTimeout ⟨0, 0⟩) (parked (.bar 1 0x41000 0x41000 4 (some 9) 0x40000) (w 2))) 1 = some 4 := by decide +kernel
/-- A producer takes 5 at TAIL, which becomes 6; its slot is free for it when its stamp is 5 (R206). -/
theorem test_queue_events :
    let q := poke 0x41058 8 5 (poke 0x41208 8 5 (ring .none lab))
    mem (exec (.queueReservation ⟨0, 0⟩) (asking (.reserve 2 true) q)) 0x41058 8 = some 6
    ∧ (next (exec (.queueReservation ⟨0, 0⟩) (asking (.reserve 2 true) q))).map (fun s => (s.thr.run, (s.thr.handle 2).r)) =
      some (.ready, 5)
    ∧ (next (exec (.queueReservation ⟨0, 0⟩) (asking (.reserve 2 true) (poke 0x41208 8 1 q)))).map (fun s => s.thr.run) =
      some (.parked (.queue 2 0x41208 5))
    ∧ mem (exec (.stampWrite ⟨0, 0⟩) (asking (.stamp 2 0x41208 0x41208 6) q)) 0x41208 8 = some 6 := by decide +kernel
/-- A lease ends its region with code 5, and the fall through finds the `xend` (R162, R163). -/
theorem test_region_events :
    (next (exec .leaseExpiry (third (fun r => { r with leases := [0x1000], leaseFrom := some 7 }) lab))).map
      (fun s => (s.thr.region.map XRegion.failed, s.cyc)) = some (some (some (5, 0)), 20007)
    ∧ (next (exec .leaseAcquire (third (fun r => { r with leases := [0x1000] }) lab))).map
      (fun s => s.thr.region.map XRegion.leases) = some (some [0x1000, 0x1040]) := by decide +kernel

/-! ### Witnesses -/

theorem witness_ChunkEvents :
    let e := setThr (fun t => { t with chunk := { t.chunk with ended := true } }) lab
    let h := setThr (fun t => { t with solo := some ⟨1, 2, [0x1000, 0x1040], [0x1000]⟩ }) lab
    let a := third (fun r => { r with leases := [0x1000] }) lab
    let f := third (fun r => { r with failed := some (5, 0) }) lab
    let k := setThr (fun t => { t with chunk := { t.chunk with ended := true, conflict := true } }) lab
    k.running = true ∧ k.mayCommit = false ∧ k.thr.chunk.conflict = true ∧
    lab.running = true ∧ e.running = true ∧ e.mayCommit = true ∧ ({ e with others := [mate 7 id] } : State).others.any Thread.live = true
    ∧ ([0x1000, 0x1040].find? (fun k => !([0x1000] : List Nat).contains k)) = some 0x1040
    ∧ h.blocked (some h.thr.id) 0x1040 = false ∧ h.running = true ∧ a.running = true ∧ a.blocked (some a.thr.id) 0x1040 = false
    ∧ f.running = true ∧ f.thr.region.map XRegion.scanned = some false := by decide +kernel
/-- A failed region in nine pages of `nop` bundles that lie one over the other. -/
def fallen : State := mapped ((List.range 9).map (fun i => (0x100 + i, ⟨0x40000, true, true, true, false⟩)))
  (setArch (fun r => { r with pc := 0x100000 }) (third (fun r => { r with failed := some (5, 0) }) base))
/-- A bundle can be fetched at `pc`, from no device window. -/
def fetches (s : State) (pc : Word) : Bool := match s.fetchAt pc with | .ok pa => decide (pa < 2 ^ 50) | .error _ => false
theorem isWin_low (a : Nat) (h : a < 2 ^ 60) : isWin a = false := by
  have : ¬ winBase ≤ a := Nat.not_le.2 (Nat.lt_trans h (by decide))
  simp [isWin, this]
theorem readLe_zero (rd : Nat → Byte) (pa n : Nat) (h : ∀ i < n, rd (pa + i) = 0) : readLe rd pa n = 0 := by
  induction n generalizing pa with
  | zero => rfl
  | succ n ih =>
    rw [readLe, ih (pa + 1) (fun i hi => by have := h (i + 1) (by omega); rwa [Nat.add_right_comm, Nat.add_assoc] )]
    have := h 0 (by omega)
    simp only [Nat.add_zero] at this
    rw [this]; rfl
theorem scan_nops (s : State) (hp : s.partials = []) (hm : s.mem = []) (hb : s.thr.chunk.buf = []) (n : Nat) :
    ∀ p, p + 8 * n < 2 ^ 57 → (List.range n).all (fun i => fetches s (addrWord (p + 8 * i))) = true →
      s.scanXend n (addrWord p) = .ok none := by
  induction n with
  | zero => intro p _ _; rfl
  | succ n ih =>
    intro p hlt h
    have hn : nextPc (addrWord p) = addrWord (p + 8) := by
      simp only [nextPc, addrWord]; congr 1; simp; omega
    have h0 : fetches s (addrWord p) = true := by simpa using List.all_eq_true.1 h 0 (by simp)
    have h1 : s.scanXend n (nextPc (addrWord p)) = .ok none := hn ▸ ih (p + 8) (by omega) (List.all_eq_true.2 fun i hi => by
      have := List.all_eq_true.1 h (i + 1) (by simpa using hi)
      simpa [Nat.mul_add, Nat.add_assoc, Nat.add_comm 8] using this)
    unfold fetches at h0
    unfold State.scanXend
    split at h0
    · next pa e =>
      rw [e]; simp only
      have hc : s.combined [pa] = s := by
        have e : (lsort ([pa].map lineOf)).flatMap s.lineSum = [] :=
          List.flatMap_eq_nil_iff.2 fun l _ => by unfold State.lineSum; split <;> simp [hp, lsort]
        simp only [State.combined, e]; rfl
      have hz (k : Nat) (hk : k ≤ 4) : s.chunkN (pa + k) 4 = 0 := readLe_zero _ _ _ fun i hi => by
        have : isWin (pa + k + i) = false := isWin_low _ (by simp at h0; omega)
        simp [State.chunkByte, hb, tfind, State.readByte, this, hm, memRead, memDefault, tget]
      have h3 : (s.combined [pa]).bundleWords pa = (0, 0) := by
        rw [hc]; simp only [State.bundleWords]; rw [hz 4 (by omega)]; have := hz 0 (by omega); simp only [Nat.add_zero] at this; rw [this]; rfl
      rw [h3, show isXend (0, 0) = false by decide +kernel]; simpa using h1
    · simp at h0
theorem witness_ChunkEvents_scan :
    fallen.running = true ∧ fallen.thr.region.map XRegion.failed = some (some (5, 0)) ∧ fallen.thr.chunk.start.pc = 0x100000
    ∧ (State.scanXend (poke 0x40008 4 0x3C700010 fallen) 4096 0x100000 matches .ok (some 0x100008)) = true
    ∧ fallen.scanXend 4096 0x100000 = .ok none :=
  ⟨by decide +kernel, by decide +kernel, by decide +kernel, by decide +kernel,
    scan_nops fallen (by decide +kernel) (by decide +kernel) (by decide +kernel) 4096 0x100000 (by decide) (by decide +kernel)⟩
/-- A cluster's own change. -/
def setClu (f : Cluster → Cluster) (s : State) : State := s.setCluster 0 (f (s.cluster 0))

theorem witness_DrayEvents :
    let d : Dray := ⟨0, .cluster 0, 5, [elemR .set], false⟩
    let dl := setClu (fun k => { k with drays := [d] }) lab
    let one : State := { lab with net := { lab.net with packets := [{ packet 1 with elems := [elemR .set] }] } }
    let r : ThreadId := ⟨0, 0⟩
    let q (a : Amop) : State := { lab with net := { lab.net with amops := [a] } }
    let am : Amop := ⟨r, 0, 0x40200, .max, .w, 0x41008, 0x41008, 5, 0⟩
    let far : Amop := { am with pa := fabBase }
    let dr := lab.setRegion 4 { lab.region 4 with drain := some (some true, none) }
    let bad : State := { sent 2 with poison := [(0x1040, 1)] }
    (dl.cluster 0).drays[0]? = some d
    ∧ ((sent 2).setTenant 0 { (sent 2).tenant 0 with gen := 1 }).foreign (packet 2) 0 = true
    ∧ bad.homeFault 0 0x41000 ≠ none ∧ bad.granted none 0x41000 = true ∧ bad.foreign (packet 2) 0 = false ∧ isFab far.pa = true
    ∧ lab.blocked (some r) (lineOf 0x41000) = false ∧ lab.draining 0x41000 = false ∧ dr.draining 0x41000 = true
    ∧ dr.blocked (some r) (lineOf 0x41000) = false ∧ lab.thr.run = .ready
    ∧ (sent 2).net.packets[0]? = some (packet 2) ∧ (sent 2).foreign (packet 2) 0 = false ∧ (packet 2).elems[0]? = some (elemR (.op .add))
    ∧ (sent 2).granted (some r) 0x41000 = true ∧ (sent 2).homeFault 0 0x41000 = none ∧ (packet 2).elems.length = 2
    ∧ (sent 1).net.packets[0]? = some (packet 1) ∧ (packet 1).elems.length = 1 ∧ (packet 1).bad = []
    ∧ one.net.packets[0]?.map Packet.elems = some [elemR .set] ∧ one.granted (some r) 0x41000 = true
    ∧ lab.find r = some lab.thr ∧ isFab 0x41000 = false ∧ lab.granted (some r) 0x41000 = true
    ∧ (lab.posted r).poisonOf 0x41000 = none
    ∧ (({ lab with poison := [(0x1040, 1)] } : State).posted r).poisonOf 0x41000 = some 1
    ∧ (asking (.cas .d 1 0x41000 0x41000 6 7 0x40000) lab).thr.post = some (.cas .d 1 0x41000 0x41000 6 7 0x40000)
    ∧ (q am).canAmop 0 = true ∧ (q am).net.amops[0]? = some am ∧ (q am).homeFault 0 0x41008 = none ∧ am.op ≠ .fadd := by decide +kernel
/-- Link 0 up, and what goes to its module and comes from it. -/
def joined : State := lab.setLink 0 ⟨true, 0xFF, false⟩
theorem carries_first (s : State) (h : s.link 0#4 = ⟨true, 0xFF, false⟩) : s.carries (Config.farModule 0) = true := by
  rw [State.carries, List.any_eq_true]
  exact ⟨0, by simp, by simp [h]⟩
theorem joined_carries : joined.carries (Config.farModule 0) = true := carries_first joined (by decide +kernel)
theorem farModuleOf_fab (m : BitVec 8) : farModuleOf (fabBase + m.toNat * 2 ^ 57) = m := by simp [farModuleOf]
/-- A dray, its acknowledgement and an `amop` for another module, and an access from one. -/
theorem witness_fabric :
    let m := Config.farModule 0
    let p : Packet := { packet 1 with dest := .remote m 0 }
    p.dest = .remote m 0 ∧ joined.carries m = true ∧ p.dest.linked joined = true
    ∧ (∃ a : Amop, joined.carries (farModuleOf a.pa) = true)
    ∧ (∃ t : Tenant, t.exportAt m 1 0x41000 2 = true)
    ∧ (∃ t : Tenant, t.exportAt m 1 0x41000 2 = false) := by
  refine ⟨rfl, joined_carries, joined_carries, ?_, ⟨{ Tenant.reset with fabric := [⟨0x41000, 21, Config.farModule 0, 1, 0, true⟩] }, ?_⟩,
    ⟨Tenant.reset, rfl⟩⟩
  · exact (fun pa (h : farModuleOf pa = Config.farModule 0) =>
      ⟨⟨⟨0, 0⟩, 0, 0, .add, .d, 0, pa, 1, 0⟩, by rw [h]; exact joined_carries⟩) _ (farModuleOf_fab (Config.farModule 0))
  · simp [Tenant.exportAt]
/-- Each condition of a watch, and of a wake. -/
theorem witness_WakeEvents :
    let r : ThreadId := ⟨0, 0⟩
    let f := parked (.fence true true true) lab
    let arm (c : WatchCond) := arming 3 ⟨c, 0x41008, 0x41008, 1, false, false⟩ lab
    let w := { parked (.wait 1 none) (setThr (fun t => { t with latch := 4 }) lab) with net := { lab.net with wakes := [⟨r, 1⟩] } }
    let st : State := { w with thr := { w.thr with stopped := some .tstop } }
    let dg : Watch := ⟨.geu, hostBase, hostBase, 1, true, true⟩
    let h := setThr (fun t => { t with watches := qput t.watches 2 (some dg) }) lab
    let tm := parked (.wait 1 (some 50)) lab
    f.find r = some f.thr ∧ f.thr.stopped = none ∧ f.thr.place = .slot 0 0 ∧ f.fenceDone r true true true = true
    ∧ (arm .geu).find r = some (arm .geu).thr ∧ (arm .geu).granted (some r) 0x41008 = true ∧ (arm .any).thr.arms ≠ []
    ∧ (lab.posted r).poisonOf 0x41008 = none ∧ (({ lab with poison := [(0x1040, 1)] } : State).posted r).poisonOf 0x41008 ≠ none
    ∧ w.find r = some w.thr ∧ w.net.wakes[0]? = some ⟨r, 1⟩ ∧ w.thr.stopped = none ∧ w.thr.latch ≠ 0 ∧ w.thr.run = .parked (.wait 1 none)
    ∧ st.find r = some st.thr ∧ st.thr.stopped.isSome = true ∧ st.thr.place = .slot 0 0
    ∧ qat h.thr.watches 2 = some dg ∧ dg.deg = true ∧ dg.cond ≠ .any ∧ h.find r = some h.thr
    ∧ tm.thr.live = true ∧ tm.find r = some tm.thr ∧ tm.thr.run = .parked (.wait 1 (some 50)) ∧ tm.thr.latch = 0 := by decide +kernel
/-- The arrival that completes a barrier word, one that waits, N of 1, and a time-out before and after the release. -/
theorem witness_QueueAndBarrierEvents :
    let r : ThreadId := ⟨0, 0⟩
    let q := asking (.reserve 2 true) (poke 0x41058 8 5 (poke 0x41208 8 5 (ring .none lab)))
    let w (c : Word) := poke 0x41000 8 (0x500000000 + c) lab
    let b := asking (.bar 1 0x41000 0x41000 4 0 0x40000) (w 3)
    let t (p : BitVec 32) (c : Word) := parked (.bar 1 0x41000 0x41000 p (some 9) 0x40000) (w c)
    q.find r = some q.thr ∧ q.granted (some r) 0x41040 = true ∧ q.thr.post = some (.reserve 2 true)
    ∧ q.translate 0 0 .write (q.thr.handle 2).line = .ok 0x41040 ∧ q.poisonOf 0x41040 = none
    ∧ (asking (.stamp 2 0x41208 0x41208 6) q).thr.post = some (.stamp 2 0x41208 0x41208 6) ∧ (asking (.stamp 2 0x41208 0x41208 6) q).granted (some r) 0x41208 = true
    ∧ b.find r = some b.thr ∧ b.granted (some r) 0x41000 = true ∧ (b.posted r).poisonOf 0x41000 = none
    ∧ (((b.posted r).combineLine (some r) (lineOf 0x41000)).readN 0x41000 8).extractLsb' 0 32 = 3#32
    ∧ (((w 2).combineLine (some r) (lineOf 0x41000)).readN 0x41000 8).extractLsb' 0 32 = 2#32
    ∧ (t 5 2).thr.live = true ∧ (t 5 2).thr.stopped = none ∧ ((t 5 2).readN 0x41000 8).extractLsb' 32 32 = 5#32
    ∧ ((t 5 2).readN 0x41000 8).extractLsb' 0 32 ≠ 0#32 ∧ ((t 4 2).readN 0x41000 8).extractLsb' 32 32 ≠ 4#32 := by decide +kernel

/-! ## Launches, placement, domains and thread state (R222 to R283) -/

/-- Host queue 3 of tenant 0: a ring of 16 records at 0x4_4000 with QHEAD 5, its notify word at 0x4_E000. -/
def jobs (st : FState) : State :=
  (setTen (fun t => { t with ipool := 4, nextLid := 5 }) lab).setQueue 3
    { HostQueue.reset with valid := true, ring := 0x44000, n := 4, qhead := 5, note := 0x4E000, todo := [(false, 2)], st := st }
/-- The record of `.crew 2`, `.launch 0x40000, 0x77, 1, ANY, 3` with STATA 0x4_1400 and vector 2. -/
def job : List Word := [0x40000, 0x0300000000010002, 0x77, 0, 0, 0x41400, 0x8002, 0, 0, 0, 0, 0, 0, 0, 0, 0]
/-- That launch, accepted with LID 5. -/
def launched (f : Launch → Launch) (s : State) : State :=
  setTen (fun t => { t with launches := [f (launchOfRecord job 3 5 0 1)] }) s
/-- The job's only crew on its way to cluster 0. -/
def started : State :=
  { launched (fun l => { l with placed := 1 }) (jobs .idle) with net := { lab.net with crewGos := [⟨0, 5, 0, 0, false⟩] } }

/-- The doublewords of the example of R323 to R326: its fields, and the status words for LID 5. -/
theorem test_launch_record :
    (let l := launchOfRecord [0x2000, 0x2300000000040100] 3 5 0 0
    (l.entry, l.csize, l.crews, l.prio, l.kind) = (0x2000, 256, 4, 3, 2))
    ∧ statusWord false true 5 0 = 0x4000000000000500 ∧ statusWord true true 5 0 = 0xC000000000000500 := by decide +kernel
/-- An accepted launch: LID 5 in the status word, and its vector. A launch of no threads is refused with code 1. -/
theorem test_launch_events :
    mem (exec (.launchValidated 3) (jobs (.validating false job))) 0x41400 8 = some 0x4000000000000500
    ∧ mem (exec (.launchValidated 3) (jobs (.validating false (job.set 1 0)))) 0x41400 8 = some 1
    ∧ (next (exec (.notifyWrite 3) (jobs .idle))).map (fun s => (s.queue 3).st) = some (.reading false)
    ∧ (next (exec (.launchRecordRead 3) (poke 0x44288 8 0x0300000000010002 (jobs (.reading false))))).map
      (fun s => ((s.queue 3).qhead, (s.queue 3).todo)) = some (6, [(false, 1)]) := by decide +kernel
/-- The foreman sends the crew to cluster 0; its threads have ranks 1 and 2, x10 the argument, x12 their index; the launch ends
when they have halted. -/
theorem test_crew_events :
    (next (exec .crewPlacement (launched id (jobs .idle)))).map (fun s => s.net.crewGos) = some [⟨0, 5, 0, 0, false⟩]
    ∧ (who 2 (exec (.crewStart 0) started)).map (fun t => (t.arch.pc, t.arch.getX 10, t.arch.getX 12, t.arch.rngs, t.run)) =
      some (0x40000, 0x77, 1, 0x3C6EF372, .ready) := by decide +kernel
theorem test_launch_end :
    mem (exec (.launchComplete 0 5) (launched (fun l => { l with placed := 1 }) (jobs .idle))) 0x41400 8 = some 0xC000000000000500
    ∧ (next (exec (.pwaitRelease 0) { launched (fun l => { l with complete := true }) (parked .pwait lab) with
        net := { lab.net with releases := [(0, 5, 0)] } })).map (fun s => s.net.wakes) = some [⟨⟨0, 0⟩, 6⟩] := by decide +kernel
/-- A rectangle of one core, whose member has arrived at its first phase. -/
def domOf (f : Member → Member) (s : State) : State :=
  setTen (fun t => { t with domains := [⟨.rect 0 0 0 0, [f ⟨0, 0, true, false⟩], 1, [(0, 1)], 6, [0], [], false, 0⟩] }) s
/-- The wire rises, the domain completes with code 5 and PHASE 7 in bits 63:32; a time-out gives PHASE 6 and code 1 in bit 0
(R261, R262). -/
theorem test_domain_events :
    (next (exec (.wireRaise ⟨0, 0⟩) (domOf id lab))).map (fun s => (s.tenant 0).domains.map (fun d => d.members.map Member.raised)) =
      some [[true]]
    ∧ (next (exec (.wireComplete 0 0) (parked (.dbar 1 0 6 none) (domOf (fun m => { m with raised := true }) lab)))).map
      (fun s => (s.thr.run, s.thr.arch.getX 1, s.thr.arch.why)) = some (.ready, 0x0000000700000000, 5)
    ∧ cX (exec (.dbarTimeout ⟨0, 0⟩) (parked (.dbar 1 0 6 (some 9)) (domOf id lab))) 1 = some 0x0000000600000001
    ∧ (next (exec (.dbarArrival ⟨0, 0⟩) (asking (.dbar 1 0 0) (domOf (fun m => { m with arrived := false }) lab)))).map
      (fun s => (s.thr.run, (s.tenant 0).domains.map (fun d => d.members.map Member.arrived))) =
      some (.parked (.dbar 1 0 6 none), [[true]]) := by decide +kernel

/-- A request of the root to rank 7, whose thread `f` changes. -/
def asked (a : TAct) (f : Thread → Thread) : State := { team id with
  others := [mate 7 f], net := { lab.net with reqs := [⟨⟨0, 0⟩, 9, 7, a⟩] } }
/-- Stopped by `tstop`. -/
def held (t : Thread) : Thread := { t with stopped := some .tstop }
/-- R277 to R283: the results 0 and 1 of a stop, the refusals, and what a write leaves. -/
theorem test_thread_state_events :
    let r (a : TAct) (f : Thread → Thread) := results (exec (.threadStateAction 0) (asked a f))
    r .stop id = some [0] ∧ r .stop held = some [1] ∧ r .stop (fun t => { t with run := .retained }) = some [0x8000000000000003]
    ∧ r .start held = some [0] ∧ r .start id = some [0x8000000000000003]
    ∧ r (.read 5) (fun t => held { t with arch := t.arch.setX 5 99 }) = some [99] ∧ r (.read 5) id = some [0x8000000000000003]
    ∧ r (.write 5 8) held = some [0]
    ∧ (who 7 (exec (.threadStateAction 0) (asked (.write 5 8) held))).map (fun t => t.arch.getX 5) = some 8
    ∧ r (.grant ⟨1, 2, 0, 1⟩) id = some [0] ∧ r (.revoke 0) id = some [0x8000000000000008]
    ∧ cX (exec (.threadStateResult 0) { parked .result lab with net := { lab.net with results := [⟨⟨0, 0⟩, 9, 42, false⟩] } }) 9 = some 42 := by
  decide +kernel

/-- Every thread of the lab waits for ever, on a fault line of the root. -/
def asleep : State := parked (.wait 1 none) (setTen (fun t => { t with rootFlta := 0x40200 }) lab)
/-- A pulse word at 0x4_1000 with a period of 2^20 cycles. -/
def pulsed (k : Nat) : State := setTen (fun t => { t with rootFlta := 0x40200, pulse := some ⟨0x41000, 0x41000, 2 ^ 20, 0, k⟩ }) lab
/-- Kinds 0x13 and 0x14, with the number of silent periods (R246, R247, R302). -/
theorem test_detectors :
    cFault (exec (.deadlockDetect 0) asleep) = some (0x13, 0, 1)
    ∧ cFault (exec (.pulsePeriodExpiry 0) (pulsed 0)) = some (0x14, 1, 0x41000)
    ∧ (next (exec (.pulsePeriodExpiry 0) (pulsed 1))).map (fun s => (s.tenant 0).stopped) = some true := by decide +kernel

/-! ### Witnesses -/

/-- A thread in the loft of cluster 0 that is woken. -/
def lofted (f : Thread → Thread) (s : State) : State := setThr (fun t => f { t with place := .loft, woken := some 3 }) s
theorem witness_PlacementEvents :
    let r : ThreadId := ⟨0, 0⟩
    let v := setThr (fun t => { t with waits := 4096 }) lab
    let p := setThr (fun t => { t with run := .retained }) lab
    let e := setThr (fun t => { t with early := true }) (parked .pwait lab)
    let w := lofted id lab
    let m := setThr (fun t => { t with place := .moving 0 }) lab
    oldestOf 0 (v.starved 0) = some v.thr ∧ v.find r = some v.thr
    ∧ p.canPack p.thr = true ∧ p.thr.early = false ∧ p.docketSize p.thr ≤ p.loftFree (clusterOf p.thr.core) ∧ p.find r = some p.thr
    ∧ e.canPack e.thr = true ∧ e.thr.early = true ∧ e.find r = some e.thr
    ∧ w.canResume w.thr = true ∧ w.slotFor (clusterOf w.thr.core) (some w.thr.core) = some (0, 0) ∧ w.find r = some w.thr
    ∧ m.thr.place = .moving m.thr.core ∧ m.find r = some m.thr := by decide +kernel
/-- Acceptance, a refusal, a service request that is performed and one that is refused. -/
theorem witness_FactorThread :
    let i := jobs .idle
    let a := jobs (.validating false job)
    let f (n : Word) : List Word := [0, 0, 0, 0, 0, 0, 0, 1 + 256 * n, 3000, 0, 0, 0, 0, 0, 0, 0]
    let v := (jobs .idle).setQueue 0 { HostQueue.serviceReset 0 with ring := hostBase + 0x44000, n := 4 }
    let srv (n : Word) : Option Bool := (v.serve 0 (recFunc (f n)) (recOpers (f n))).1.map Prod.snd
    i.hub.stage = 6 ∧ (i.queue 3).valid = true ∧ (i.queue 3).lost = false ∧ (i.queue 3).st = .idle ∧ (i.queue 3).todo = [(false, 2)]
    ∧ ((jobs (.reading false)).queue 3).st = .reading false ∧ (jobs (.reading false)).draining ((i.queue 3).recordAt false) = false
    ∧ (a.queue 3).st = .validating false job ∧ a.launchCode 3 false job = 0 ∧ recType job = 0 ∧ a.launchCode 3 false (job.set 1 0) = 1
    ∧ a.statusHeld 3 0x41400 = false ∧ (a.setRegion 4 { a.region 4 with drain := some (some true, none) }).statusHeld 3 0x41400 = true
    ∧ v.statusHeld 0 0 = false ∧ recType (f 13) = 1 ∧ v.launchCode 0 false (f 13) = 0 ∧ srv 14 = some true ∧ srv 200 = some false := by decide +kernel
theorem witness_LaunchEvents :
    let j := launched id (jobs .idle)
    let l := launchOfRecord job 3 5 0 1
    let d := launched (fun l => { l with placed := 1 }) (jobs .idle)
    j.nextLaunch = some (0, l) ∧ j.mayStart 0 l = some false ∧ j.clusterFor 0 l false = some 0
    ∧ ({ j with net := { j.net with smays := [(0, 5)] } } : State).nextLaunch = some (0, l)
    ∧ started.net.crewGos[0]? = some ⟨0, 5, 0, 0, false⟩ ∧ started.launchAt 0 5 = some { l with placed := 1 } ∧ started.canStart 0 = true
    ∧ d.launchAt 0 5 = some { l with placed := 1 } ∧ l.complete = false ∧ d.launchBusy 0 { l with placed := 1 } = false
    ∧ d.statusHeld l.q l.stata = false ∧ (d.setRegion 4 { d.region 4 with drain := some (some true, none) }).statusHeld l.q l.stata = true := by
  decide +kernel
/-- A rectangle for the arrival, the wire, the completion and the time-out; a launch domain for its crier. -/
theorem witness_DomainEvents :
    let r : ThreadId := ⟨0, 0⟩
    let a := asking (.dbar 1 0 0) (domOf (fun m => { m with arrived := false }) lab)
    let c := domOf (fun m => { m with raised := true }) lab
    let t := parked (.dbar 1 0 6 (some 9)) (domOf id lab)
    let k := setTen (fun t => { t with domains := [⟨.launch 5 0, [⟨0, 0, true, true⟩], 1, [(0, 1)], 6, [0], [], false, 0⟩] }) lab
    let e : Domain := ⟨.launch 5 0, [⟨0, 0, true, true⟩], 1, [(0, 1)], 6, [0], [], false, 0⟩
    let m (b : Bool) : State := { k with net := { k.net with criers := [⟨0, .launch 5 0, 0, 0, b, 0⟩] } }
    a.find r = some a.thr ∧ a.thr.post = some (.dbar 1 0 0) ∧ (((a.tenant 0).domainIn 0 0).map Domain.phases) = some 6
    ∧ (c.tenant 0).domains.length = 1 ∧ (((c.tenant 0).domains.map (c.wiresUp 0)) = [true])
    ∧ (k.tenant 0).domains = [e] ∧ k.canBegin 0 e 0 = true
    ∧ (m true).net.criers[0]?.map CrierMsg.turn = some e.turn ∧ (⟨0, .launch 5 0, 0, 0, true, 1⟩ : CrierMsg).turn ≠ e.turn
    ∧ (m true).net.criers[0]?.map CrierMsg.abort = some true ∧ (m false).domain 0 (.launch 5 0) = some e
    ∧ t.thr.live = true ∧ t.find r = some t.thr ∧ ((t.tenant 0).domainIn 0 0).map (fun d => d.kind.crier) = some false := by decide +kernel
theorem witness_ThreadStateEvents :
    let s (a : TAct) (f : Thread → Thread) := asked a f
    let t (f : Thread → Thread) : Thread := mate 7 f
    let ret (t : Thread) : Thread := { t with run := .retained }
    let full := setTen (fun t => { t with ipool := 0 }) (s (.grant ⟨1, 2, 0, 1⟩) id)
    let tab := setTen (fun t => { t with indent := t.indent ++ [(7, [⟨1, 2, 0, 1⟩, ⟨3, 4, 7, 1⟩])] }) (s (.revoke 0) id)
    let b : State := { parked .result lab with net := { lab.net with results := [⟨⟨0, 0⟩, 9, 42, false⟩] } }
    (s .stop id).net.reqs[0]? = some ⟨⟨0, 0⟩, 9, 7, .stop⟩ ∧ (s .stop id).find ⟨0, 7⟩ = some (t id) ∧ (t id).place = .slot 0 1
    ∧ (t id).stopped = none ∧ (t id).run = .ready ∧ (s .stop held).find ⟨0, 7⟩ = some (t held) ∧ (t held).stopped ≠ none
    ∧ (s .stop ret).find ⟨0, 7⟩ = some (t ret) ∧ (t ret).run = .retained ∧ (t held).packed = false ∧ (t held).run ≠ .retained
    ∧ ((s (.grant ⟨1, 2, 0, 1⟩) id).tenant 0).hasRoom 7 = true ∧ (full.tenant 0).hasRoom 7 = false
    ∧ ((tab.tenant 0).table 7)[0]? = some ⟨1, 2, 0, 1⟩ ∧ ((tab.tenant 0).table 7).getLast? = some ⟨3, 4, 7, 1⟩
    ∧ ((tab.tenant 0).table 7).length = 2
    ∧ b.net.results[0]? = some ⟨⟨0, 0⟩, 9, 42, false⟩ ∧ b.find ⟨0, 0⟩ = some b.thr ∧ b.thr.run = .parked .result ∧ b.thr.stopped = none := by
  decide +kernel
theorem witness_DetectorEvents :
    let r : Record := ⟨0x14, 5, 0, 0, 0, 0, 0, 0, 0, 0, 0⟩
    let h := setTen (fun t => { t with pending := [⟨0x40200, r, 3⟩] }) lab
    let q := (setTen (fun t => { t with firstQueue := some 3, reports := [r] }) lab).setQueue 3
      { HostQueue.reset with valid := true, repLine := hostBase + 0x4000 }
    asleep.deadlocked 0 = true ∧ ((pulsed 0).tenant 0).pulse = some ⟨0x41000, 0x41000, 2 ^ 20, 0, 0⟩
    ∧ ((pulsed 1).tenant 0).pulse = some ⟨0x41000, 0x41000, 2 ^ 20, 0, 1⟩
    ∧ (h.heldOf 0)[0]? = some (none, ⟨0x40200, r, 3⟩) ∧ h.canDeliver 0 (none, ⟨0x40200, r, 3⟩) = true
    ∧ h.canAskHeld 0 (none, ⟨0x40200, r, 3⟩) = false
    ∧ (q.heldOf 0)[0]? = none ∧ (q.tenant 0).reports = [r] ∧ q.canReport 0 = true := by decide +kernel

/-! ## The outside world (R177, R286 to R338) -/

/-- Changes head 0. -/
def setH (f : Head → Head) (s : State) : State := s.setHead 0 (f (s.head 0))
/-- The lab with head 0 up, its tenant unlocked. -/
def hosted : State := setH (fun h => { h with up := true }) (setTen (fun t => { t with tdisp := .unlocked }) lab)
/-- The messages that have left. -/
def outs (o : Out) : Option (List OutMsg) := (next o).map (fun s => s.hub.out)
/-- A write of two bytes. -/
def two : List Byte := [0x11, 0x22]

/-- A tenant unlocked lets the host at its memory; in RUN without link CXL IDE a read is poisoned and a write is dropped (R295);
poisoned data poison the line (R306). -/
theorem test_cxl_mem :
    outs (exec (.hostCxlMemAccess 0 (.read 0x41000 2)) hosted) = some [.bytes 0 [0x81, 0x22]]
    ∧ outs (exec (.hostCxlMemAccess 0 (.read 0x41000 2)) (setTen (fun t => { t with tdisp := .run }) hosted)) = some [.poisoned 0 2]
    ∧ mem (exec (.hostCxlMemAccess 0 (.write 0x41000 (two.map some) false)) hosted) 0x41000 8 = some 0x8877665544332211
    ∧ mem (exec (.hostCxlMemAccess 0 (.write 0x41000 (two.map some) false)) (setTen (fun t => { t with tdisp := .error }) hosted)) 0x41000 8 =
      some 0x8877665544332281
    ∧ (next (exec (.hostCxlMemAccess 0 (.write 0x41000 (two.map some) true)) hosted)).map (fun s => s.poison) = some [(0x1040, 4)] := by decide +kernel
/-- Registers of BAR 0: a doorbell writes HTAIL and publishes a record; SVRING; TIMESET before stage 6 (R322, R329, R336). -/
theorem test_registers :
    (next (exec (.doorbell 0 3 6) (setH (fun h => { h with up := true }) ((jobs .idle).setQueue 3
      { (jobs .idle).queue 3 with seenH := 5, todo := [] })))).map (fun s => (s.queue 3).todo) = some [(false, 1)]
    ∧ (next (exec (.svring 0 0x1234500000000083) hosted)).map (fun s => ((s.head 0).svring, (s.queue 0).n)) =
      some (0x0034500000000083, 7)
    ∧ (next (exec (.timeset 0 77) { hosted with hub := { hosted.hub with stage := 5 } })).map (fun s => s.hub.timeset) = some 77
    ∧ (next (exec (.timeset 0 77) hosted)).map (fun s => s.hub.timeset) = some 0 := by decide +kernel
/-- An I/O load takes its answer, sign-extended; a failed one and one that times out read all ones (R183, R361). -/
theorem test_io_completion :
    let w := asking (.ioLoad .w 9 (ioBase + 0x42000) (some 0)) (parked .result lab)
    cX (exec (.ioCompletion ⟨0, 0⟩ .data 0x80000001) w) 9 = some 0xFFFFFFFF80000001
    ∧ cX (exec (.ioCompletion ⟨0, 0⟩ .refused 0) w) 9 = some 0xFFFFFFFFFFFFFFFF
    ∧ cX (exec (.ioCompletionTimeout ⟨0, 0⟩) w) 9 = some 0xFFFFFFFFFFFFFFFF := by decide +kernel
/-- Peers and other modules reach the window and the exports, and nothing else (R331, R333). -/
def peered : State := setTen (fun t => { t with window := some (0x41000, 21), fabric := [⟨0x41000, 21, 3, 1, 0, true⟩] }) lab
theorem test_peers :
    mem (exec (.peerWrite 0 0 two false) peered) 0x41000 8 = some 0x8877665544332211
    ∧ outs (exec (.peerRead 0 0 2) peered) = some [.bytes 0 [0x81, 0x22]] ∧ outs (exec (.peerRead 0 0x1FFFFF 2) peered) = some [.refused 0]
    ∧ (peered.enterLate ⟨.far 3, 0, 0x41000, .read 2⟩).hub.out = [.farBytes 3 (some [0x81, 0x22])] := by decide +kernel

/-- A page that the thread waits for, at an access that would be the translation fault. -/
def paging : State := parked (.pri 0x50 ⟨2, 0, 0x50000, 0, 0, some 0x40000⟩) lab
theorem test_translation :
    (lab.fillTlb 0 0 0x47 12 ⟨0x47000, true, true, false, false⟩).lookup 0 0 0x47 = some ⟨0x47000, true, true, false, false⟩
    ∧ lab.xlate .read 0x47000 matches .error (.ats 0x47)
    ∧ (next (exec (.atsCompletion 0 0 ⟨0x47, 12⟩) lab)).map (fun s => s.tlb.length) = some lab.tlb.length
    ∧ cFault (exec (.priResponse ⟨0, 0⟩ false) paging) = some (2, 0, 0x50000)
    ∧ (next (exec (.priResponse ⟨0, 0⟩ true) paging)).map (fun s => s.thr.run) = some .ready
    ∧ (next (exec (.atsInvalidationRequest 0 0x41000 4096) lab)).map (fun s => (s.hub.out, s.canInval 0, (s.invalDone 0).hub.out)) =
      some ([], true, [.invalidated 0 0x41000]) := by decide +kernel

/-- Counters and the last word of the health record; poison; the freeze (R312 to R315). -/
theorem test_errors :
    (next (exec (.correctedError .crc 2) lab)).map (fun s => (s.hub.health.corr, s.hub.health.last)) = some (1, 0x0400000000000002)
    ∧ (next (exec (.uncorrectableError (.line 0x41008)) lab)).map (fun s => (s.poison, s.hub.health.unc)) = some ([(0x1040, 1)], 1)
    ∧ (next (exec (.uncorrectableError .uncontained) lab)).map (fun s => s.hub.frozen) = some true
    ∧ (next (exec (.logicFault .uncontained) lab)).map (fun s => s.hub.frozen) = some true
    ∧ (next (exec (.patrolScrub (some (.line 0x41008))) { lab with hub := { lab.hub with scrubOff := true } })).map (fun s => s.poison) = some []
    ∧ (next (exec (.parityReplay (.core 0 []) true) lab)).map (fun s => (s.core 0).mappedOut) = some true := by decide +kernel
/-- A link with 4 good lanes runs on them, with 3 it is down (R332); the freeze word (R316). -/
theorem test_links :
    (next (exec (.laneFailure 1 4) (lab.setLink 1 ⟨true, 0x1F, false⟩))).map (fun s => s.link 1) = some ⟨true, 0x0F, false⟩
    ∧ (next (exec (.laneFailure 1 0) (lab.setLink 1 ⟨true, 0x0F, false⟩))).map (fun s => s.link 1) = some ⟨false, 0x0E, false⟩
    ∧ (next (exec (.flitReplay (.yv 1) true) (lab.setLink 1 ⟨true, 0xFF, false⟩))).map (fun s => (s.link 1).recovery) = some true
    ∧ (next (exec (.linkRecovery (.yv 1) true) (lab.setLink 1 ⟨true, 0xFF, true⟩))).map (fun s => s.link 1) = some ⟨false, 0xFF, false⟩
    ∧ (next (exec (.linkUp 1) lab)).map (fun s => (s.link 1).up) = some true
    ∧ (next (exec (.hostLinkDown 0) hosted)).map (fun s => (s.head 0).up) = some false
    ∧ (next (exec (.freezeWord 0 0x46525A45) hosted)).map (fun s => s.hub.frozen) = some true := by decide +kernel

/-- An unlocked tenant with a session on head 0 and its key set. -/
def paired : State := setH (fun h => { h with session := true, linkIde := true }) (setTen (fun t => { t with keyed0 := true }) hosted)
/-- The TDISP messages (R295 to R297): 0x10, the state's code, a lock and a start with its nonce, and a stop that scrubs. -/
theorem test_security :
    outs (exec (.getTdispVersion 0 0) hosted) = some [.bytes 0 [0x10]] ∧ outs (exec (.getDeviceInterfaceState 0 0) hosted) = some [.bytes 0 [0]]
    ∧ (next (exec (.lockInterfaceRequest 0 0) paired)).map (fun s => (s.tenant 0).tdisp) = some .locked
    ∧ outs (exec (.lockInterfaceRequest 0 0) hosted) = some [.refused 0]
    ∧ (next (exec (.startInterfaceRequest 0 0 5) (setTen (fun t => { t with tdisp := .locked, nonce := some 5 }) paired))).map
      (fun s => (s.tenant 0).tdisp) = some .run
    ∧ (next (exec (.startInterfaceRequest 0 0 6) (setTen (fun t => { t with tdisp := .locked, nonce := some 5 }) paired))).map
      (fun s => (s.tenant 0).tdisp) = some .locked
    ∧ (next (exec (.stopInterfaceRequest 0 0) (setTen (fun t => { t with tdisp := .run, leaving := 2 }) paired))).map
      (fun s => ((s.tenant 0).tdisp, s.readN 0x41000 8, s.find ⟨0, 0⟩)) = some (.unlocked, 0, none)
    ∧ (next (exec (.ideIntegrityFailure 0 (some 0)) (setTen (fun t => { t with tdisp := .run }) paired))).map
      (fun s => ((s.tenant 0).tdisp, (s.tenant 0).stopped)) = some (.error, true)
    ∧ (next (exec (.endSession 0) paired)).map (fun s => (s.head 0).session) = some false := by decide +kernel
theorem test_power :
    (next (exec .d3hotEntry (setTen (fun t => { t with tdisp := .unlocked }) lab))).map (fun s => s.hub.d3) = some true
    ∧ (next (exec .d3hotEntry lab)).map (fun s => s.hub.d3) = some false
    ∧ (next (exec .d0Return { lab with hub := { lab.hub with d3 := true } })).map (fun s => (s.hub.d3, s.hub.stage)) = some (false, 6)
    ∧ (next (exec (.bringUpStage true) { State.reset with hub := { State.reset.hub with stage := 5, timeset := 77 } })).map
      (fun s => (s.hub.stage, s.hub.timeBase)) = some (6, 77)
    ∧ (next (exec .reset lab)).map (fun s => (s.hub.stage, s.mem, s.thr.live)) = some (0, [], false) := by decide +kernel

/-- Operands. -/
def op2 (a b : Word) : Opers := ⟨a, b, 0, 0, 0, 0, 0, 0⟩
/-- The functions of R327: each one's own field, and refusals (R164, R222, R247, R310, R311, R318, R328, R331, R333). -/
theorem test_services :
    let f (i : Instr) (s : State) := next (exec i s)
    let t (i : Instr) (s : State) := (f i s).map (fun s => s.tenant 0)
    let stop := setTen (fun t => { t with stopped := true }) lab
    (t (.orderingSetup 0 ⟨0, 64, 1000, 0, 0, 0, 0, 0⟩) stop).map Tenant.dage = some 64
    ∧ (t (.orderingSetup 0 ⟨0, 63, 1000, 0, 0, 0, 0, 0⟩) stop).map Tenant.dage = some 1024
    ∧ (t (.orderingSetup 0 ⟨0, 64, 1000, 0, 0, 0, 0, 0⟩) lab).map Tenant.dage = some 1024
    ∧ (t (.pulseSetup 0 ⟨0, 0x41000, 2 ^ 20, 0, 0, 0, 0, 0⟩) lab).map Tenant.pulse = some (some ⟨0x41000, 0x41000, 2 ^ 20, 0, 0⟩)
    ∧ (t (.hintsSetup 0 ⟨0, 0x1000, 6, 2, 0, 0, 0, 0⟩) lab).map Tenant.hints = some (some ⟨hostBase + 0x1000, 6, 2, 0⟩)
    ∧ (t (.issuePolicy 0 (op2 0 1)) stop).map Tenant.rr = some true
    ∧ (t (.tenantStop 0 (op2 0 0)) lab).map Tenant.stopped = some true ∧ (t (.tenantStart 0 (op2 0 1)) stop).map Tenant.stopped = some false
    ∧ (f (.pin 0 (op2 0x41000 1)) lab).map (fun s => (s.region 4).pinned) = some true
    ∧ (f (.biasFlip 0 (op2 0x41000 1)) lab).map (fun s => s.region 4) = some { lab.region 4 with drain := some (some true, none) }
    ∧ (f (.powerLimit 0 (op2 1200 0)) lab).map (fun s => s.hub.powerLimit) = some 1200
    ∧ (f (.powerLimit 0 (op2 1199 0)) lab).map (fun s => s.hub.powerLimit) = some 3400
    ∧ (f (.scrubControl 0 (op2 0 0)) lab).map (fun s => s.hub.scrubOff) = some true
    ∧ (f (.switchOut 0 (op2 0 2)) (setTen (fun t => { t with leaving := 1 }) lab)).map (fun s => (s.tenant 0).out) = some true
    ∧ (t (.switchIn 0 (op2 0 3)) (setTen (fun t => { t with out := true, wasStopped := true }) lab)).map
      (fun t => (t.out, t.gen)) = some (false, 1) := by decide +kernel

/-! ### Witnesses -/

theorem witness_HostAccesses :
    let r : ThreadId := ⟨0, 0⟩
    let cursed : State := { hosted with poison := [(0x1040, 1)] }
    let err := setTen (fun t => { t with tdisp := .error }) hosted
    let w := asking (.ioLoad .w 9 (ioBase + 0x42000) (some 0)) (parked .result lab)
    let on (s : State) (pa : Nat) : State := State.atHome false ((s.countHost pa).combineLine none (lineOf pa)) (lineOf pa)
    let shut := setTen (fun t => { t with tdisp := .run }) hosted
    let kept : State := { hosted with others := [mate 7 (fun t => { t with solo := some ⟨1, 2, [0x1040], [0x1040]⟩ })] }
    hosted.headUp 0 = true ∧ isDevice 0x4103E = true ∧ 0x4103E % 64 + 2 = 64 ∧ hosted.granted none 0x4103E = true
    ∧ hosted.net.inbound = [] ∧ (hosted.countHost 0x4103E).hostMay 0 none 0x4103E = true ∧ (on hosted 0x4103E).poisonOf 0x4103E = none
    ∧ (on cursed 0x41000).poisonOf 0x41000 ≠ none ∧ (cursed.countHost 0x41000).hostMay 0 none 0x41000 = true ∧ cursed.headUp 0 = true
    ∧ (err.countHost 0x41000).hostMay 0 none 0x41000 = false ∧ err.headUp 0 = true ∧ err.granted none 0x41000 = true
    ∧ two.length = 2 ∧ ((two.map some).zipIdx.filterMap (fun x => x.1.map (fun y => (0x4103E + x.2, y)))) ≠ []
    ∧ (hosted.countHost 0x4103E).poisonOf 0x4103E = none ∧ shut.hostMay 0 (some none) 0x41000 = false ∧ shut.headUp 0 = true
    ∧ kept.granted none 0x41000 = false ∧ kept.headUp 0 = true ∧ hosted.granted none (hostAddr 0 0x1000) = true
    ∧ (peered.tenant 0).window = some (0x41000, 21) ∧ (peered.tenant 0).tdisp = .run ∧ peered.net.late = []
    ∧ peered.peerParts 0 .write 0x41000 2 = .ok [(0x41000, 0x41000, 2)] ∧ peered.peerParts 0 .read 0x41000 2 = .ok [(0x41000, 0x41000, 2)]
    ∧ peered.granted none 0x41000 = true ∧ peered.net.inbound = [] ∧ peered.poisonOf 0x41000 = none ∧ 2 ^ 21 < 0x1FFFFF + 2
    ∧ (peered.tenant 0).exportAt 3 1 0x41000 2 = true ∧ (peered.tenant 0).exportAt 4 1 0x41000 2 = false
    ∧ w.find r = some w.thr ∧ w.thr.post = some (.ioLoad .w 9 (ioBase + 0x42000) (some 0)) ∧ w.thr.run = .parked .result
    ∧ w.thr.stopped = none := by decide +kernel
theorem witness_HostAccesses_registers :
    let j := setH (fun h => { h with up := true }) (jobs .idle)
    let k := j.setHead 1 { Head.reset with up := true }
    let busy := hosted.setQueue 0 { HostQueue.serviceReset 0 with note := 0x4E000, qhead := 1 }
    j.headUp 0 = true ∧ (j.queue 3).valid = true ∧ (j.queue 3).note ≠ 0 ∧ (j.queue 3).head = 0 ∧ k.headUp 1 = true ∧ (k.queue 3).head ≠ 1
    ∧ hosted.serviceIdle 0 = true ∧ busy.serviceIdle 0 = false ∧ busy.headUp 0 = true ∧ hosted.hub.stage = 6
    ∧ ({ hosted with hub := { hosted.hub with stage := 5 } } : State).hub.stage < 6
    ∧ (0x80#64 &&& 0x01FFFFFFFFFFFF8F#64) ≠ 0 ∧ (hosted.head 0).pba.getLsbD 63 = false ∧ (0x403F8 : BitVec 24).toNat = 0x40000 + 16 * 63 + 8
    ∧ (0x403F0 : BitVec 24).toNat = 0x40000 + 16 * 63 ∧ (0x3FFF8 : BitVec 24).toNat < 0x40000 := by decide +kernel
theorem witness_TranslationEvents :
    let c := setThr (fun t => { t with chunk := { t.chunk with pages := [0x41] } }) lab
    let cached : State := { lab with tlb := [⟨0, some 0, 12, 0, some 0, 0x41, ⟨0x41000, true, true, false, false⟩⟩] }
    tfind (lab.tenant 0).ptab 0x41 = some ⟨0x41000, true, true, false, false⟩ ∧ cached.tlb.length = 1
    ∧ paging.find ⟨0, 0⟩ = some paging.thr ∧ paging.thr.run = .parked (.pri 0x50 ⟨2, 0, 0x50000, 0, 0, some 0x40000⟩) ∧ paging.thr.stopped = none
    ∧ c.thr.live = true ∧ c.thr.id.tenant = 0 ∧ c.thr.chunk.pages.any (fun p => decide (0x41000 ≤ p * 4096 + 4095 ∧ p * 4096 < 0x41000 + 4096)) = true := by
  decide +kernel
theorem witness_FailureEvents :
    let l (up : Bool) (g : BitVec 8) (r : Bool) := (lab.setLink 1 ⟨up, g, r⟩).link 1
    let d := setH (fun h => { h with up := false, downAt := 8 }) hosted
    let st := (hosted.setHead 1 { Head.reset with downAt := 8 }).setHead 0 { (hosted.head 0) with standby := true }
    let count (g : BitVec 8) : Nat := ((List.range 8).filter g.getLsbD).length
    (lab.cluster 0).loom.queue = [] ∧ lab.hub.scrubOff = false ∧ ({ lab with hub := { lab.hub with scrubOff := true } } : State).hub.scrubOff = true
    ∧ (lab.core 0).mappedOut = false ∧ lab.coreOk 0 = true ∧ (∀ i, (LinkId.mesh 0 1) ≠ .yv i)
    ∧ (l true 0xFF false).up = true ∧ (l true 0xFF true).recovery = true ∧ (l true 0x1F false).good.getLsbD 4 = true
    ∧ count (0x1F &&& ~~~(1#8 <<< 4)) = 4 ∧ count (0x0F &&& ~~~(1#8 <<< 0)) = 3 ∧ (l false 0x0F false).up = false ∧ 4 ≤ count 0x0F
    ∧ (hosted.head 0).up = true ∧ (d.head 0).up = false ∧ (d.head 0).lost = false ∧ (d.head 0).downAt ≠ 0
    ∧ (st.head 0).up = true ∧ (st.head 0).lost = false ∧ (st.head 0).standby = true ∧ (st.head 1).up = false ∧ (st.head 1).lost = false
    ∧ (hosted.head 0).standby = false ∧ (hosted.head 0).lost = false := by decide +kernel
theorem witness_RegionEvents :
    let g (d : Option (Option Bool × Option (Option (BitVec 4) × Word × Word))) : State :=
      (parked (.drain 4) lab).setRegion 4 { lab.region 4 with drain := d, moving := some 2 }
    let a := g (some (some true, none))
    let b := g (some (none, some (some 1, 8, 0)))
    a.canDrain 4 = true ∧ a.region 4 = { lab.region 4 with drain := some (some true, none), moving := some 2 } ∧ b.canDrain 4 = true
    ∧ b.region 4 = { lab.region 4 with drain := some (none, some (some 1, 8, 0)), moving := some 2 } ∧ b.threads.any (fun t => t.live && t.stopped.isNone && t.run == .parked (.drain 4)) = true
    ∧ State.reset.tenants = [] ∧ (a.region 4).moving = some 2 ∧ a.canMigrate 4 = true ∧ (a.region 4).retired = false := by decide +kernel
theorem witness_SecurityRequests :
    let none' : State := { paired with tenants := [] }
    let ten (f : Tenant → Tenant) := setTen f paired
    let empty : State := { hosted with regions := [], queues := [] }
    let leave := ten (fun t => { t with leaving := 2 })
    hosted.headUp 0 = true ∧ (paired.head 0).session = true ∧ none'.tenants = [] ∧ (none'.head 0).session = true ∧ (hosted.head 0).session = false
    ∧ ((ten (fun t => { t with tdisp := .run })).tenant 0).tdisp = .run ∧ ((ten (fun t => { t with tdisp := .locked })).tenant 0).tdisp = .locked
    ∧ (paired.tenant 0).tdisp = .unlocked ∧ ((ten (fun t => { t with tdisp := .error })).tenant 0).tdisp = .error
    ∧ empty.regions = [] ∧ empty.queues = [] ∧ empty.headUp 0 = true
    ∧ (paired.tenant 0).keyed0 = true ∧ (paired.tenant 0).valid = true ∧ (paired.tenant 0).leaving = 0 ∧ paired.headUp 0 = true
    ∧ (hosted.tenant 0).keyed0 = false ∧ ((ten (fun t => { t with tdisp := .locked, nonce := some 5 })).tenant 0).nonce = some 5
    ∧ (leave.tenant 0).valid = true ∧ (leave.tenant 0).leaving = 2 ∧ leave.drained 0 = true ∧ leave.ownsAddr 0 0x41000 = true
    ∧ leave.ownsAddr 0 0x51000 = false := by decide +kernel
theorem witness_HubEvents :
    let at' (n : Nat) : State := { State.reset with hub := { State.reset.hub with stage := n } }
    let free := setTen (fun t => { t with tdisp := .unlocked }) lab
    (at' 0).hub.failedAt = none ∧ (at' 0).hub.stage = 0 ∧ (at' 4).hub.stage = 4 ∧ (at' 3).hub.stage = 3 ∧ (at' 5).hub.stage < 6
    ∧ free.hub.stage = 6 ∧ free.tenants.all (fun p => p.2.tdisp == .unlocked) = true
    ∧ lab.tenants.any (fun p => p.2.tdisp != .unlocked) = true ∧ ({ lab with hub := { lab.hub with d3 := true } } : State).hub.d3 = true
    ∧ hosted.headUp 0 = true := by decide +kernel
/-- Each function at the bounds of its operands. -/
theorem witness_ServiceFunctions :
    let free := setTen (fun t => { t with tdisp := .unlocked }) lab
    let un : State := free.setRegion 5 Region.reset
    let stop := setTen (fun t => { t with stopped := true }) lab
    let out := setTen (fun t => { t with out := true, wasStopped := true }) lab
    let go := setTen (fun t => { t with leaving := 1 }) lab
    let rect : Rect := ⟨15, 0, 7, 0⟩
    lab.hub.stage = 6 ∧ (free.queue 9).service = false ∧ (free.queue 9).valid = false ∧ (free.tenant 0).tdisp = .unlocked
    ∧ ((4#64).extractLsb' 0 5).toNat = 4 ∧ ((16#64).extractLsb' 0 5).toNat = 16
    ∧ rect.ok = true ∧ free.rectClash 0 rect = false ∧ (2 ^ 24 : Word).toNat ≤ 2 ^ 24 ∧ (lab.tenant 0).tdisp = .run
    ∧ (un.tenant 0).valid = true ∧ (0x50000 : Word).toNat < Config.deviceBytes ∧ (8#64).extractLsb' 0 4 = 8 ∧ (un.region 5).owner = none
    ∧ (un.region 5).drain = none ∧ (un.region 5).tier = none ∧ (lab.region 4).drain = none ∧ (stop.tenant 0).stopped = true
    ∧ lab.translate 0 (coreOf ((lab.tenant 0).rect.clusters.headD 0) 0) .read 0x41000 = .ok 0x41000
    ∧ (jobs .idle).hub.stage = 6 ∧ ((jobs .idle).queue 3).valid = true ∧ ((jobs .idle).queue 3).lost = false
    ∧ (0x400000 : Nat) % 2 ^ 21 = 0 ∧ (2 ^ 63 : Word).getLsbD 63 = true
    ∧ (lab.tenant 0).out = false ∧ (lab.tenant 0).stopped = false ∧ (stop.tenant 0).leaving = 0
    ∧ (go.tenant 0).leaving = 1 ∧ go.drained 0 = true ∧ (go.tenant 0).out = false
    ∧ (out.tenant 0).out = true ∧ out.rectClash 0 (out.tenant 0).rect = false ∧ (out.tenant 0).wasStopped = true := by decide +kernel

/-! ### Further witnesses -/

/-- A bundle that had to wait, and a core that has issued in the present cycle (R341). -/
theorem witness_IssuePolicies_tried :
    let b := setThr (fun t => { t with balk := some (.line 0x1000) }) lab
    let i := lab.issued lab.thr [lab.thr.id]
    ((b.find ⟨0, 0⟩).bind Thread.balk).isSome = true ∧ (i.core 0).issuedAt = some i.cyc ∧ (0 : Nat) < 256
    ∧ lab.moves 0 ≠ [] := by decide +kernel
/-- R108: the special operands, powers of two, 1/x too large and not, and a root. -/
theorem witness_VectorMovesElements_special :
    let v (c : Nat) : Val := decodeVal .fp32 c
    VTy.isFp .s = true ∧ v 0x7FC00000 = .nan ∧ v 0xFF800000 = .inf true ∧ v 0x80000000 = .fin true 0 (-149)
    ∧ (v 0xC0400000 matches .fin true (_ + 1) _) = true
    ∧ (v 0x41000000).toInt? = some 8 ∧ holdsPow2 .fp32 8 = true ∧ ltVal (v 0x41000000) (Val.ofInt (Fmt.fp32.shape.2.2 + 1)) = true
    ∧ v 0x40000000 = .fin false (2 ^ 23) (-22) ∧ tooLarge .fp32 (divVal .one (v 1)) = true
    ∧ tooLarge .fp32 (divVal .one (v 0x40400000)) = false := by decide +kernel
/-- With NANF set, each form of O16 has an element that becomes a NaN (the example with a NaN and a negative number). -/
theorem witness_VectorFaults_forms :
    let s := setArch (fun a => { a with sts := a.sts ||| 8 }) (withV [(10, 0xFFFFFFFF7FC00000)] axpy)
    (s.roundedForms .s .h .s .e4m3 false 8 10 3 false false 1).all
      (fun p => p.on s 1 0 && (decodeVal p.f (p.code s 0 1 .rne 0)).isNan) = true := by decide +kernel
/-- A range of a page with a partial in it and a `radd` of another chunk to it. -/
def ranged : State :=
  { withX [(12, 0x1000)] (setTen (fun t => { t with ranges := [⟨0x41000, 0x1000, .s⟩] }) lab) with
    partials := [⟨0x41010, 0, .s, 0x40000000, false⟩]
    others := [mate 7 (fun t => { t with chunk := { t.chunk with radds := [⟨0x41020, 0, .s, 0x3F800000, false⟩] } })] }
theorem witness_ChunkElements_removal :
    let c := ranged.ended { Eff.none with pages := [0x41] }
    eachOf ranged.rangePage ((ranged.tenant 0).crangePages .s 0x41000 0) = .ok [0x41000]
    ∧ ranged.crangePoison [0x41000] = none ∧ ranged.crangeHeld [0x41000] = none
    ∧ ranged.canEnd { Eff.none with pages := [0x41] } = true ∧ (c.tenant 0).crangeCode .s 0x41000 0 = 1
    ∧ c.partials.map Partial.pa = [0x41010] := by decide +kernel
/-- A slot that is armed, one about to be, one that is neither; a wait with and without an arming and a latch; a predecessor
wait with each kind of reservation. -/
theorem witness_WaitInstructions_arms :
    let w := setThr (fun t => { t with latch := 3, took := 2, watches := qput t.watches 1 (some watched), arms := [(2, watched)] }) lab
    let c := w.ended Eff.none
    let l : Launch := ⟨1, 0, 0, 0x40000, false, 0, 0, 1, 1, 0, 2, 0, 0, false, 0, 0, 1, [], false, false, false⟩
    let p (sp : Spot) (m : BitVec 16) : State := setTen (fun t => { t with launches := [l, { l with lid := 2, pred := 0 }] })
      (setThr (fun t => { t with lid := 1, spot := sp, gmask := m }) lab)
    let q (sp : Spot) (m : BitVec 16) : Thread := ((p sp m).ended Eff.none).thr.park ((p sp m).ended Eff.none).cyc .pwait
    (qat c.thr.watches 1).isSome = true ∧ c.thr.arms.map Prod.fst = [2] ∧ (qat c.thr.watches 3).isSome = false
    ∧ c.thr.latch ≠ 0 ∧ ((setThr (fun t => { t with arms := [] }) w).ended Eff.none).thr.arms = []
    ∧ w.canEnd Eff.none = true ∧ (p .held 1).canEnd Eff.none = true
    ∧ ((p .held 1).ended Eff.none).predDone ((p .held 1).ended Eff.none).thr = false
    ∧ (lab.ended Eff.none).predDone (lab.ended Eff.none).thr = true
    ∧ (q .held 1).spot = .held ∧ (q .held 1).packable = false ∧ (q .held 0).packable = true ∧ (q .none 0).spot = .none := by
  decide +kernel
/-- `live` beside an instruction of the A slot. -/
theorem witness_ThreadEnds_live :
    let s := setThr (fun t => { t with aslot := .done (t.arch.setX 4 99) }) (withX [(12, 0xFFFFFFFF00000015)] lab)
    let m : BitVec 32 := (s.thr.arch.getX 12).setWidth 32 &&& ~~~1
    s.canEnd (Eff.regs (fun r => { r with live := m, x := (r.x.zipIdx).map (fun p => if p.2 = 0 ∨ m.getLsbD p.2 then p.1 else 0) })) = true
    ∧ m = 0x14 ∧ s.thr.pending.getX 4 = 99 := by decide +kernel
/-- `xchg` that waits while an arming is under way, one that finds its own latch, and one to a thread on the move. -/
theorem witness_ThreadStarts_xchg :
    let t := setTen (fun k => { k with indent := k.indent ++ [(0, [⟨0, 7, 0, 0x3F⟩])] }) (withX [(12, 7), (13, 0x102)] (team id))
    let m := { t with others := [mate 7 (fun u => { u with place := .moving 3 })] }
    let a := arming 1 watched t
    let l := withX [(12, 0)] (setTen (fun k => { k with indent := k.indent ++ [(0, [⟨0, 7, 0, 0x3F⟩])] }) t)
    let c (s : State) : State := s.ended Eff.none
    let may (s : State) (r : BitVec 24) : Bool := (((c s).tenant 0).rights 0 r).getLsbD 4
    t.canEnd Eff.none = true ∧ (c t).find ⟨0, 7⟩ = some (mate 7 id) ∧ may t 7 = true ∧ may m 7 = true ∧ may l 0 = true
    ∧ (0x102#64).getLsbD 8 = true ∧ ((c t).sendPoke (mate 7 id) 2).thr.arms = [] ∧ ((c t).sendPoke (mate 7 id) 2).thr.latch = 0
    ∧ ((c a).sendPoke (mate 7 id) 2).thr.arms ≠ [] ∧ ((c m).find ⟨0, 7⟩).map Thread.place = some (.moving 3)
    ∧ ((c l).find ⟨0, 0⟩).map (fun u => ((c l).sendPoke u 2).thr.latch) = some 4 := by decide +kernel
/-- The lab with link 0 up and a fabric window at 0x40_0000 onto module `m`. -/
def abroad (m : BitVec 8) : State := setTen (fun t => { t with fabric := [⟨0x400000, 21, m, 1, 0, false⟩] }) joined
theorem abroad_pages : ∀ m : BitVec 8, let pa := fabBase + (256 + m.toNat) * 2 ^ 57
    (abroad m).xlate .read 0x400000 = .ok pa ∧ (abroad m).xlate .write 0x400000 = .ok pa ∧ isIo pa = false ∧ isFab pa = true
    ∧ (abroad m).canEnd { Eff.none with pages := [0x400] } = true ∧ farModuleOf pa = m
    ∧ (abroad m).link 0#4 = ⟨true, 0xFF, false⟩ := by decide +kernel
/-- Loads, stores and atomics to another module, whose link is up (R332, R334). -/
theorem witness_abroad : ∃ (s : State) (pa : Nat), s.xlate .read 0x400000 = .ok pa ∧ s.xlate .write 0x400000 = .ok pa
    ∧ isIo pa = false ∧ isFab pa = true ∧ s.canEnd { Eff.none with pages := [0x400] } = true ∧ s.carries (farModuleOf pa) = true :=
  have h := abroad_pages (Config.farModule 0)
  ⟨_, _, h.1, h.2.1, h.2.2.1, h.2.2.2.1, h.2.2.2.2.1, by rw [h.2.2.2.2.2.1]; exact carries_first _ h.2.2.2.2.2.2⟩
/-- A join to a domain that is there, to a new one, and 1,024 domains (R260). -/
theorem witness_BarriersAndDomains_join :
    let full := setTen (fun t => { t with domains := (List.range 1024).map (fun i => ⟨.launch (i + 1) 0, [], 0, [], 0, [], [], false, 0⟩) }) lab
    let some1 := setTen (fun t => { t with domains := [⟨.core 0 0, [⟨7, 0, true, false⟩], 2, [(7, 2)], 5, [0], [], false, 0⟩] }) lab
    let c (s : State) : State := s.ended Eff.none
    let m : Word := 0x2000000000200000
    memberOk m = true ∧ (c lab).thr.domainKind m = some (.core 0 0) ∧ (c lab).rectOk (c lab).thr (.core 0 0) = true
    ∧ (c lab).rectTaken (c lab).thr (.core 0 0) = false ∧ ((c full).tenant 0).domainIn 0 (m.extractLsb' 59 2) = none
    ∧ ((c full).tenant 0).domains.any (fun x => x.kind == .core 0 0) = false
    ∧ (((c full).tenant 0).domains.filter (fun x => match x.kind with | .rect _ _ _ _ => false | _ => true)).length = 1024
    ∧ ((c some1).tenant 0).domains.any (fun x => x.kind == .core 0 0) = true
    ∧ ((c some1).tenant 0).domainIn 0 (m.extractLsb' 59 2) = none := by decide +kernel
/-- An element behind an atomic of its thread, one that is not, and one for another module with its acknowledgement. -/
theorem witness_DrayEvents_order :
    let a : Amop := ⟨⟨0, 0⟩, 0, 0x40200, .max, .w, 0x41008, 0x41008, 5, 1⟩
    let s (n : Nat) : State := { lab with net := { lab.net with
      amops := [a], packets := [{ packet 1 with elems := [{ elemR .set with behind := n }] }] } }
    let free (n : Nat) : Bool := ((s n).net.amops ++ (s n).net.awayAmops).all (fun a =>
      a.id != ⟨0, 0⟩ || lineOf a.pa != lineOf 0x41000 || decide (n ≤ a.seq))
    free 1 = true ∧ free 2 = false ∧ (s 1).granted none 0x41000 = true
    ∧ ({ lab with net := { lab.net with away := [packet 1], awayAmops := [a] } } : State).net.away.length = 1
    ∧ (lab.posted ⟨0, 0⟩).homePoison 0 0x41000 = none
    ∧ (({ lab with poison := [(0x1040, 1)] } : State).posted ⟨0, 0⟩).homePoison 0 0x41000 = some 1 := by decide +kernel
/-- The last arming of a thread that waits, one of two, and the three codes of a wait. -/
theorem witness_WakeEvents_codes :
    let r : ThreadId := ⟨0, 0⟩
    let w : Watch := ⟨.geu, 0x41008, 0x41008, 1, false, false⟩
    let a (l : List (BitVec 2 × Watch)) : State := parked (.xchg 1) (setThr (fun t => { t with arms := l }) lab)
    let k (c : Nat) (f : Thread → Thread) : State :=
      { parked (.wait 1 none) (setThr f lab) with net := { lab.net with wakes := [⟨r, c⟩] } }
    let lost (t : Thread) : Thread := { t with lost := true }
    let took (t : Thread) : Thread := { t with latch := 6, took := 2 }
    ((a [(3, w)]).thr.arms.head?) = some (3, w) ∧ (a [(3, w)]).granted (some r) w.pa = true ∧ (a [(3, w)]).thr.inWait = true
    ∧ ((a [(3, w), (2, w)]).thr.arms.erase (3, w)) ≠ [] ∧ (a [(3, w)]).thr.stopped = none
    ∧ (k 12 lost).thr.lost = true ∧ (k 12 lost).thr.arms = [] ∧ (k 10 took).thr.latch &&& (k 10 took).thr.took ≠ 0
    ∧ (k 10 took).thr.lost = false ∧ (k 12 lost).net.wakes[0]? = some ⟨r, 12⟩ ∧ (k 10 took).net.wakes[0]? = some ⟨r, 10⟩
    ∧ (k 1 (fun t => { t with latch := 4 })).thr.latch &&& (k 1 id).thr.took = 0 := by decide +kernel
/-- Poison at the home of a queue's counters, of a stamp and of a barrier's word (R181). -/
theorem witness_QueueAndBarrierEvents_poison :
    let r : ThreadId := ⟨0, 0⟩
    let bad : State := { poke 0x41058 8 5 (poke 0x41208 8 5 (ring .none lab)) with poison := [(0x1040, 3), (0x1041, 1), (0x1048, 2)] }
    let q := asking (.reserve 2 true) bad
    let p := asking (.stamp 2 0x41208 0x41208 6) bad
    let b := asking (.bar 1 0x41000 0x41000 4 0 0x40000) bad
    q.find r = some q.thr ∧ q.granted (some r) 0x41040 = true ∧ q.homePoison 0 0x41040 = some 1
    ∧ q.translate 0 0 .write (q.thr.handle 2).line = .ok 0x41040
    ∧ p.find r = some p.thr ∧ p.granted (some r) 0x41208 = true ∧ (p.posted r).homePoison 0 0x41208 = some 2
    ∧ b.find r = some b.thr ∧ b.granted (some r) 0x41000 = true ∧ (b.posted r).homePoison 0 0x41000 = some 3 := by decide +kernel
/-- A reserved position, a command of the weighmaster that moves a thread and those that move none, and a thread that comes
from a failed core with and without a docket that waits. -/
theorem witness_PlacementEvents_moves :
    let e := setThr (fun t => { t with early := true, spot := .held }) (parked .pwait lab)
    let w : State := parked (.wait 1 none) { lab with cyc := 9000, others := [mate 7 id] }
    let s2 : State := { w with cyc := max 9000 (w.hub.weighAt + 4096), hub := { w.hub with weighAt := max 9000 (w.hub.weighAt + 4096) } }
    let c : State := lofted (fun t => { t with place := .save }) lab
    let m (o : List Thread) : State := { setThr (fun t => { t with place := .moving 1 }) lab with others := o }
    let d := mate 7 (fun t => { t with place := .loft, woken := some 3 })
    let k : Thread := { lab.thr with run := .retained, arch := { lab.thr.arch with live := 0xFFFE } }
    e.canPack e.thr = true ∧ e.thr.takesSpot = true ∧ e.docketSize e.thr - 1 ≤ e.loftFree 0
    ∧ k.arch.liveRegs.length ≤ 16 ∧ 16 < ({ k.arch with live := 0xFFFFFFFE } : Arch).liveRegs.length
    ∧ (s2.movable 0).take 5 = [s2.thr] ∧ w.coreOk 1 = true ∧ clusterOf 0 = clusterOf 1 ∧ clusterOf 0 ≠ clusterOf 20
    ∧ (State.movable { lab with cyc := 4096 } 0) = [] ∧ s2.docketSize s2.thr ≤ s2.loftFree 0
    ∧ c.canResume c.thr = true ∧ c.slotFor 0 (some 0) = some (0, 0) ∧ c.thr.place ≠ .loft
    ∧ (m []).thr.core ≠ 1 ∧ (m []).resident.any ((m []).wantsSlot 0) = false ∧ (m []).slotFor 0 (some 1) = some (1, 0)
    ∧ (m [d]).resident.any ((m [d]).wantsSlot 0) = true := by decide +kernel
/-- An entry whose page is missing and one whose page is refused, and a service request whose drain goes on and is over. -/
theorem witness_FactorThread_pages :
    let f (n : Word) : List Word := [0, 0, 0, 0, 0, 0, 0, 1 + 256 * n, 0x41000, 1, 0, 0, 0, 0, 0, 0]
    let d (b : Bool) : State := ((jobs .idle).setQueue 0 { HostQueue.serviceReset 0 with st := .draining (f 4) 4 }).setRegion 4
      { lab.region 4 with drain := if b then some (some true, none) else none }
    let v (a : Word) : State := jobs (.validating false (job.set 0 a))
    let no : State := setTen (fun t => { t with refused := [((v 0x60000).baseCore 0, 0x60)] }) (v 0x60000)
    (v 0x60000).launchCode 3 false (job.set 0 0x60000) = 5
    ∧ ((v 0x60000).pageMissing 0 ((v 0x60000).baseCore 0) .fetch 0x60000).isSome = true
    ∧ no.launchCode 3 false (job.set 0 0x60000) = 5 ∧ no.pageMissing 0 (no.baseCore 0) .fetch 0x60000 = none
    ∧ ((d true).queue 0).st = .draining (f 4) 4 ∧ ((d true).region 4).drain ≠ none ∧ ((d false).region 4).drain = none
    ∧ (d false).statusHeld 0 0 = false ∧ recFunc (f 4) = 4 ∧ recFunc (f 3) = 3 := by decide +kernel
/-- A caller that stops itself, registers that are kept and lost, and a lost root. -/
theorem witness_ThreadStateEvents_kept :
    let n : ThreadId := ⟨0, 0⟩
    let me : State := { parked .result lab with net := { lab.net with reqs := [⟨n, 9, 0, .stop⟩], results := [⟨n, 9, 0, true⟩] } }
    let p (t : Thread) : Thread := held { t with place := .loft, arch := { t.arch with live := 0xFFFE0004 } }
    let r (l : BitVec 32) (t : Thread) : Thread := { t with run := .retained, arch := { t.arch with live := l } }
    let h (t : Thread) : Thread := { t with run := .retained, hollow := true }
    me.net.reqs[0]? = some ⟨n, 9, 0, .stop⟩ ∧ me.find n = some me.thr ∧ me.thr.stopped = none ∧ me.thr.run = .parked .result
    ∧ me.net.results[0]? = some ⟨n, 9, 0, true⟩
    ∧ (asked (.read 2) p).find ⟨0, 7⟩ = some (mate 7 p) ∧ (mate 7 p).packed = true ∧ (mate 7 p).hollow = false
    ∧ 2 ∈ (mate 7 p).arch.liveRegs.take 16 ∧ 1 ∉ (mate 7 p).arch.liveRegs.take 16 ∧ (mate 7 p).stopped ≠ none
    ∧ (mate 7 (r 0xFFFE)).arch.liveRegs.length ≤ 16 ∧ 16 < (mate 7 (r 0xFFFFFFFE)).arch.liveRegs.length
    ∧ 31 ∉ (mate 7 (r 0xFFFFFFFE)).arch.liveRegs.take 16
    ∧ (asked (.read 35) h).find ⟨0, 7⟩ = some (mate 7 h) ∧ (mate 7 h).hollow = true ∧ (mate 7 h).run = .retained := by decide +kernel
/-- A `tmult` of a warp of more rows than columns, and the two activations. -/
theorem witness_TileResults_more :
    let t := weaving 1 (loomed (.tmult 0 0) 0 0 .started) (fun l =>
      { (l.setWarp 0 ⟨some (8, 0), [(0, (0x20, 0))]⟩) with weft := ⟨some (8, 0), [(0, (0x20, 0))]⟩ }) lay
    let g (op : LoomOp) := weaving 1 (loomed op 0 0 .started) (fun l => l.setTile 0 ⟨.fp32, [(0, 0x3F800000)]⟩) lay
    let c (s : State) : Option LoomCmd := (s.cluster 0).loom.queue[0]?
    ((t.cluster 0).loom.warp 0).fmt = some (8, 0) ∧ (t.cluster 0).loom.weft.fmt = some (8, 0) ∧ (warpShape 8).2 < (warpShape 8).1
    ∧ (c t).map LoomCmd.op = some (.tmult 0 0) ∧ (c (g (.gelu 0))).map LoomCmd.op = some (.gelu 0)
    ∧ (c (g (.silu 0))).map LoomCmd.op = some (.silu 0) ∧ (c t).map LoomCmd.phase = some .started := by decide +kernel
/-- A loom of cluster 0 with one started command of a thread that has a daybook at 0x4_1000, whose first header is `h`. -/
def bound (op : LoomOp) (a b : Word) (h : List Word) (f : LoomCmd → LoomCmd) : State :=
  let s := setArch (fun a => { a with dbk := 0x0000200000000041 }) lay
  weaving 1 (f { s.thr.loomCmd op a b with phase := .started })
    (fun l => (l.setTile 0 ⟨.fp32, [(0, 0x40000000), (1, 0xC0300000)]⟩))
    { s with mem := memWriteAll s.mem (cellsFrom 0x41000 (wordsBytes h)) }
/-- The header of a daybook of the root, with its status word and count. -/
def header (d n : Word) : List Word := [0x11, d, 64 + 64 * n, n, 0, 0, 0, 0x4B425944]
/-- The command of that loom. -/
def atWork (s : State) : LoomCmd := (s.cluster 0).loom.queue.headD (loomed .tdrop 0 0 .started)
/-- The piece to which an engine's write goes. -/
def lands (s : State) (va n : Nat) : Option (List (Nat × Nat)) :=
  match s.engPieces (atWork s).id (atWork s).core .write false va n with | .ok l => some l | .error _ => none
/-- The premises that all events of a started command share. -/
theorem witness_LoomEvents_alone :
    let s := bound .tdrop 0 0 (header 0 0) id
    ((s.cluster 0).loom.owner.map s.crewLives) = some true ∧ (s.cluster 0).loom.queue = [atWork s] ∧ (s.cluster 0).loom.st = 1
    ∧ (atWork s).phase = .started ∧ (s.cluster 0).loom.mapped = false ∧ (atWork s).unrecorded = true ∧ (atWork s).nanf = false
    ∧ lands s 0x41000 64 = some [(0x41000, 64)] ∧ isFab 0x41000 = false ∧ isHost 0x41000 = false := by decide +kernel
/-- A line of an operand that is read, one that is poisoned, and operands that are all there. -/
theorem witness_LoomEvents_loads :
    let w (op : LoomOp) : State := bound op 0xC000000000041100 0x0002000400000002 (header 0 0) id
    let need (s : State) : List Nat := ((atWork s).readArgs (isWide 0)).flatMap (fun g => g.needed (atWork s).swin)
    let first (s : State) : Option Nat := (need s).find? (fun a => (tfind (atWork s).buf a).isNone)
    let bad (s : State) : State := { s with poison := [(0x1044, 1)] }
    let read (s : State) : Bool := match s.bookLine (atWork s) ((first s).getD 0) (need s) (atWork s).buf with
      | .ok _ => true | .error (.flt _) => false | .error _ => false
    let all (s : State) : Bool := match exec (.loomCommandComplete 0 2) s with
      | .next u => (need u).all (fun a => (tfind (atWork u).buf a).isSome) | _ => false
    first (w (.twarp 0)) = some 0x41100 ∧ read (w (.twarp 0)) = true ∧ read (bad (w (.twarp 0))) = false
    ∧ ((atWork (w (.twarp 0))).readArgs (isWide 0)).length = 1 ∧ ((atWork (w .tlda)).readArgs (isWide 0)).length = 1
    ∧ all (w (.twarp 0)) = true ∧ all (w .tlda) = true := by decide +kernel
/-- The stores of `tred`, `tst` and `tsync`: the first line, the last, and a block with its scale byte. -/
theorem witness_LoomEvents_stores :
    let r (n : Nat) : State := bound (.tred 0) 0x6000000000041138 0 (header 0 0) (fun c => { c with pos := n })
    let t (n : Nat) : State := bound (.tst 0) 0x7000000000041200 0x0002000200000004 (header 0 0) (fun c => { c with pos := n })
    let b (l : List (Nat × List Byte)) : State := bound (.tst 0) 0xBA00000000100040 0x0020000100000020 (header 0 0)
      (fun c => { c with pend := l, swin := vlab.thr.arch.swin })
    let o (s : State) : TileArg := TileArg.shaped (atWork s).opa (atWork s).opb tstFmt 64 512 true
    ((r 0).cluster 0).loom.tile 0 = ⟨.fp32, [(0, 0x40000000), (1, 0xC0300000)]⟩ ∧ TFmt.width .fp32 = 512 ∧ (atWork (r 512)).pos = 512
    ∧ lands (r 0) 0x41138 8 = some [(0x41138, 8)] ∧ (o (t 0)).rows * (o (t 0)).cols = 4 ∧ (atWork (t 4)).pos = 4
    ∧ pBlk (o (t 0)).ptr = 0 ∧ lands (t 0) 0x41200 4 = some [(0x41200, 4)]
    ∧ pBlk (o (b [])).ptr ≠ 0
    ∧ (scaleAddr (atWork (b [])).swin (pBlk (o (b [])).ptr).toNat (fmtBits (pFmt (o (b [])).ptr)) 0x100040).isSome = true
    ∧ (atWork (b [(0x41300, [1])])).pend = [(0x41300, [1])] ∧ lands (b []) 0x41300 1 = some [(0x41300, 1)]
    ∧ lands (r 0) 0x41240 8 = some [(0x41240, 8)] := by decide +kernel
/-- Headers that are the command's own and not, at each step of `trec` and `unwind`. -/
theorem witness_LoomEvents_book :
    let s (op : LoomOp) (d : Word) (f : LoomCmd → LoomCmd) : State := bound op 0x41240 0 (header d 2) f
    let mine (s : State) : Option Bool := match s.bookHeader (atWork s) with | .ok (_, h) => some (h.mine (atWork s)) | .error _ => none
    let pol (s : State) : Bool := match s.bookHeader (atWork s) with
      | .ok (_, h) => (List.range 4).all (fun r => policyCode (h.policy.extractLsb' 0 8) r != 3) | .error _ => false
    let w (i n : Nat) : State := s .unwind 0x330000 (fun c => { c with swept := some (i, 2), hdr := some (0x330000, 2), pos := n })
    let e : List Word := [0x0001000000002D10, 0, 0x4000000040000000, 0, 0, 0, 0x100, 0]
    let sc (n : Nat) : State := s .unwind 0x330000 (fun c => { c with
      swept := some (1, 2), hdr := some (0x330000, 2), pos := n, marks := [64]
      buf := (List.range 64).map (fun i => (0x41040 + i, (wordsBytes e).getD i 0)) })
    mine (s .trecOn 0x330000 id) = some true ∧ pol (s .trecOn 0x330000 id) = true
    ∧ mine (s .trecOn 0x1000000 id) = some false ∧ mine (s .trecOff 0x330001 id) = some true
    ∧ lands (s .trecOn 0 id) 0x41008 8 = some [(0x41008, 8)] ∧ (atWork (s .trecOn 0 id)).book = 0x41000
    ∧ mine (s .unwind 0x330001 id) = some true ∧ mine (s .unwind 0x1330001 id) = some false ∧ (atWork (s .unwind 0 id)).swept = none
    ∧ (atWork (w 0 0)).swept = some (0, 2) ∧ (atWork (w 0 2)).pos = 2 ∧ lands (w 0 1) 0x41028 8 = some [(0x41028, 8)]
    ∧ (match (atWork (sc 0)).entry 0 with | .ok e => e.op | .error _ => none) = some (.scale 0) ∧ (atWork (sc 1)).pos ≠ 0
    ∧ lands (sc 1) 0x41020 8 = some [(0x41020, 8)] := by decide +kernel
/-- A porter's command on an index list at 0x4_1500 with indices 2, 9 and 1, whose header is `h`. -/
def onList (k : PortKind) (w3 h : Word) (st : Nat) (f : PorterCmd → PorterCmd) : State :=
  porting st (f { portCmd k 0x6000000000041000 0x41500 0x41300 w3 .started with hdr := some (3, false, 8, 0x77) })
    (poke 0x41518 4 2 (poke 0x4151C 4 9 (poke 0x41520 4 1 (poke 0x41500 8 h (poke 0x41508 8 8 (poke 0x41510 8 0x77 lab))))))
/-- The porter's command, and a piece that it reaches. -/
def portWork (s : State) : PorterCmd := ((s.cluster 0).porter 1).queue.headD (portCmd .fill 0 0 0 0 .arrived)
def reaches (s : State) (k : Acc) (va n : Nat) : Option (List (Nat × Nat)) :=
  match s.engPieces (portWork s).id (portWork s).core k true va n with | .ok l => some l | .error _ => none
/-- A start: kinds without a list, a list whose header is good, and one that stands at an odd address (R213, R215). -/
theorem witness_PorterEvents_start :
    let s (h : Word) : State := onList .gath 0x41041 h 0 (fun c => { c with phase := .arrived, hdr := none })
    let odd : State := onList .gath 0x41041 3 0 (fun c => { c with phase := .arrived, hdr := none, w1 := 0x41504 })
    let hd (s : State) : Word := BitVec.ofNat 64 (bytesNat (s.engBytes [(0x41500, 24)]).2)
    ((s 3).cluster 0).porter 1 = { Porter.reset with st := 0, pacc := 1, queue := [portWork (s 3)] } ∧ (portWork (s 3)).phase ≠ .started
    ∧ reaches (s 3) .read 0x41500 24 = some [(0x41500, 24)] ∧ (hd (s 3)).extractLsb' 33 31 = 0
    ∧ ((hd (s 3)).extractLsb' 0 32).toNat ≤ 2 ^ 24 ∧ ((hd (s 0x1000000)).extractLsb' 0 32).toNat = 2 ^ 24
    ∧ (match odd.readHeader (portWork odd) with | .error (.flt _) => true | _ => false) = true := by decide +kernel
/-- The lines that a command has read. -/
def have' (l : List Nat) (c : PorterCmd) : PorterCmd := { c with lines := l.map (fun a => (a / 64, List.replicate 64 0)) }
/-- The steps of each kind: a line that is not there, all that are there, indices inside and outside the bound, and outputs
that are due. -/
theorem witness_PorterEvents_steps :
    let got (k : PortKind) (p : Nat) : State := onList k 0x41041 3 1 (fun c => { have' [0x41500, 0x41300] c with pos := p })
    let want (c : PorterCmd) : Bool := c.wants.all (fun x => (tfind c.lines (x.1 / 64)).isSome && (aligned x.1 x.2.2 matches .ok ()))
    let first (c : PorterCmd) : Option (Nat × Word × Nat) := c.wants.find? (fun x => (tfind c.lines (x.1 / 64)).isNone)
    let cp : PorterCmd := portCmd .copy 0x41001 0x41330 70 0 .started
    let ct : PorterCmd := portCmd .copyt 0x6000000000041000 0x7000000000041300 5 0 .started
    let fl : PorterCmd := portCmd .fill 5 0x4133E 70 0 .started
    let o : PortOut := ⟨0x41340, 8, false, 1, true, false⟩
    ((first cp).map (fun q => (q.1, aligned q.1 q.2.2 matches .ok ()))) = some (0x41001, true) ∧ cp.due = false
    ∧ want (have' [0x41000, 0x41040] cp) = true ∧ (have' [0x41000] cp).pend = [] ∧ fl.pend = [] ∧ fl.pos < fl.total
    ∧ want (have' [0x41000] ct) = true ∧ pBlk ct.w0 = 0 ∧ pBlk ct.w1 = 0 ∧ 8 ≤ fmtBits (pFmt ct.w0) ∧ ct.raw = [] ∧ ct.due = false
    ∧ (∀ k ∈ ([.gath, .scat, .scadd] : List PortKind), want (portWork (got k 0)) = true ∧ (portWork (got k 0)).due = false
      ∧ (portWork (got k 0)).outside 2 = false ∧ (portWork (got k 0)).outside 8 = true)
    ∧ aligned (portWork (got .gath 0)).bufVa 4 = .ok () ∧ reaches (got .gath 0) .read 0x41008 4 = some [(0x41008, 4)]
    ∧ reaches (got .scat 0) .write 0x41008 4 = some [(0x41008, 4)] ∧ ({ fl with pend := [o], pos := 69 }).due = true
    ∧ (match (got .scat 0).engAt lab.thr.id 0 .write true (0x41340, 1) with | .ok pa => pa | .error _ => 0) = 0x41340 := by decide +kernel
/-- The ends of a command for each CMODE, one that faults, and one that an abandon leaves to wait for its acknowledgements. -/
theorem witness_PorterEvents_ends :
    let e (w3 : Word) (a : Bool) : State := onList .scat w3 3 1 (fun c => { c with pos := 3, oob := 1, abandon := a })
    let r (v : Word) (un : Nat) : State := lab.setCluster 0 ((lab.cluster 0).setPorter 1 { Porter.reset with
      st := 2, pacc := 1, pfcmd := 1, pfpos := 3, pres := v
      queue := [{ portCmd .copy 0x41000 0x41300 9 0x41042 .started with pos := 3, unacked := un }] })
    (([0, 0x41041, 0x41042] : List Word).all (fun m => decide ((portWork (e m false)).total ≤ (portWork (e m false)).pos)
      && (portWork (e m true)).unacked == 0 && (((e m true).cluster 0).porter 1).st != 2)) = true
    ∧ (0x41041#64).extractLsb' 0 3 = 1 ∧ (0x41042#64).extractLsb' 0 3 = 2
    ∧ reaches (e 0x41041 true) .write 0x41040 8 = some [(0x41040, 8)] ∧ reaches (e 0x41042 false) .read 0x41040 8 = some [(0x41040, 8)]
    ∧ (match (e 0x46002 true).completion (portWork (e 0x46002 true)) with | .error (.flt _) => true | _ => false) = true
    ∧ ((r 2 0).cluster 0).porter 1 = { Porter.reset with st := 2, pacc := 1, pfcmd := 1, pfpos := 3, pres := 2, queue := [portWork (r 2 0)] }
    ∧ (portWork (r 3 0)).unacked = 0 ∧ 0 < (portWork (r 3 2)).unacked ∧ (((r 1 0).cluster 0).porter 1).pres = 1 := by decide +kernel
/-- An access that is held, a peer's access in one part and in two, and atomics from another module. -/
theorem witness_HostAccesses_held :
    let held : State := { hosted with net := { hosted.net with inbound := [⟨.host 0, 0x41000, .write [some 1] false, none, false⟩] } }
    let ok (s : State) (w : Asker) (pa : Nat) : Bool := s.granted none pa && s.net.inbound.all (fun x => !x.before ⟨w, pa, .read 0, none, false⟩)
    let parts (o : InOp) (va : Nat) : Option (List (Nat × Nat × Nat)) :=
      match peered.peerParts 0 o.acc va o.len with | .ok l => some l | .error _ => none
    let no := setTen (fun t => { t with tdisp := .unlocked }) peered
    let am : InOp := .atomic (some .add) .d 0 5
    isDevice 0x41000 = true ∧ ok held (.host 0) 0x41000 = false ∧ ok hosted (.snoop 0) (hostAddr 0 0x1000) = true
    ∧ parts (.read 3) 0x4103F = some [(0x4103F, 0x4103F, 1), (0x41040, 0x41040, 2)] ∧ ok peered (.peer 0) 0x41000 = true
    ∧ (no.tenant 0).tdisp ≠ .run ∧ am.len = 8 ∧ parts am 0x41008 = some [(0x41008, 0x41008, 8)] ∧ ok peered (.far 3) 0x41008 = true
    ∧ (InOp.write (two.map some) false).len = 2 ∧ peered.poisonOf 0x41008 = none
    ∧ peered.net.late.all (fun x => x.tn != 0) = true := by decide +kernel
/-- The lab with link 0 up and a range that it exports to module `m`. -/
def exporting (m : BitVec 8) : State := setTen (fun t => { t with fabric := [⟨0x41000, 21, m, 1, 0, true⟩] }) joined
theorem exporting_to : ∀ m : BitVec 8, ((exporting m).tenant 0).exportAt m 1 0x41000 2 = true
    ∧ ((exporting m).tenant 0).exportAt m 2 0x41000 2 = false ∧ (exporting m).link 0#4 = ⟨true, 0xFF, false⟩ := by decide +kernel
/-- An access from a module whose link is up, inside and outside what is exported to it, and the answers for a load and for
atomics that went there (R332 to R334). -/
theorem witness_HostAccesses_far :
    let m := Config.farModule 0
    let pa := fabBase + m.toNat * 2 ^ 57
    let t (p : Post) (r : RunState) : State := setThr (fun t => { t with post := some p, run := r }) joined
    (exporting m).carries m = true ∧ ((exporting m).tenant 0).exportAt m 1 0x41000 2 = true
    ∧ ((exporting m).tenant 0).exportAt m 2 0x41000 2 = false
    ∧ (t (.fabLoad .w 9 0x50000 pa 0x40000) (.parked .result)).carries (farModuleOf pa) = true
    ∧ (t (.amo .fadd .w 9 0x50000 pa 7 0x40000) .ready).carries (farModuleOf pa) = true
    ∧ (t (.cas .w 9 0x50000 pa 7 8 0x40000) .ready).carries (farModuleOf pa) = true := by
  have h := exporting_to (Config.farModule 0)
  refine ⟨carries_first _ h.2.2, h.1, h.2.1, ?_, ?_, ?_⟩
  all_goals (rw [farModuleOf_fab]; exact carries_first _ rfl)
/-- Links that are down, and the words of a message signalled interrupt. -/
theorem witness_HostAccesses_words :
    let down : State := { lab with links := [] }
    (⟨7, ⟨0, 0⟩, 0, 0, .packet []⟩ : FabricAccess).op = .packet [] ∧ (0x403F4 : BitVec 24).toNat = 0x40000 + 16 * 63 + 4
    ∧ (0x403FC : BitVec 24).toNat = 0x40000 + 16 * 63 + 12 ∧ (hosted.head 0).pba.getLsbD 63 = false ∧ down.links = []
    ∧ (0 : Word) &&& 0x01FFFFFFFFFFFF8F#64 = 0 ∧ hosted.serviceIdle 0 = true := by decide +kernel
/-- A request that is outstanding, for a page that the tables hold and for one that they do not, and an engine's request. -/
theorem witness_TranslationEvents_asked :
    let a (v : Nat) : State := lab.askPage 0 0 v
    let e : State := setTen (fun t => { t with priWait := [(7, 0x50)] }) { lab with others := [mate 7 id] }
    (0, 0, 0x41) ∈ (a 0x41).asked 0 ∧ (0, 0, 0x99) ∈ (a 0x99).asked 0 ∧ (0, 0, 0x41) ∉ lab.asked 0
    ∧ (tfind (((a 0x41).askedDone 0 0 0x41).tenant 0).ptab 0x41).isSome = true
    ∧ tfind (((a 0x99).askedDone 0 0 0x99).tenant 0).ptab 0x99 = none
    ∧ (e.find ⟨0, 7⟩).bind Thread.priWait = none ∧ (e.tenant 0).priWait.find? (fun p => p.1 == 7) = some (7, 0x50) := by decide +kernel
/-- A loom whose earliest command has started, a link in recovery, and a host that is lost. -/
theorem witness_FailureEvents_more :
    let s (p : CmdPhase) : State := weaving 1 (loomed .tsync 0x41240 0 p) id lay
    let head (s : State) : Option CmdPhase := ((s.cluster 0).loom.queue.find? (fun k => k.phase != .done)).map LoomCmd.phase
    let i : Inbound := ⟨.host 0, 0x41000, .read 8, none, false⟩
    let z : State := { hosted with net := { hosted.net with inbound := [i] } }
    let gone := setTen (fun t => { t with hostLost := true }) (setH (fun h => { h with up := false, downAt := 8, lost := true }) hosted)
    head (s .started) = some .started ∧ head (s .sent) = some .sent ∧ ((s .started).cluster 0).loom.st ≠ 2
    ∧ (loomed .tsync 0x41240 0 .started).op ≠ .unwind ∧ z.net.inbound = [i] ∧ z.net.late = []
    ∧ (lab.region 4).tier ≠ none ∧ (State.reset.region 5).tier = none
    ∧ (LinkId.mesh 0 1) ≠ .yv 1 ∧ (gone.head 0).up = false ∧ gone.tenants.any (fun p => p.2.hostLost) = true
    ∧ hosted.tenants.any (fun p => p.2.hostLost) = false := by decide +kernel
/-- The end of an epoch: a hot far region alone, one that stays, and a tenant with a hint ring; a region on the move. -/
theorem witness_RegionEvents_epoch :
    let k : Region := { lab.region 4 with tier := some 8, counts := [100, 300, 200], moving := none }
    let s : State := { lab with tenants := [], regions := [(4, k)] }
    let hr : Hints := ⟨0x41000, 6, 2, 7⟩
    let h : State := { setTen (fun t => { t with hints := some hr, ptab := [(64, ⟨0x50000, true, true, false, false⟩)] }) lab with
      regions := [(5, { k with tier := some 1, hostCount := 2, hinted := false })] }
    let m : State := lab.setRegion 4 { k with tier := some 8, moving := some 2, retired := false }
    k.pinned = false ∧ 512 ≤ k.counts.sum ∧ mostOf k.counts = 1
    ∧ (s.nearAfter 1 + s.hub.lostFrames.count 1 + 1) * 65536 ≤ Config.nearBytes
    ∧ (h.tenants.map Prod.fst) = [0] ∧ (h.tenant 0).hints = some hr ∧ (h.tenant 0).vregions = [(4, 5)]
    ∧ hr.hintt ≤ (h.region 5).hostCount ∧ isDevice (5 * 65536) = true ∧ h.blocked none (lineOf hr.ring) = false
    ∧ h.hostGone hr.ring = false ∧ (h.readN 0x41000 8 - h.readN 0x41008 8).toNat < 2 ^ 64
    ∧ (m.region 4).moving = some 2 ∧ m.canMigrate 4 = true := by decide +kernel
/-- Tenants with a key in each state, a head that is down, and the first step of a stop. -/
theorem witness_SecurityRequests_keys :
    let p (d : Tdisp) : State := setTen (fun t => { t with tdisp := d }) paired
    let busy : State := { p .run with net := { paired.net with packets := [packet 2] } }
    let late := setTen (fun t => { t with leaving := 2 }) busy
    ((p .run).tenant 0).keyed0 = true ∧ ((p .run).head 0).session = true ∧ ((p .locked).tenant 0).tdisp = .locked
    ∧ ((p .error).tenant 0).tdisp = .error ∧ ((p .unlocked).tenant 0).tdisp = .unlocked ∧ hosted.headUp 1 = false
    ∧ (hosted.head 0).session = false ∧ (p .run).headUp 0 = true
    ∧ (busy.tenant 0).valid = true ∧ (busy.tenant 0).leaving ≠ 2 ∧ (busy.tenant 0).out = false ∧ (busy.leaveRun 0).drained 0 = false
    ∧ (late.tenant 0).leaving = 2 ∧ late.drained 0 = false := by decide +kernel
/-- Operands at their bounds, and a tenant that drains, that has drained, and that returns. -/
theorem witness_ServiceFunctions_bounds :
    let t (f : Tenant → Tenant) : State := setTen f lab
    let busy : State := { lab with net := { lab.net with packets := [packet 2] } }
    let clash : State := (t (fun t => { t with out := true })).setTenant 1 { lab.tenant 0 with out := false }
    (1 : Word).toNat ≤ 1 ∧ (lab.tenant 0).valid = true ∧ (lab.tenant 0).leaving = 0 ∧ lab.drained 0 = true ∧ busy.drained 0 = false
    ∧ ((t (fun t => { t with out := true, wasStopped := false })).tenant 0).tdisp ≠ .error
    ∧ ((t (fun t => { t with out := true, tdisp := .error })).tenant 0).tdisp = .error ∧ clash.rectClash 0 (clash.tenant 0).rect = true
    ∧ (t (fun t => { t with out := true })).rectClash 0 (lab.tenant 0).rect = false := by decide +kernel
/-- A cellar of one page is within the limit of every implementation; what is above it is the implementation's (R235). -/
theorem witness_ServiceFunctions_cellar : (1 : Word).toNat % 4096 ≤ cellarLimit := Nat.le_max_left _ _
/-- The words of the health record on a head that is up and on the side band. -/
theorem witness_HubEvents_side : hosted.headUp 1 = false ∧ (7#3).toNat = 7 ∧ State.reset.hub.failedAt = none := by decide +kernel

end Sys2Proof.Tests
end

section
/-! PROOFS. Translation answers, page responses and invalidations (R290 to R292): the frame laws of asking the host, the
entries that fill the TLBs, one lemma for each answer of the three events, and the obligation assembled from them. -/

open Sys2Proof Sys2Proof.Machine

namespace Sys2Proof.Machine

/-! ## Frames of asking the host (R290) -/

/-- A fold keeps what each of its steps keeps. -/
theorem State.foldl_keeps {α β : Type} (g : State → β) (f : State → α → State) (hf : ∀ s a, g (f s a) = g s) (l : List α)
    (s : State) : g (l.foldl f s) = g s :=
  List.foldlRecOn (motive := fun u => g u = g s) l f rfl (fun u hu a _ => (hf u a).trans hu)

/-- What the request of a page leaves alone: the TLBs and the tenants. -/
def State.tables (s : State) : List TlbEntry × Tab Tenant := (s.tlb, s.tenants)

theorem State.askPage_tables (s : State) (tn : BitVec 4) (core : BitVec 10) (v : Nat) :
    (s.askPage tn core v).tables = s.tables := by
  unfold State.askPage
  split
  · dsimp only
    split <;> rfl
  · rfl

theorem State.askAddr_tables (s : State) (tn : BitVec 4) (core : BitVec 10) (k : Acc) (va : Nat) :
    (s.askAddr tn core k va).tables = s.tables := by
  unfold State.askAddr
  split
  · exact s.askPage_tables _ _ _
  · rfl

theorem State.askWatches_tables (s : State) (tn : BitVec 4) (hit : Nat → Bool) : (s.askWatches tn hit).tables = s.tables := by
  unfold State.askWatches
  refine State.foldl_keeps State.tables _ (fun s t => State.foldl_keeps State.tables _ (fun s w => ?_) _ s) _ s
  split
  · exact s.askAddr_tables _ _ _ _
  · rfl

@[simp] theorem State.askWatches_tlb (s : State) (tn : BitVec 4) (hit : Nat → Bool) : (s.askWatches tn hit).tlb = s.tlb :=
  congrArg Prod.fst (s.askWatches_tables tn hit)

@[simp] theorem State.askWatches_tenant (s : State) (tn i : BitVec 4) (hit : Nat → Bool) :
    (s.askWatches tn hit).tenant i = s.tenant i :=
  congrArg (fun p : List TlbEntry × Tab Tenant => tget Tenant.reset p.2 i.toNat) (s.askWatches_tables tn hit)

/-! ## The host's answer (R290, log 15) -/

@[simp] theorem State.askedDone_tlb (s : State) (tn : BitVec 4) (core : BitVec 10) (v : Nat) :
    (s.askedDone tn core v).tlb = s.tlb := by
  unfold State.askedDone
  dsimp only
  split <;> rfl

@[simp] theorem State.askedDone_tenant (s : State) (tn i : BitVec 4) (core : BitVec 10) (v : Nat) :
    (s.askedDone tn core v).tenant i = s.tenant i := by
  unfold State.askedDone
  dsimp only
  split <;> rfl

theorem State.askedDone_ats (s : State) (tn : BitVec 4) (core : BitVec 10) (v : Nat) :
    (s.askedDone tn core v).net.ats = s.net.ats.filter (fun q => q != (tn, core, v)) := by
  unfold State.askedDone
  dsimp only
  split <;> rfl

/-- The request that has been answered is no longer on its way. -/
theorem State.not_mem_askedDone_ats (s : State) (tn : BitVec 4) (core : BitVec 10) (v : Nat) :
    (tn, core, v) ∉ (s.askedDone tn core v).net.ats := by
  simp [State.askedDone_ats]

/-- The tables that stand answer as before. -/
theorem State.hostAnswers_ptab_kept {s : State} {tn : BitVec 4} {v : Nat} (h : (tfind (s.tenant tn).ptab v).isSome = true)
    (hf : Config.freeBit s.free = false) : ((s.hostAnswers tn v).tenant tn).ptab = (s.tenant tn).ptab := by
  have hs : s.hostAnswers tn v = { s with free := s.free + 1 } := by simp [State.hostAnswers, h, hf]
  rw [hs]
  rfl

theorem State.newPage_ptab (s : State) (tn : BitVec 4) (v : Nat) : ((s.newPage tn v).tenant tn).ptab =
    (match hostPte (s.tenant tn).head s.free with
      | some x => tset (s.tenant tn).ptab v x
      | none => tdel (s.tenant tn).ptab v) :=
  congrArg Tenant.ptab (State.tenant_setTenant ..)

/-- A page that the tables did not hold, or that the host has changed, is answered afresh. -/
theorem State.hostAnswers_ptab_fresh {s : State} {tn : BitVec 4} {v : Nat}
    (h : (tfind (s.tenant tn).ptab v).isSome = false ∨ Config.freeBit s.free = true) :
    ((s.hostAnswers tn v).tenant tn).ptab =
      (match hostPte (s.tenant tn).head (s.free + 1) with
        | some x => tset (s.tenant tn).ptab v x
        | none => tdel (s.tenant tn).ptab v) := by
  have hs : s.hostAnswers tn v = State.newPage { s with free := s.free + 1 } tn v := by
    rcases h with h | h <;> simp [State.hostAnswers, h]
  exact hs ▸ State.newPage_ptab _ tn v

/-- An answer changes the tenant's own table alone, and takes free values. -/
theorem State.hostAnswers_only (s : State) (tn : BitVec 4) (v : Nat) :
    ∃ p n, s.hostAnswers tn v = State.setTenant { s with free := n } tn { s.tenant tn with ptab := p }
      ∨ s.hostAnswers tn v = { s with free := n } := by
  rcases ite_eq_or_eq ((tfind (s.tenant tn).ptab v).isSome && !Config.freeBit s.free) { s with free := s.free + 1 }
    (State.newPage { s with free := s.free + 1 } tn v) with h | h
  · exact ⟨[], _, .inr h⟩
  · exact ⟨_, _, .inl h⟩

@[simp] theorem State.hostAnswers_mem (s : State) (tn : BitVec 4) (v : Nat) : (s.hostAnswers tn v).mem = s.mem := by
  obtain ⟨p, n, h | h⟩ := s.hostAnswers_only tn v <;> simp [h]

@[simp] theorem State.hostAnswers_tlb (s : State) (tn : BitVec 4) (v : Nat) : (s.hostAnswers tn v).tlb = s.tlb := by
  obtain ⟨p, n, h | h⟩ := s.hostAnswers_only tn v <;> simp [h]

@[simp] theorem State.hostAnswers_net (s : State) (tn : BitVec 4) (v : Nat) : (s.hostAnswers tn v).net = s.net := by
  obtain ⟨p, n, h | h⟩ := s.hostAnswers_only tn v <;> simp [h]

@[simp] theorem State.hostAnswers_pasid (s : State) (tn : BitVec 4) (v : Nat) :
    ((s.hostAnswers tn v).tenant tn).pasid = (s.tenant tn).pasid := by
  obtain ⟨p, n, h | h⟩ := s.hostAnswers_only tn v
  · rw [h, State.tenant_setTenant]
    rfl
  · rw [h]
    rfl

/-! ## The entries that fill the TLBs (R290) -/

/-- An entry's size is that of a page, or one that the translation reaches and within which it is aligned. -/
theorem entrySize_cases (lg v : Nat) (e : Pte) : entrySize lg v e = 12 ∨
    entrySize lg v e ≤ lg ∧ e.pa / 4096 % 2 ^ (entrySize lg v e - 12) = v % 2 ^ (entrySize lg v e - 12) := by
  unfold entrySize
  cases h : List.find? (fun k => decide (k ≤ lg) && e.pa / 4096 % 2 ^ (k - 12) == v % 2 ^ (k - 12)) [30, 21, 16] with
  | none => exact .inl rfl
  | some k => exact .inr (by simpa using List.find?_some h)

theorem entrySize_le (lg v : Nat) (e : Pte) : entrySize lg v e ≤ max lg 12 := by
  rcases entrySize_cases lg v e with h | ⟨h, -⟩ <;> omega

/-- The pages of an entry before the one asked for lie below its translation. -/
theorem entrySize_offset_le (lg v : Nat) (e : Pte) : v % 2 ^ (entrySize lg v e - 12) ≤ e.pa / 4096 := by
  rcases entrySize_cases lg v e with h | ⟨-, h⟩
  · simp [h, Nat.mod_one]
  · exact h ▸ Nat.mod_le _ _

/-- The entry with which a translation fills the TLB of a core, or the cluster's. -/
def filledEntry (tn : BitVec 4) (pasid : Option (BitVec 20)) (core : BitVec 10) (v lg : Nat) (e : Pte)
    (c : Option (BitVec 10)) : TlbEntry :=
  let n := 2 ^ (entrySize lg v e - 12)
  ⟨tn, pasid, entrySize lg v e, clusterOf core, c, v / n * n, { e with pa := e.pa - 4096 * (v - v / n * n) }⟩

theorem filledEntry_holds (tn : BitVec 4) (pasid : Option (BitVec 20)) (core : BitVec 10) (v lg : Nat) (e : Pte)
    (c : Option (BitVec 10)) : (filledEntry tn pasid core v lg e c).holds tn pasid v = true := by
  simp [TlbEntry.holds, filledEntry]

theorem filledEntry_page (tn : BitVec 4) (pasid : Option (BitVec 20)) (core : BitVec 10) (v lg : Nat) (e : Pte)
    (c : Option (BitVec 10)) : (filledEntry tn pasid core v lg e c).page v = e := by
  have hle : 4096 * (v - v / 2 ^ (entrySize lg v e - 12) * 2 ^ (entrySize lg v e - 12)) ≤ e.pa := by
    rw [← Nat.mod_eq_sub_div_mul]
    have := entrySize_offset_le lg v e
    omega
  simp only [TlbEntry.page, filledEntry, Nat.sub_add_cancel hle]

/-- A translation fills the core's TLB with an entry that comes first, and the cluster's with one that stands after what the
core's TLB keeps. -/
theorem State.fillTlb_entries (s : State) (tn : BitVec 4) (core : BitVec 10) (v lg : Nat) (e : Pte) :
    ∃ (x y : TlbEntry) (l m : List TlbEntry), (s.fillTlb tn core v lg e).tlb = x :: (l ++ y :: m)
      ∧ x.core = some core ∧ y.core = none ∧ y.cluster = clusterOf core
      ∧ ∀ z : TlbEntry, z = x ∨ z = y → z.holds tn (s.tenant tn).pasid v = true ∧ z.page v = e ∧ z.lg ≤ max lg 12 := by
  refine ⟨filledEntry tn (s.tenant tn).pasid core v lg e (some core), filledEntry tn (s.tenant tn).pasid core v lg e none,
    _, _, by simp only [State.fillTlb, List.cons_append, List.append_assoc]; rfl, rfl, rfl, rfl, ?_⟩
  rintro z (rfl | rfl)
  all_goals exact ⟨filledEntry_holds .., filledEntry_page .., entrySize_le lg v e⟩

/-! ## The completion of a request (R290, R291) -/

theorem exec_atsCompletion (tn : BitVec 4) (core : BitVec 10) (p : PageSpan) (s : State) :
    exec (.atsCompletion tn core p) s = execAtsCompletion tn core p s := rfl

theorem exec_atsCompletion_unasked {s : State} {tn : BitVec 4} {core : BitVec 10} {v : Nat} (lg : Nat)
    (h : (tn, core, v) ∉ s.asked core) : exec (.atsCompletion tn core ⟨v, lg⟩) s = .next s := by
  rw [exec_atsCompletion, execAtsCompletion, if_pos (by simpa using h)]

/-- The refusal that the access of a core to a page takes. -/
def State.refusePage (s : State) (tn : BitVec 4) (core : BitVec 10) (v : Nat) : State :=
  s.setTenant tn { s.tenant tn with refused := (core, v) :: (s.tenant tn).refused.filter (fun q => q != (core, v)) }

/-- What the completion leaves, before the waits and the watches are looked at. -/
def State.completed (s : State) (tn : BitVec 4) (core : BitVec 10) (v lg : Nat) : State :=
  match tfind (s.tenant tn).ptab v with
  | some e => s.fillTlb tn core v lg e
  | none => s.refusePage tn core v

theorem State.completed_found {s : State} {tn : BitVec 4} {v : Nat} {e : Pte} (core : BitVec 10) (lg : Nat)
    (h : tfind (s.tenant tn).ptab v = some e) : s.completed tn core v lg = s.fillTlb tn core v lg e := by
  rw [State.completed, h]

theorem State.completed_missing {s : State} {tn : BitVec 4} {v : Nat} (core : BitVec 10) (lg : Nat)
    (h : tfind (s.tenant tn).ptab v = none) : s.completed tn core v lg = s.refusePage tn core v := by
  rw [State.completed, h]

theorem exec_atsCompletion_asked {s : State} {tn : BitVec 4} {core : BitVec 10} {v : Nat} (lg : Nat)
    (h : (tn, core, v) ∈ s.asked core) : exec (.atsCompletion tn core ⟨v, lg⟩) s =
      .next (((((s.askedDone tn core v).hostAnswers tn v).completed tn core v lg).recheckWaits
        (fun u => u.id.tenant == tn && u.core == core)).checkWatches tn) := by
  rw [exec_atsCompletion, execAtsCompletion, if_neg (by simpa using h)]
  rfl

theorem exec_atsCompletion_fills {s : State} {tn : BitVec 4} {core : BitVec 10} {v : Nat} {e : Pte} (lg : Nat)
    (h : (tn, core, v) ∈ s.asked core)
    (he : tfind (((s.askedDone tn core v).hostAnswers tn v).tenant tn).ptab v = some e) :
    ∃ (u : State) (x y : TlbEntry), exec (.atsCompletion tn core ⟨v, lg⟩) s = .next (u.checkWatches tn)
      ∧ u.mem = s.mem ∧ (tn, core, v) ∉ u.net.ats ∧ x ∈ u.tlb ∧ y ∈ u.tlb
      ∧ x.core = some core ∧ y.core = none ∧ y.cluster = clusterOf core
      ∧ (∀ z : TlbEntry, z = x ∨ z = y → z.holds tn (s.tenant tn).pasid v = true ∧ z.page v = e ∧ z.lg ≤ max lg 12)
      ∧ u.tlb.find? (fun z => z.core == some core && z.holds tn (s.tenant tn).pasid v) = some x := by
  obtain ⟨x, y, l, m, htlb, hx, hy, hcl, hxy⟩ := ((s.askedDone tn core v).hostAnswers tn v).fillTlb_entries tn core v lg e
  rw [State.hostAnswers_pasid, State.askedDone_tenant] at hxy
  refine ⟨_, x, y, by rw [exec_atsCompletion_asked lg h, State.completed_found core lg he], by simp, ?answered, ?inCore,
    ?inCluster, hx, hy, hcl, hxy, ?first⟩
  case answered =>
    show (tn, core, v) ∉ ((s.askedDone tn core v).hostAnswers tn v).net.ats
    rw [State.hostAnswers_net]
    exact s.not_mem_askedDone_ats tn core v
  case inCore => exact htlb ▸ List.mem_cons_self
  case inCluster => exact htlb ▸ List.mem_cons_of_mem _ (List.mem_append_right _ List.mem_cons_self)
  case first =>
    refine (congrArg _ htlb).trans (List.find?_cons_of_pos ?_)
    simp [hx, (hxy x (.inl rfl)).1]

theorem exec_atsCompletion_refuses {s : State} {tn : BitVec 4} {core : BitVec 10} {v : Nat} (lg : Nat)
    (h : (tn, core, v) ∈ s.asked core)
    (he : tfind (((s.askedDone tn core v).hostAnswers tn v).tenant tn).ptab v = none) :
    ∃ u : State, exec (.atsCompletion tn core ⟨v, lg⟩) s = .next (u.checkWatches tn)
      ∧ u.mem = s.mem ∧ u.tlb = s.tlb ∧ (core, v) ∈ (u.tenant tn).refused := by
  refine ⟨_, by rw [exec_atsCompletion_asked lg h, State.completed_missing core lg he], ?_, ?_, ?_⟩
  · simp [State.refusePage]
  · show (((s.askedDone tn core v).hostAnswers tn v).refusePage tn core v).tlb = s.tlb
    simp [State.refusePage]
  · show (core, v) ∈ ((((s.askedDone tn core v).hostAnswers tn v).refusePage tn core v).tenant tn).refused
    simp [State.refusePage]

/-! ## The response for a page (R291) -/

theorem exec_priResponse (id : ThreadId) (ok : Bool) (s : State) :
    exec (.priResponse id ok) s = execPriResponse id ok s := rfl

theorem State.pageAgain_tlb (s : State) (tn : BitVec 4) (v : Nat) :
    (s.pageAgain tn v).tlb = s.tlb.filter (fun e => !e.holds tn e.pasid v) := by
  simp [State.pageAgain]

theorem State.pageAgain_ptab (s : State) (tn : BitVec 4) (v : Nat) :
    ((s.pageAgain tn v).tenant tn).ptab = tdel (s.tenant tn).ptab v := by
  simp [State.pageAgain]

/-- What a successful response does to the thread that waits: it runs its chunk again, unless it is stopped. -/
def Thread.pageCame (now : Nat) (t : Thread) : Thread :=
  if t.stopped.isSome then { t with run := .ready } else t.ready now (fun a => a)

theorem Thread.pageCame_run (now : Nat) (t : Thread) : (t.pageCame now).run = .ready := by
  unfold Thread.pageCame
  split <;> rfl

theorem Thread.pageCame_arch (now : Nat) (t : Thread) : (t.pageCame now).arch = t.arch := by
  unfold Thread.pageCame
  split <;> rfl

section
variable {s : State} {id : ThreadId}

/-- The wait of a thread that is parked for a page. -/
theorem State.find_priWait {t : Thread} {v : Nat} {f : Flt} (h : s.find id = some t) (hr : t.run = .parked (.pri v f)) :
    (s.find id).bind Thread.priWait = some (v, f) := by
  simp [h, Thread.priWait, hr]

theorem exec_priResponse_true {v : Nat} {f : Flt} (h : (s.find id).bind Thread.priWait = some (v, f)) :
    exec (.priResponse id true) s = .next (((s.pageAgain id.tenant v).recheckWaits (fun x => x.id.tenant == id.tenant)).upd id
      (Thread.pageCame ((s.pageAgain id.tenant v).recheckWaits (fun x => x.id.tenant == id.tenant)).cyc)) := by
  rw [exec_priResponse, execPriResponse, h]
  rfl

theorem exec_priResponse_false {v : Nat} {f : Flt} (h : (s.find id).bind Thread.priWait = some (v, f)) :
    exec (.priResponse id false) s =
      .next ((s.upd id (fun t => { t with run := .ready })).faultAfter id 0 (f.pc.getD 0) f) := by
  rw [exec_priResponse, execPriResponse, h]
  rfl

/-- The page for which an engine command of a tenant waited has been answered. -/
def State.engineAnswered (s : State) (tn : BitVec 4) (r : BitVec 24) (v : Nat) : State :=
  s.setTenant tn { s.tenant tn with priWait := (s.tenant tn).priWait.filter (fun p => p != (r, v)) }

/-- The engine command is told that the host refused its page (log 71). -/
def State.engineRefused (s : State) (tn : BitVec 4) (r : BitVec 24) (v : Nat) : State :=
  s.setTenant tn { s.tenant tn with priNo := (r, v) :: (s.tenant tn).priNo.filter (fun q => q != (r, v)) }

variable {r : BitVec 24} {v : Nat} (h : (s.find id).bind Thread.priWait = none)
  (hw : (s.tenant id.tenant).priWait.find? (fun p => p.1 == id.rank) = some (r, v))
include h hw

theorem exec_priResponse_engine_true : exec (.priResponse id true) s =
    .next (((s.engineAnswered id.tenant r v).pageAgain id.tenant v).recheckWaits (fun x => x.id.tenant == id.tenant)) := by
  rw [exec_priResponse, execPriResponse, h]
  simp only [hw]
  rfl

theorem exec_priResponse_engine_false : exec (.priResponse id false) s =
    .next ((s.engineAnswered id.tenant r v).engineRefused id.tenant r v) := by
  rw [exec_priResponse, execPriResponse, h]
  simp only [hw, State.engineRefused, State.engineAnswered, State.tenant_setTenant]
  rfl

end

theorem State.mem_engineRefused_priNo (s : State) (tn : BitVec 4) (r : BitVec 24) (v : Nat) :
    (r, v) ∈ ((s.engineRefused tn r v).tenant tn).priNo := by
  simp [State.engineRefused]

theorem State.not_mem_engineAnswered_priWait (s : State) (tn : BitVec 4) (r : BitVec 24) (v : Nat) :
    (r, v) ∉ (((s.engineAnswered tn r v).engineRefused tn r v).tenant tn).priWait := by
  simp [State.engineRefused, State.engineAnswered]

/-! ## An invalidation (R292) -/

/-- A page lies in the range of an invalidation. -/
def pageWithin (va size v : Nat) : Bool := decide (va ≤ v * 4096 + 4095) && decide (v * 4096 < va + size)

/-- An entry of a tenant meets the range of an invalidation. -/
def TlbEntry.meets (tn : BitVec 4) (va size : Nat) (x : TlbEntry) : Bool :=
  x.tn == tn && decide (va < (x.vpage + 2 ^ (x.lg - 12)) * 4096) && decide (x.vpage * 4096 < va + size)

/-- The pages that an invalidation takes: those of its range, and all those of the entries that meet it. -/
def State.invalHits (s : State) (tn : BitVec 4) (va size v : Nat) : Bool :=
  pageWithin va size v || (s.tlb.filter (TlbEntry.meets tn va size)).any (fun x => x.holds tn x.pasid v)

/-- The open chunk of a thread of the tenant that used a page conflicts. -/
def Thread.losePages (tn : BitVec 4) (hit : Nat → Bool) (t : Thread) : Thread :=
  if t.live && t.id.tenant == tn && t.chunk.pages.any hit && !t.chunk.conflict then
    { t with chunk := { t.chunk with conflict := true, byChunk := false } }
  else t

theorem Thread.losePages_arch (tn : BitVec 4) (hit : Nat → Bool) (t : Thread) : (t.losePages tn hit).arch = t.arch := by
  unfold Thread.losePages
  split <;> rfl

theorem Thread.losePages_conflict {tn : BitVec 4} {hit : Nat → Bool} {t : Thread} (hl : t.live = true) (ht : t.id.tenant = tn)
    (hp : ∃ p ∈ t.chunk.pages, hit p = true) : (t.losePages tn hit).chunk.conflict = true := by
  have hany : t.chunk.pages.any hit = true := List.any_eq_true.2 hp
  unfold Thread.losePages
  split
  · rfl
  · rename_i hc
    simpa [hl, ht, hany] using hc

/-- What an invalidation leaves, before the watches and the waits are looked at. -/
def State.invalidated (s : State) (tn : BitVec 4) (va size : Nat) : State :=
  let hit := s.invalHits tn va size
  let t := s.tenant tn
  let s1 : State := { s with
    tlb := s.tlb.filter (fun x => !x.meets tn va size)
    net := { s.net with invals := s.net.invals ++ [s.usersOf tn va hit] } }
  (s1.setTenant tn { t with
    ptab := t.ptab.filter (fun p => !pageWithin va size p.1)
    refused := t.refused.filter (fun q => !pageWithin va size q.2) }).updAll (Thread.losePages tn hit)

theorem exec_atsInvalidationRequest (tn : BitVec 4) (va size : Nat) (s : State) :
    exec (.atsInvalidationRequest tn va size) s =
      .next (((s.invalidated tn va size).askWatches tn (s.invalHits tn va size)).recheckWaits (fun x => x.id.tenant == tn)) :=
  rfl

section
variable (s : State) (tn : BitVec 4) (va size : Nat)

theorem State.invalidated_thr : (s.invalidated tn va size).thr = s.thr.losePages tn (s.invalHits tn va size) := rfl

/-- No entry of the tenant that is left meets the range. -/
theorem State.invalidated_tlb_outside (x : TlbEntry) (hx : x ∈ (s.invalidated tn va size).tlb) (ht : x.tn = tn) :
    ¬ (va < (x.vpage + 2 ^ (x.lg - 12)) * 4096 ∧ x.vpage * 4096 < va + size) := by
  have hnot : x.meets tn va size = false := by simpa using (List.mem_filter.1 hx).2
  rintro ⟨hlo, hhi⟩
  simp [TlbEntry.meets, ht, hlo, hhi] at hnot

end

end Sys2Proof.Machine

/-- Settles O55: one lemma for each answer of the three events, as the request, the wait or the range decides it. -/
theorem translationEvents : Obligations.TranslationEvents := by
  unfold Obligations.TranslationEvents
  intro s tn core v lg e id t f va size r mine a b within meets hit
  refine ⟨exec_atsCompletion_unasked lg, State.hostAnswers_ptab_kept, State.hostAnswers_ptab_fresh,
    exec_atsCompletion_fills lg, exec_atsCompletion_refuses lg, ?thread, ?engine, ?inval⟩
  case thread =>
    intro ht hrun _
    have hw := State.find_priWait ht hrun
    refine ⟨⟨_, exec_priResponse_true hw, Thread.pageCame_run _ t, Thread.pageCame_arch _ t, s.pageAgain_ptab _ v, ?_⟩,
      exec_priResponse_false hw⟩
    intro x hx
    rw [State.pageAgain_tlb] at hx
    simpa using (List.mem_filter.1 hx).2
  case engine =>
    intro h hw k s1
    exact ⟨exec_priResponse_engine_true h hw, _, exec_priResponse_engine_false h hw, rfl,
      State.mem_engineRefused_priNo _ _ r v, State.not_mem_engineAnswered_priWait s _ r v⟩
  case inval =>
    refine ⟨s.invalidated tn va size, exec_atsInvalidationRequest tn va size s, rfl, rfl,
      s.invalidated_tlb_outside tn va size, ?_, ?_⟩
    · exact fun hl ht hp => s.invalidated_thr tn va size ▸ Thread.losePages_conflict hl ht hp
    · exact s.invalidated_thr tn va size ▸ Thread.losePages_arch tn _ s.thr
end

section
/-! PROOFS. The issue policies (R17, R222 to R224, R341): the order of age and that of the slots, what each policy picks, what
an issue leaves, and the obligation assembled from them. -/

open Sys2Proof Sys2Proof.Machine

namespace Sys2Proof.Machine

/-! ## The order of age, and that of the slots -/

/-- How far a thread's slot on a core is from the first one after slot `last`, going round (R224). -/
def Thread.turnAfter (c : BitVec 10) (last : BitVec 8) (t : Thread) : Nat :=
  ((t.slotOn c).getD 0 + 255 - last.toNat) % 256

theorem nextSlot_eq_none {c : BitVec 10} {last : BitVec 8} {l : List Thread} : nextSlot c last l = none ↔ l = [] := by
  cases l with
  | nil => simp [nextSlot]
  | cons a l =>
    cases h : nextSlot c last l with
    | none => simp [nextSlot, h]
    | some u =>
      simp only [nextSlot, h, reduceCtorEq, iff_false]
      split <;> exact Option.some_ne_none _

/-- Round-robin picks a thread whose turn comes no later than that of any other. -/
theorem nextSlot_least {c : BitVec 10} {last : BitVec 8} {l : List Thread} {t : Thread} (h : nextSlot c last l = some t) :
    t ∈ l ∧ ∀ u ∈ l, t.turnAfter c last ≤ u.turnAfter c last := by
  induction l generalizing t with
  | nil => cases h
  | cons a l ih =>
    cases hl : nextSlot c last l with
    | none =>
      have hat : a = t := by simpa [nextSlot, hl] using h
      simp [nextSlot_eq_none.1 hl, hat]
    | some u =>
      obtain ⟨hu, hmin⟩ := ih hl
      have hstep : (if u.turnAfter c last < a.turnAfter c last then some u else some a) = some t := by
        rwa [nextSlot, hl] at h
      split at hstep <;> cases hstep
      · next hlt => exact ⟨List.mem_cons_of_mem _ hu, List.forall_mem_cons.2 ⟨hlt.le, hmin⟩⟩
      · next hge =>
        exact ⟨List.mem_cons_self, List.forall_mem_cons.2 ⟨le_rfl, fun w hw => (not_lt.1 hge).trans (hmin w hw)⟩⟩

theorem Thread.older_eq_false_iff (t u : Thread) (c : BitVec 10) : t.older u c = false ↔
    u.age < t.age ∨ u.age = t.age ∧ (u.slotOn c).getD 0 ≤ (t.slotOn c).getD 0 := by
  simp [Thread.older]
  omega

theorem Thread.older_irrefl (t : Thread) (c : BitVec 10) : t.older t c = false := by
  simp [Thread.older_eq_false_iff]

theorem Thread.older_asymm {t u : Thread} {c : BitVec 10} (h : t.older u c = true) : u.older t c = false := by
  have hn : ¬ t.older u c = false := by simp [h]
  rw [Thread.older_eq_false_iff] at hn ⊢
  omega

/-- A thread that is not older than one that is not older than a third is not older than the third. -/
theorem Thread.not_older_trans {t u v : Thread} {c : BitVec 10} (h : t.older u c = false) (k : u.older v c = false) :
    t.older v c = false := by
  rw [Thread.older_eq_false_iff] at h k ⊢
  omega

theorem oldestOf_eq_none {c : BitVec 10} {l : List Thread} : oldestOf c l = none ↔ l = [] := by
  cases l with
  | nil => simp [oldestOf]
  | cons a l =>
    cases h : oldestOf c l with
    | none => simp [oldestOf, h]
    | some u => by_cases hu : u.older a c = true <;> simp [oldestOf, h, hu]

/-- The oldest of a list is one of its threads, and none of them is older. -/
theorem oldestOf_spec {c : BitVec 10} {l : List Thread} {t : Thread} (h : oldestOf c l = some t) :
    t ∈ l ∧ ∀ u ∈ l, u.older t c = false := by
  induction l generalizing t with
  | nil => cases h
  | cons a l ih =>
    cases hl : oldestOf c l with
    | none =>
      have hat : a = t := by simpa [oldestOf, hl] using h
      simp [oldestOf_eq_none.1 hl, hat, Thread.older_irrefl]
    | some u =>
      obtain ⟨hu, hmin⟩ := ih hl
      have hstep : (if u.older a c then some u else some a) = some t := by simpa [oldestOf, hl] using h
      split at hstep <;> cases hstep
      · next hlt => exact ⟨List.mem_cons_of_mem _ hu, List.forall_mem_cons.2 ⟨Thread.older_asymm hlt, hmin⟩⟩
      · next hge =>
        exact ⟨List.mem_cons_self, List.forall_mem_cons.2
          ⟨Thread.older_irrefl _ c, fun w hw => Thread.not_older_trans (hmin w hw) (Bool.not_eq_true _ ▸ hge)⟩⟩

/-! ## What a core picks (R222 to R224) -/

theorem mem_of_mem_unstalled {f : Nat} {l : List Thread} {t : Thread} (h : t ∈ unstalled f l) : t ∈ l := by
  obtain ⟨p, hp, rfl⟩ := List.mem_map.1 h
  exact List.fst_mem_of_mem_zipIdx (List.mem_filter.1 hp).1

theorem mem_of_mem_contenders {f : Nat} {l : List Thread} {t : Thread} (h : t ∈ contenders f l) : t ∈ l := by
  unfold contenders at h
  split at h
  · exact h
  · exact mem_of_mem_unstalled h

theorem State.canIssue_of_mem_readyOn {s : State} {c : BitVec 10} {t : Thread} (h : t ∈ s.readyOn c) :
    s.canIssue c t = true := by
  have hb := (List.mem_filter.1 h).2
  simp only [State.hasBundle, Bool.and_eq_true] at hb
  exact hb.1.1

/-- The thread issued in the previous cycle on the core (R223). -/
def State.ranLast (s : State) (c : BitVec 10) (u : Thread) : Prop :=
  (s.core c).lastThread = some u.id ∧ (s.core c).issuedAt = some (s.cyc - 1)

/-- Rule 2 of R223: the thread that issued in the previous cycle, unless it has yielded. -/
def State.current (s : State) (c : BitVec 10) (l : List Thread) : Option Thread :=
  l.find? (fun t => (s.core c).lastThread == some t.id && (s.core c).issuedAt == some (s.cyc - 1) && !t.yielded)

theorem State.current_eq_some {s : State} {c : BitVec 10} {l : List Thread} {t : Thread} (h : s.current c l = some t) :
    t ∈ l ∧ s.ranLast c t ∧ t.yielded = false := by
  have hp := List.find?_some h
  simp only [Bool.and_eq_true, beq_iff_eq, Bool.not_eq_true'] at hp
  exact ⟨List.mem_of_find?_eq_some h, hp.1, hp.2⟩

theorem State.current_eq_none {s : State} {c : BitVec 10} {l : List Thread} :
    s.current c l = none ↔ ∀ u ∈ l, s.ranLast c u → u.yielded = true := by
  simp [State.current, State.ranLast]

/-- The rules of R223 in their order. -/
theorem State.greedy_eq (s : State) (c : BitVec 10) (l : List Thread) : s.greedy c l =
    (((oldestOf c (l.filter (fun t => decide (4096 ≤ t.waits)))).or (s.current c l)).or
      (oldestOf c (l.filter (fun t => !t.yielded)))).or (oldestOf c l) := by
  unfold State.greedy State.current
  split
  · next h => simp [h]
  · next h =>
    split
    · next h2 => simp [h, h2]
    · next h2 =>
      split
      · next h3 => simp [h, h2, h3]
      · next h3 => simp [h, h2, h3]

section
variable {s : State} {c : BitVec 10} {l : List Thread} {t : Thread} (h : s.greedy c l = some t)
include h

theorem State.greedy_mem : t ∈ l := by
  rw [State.greedy_eq] at h
  simp only [Option.or_eq_some_iff] at h
  rcases h with ((h | ⟨-, h⟩) | ⟨-, h⟩) | ⟨-, h⟩
  · exact List.mem_of_mem_filter (oldestOf_spec h).1
  · exact (State.current_eq_some h).1
  · exact List.mem_of_mem_filter (oldestOf_spec h).1
  · exact (oldestOf_spec h).1

/-- Rule 1: a thread that has waited 4,096 cycles comes first, the oldest of them. -/
theorem State.greedy_of_starved (hw : ∃ u ∈ l, 4096 ≤ u.waits) :
    4096 ≤ t.waits ∧ ∀ u ∈ l, 4096 ≤ u.waits → u.older t c = false := by
  obtain ⟨u, hu, hwait⟩ := hw
  cases ho : oldestOf c (l.filter (fun t => decide (4096 ≤ t.waits))) with
  | none => exact absurd (oldestOf_eq_none.1 ho) (List.ne_nil_of_mem (List.mem_filter.2 ⟨hu, by simpa using hwait⟩))
  | some v =>
    have hv : v = t := by simpa [State.greedy_eq, ho] using h
    obtain ⟨hmem, hold⟩ := oldestOf_spec (hv ▸ ho)
    exact ⟨by simpa using (List.mem_filter.1 hmem).2, fun w hw h4 => hold w (List.mem_filter.2 ⟨hw, by simpa using h4⟩)⟩

variable (hw : ∀ u ∈ l, u.waits < 4096)
include hw

/-- With no thread that has waited so long, rules 2 and 3 decide. -/
theorem State.greedy_unstarved :
    ((s.current c l).or (oldestOf c (l.filter (fun t => !t.yielded)))).or (oldestOf c l) = some t := by
  have hnil : l.filter (fun t => decide (4096 ≤ t.waits)) = [] := by
    simpa [List.filter_eq_nil_iff] using hw
  simpa [State.greedy_eq, hnil, oldestOf] using h

/-- Rule 2: the thread that issued in the previous cycle goes on. -/
theorem State.greedy_of_ranLast {u : Thread} (hu : u ∈ l) (hlast : s.ranLast c u) (hy : u.yielded = false) : t.id = u.id := by
  cases hc : s.current c l with
  | none => simp [State.current_eq_none.1 hc u hu hlast] at hy
  | some v =>
    have hv : v = t := by simpa [hc] using State.greedy_unstarved h hw
    obtain ⟨-, hran, -⟩ := State.current_eq_some (hv ▸ hc)
    exact Option.some.inj (hran.1.symm.trans hlast.1)

/-- Rule 3: otherwise the oldest of those that have not yielded. -/
theorem State.greedy_of_awake (hlast : ∀ u ∈ l, s.ranLast c u → u.yielded = true) (hy : ∃ u ∈ l, u.yielded = false) :
    t.yielded = false ∧ ∀ u ∈ l, u.yielded = false → u.older t c = false := by
  obtain ⟨u, hu, hawake⟩ := hy
  have hg := State.greedy_unstarved h hw
  rw [State.current_eq_none.2 hlast] at hg
  cases ho : oldestOf c (l.filter (fun t => !t.yielded)) with
  | none => exact absurd (oldestOf_eq_none.1 ho) (List.ne_nil_of_mem (List.mem_filter.2 ⟨hu, by simpa using hawake⟩))
  | some v =>
    have hv : v = t := by simpa [ho] using hg
    obtain ⟨hmem, hold⟩ := oldestOf_spec (hv ▸ ho)
    exact ⟨by simpa using (List.mem_filter.1 hmem).2, fun w hw ha => hold w (List.mem_filter.2 ⟨hw, by simpa using ha⟩)⟩

end

/-- The policy of the tenant of a core's threads: round-robin, or else greedy-then-oldest (R222). -/
def State.roundRobin (s : State) (l : List Thread) : Bool := ((l.head?).map (fun u => (s.tenant u.id.tenant).rr)).getD false

/-- The pick of a core: one policy or the other decides among the contenders. -/
theorem State.pick_eq_some {s : State} {f : Nat} {c : BitVec 10} {t : Thread} (h : s.pick f c = some t) :
    (if s.roundRobin (contenders f (s.readyOn c)) then nextSlot c (s.core c).lastSlot (contenders f (s.readyOn c))
      else s.greedy c (contenders f (s.readyOn c))) = some t := by
  unfold State.pick at h
  generalize contenders f (s.readyOn c) = l at h
  cases l with
  | nil => cases h
  | cons a l => exact h

theorem State.pick_mem {s : State} {f : Nat} {c : BitVec 10} {t : Thread} (h : s.pick f c = some t) :
    t ∈ contenders f (s.readyOn c) := by
  have hp := State.pick_eq_some h
  split at hp
  · exact (nextSlot_least hp).1
  · exact State.greedy_mem hp

/-! ## An issue, and a bundle that has to wait (R223, R341) -/

theorem State.issued_core (s : State) (u : Thread) (ids : List ThreadId) : (s.issued u ids).core u.core =
    { s.core u.core with
      lastSlot := BitVec.ofNat 8 ((u.slotOn u.core).getD 0), lastThread := some u.id, issuedAt := some s.cyc } :=
  s.core_setCore _ _

theorem State.issued_thr {s : State} {u : Thread} (ids : List ThreadId) (h : s.thr.id = u.id) :
    (s.issued u ids).thr = { s.thr with waits := 0 } :=
  if_pos h

/-- Another thread of the core that was ready counts the cycle, and no yield of the others lasts. -/
theorem State.mem_issued_others {s : State} {u t : Thread} (ids : List ThreadId) (ht : t ∈ s.others) (hid : t.id ≠ u.id)
    (hc : t.core = u.core) :
    { t with yielded := false, waits := if t.id ∈ ids then t.waits + 1 else t.waits } ∈ (s.issued u ids).others :=
  List.mem_map.2 ⟨t, ht, by simp [hid, hc]⟩

theorem State.forget_only (s : State) (tn : BitVec 4) (core : BitVec 10) (va : Nat) :
    ∃ k, s.forget tn core va = { s with tenants := k } := by
  unfold State.forget
  dsimp only
  split
  · exact ⟨_, rfl⟩
  · exact ⟨s.tenants, rfl⟩

/-- A bundle that has to wait is no issue: at most a refusal that it has taken is forgotten. -/
theorem State.tried_balk {s : State} {u : Thread} (ids : List ThreadId) (h : ((s.find u.id).bind Thread.balk).isSome = true) :
    ∃ k, s.tried u ids = { s with tenants := k } := by
  unfold State.tried
  extract_lets b s1
  rw [if_pos h]
  simp only [s1]
  split
  · split
    · exact ⟨s.tenants, rfl⟩
    · exact s.forget_only _ _ _
  · exact ⟨s.tenants, rfl⟩

/-- What can be issued next is the pick of a core that has not issued in this cycle. -/
theorem State.issue_mem_moves {s : State} {f : Nat} {id : ThreadId} (h : Move.issue id ∈ s.moves f) :
    ∃ c t, s.pick f c = some t ∧ t.id = id ∧ (s.core c).issuedAt ≠ some s.cyc := by
  simp only [State.moves, List.mem_append, List.mem_map, reduceCtorEq, and_false, exists_false, false_or, Move.issue.injEq,
    List.mem_filterMap] at h
  obtain ⟨t, ⟨c, hc, hp⟩, rfl⟩ := h
  exact ⟨c, t, hp, rfl, by simpa using (List.mem_filter.1 hc).2⟩

end Sys2Proof.Machine

/-- Settles O10: a pick is a contender that its policy prefers to every other, and what an issue leaves is read off
its state. -/
theorem issuePolicies : Obligations.IssuePolicies := by
  unfold Obligations.IssuePolicies
  refine ⟨?pick, ?issue, ?balk, fun s f id => State.issue_mem_moves⟩
  case pick =>
    intro s f c t h l turn rr last
    have hmem := mem_of_mem_contenders (State.pick_mem h)
    have hp := State.pick_eq_some h
    have greedy (hr : rr = false) : s.greedy c l = some t := by
      rwa [if_neg (show ¬ s.roundRobin l = true from Bool.not_eq_true _ ▸ hr)] at hp
    refine ⟨hmem, State.pick_mem h, State.canIssue_of_mem_readyOn hmem, fun hr => ?_,
      fun hr => State.greedy_of_starved (greedy hr), fun hr hw => ⟨fun u => State.greedy_of_ranLast (greedy hr) hw,
        State.greedy_of_awake (greedy hr) hw⟩⟩
    rw [if_pos (show s.roundRobin l = true from hr)] at hp
    exact (nextSlot_least hp).2
  case issue =>
    intro s u ids n hslot hn v
    refine ⟨?_, ?_, ?_, State.issued_thr ids, fun t => State.mem_issued_others ids⟩
    all_goals simp only [v, State.issued_core, hslot, Option.getD_some, BitVec.toNat_ofNat]
    exact Nat.mod_eq_of_lt hn
  case balk =>
    intro s u ids h
    obtain ⟨k, hk⟩ := State.tried_balk ids h
    rw [hk]
    exact ⟨rfl, rfl, rfl⟩
end

section
/-! PROOFS. What detected errors, lost hosts and freezes leave alone (R305, R312 to R319): the counts of uncorrected errors and
of cores that have left, which cores those are, what the heads stand at, and CYC. Every operation by which an error is
contained or a host is lost keeps them, but for the count, the core or the head that it is about. -/

open Sys2Proof Sys2Proof.Machine

namespace Sys2Proof.Machine

/-- The uncorrected errors and the cores that have left, by count and by core; CYC; and whether each head's host is lost or on
standby. -/
def State.standing (s : State) : (Nat × Nat × (BitVec 10 → Bool)) × Nat × (Bool × Bool) × Bool × Bool :=
  ((s.hub.health.unc, s.hub.health.coresOut, fun c => (s.core c).mappedOut), s.cyc, (s.head0.lost, s.head0.standby),
    s.head1.lost, s.head1.standby)

/-- A fold of operations that keep the standing keeps it, as a rule of simp. -/
@[simp] theorem foldl_standing {α : Type} (f : State → α → State) (hf : ∀ s a, (f s a).standing = s.standing)
    (l : List α) (s : State) : (l.foldl f s).standing = s.standing := State.foldl_keeps State.standing f hf l s

/-! ## The state's own updates -/

@[simp] theorem State.setTenant_standing (s : State) (n : BitVec 4) (t : Tenant) :
    (s.setTenant n t).standing = s.standing := rfl
@[simp] theorem State.setCluster_standing (s : State) (n : BitVec 7) (k : Cluster) :
    (s.setCluster n k).standing = s.standing := rfl
@[simp] theorem State.setRegion_standing (s : State) (r : Nat) (k : Region) : (s.setRegion r k).standing = s.standing := rfl
@[simp] theorem State.upd_standing (s : State) (i : ThreadId) (f : Thread → Thread) : (s.upd i f).standing = s.standing := rfl
@[simp] theorem State.updAll_standing (s : State) (f : Thread → Thread) : (s.updAll f).standing = s.standing := rfl
@[simp] theorem State.send_standing (s : State) (m : OutMsg) : (s.send m).standing = s.standing := rfl
@[simp] theorem State.putLoom_standing (s : State) (cl : BitVec 7) (l : Loom) : (s.putLoom cl l).standing = s.standing := rfl
@[simp] theorem State.depart_standing (s : State) (cl : BitVec 7) (p : Dray → Bool) :
    (s.depart cl p).standing = s.standing := rfl
@[simp] theorem State.stopTenant_standing (s : State) (tn : BitVec 4) : (s.stopTenant tn).standing = s.standing := rfl
@[simp] theorem State.peerRefused_standing (s : State) (tn : BitVec 4) : (s.peerRefused tn).standing = s.standing := rfl
@[simp] theorem State.wakeLoom_standing (s : State) (cl : BitVec 7) (full : Bool) :
    (s.wakeLoom cl full).standing = s.standing := rfl
@[simp] theorem State.disarmAll_standing (s : State) (f : Thread → BitVec 4) : (s.disarmAll f).standing = s.standing := rfl

theorem State.withNet_standing (s : State) (n : Net) : ({ s with net := n } : State).standing = s.standing := rfl

/-- A core whose caches change stays in its place. -/
theorem State.setCore_standing {s : State} {c : BitVec 10} {k : Core} (h : k.mappedOut = (s.core c).mappedOut) :
    (s.setCore c k).standing = s.standing := by
  have hc : (fun i => ((s.setCore c k).core i).mappedOut) = fun i => (s.core i).mappedOut := by
    funext i
    by_cases hi : i = c
    · rw [hi, State.core_setCore, h]
    · rw [State.core_setCore_other s k hi]
  simp [State.standing, hc]

theorem tget_map_mappedOut {f : Nat × Core → Nat × Core} (hk : ∀ p, (f p).1 = p.1)
    (hm : ∀ p, (f p).2.mappedOut = p.2.mappedOut) (l : Tab Core) (i : Nat) :
    (tget Core.reset (l.map f) i).mappedOut = (tget Core.reset l i).mappedOut := by
  induction l with
  | nil => rfl
  | cons p l ih =>
    have hf : f p = (p.1, (f p).2) := by rw [← hk p]
    rw [List.map_cons, hf]
    simp only [tget]
    split
    · exact hm p
    · exact ih

/-- So do all cores whose caches change. -/
theorem State.mapCores_standing (s : State) {f : Nat × Core → Nat × Core} (hk : ∀ p, (f p).1 = p.1)
    (hm : ∀ p, (f p).2.mappedOut = p.2.mappedOut) : ({ s with cores := s.cores.map f } : State).standing = s.standing := by
  have hc : (fun i => (({ s with cores := s.cores.map f } : State).core i).mappedOut) = fun i => (s.core i).mappedOut :=
    funext fun i => tget_map_mappedOut hk hm s.cores i.toNat
  simp [State.standing, hc]

theorem State.setHead_standing {s : State} {h : BitVec 1} {k : Head} (hl : k.lost = (s.head h).lost)
    (hs : k.standby = (s.head h).standby) : (s.setHead h k).standing = s.standing := by
  unfold State.setHead
  unfold State.head at hl hs
  split at hl <;> simp_all [State.standing, State.core]

/-! ## Caches, combines and write events -/

@[simp] theorem State.countAccess_standing (s : State) (d l : Nat) : (s.countAccess d l).standing = s.standing := rfl

@[simp] theorem State.backRegion_standing (s : State) (r : Nat) : (s.backRegion r).standing = s.standing := by
  unfold State.backRegion
  dsimp only
  split <;> simp

@[simp] theorem State.l2Put_standing (s : State) (d l : Nat) (b : Bool) : (s.l2Put d l b).standing = s.standing := by
  unfold State.l2Put
  extract_lets h k s1 v s2
  split
  · rfl
  · split
    · split
      · exact State.setCore_standing rfl
      · rfl
    · split
      · exact State.setCore_standing (s := s1) rfl
      · have hs : s2.standing = s.standing := by
          simp only [s2, s1]
          split <;> simp
        have hc : s2.core h = s.core h := by
          simp only [s2, s1]
          split <;> rfl
        exact (State.setCore_standing (by rw [hc])).trans hs

@[simp] theorem State.atHome_standing (b : Bool) (s : State) (l : Nat) : (s.atHome b l).standing = s.standing := by
  unfold State.atHome
  split <;> simp

@[simp] theorem State.invalidate_standing (s : State) (c : Option (BitVec 10)) (ls : List Nat) :
    (s.invalidate c ls).standing = s.standing :=
  s.mapCores_standing (fun _ => by dsimp only; split <;> rfl) (fun _ => by dsimp only; split <;> rfl)

@[simp] theorem State.flushRegion_standing (s : State) (r : Nat) : (s.flushRegion r).standing = s.standing := by
  unfold State.flushRegion
  dsimp only
  rw [foldl_standing _ (fun _ _ => State.countAccess_standing ..)]
  exact s.mapCores_standing (fun _ => rfl) (fun _ => rfl)

@[simp] theorem State.writtenBy_standing (s : State) (src : Option ThreadId) (b : Bool) (bs : List Nat)
    (f : Thread → BitVec 4) (code : Nat) : (s.writtenBy src b bs f code).standing = s.standing :=
  State.invalidate_standing _ _ _

@[simp] theorem State.written_standing (s : State) (src : Option ThreadId) (b : Bool) (bs : List Nat) :
    (s.written src b bs).standing = s.standing := s.writtenBy_standing ..

@[simp] theorem State.winWritten_standing (s : State) (pa n : Nat) : (s.winWritten pa n).standing = s.standing :=
  s.written_standing ..

@[simp] theorem State.combineLine_standing (s : State) (src : Option ThreadId) (l : Nat) :
    (s.combineLine src l).standing = s.standing := by
  unfold State.combineLine
  dsimp only
  split
  · rfl
  · rw [State.written_standing, State.atHome_standing]
    rfl

@[simp] theorem State.combineAll_standing (s : State) (src : Option ThreadId) (ls : List Nat) :
    (s.combineAll src ls).standing = s.standing := by simp [State.combineAll]

@[simp] theorem State.storeResume_standing (s : State) (c : Host.Cell) : (s.storeResume c).standing = s.standing := by
  unfold State.storeResume
  extract_lets va
  clear_value va
  split
  · split <;> simp
  · split
    · split <;> simp
    · rfl

@[simp] theorem State.putCells_standing (s : State) (src : Option ThreadId) (cs : List Host.Cell) :
    (s.putCells src cs).standing = s.standing := by
  unfold State.putCells
  rw [foldl_standing _ State.storeResume_standing]
  exact s.combineAll_standing src _

@[simp] theorem State.settleLines_standing (s : State) (b : Bool) (ls : List Nat) :
    (s.settleLines b ls).standing = s.standing := by
  unfold State.settleLines
  split <;> simp

@[simp] theorem State.writeEvent_standing (s : State) (src : Option ThreadId) (b : Bool) (cs : List Host.Cell) :
    (s.writeEvent src b cs).standing = s.standing := by simp [State.writeEvent]

@[simp] theorem State.markPoison_standing (s : State) (l : Nat) (cause : BitVec 16) :
    (s.markPoison l cause).standing = s.standing := by
  unfold State.markPoison
  split
  · rfl
  · rw [State.disarmAll_standing, State.writtenBy_standing]
    rfl

/-! ## Records -/

@[simp] theorem State.askPage_standing (s : State) (tn : BitVec 4) (c : BitVec 10) (v : Nat) :
    (s.askPage tn c v).standing = s.standing := by
  unfold State.askPage
  split
  · dsimp only
    split <;> rfl
  · rfl

@[simp] theorem State.askAddr_standing (s : State) (tn : BitVec 4) (c : BitVec 10) (k : Acc) (va : Nat) :
    (s.askAddr tn c k va).standing = s.standing := by
  unfold State.askAddr
  split <;> simp

@[simp] theorem State.askFor_standing (s : State) (id : ThreadId) (c : BitVec 10) (e : Stop) :
    (s.askFor id c e).standing = s.standing := by
  unfold State.askFor
  split
  · simp
  · dsimp only
    split <;> simp
  · rfl

@[simp] theorem State.forget_standing (s : State) (tn : BitVec 4) (c : BitVec 10) (va : Nat) :
    (s.forget tn c va).standing = s.standing := by
  unfold State.forget
  dsimp only
  split <;> simp

@[simp] theorem State.tookFault_standing (s : State) (id : ThreadId) (c : BitVec 10) (f : Flt) :
    (s.tookFault id c f).standing = s.standing := by
  unfold State.tookFault
  dsimp only
  split <;> simp

@[simp] theorem State.sendMsix_standing (s : State) (h : BitVec 1) (v : BitVec 6) : (s.sendMsix h v).standing = s.standing := by
  unfold State.sendMsix
  dsimp only
  split
  · exact State.setHead_standing rfl rfl
  · rfl

@[simp] theorem State.storeRecord_standing (s : State) (h : Held) : (s.storeRecord h).standing = s.standing := rfl

@[simp] theorem State.holdRecord_standing (s : State) (who : Option ThreadId) (l : Word) (r : Record) :
    (s.holdRecord who l r).standing = s.standing := by
  unfold State.holdRecord
  split <;> simp

@[simp] theorem State.holdReport_standing (s : State) (l : Nat) (r : Record) : (s.holdReport l r).standing = s.standing := rfl

@[simp] theorem State.report_standing (s : State) (r : Record) : (s.report r).standing = s.standing := by
  unfold State.report
  dsimp only
  (repeat' split) <;> simp

@[simp] theorem State.writeRecord_standing (s : State) (l : Word) (pa : Nat) (r : Record) :
    (s.writeRecord l pa r).standing = s.standing := by simp [State.writeRecord]

@[simp] theorem State.deliver_standing (s : State) (who : Option ThreadId) (c : BitVec 10) (l : Word) (r : Record) :
    (s.deliver who c l r).standing = s.standing := by
  unfold State.deliver
  dsimp only
  (repeat' split) <;> simp

@[simp] theorem State.dropWatches_standing (s : State) (t : Thread) : (s.dropWatches t).standing = s.standing := by
  unfold State.dropWatches
  split
  · rfl
  · dsimp only
    rw [foldl_standing _ (fun _ _ => by simp)]
    split <;> rfl

@[simp] theorem State.checkWatches_standing (s : State) (tn : BitVec 4) : (s.checkWatches tn).standing = s.standing := by
  simp [State.checkWatches]

/-! ## Threads -/

@[simp] theorem State.rankWritten_standing (s : State) (id : ThreadId) : (s.rankWritten id).standing = s.standing :=
  s.winWritten_standing ..

@[simp] theorem State.place_standing (s : State) (id : ThreadId) (f : Thread → Thread) :
    (s.place id f).standing = s.standing := by simp [State.place]

@[simp] theorem State.freeRank_standing (s : State) (t : Thread) : (s.freeRank t).standing = s.standing := by
  unfold State.freeRank
  extract_lets k s1
  have h1 : s1.standing = s.standing := by
    simp only [s1, State.rankWritten_standing]
    rw [foldl_standing _ State.storeRecord_standing, State.setTenant_standing]
  split <;> simp [h1]

@[simp] theorem State.releaseGroups_standing (s : State) (t : Thread) : (s.releaseGroups t).standing = s.standing := by
  unfold State.releaseGroups
  split <;> simp

@[simp] theorem State.crierRestart_standing (s : State) (tn : BitVec 4) (k : DKind) :
    (s.crierRestart tn k).standing = s.standing := by
  unfold State.crierRestart
  (repeat' split) <;> rfl

@[simp] theorem State.leaveDomains_standing (s : State) (id : ThreadId) (sl : Option (BitVec 2)) :
    (s.leaveDomains id sl).standing = s.standing := by simp [State.leaveDomains]

@[simp] theorem State.setLoom_standing (s : State) (cl : BitVec 7) (l : Loom) : (s.setLoom cl l).standing = s.standing := by
  simp [State.setLoom]

@[simp] theorem State.releaseLoom_standing (s : State) (cl : BitVec 7) : (s.releaseLoom cl).standing = s.standing := by
  unfold State.releaseLoom
  split <;> simp

@[simp] theorem State.loseThread_standing (d : Nat) (s : State) (id : ThreadId) :
    (s.loseThread d id).standing = s.standing := by
  unfold State.loseThread
  split
  · rfl
  · extract_lets cl pc s1 s2
    have h1 : s1.standing = s.standing := by
      simp only [s1, State.leaveDomains_standing, State.releaseGroups_standing]
      rfl
    have h2 : s2.standing = s.standing := by
      simp only [s2]
      split <;> simp [h1]
    simp [h2]

/-! ## Engines -/

@[simp] theorem State.engBytes_standing (s : State) (ps : List (Nat × Nat)) : (s.engBytes ps).1.standing = s.standing := by
  show ((lsort _).foldl (State.atHome false) (s.combineAll none _)).standing = _
  simp

@[simp] theorem State.engPut_standing (s : State) (tn : BitVec 4) (cs : List Host.Cell) :
    (s.engPut tn cs).standing = s.standing := by
  unfold State.engPut
  (repeat' split) <;> simp

@[simp] theorem State.engPutBytes_standing (tn : BitVec 4) (ps : List (Nat × Nat)) :
    ∀ (s : State) (bs : List Byte), (s.engPutBytes tn ps bs).standing = s.standing := by
  induction ps with
  | nil => exact fun _ _ => rfl
  | cons p l ih => exact fun s bs => (ih _ _).trans (s.engPut_standing _ _)

section
variable {s t : State}

theorem State.engRead_standing {id : ThreadId} {c : BitVec 10} {fab : Bool} {va n v : Nat}
    (h : s.engRead id c fab va n = .ok (t, v)) : t.standing = s.standing := by
  unfold State.engRead at h
  split at h
  · cases h
  · cases h
    exact s.engBytes_standing _

theorem State.engWrite_standing {id : ThreadId} {c : BitVec 10} {fab : Bool} {va n v : Nat}
    (h : s.engWrite id c fab va n v = .ok t) : t.standing = s.standing := by
  unfold State.engWrite at h
  split at h
  · cases h
  · cases h
    exact State.engPutBytes_standing ..

theorem State.bookWord_standing {c : LoomCmd} {i : Nat} {w : Word} (h : s.bookWord c i w = .ok t) :
    t.standing = s.standing := by
  unfold State.bookWord State.bookWrite at h
  split at h
  · cases h
  · cases h
    exact State.engPutBytes_standing ..

theorem State.bookHeader_standing {c : LoomCmd} {hd : Header} (h : s.bookHeader c = .ok (t, hd)) : t.standing = s.standing := by
  unfold State.bookHeader State.bookRead at h
  split at h
  · cases h
  · next s1 b hb =>
    split at hb
    · cases hb
    · have hs : s1 = t := congrArg Prod.fst (Except.ok.inj h)
      have he := congrArg Prod.fst (Except.ok.inj hb)
      rw [← hs, ← show _ = s1 from he]
      exact s.engBytes_standing _

theorem atLane_ok {α : Type} {i : Nat} {tag : Word} {r : Res α} {a : α} (h : atLane i tag r = .ok a) : r = .ok a := by
  unfold atLane at h
  split at h
  · cases h
  · cases h
  · exact h

theorem State.portRead_standing {c : PorterCmd} {tag : Word} {va n al v : Nat} (h : s.portRead c tag va n al = .ok (t, v)) :
    t.standing = s.standing := by
  unfold State.portRead at h
  split at h
  · cases atLane_ok h
  · exact State.engRead_standing (atLane_ok h)

theorem State.portWrite_standing {c : PorterCmd} {tag : Word} {va n al v : Nat} (h : s.portWrite c tag va n al v = .ok t) :
    t.standing = s.standing := by
  unfold State.portWrite at h
  split at h
  · cases atLane_ok h
  · exact State.engWrite_standing (atLane_ok h)

theorem State.completion_standing {c : PorterCmd} (h : s.completion c = .ok t) : t.standing = s.standing := by
  unfold State.completion at h
  split at h
  · exact State.portWrite_standing h
  · split at h
    · cases h
    · next hr => exact (State.portWrite_standing h).trans (State.portRead_standing hr)
  · cases h
    rfl

end

@[simp] theorem State.setPort_standing (s : State) (cl : BitVec 7) (n : BitVec 2) (p : Porter) :
    (s.setPort cl n p).standing = s.standing := by simp [State.setPort]

@[simp] theorem State.portDone_standing (s : State) (cl : BitVec 7) (n : BitVec 2) (c : PorterCmd) :
    (s.portDone cl n c).standing = s.standing := s.setPort_standing ..

@[simp] theorem State.portRecord_standing (s : State) (cl : BitVec 7) (n : BitVec 2) (c : PorterCmd) (f : Flt) :
    (s.portRecord cl n c f).standing = s.standing := by simp [State.portRecord]

@[simp] theorem State.finishSkipped_standing (cl : BitVec 7) (n : BitVec 2) :
    ∀ (k : Nat) (s : State), (s.finishSkipped cl n k).standing = s.standing := by
  intro k
  induction k with
  | zero => exact fun _ => rfl
  | succ k ih =>
    intro s
    unfold State.finishSkipped
    split
    · rfl
    · split
      · rfl
      · split
        · simp [ih]
        · simp
        · next hc => simp [ih, State.completion_standing hc]

@[simp] theorem State.abandonPorter_standing (s : State) (cl : BitVec 7) (n : BitVec 2) :
    (s.abandonPorter cl n).standing = s.standing := by simp [State.abandonPorter, State.skipPort]

/-! ## Looms -/

@[simp] theorem State.loomRecord_standing (s : State) (cl : BitVec 7) (c : LoomCmd) (f : Flt) (pos : Nat) (w : Word) :
    (s.loomRecord cl c f pos w).standing = s.standing := by simp [State.loomRecord]

theorem State.orRecord_standing {s : State} {cl : BitVec 7} {c : LoomCmd} {r : Res State}
    (hr : ∀ t, r = .ok t → t.standing = s.standing) : (s.orRecord cl c r).standing = s.standing := by
  unfold State.orRecord
  split
  · exact hr _ rfl
  · simp
  · rfl

@[simp] theorem State.unwindAbandon_standing (s : State) (cl : BitVec 7) (c : LoomCmd) :
    (s.unwindAbandon cl c).standing = s.standing := by
  unfold State.unwindAbandon
  extract_lets s1 s2 n
  have h1 : s1.standing = s.standing := by
    simp only [s1]
    split
    · rfl
    · split
      · exact State.orRecord_standing fun _ => State.bookWord_standing
      · next hb => exact (State.orRecord_standing fun _ => State.bookWord_standing).trans (State.bookHeader_standing hb)
      · simp
      · rfl
  exact (State.orRecord_standing fun _ => State.engWrite_standing).trans h1

@[simp] theorem State.skipCmd_standing (s : State) (cl : BitVec 7) (c : LoomCmd) : (s.skipCmd cl c).standing = s.standing := by
  unfold State.skipCmd
  dsimp only
  rw [State.putLoom_standing]
  split <;> simp

@[simp] theorem State.flushCmd_standing (cl : BitVec 7) (s : State) (c : LoomCmd) :
    (s.flushCmd cl c).standing = s.standing := by
  unfold State.flushCmd
  dsimp only
  rw [State.putLoom_standing]
  split
  · exact State.orRecord_standing fun _ => State.engWrite_standing
  · rfl

@[simp] theorem State.linkLoad_standing (s : State) (cl : BitVec 7) (c : LoomCmd) (i : Option Nat) :
    (s.linkLoad cl c i).standing = s.standing := by
  unfold State.linkLoad
  dsimp only
  (repeat' split) <;> simp

@[simp] theorem State.countDone_standing (cl : BitVec 7) :
    ∀ (n : Nat) (s : State), (State.countDone cl n s).standing = s.standing := by
  intro n
  induction n with
  | zero => exact fun _ => rfl
  | succ n ih =>
    intro s
    unfold State.countDone
    split
    · rfl
    · split
      · rfl
      · simp [ih, State.popDone]

@[simp] theorem State.loomCount_standing (s : State) (cl : BitVec 7) (b : Option Loom) :
    (s.loomCount cl b).standing = s.standing := by
  unfold State.loomCount
  dsimp only
  (repeat' split) <;> simp

/-! ## Accesses from outside -/

@[simp] theorem State.answerTo_standing (s : State) (who : Asker) (n : Nat) (bs : Option (List Byte)) :
    (s.answerTo who n bs).standing = s.standing := by
  unfold State.answerTo
  dsimp only
  split <;> simp

@[simp] theorem State.rmw_standing (s : State) (src : Option ThreadId) (pa n : Nat) (f : Word → Option Word) :
    (s.rmw src pa n f).1.standing = s.standing := by
  unfold State.rmw
  dsimp only
  split <;> simp

@[simp] theorem State.agentEvent_standing (s : State) (who : Asker) (pa : Nat) (w : InOp) :
    (s.agentEvent who pa w).standing = s.standing := by
  cases w with
  | read n => simp [State.agentEvent, State.agentRead]
  | write bs bad =>
    simp only [State.agentEvent, State.agentWrite]
    (repeat' split) <;> simp
  | atomic op z e v =>
    simp only [State.agentEvent, State.agentAtomic]
    split <;> simp

@[simp] theorem State.hint_standing (s : State) (tn : BitVec 4) (d : BitVec 2) (va n : Nat) :
    (s.hint tn d va n).standing = s.standing := by
  unfold State.hint
  dsimp only
  (repeat' split) <;> simp

@[simp] theorem State.hintsOf_standing (s : State) (tn : BitVec 4) (p : Nat → Bool) :
    (s.hintsOf tn p).standing = s.standing := by
  unfold State.hintsOf
  split
  · rfl
  · split
    · rfl
    · refine foldl_standing _ (fun s q => ?_) _ s
      dsimp only
      (repeat' split) <;> simp

@[simp] theorem State.countHost_standing (s : State) (pa : Nat) : (s.countHost pa).standing = s.standing := by
  unfold State.countHost
  dsimp only
  split <;> simp

@[simp] theorem State.hostEvent_standing (s : State) (h : BitVec 1) (tee : Option (Option (BitVec 4))) (q : Inbound) :
    (s.hostEvent h tee q).standing = s.standing := by
  unfold State.hostEvent
  extract_lets s1
  have h1 : s1.standing = s.standing := by
    simp only [s1]
    split <;> simp
  (repeat' split) <;> simp [h1]

@[simp] theorem State.snoopEvent_standing (s : State) (q : Inbound) : (s.snoopEvent q).standing = s.standing := by
  unfold State.snoopEvent
  dsimp only
  split
  · simp only [State.hostTakes, State.writtenBy_standing]
    split <;> simp
  · simp only [State.hostReads, State.invalidate_standing, State.updAll_standing]
    exact s.combineLine_standing _ _

@[simp] theorem State.serveInbound_standing (s : State) (q : Inbound) : (s.serveInbound q).standing = s.standing := by
  unfold State.serveInbound
  (repeat' split) <;> simp

@[simp] theorem State.arrive_standing (s : State) (q : Inbound) : (s.arrive q).standing = s.standing := by
  unfold State.arrive
  split
  · simp
  · rfl

@[simp] theorem State.partsArrive_standing (who : Asker) (tn : BitVec 4) (w : InOp) (ps : List (Nat × Nat × Nat)) :
    ∀ (s : State) (o : Nat), (s.partsArrive who tn w o ps).standing = s.standing := by
  induction ps with
  | nil => exact fun _ _ => rfl
  | cons p l ih => exact fun s o => (ih _ _).trans (s.arrive_standing _)

@[simp] theorem State.lateRefused_standing (s : State) (q : Late) : (s.lateRefused q).standing = s.standing := by
  unfold State.lateRefused
  dsimp only
  split <;> simp

@[simp] theorem State.enterLate_standing (s : State) (q : Late) : (s.enterLate q).standing = s.standing := by
  unfold State.enterLate State.enter
  split
  · rfl
  · split
    · simp
    · split
      · simp
      · exact s.askPage_standing _ _ _
      · simp

/-! ## Cores and clusters that leave (R314) -/

@[simp] theorem State.flushLoom_standing (s : State) (cl : BitVec 7) : (s.flushLoom cl).standing = s.standing := by
  unfold State.flushLoom
  dsimp only
  rw [State.loomCount_standing, foldl_standing, State.putLoom_standing]
  intro s c
  unfold State.flushOut
  dsimp only
  (repeat' split) <;> simp

@[simp] theorem State.loseLines_standing (s : State) (p : BitVec 10 → Bool) : (s.loseLines p).standing = s.standing := by
  unfold State.loseLines
  dsimp only
  rw [foldl_standing _ (fun _ _ => by simp)]
  exact s.mapCores_standing (fun _ => by split <;> rfl) (fun _ => by split <;> rfl)

@[simp] theorem State.beginDrain_standing (s : State) (r : Nat) (b : Option Bool)
    (h : Option (Option (BitVec 4) × Word × Word)) : (s.beginDrain r b h).standing = s.standing :=
  State.flushRegion_standing _ _

@[simp] theorem State.rehomeAll_standing (s : State) (gone : BitVec 10 → Bool) :
    (s.rehomeAll gone).standing = s.standing := by
  refine foldl_standing _ (fun s r => ?_) _ s
  unfold State.rehomeOne
  dsimp only
  (repeat' split) <;> simp

@[simp] theorem State.failPackets_standing (s : State) (cl : BitVec 7) : (s.failPackets cl).standing = s.standing := by
  refine foldl_standing _ (fun s p => foldl_standing _ (fun s i => ?_) _ s) _ _
  unfold State.rankRecord
  dsimp only
  (repeat' split) <;> simp [State.drayRecord]

theorem State.mappedOutPart_standing {s : State} {f : Health → Health} (hu : ∀ h, (f h).unc = h.unc)
    (hc : ∀ h, (f h).coresOut = h.coresOut) : (s.mappedOutPart f).standing = s.standing := by
  simp [State.standing, State.mappedOutPart, State.health, State.rebuildCaps, State.core, hu, hc]

/-- A cluster that leaves takes no core out of the count of cores. -/
@[simp] theorem State.mapOutCluster_standing (s : State) (cl : BitVec 7) : (s.mapOutCluster cl).standing = s.standing := by
  unfold State.mapOutCluster
  split
  · rfl
  · extract_lets gone s1 s2 k s3 ids s4 net s5
    have h2 : s2.standing = s.standing := by simp [s2, s1]
    have h4 : s4.standing = s.standing := by simp [s4, s3, h2]
    rw [State.mappedOutPart_standing, State.rehomeAll_standing, State.loseLines_standing]
    · exact (s4.withNet_standing _).trans h4
    all_goals exact fun _ => rfl

end Sys2Proof.Machine
end

section
/-! PROOFS. Detected errors and their containment, links, lost hosts and freezes (R22, R312 to R317, R332, R335): what each
containment leaves, what the two heads stand at after the loss of a host, one lemma for each answer of the events, and the
obligation assembled from them. -/

open Sys2Proof Sys2Proof.Machine

namespace Sys2Proof.Machine

/-! ## What the standing says -/

section
variable {s t : State} (h : s.standing = t.standing)
include h

theorem State.unc_of_standing : s.hub.health.unc = t.hub.health.unc := congrArg (fun p => p.1.1) h
theorem State.coresOut_of_standing : s.hub.health.coresOut = t.hub.health.coresOut := congrArg (fun p => p.1.2.1) h
theorem State.mappedOut_of_standing (c : BitVec 10) : (s.core c).mappedOut = (t.core c).mappedOut :=
  congrArg (fun p => p.1.2.2 c) h
theorem State.cyc_of_standing : s.cyc = t.cyc := congrArg (fun p => p.2.1) h

theorem State.lost_of_standing (i : BitVec 1) : (s.head i).lost = (t.head i).lost := by
  unfold State.head
  split
  · exact congrArg (fun p => p.2.2.1.1) h
  · exact congrArg (fun p => p.2.2.2.1) h

theorem State.standby_of_standing (i : BitVec 1) : (s.head i).standby = (t.head i).standby := by
  unfold State.head
  split
  · exact congrArg (fun p => p.2.2.1.2) h
  · exact congrArg (fun p => p.2.2.2.2) h

end

/-! ## A freeze (R316) -/

/-- The answers with poison go out to whoever asked, and nothing else changes. -/
theorem State.poisonedAnswers_only (l : List (Asker × InOp)) (s : State) :
    ∃ o, l.foldl (fun s p => s.answerTo p.1 p.2.len none) s = { s with hub := { s.hub with out := o } } := by
  induction l generalizing s with
  | nil => exact ⟨s.hub.out, rfl⟩
  | cons p l ih =>
    have hone : ∃ o, s.answerTo p.1 p.2.len none = { s with hub := { s.hub with out := o } } := by
      unfold State.answerTo
      dsimp only
      split
      all_goals exact ⟨_, rfl⟩
    obtain ⟨o, ho⟩ := hone
    obtain ⟨q, hq⟩ := ih { s with hub := { s.hub with out := o } }
    exact ⟨q, by rw [List.foldl_cons, ho, hq]⟩

theorem State.freeze_only (s : State) : ∃ o, s.freeze = { s with
    hub := { s.hub with frozen := true, out := o }, net := { s.net with inbound := [], late := [], farPackets := [] } } := by
  obtain ⟨o, ho⟩ := State.poisonedAnswers_only
    (((s.net.inbound.map (fun q => (q.asker, q.what))) ++ s.net.late.map (fun q => (q.asker, q.what))).filter
      (fun p => p.2.asks))
    { s with hub := { s.hub with frozen := true }, net := { s.net with inbound := [], late := [], farPackets := [] } }
  exact ⟨o, ho⟩

@[simp] theorem State.freeze_frozen (s : State) : s.freeze.hub.frozen = true := by
  obtain ⟨o, h⟩ := s.freeze_only
  rw [h]

@[simp] theorem State.freeze_health (s : State) : s.freeze.hub.health = s.hub.health := by
  obtain ⟨o, h⟩ := s.freeze_only
  rw [h]

@[simp] theorem State.freeze_net (s : State) : s.freeze.net = { s.net with inbound := [], late := [], farPackets := [] } := by
  obtain ⟨o, h⟩ := s.freeze_only
  rw [h]

@[simp] theorem State.freeze_threads (s : State) : s.freeze.threads = s.threads := by
  obtain ⟨o, h⟩ := s.freeze_only
  rw [h]
  rfl

/-- A host's read that waits at its home is answered poisoned. -/
theorem State.freeze_out_of_read {s : State} {hh : BitVec 1} {a n : Nat}
    (hi : s.net.inbound = [⟨.host hh, a, .read n, none, false⟩]) (hl : s.net.late = []) :
    s.freeze.hub.out = s.hub.out ++ [.poisoned hh n] := by
  simp [State.freeze, hi, hl, InOp.asks, InOp.len, State.answerTo, State.send]

/-! ## The damage of a loom (R313) -/

theorem tset_tset {α : Type} (t : Tab α) (k : Nat) (v w : α) : tset (tset t k v) k w = tset t k w := by
  induction t with
  | nil => simp [tset]
  | cons p t ih =>
    obtain ⟨i, x⟩ := p
    by_cases hlt : k < i
    · simp [tset, hlt]
    · by_cases heq : k = i
      · simp [tset, heq]
      · simp [tset, hlt, heq, ih]

theorem State.putLoom_putLoom (s : State) (cl : BitVec 7) (l k : Loom) : (s.putLoom cl l).putLoom cl k = s.putLoom cl k := by
  unfold State.putLoom
  rw [State.cluster_setCluster]
  simp only [State.setCluster, tset_tset]

/-- The command at which a loom stops, as it goes back to the queue: it will run from its start. -/
def LoomCmd.restarted (c : LoomCmd) : LoomCmd :=
  { c with phase := .arrived, pos := 0, buf := [], pend := [], marks := [], foreign := false }

/-- A loom that held `l` has stopped at a command with a tile record of detail 5 (R313). -/
def State.damaged (s : State) (cl : BitVec 7) (l : Loom) (c : LoomCmd) (rtile : Word) : State :=
  let u := (s.putLoom cl { l.put c.restarted with lastRun := s.cyc }).loomRecord cl c ⟨0x0B, 5, 0, 0, 0, none⟩ 0 rtile
  u.setLoom cl { (u.cluster cl).loom with st := 2, lfcmd := c.seq, frank := c.id.rank }

theorem State.loomStop_running {s : State} {cl : BitVec 7} {c : LoomCmd} (rtile : Word) (hop : c.op ≠ .unwind)
    (hst : (s.cluster cl).loom.st ≠ 2) :
    s.loomStop cl c ⟨0x0B, 5, 0, 0, 0, none⟩ 0 rtile = s.damaged cl (s.cluster cl).loom c rtile := by
  have hback : c.back = { c with phase := .arrived, pos := 0, buf := [], pend := [], marks := [] } :=
    if_neg fun hu => hop hu.1
  unfold State.loomStop
  rw [hback]
  exact if_neg hst

section
variable {s : State} {cl : BitVec 7} {l : Loom} (rtile : Word)

/-- A loom with no command goes on. -/
theorem State.loomDamage_idle (h : l.queue = []) : (s.putLoom cl l).loomDamage cl rtile = s.putLoom cl l := by
  simp [State.loomDamage, State.putLoom, h]

/-- A loom stops at its earliest command that is not done. -/
theorem State.loomDamage_stops {c : LoomCmd} (h : l.queue.find? (fun k => k.phase != .done) = some c) (hop : c.op ≠ .unwind)
    (hst : l.st ≠ 2) : (s.putLoom cl l).loomDamage cl rtile = s.damaged cl l c rtile := by
  have hl : ((s.putLoom cl l).cluster cl).loom = l := by simp [State.putLoom]
  unfold State.loomDamage
  rw [hl, h]
  show (s.putLoom cl l).loomStop cl c _ 0 rtile = _
  rw [State.loomStop_running rtile hop (by rwa [hl]), hl]
  unfold State.damaged
  rw [State.putLoom_putLoom]
  rfl

end

/-! ## A core leaves (R314) -/

/-- A core that is mapped out is counted; what happens to its threads, its lines and the homes there takes no other core. -/
theorem State.mapOutCore_standing {s : State} {c : BitVec 10} (h : (s.core c).mappedOut = false) :
    ∃ x : State, s.mapOutCore c [] = x.mappedOutPart (fun h => { h with coresOut := h.coresOut + 1 })
      ∧ x.standing = (s.setCore c { s.core c with mappedOut := true }).standing := by
  unfold State.mapOutCore
  rw [if_neg (by simp [h])]
  extract_lets here k s1 s2 s3
  refine ⟨_, rfl, ?_⟩
  have h3 : s3.standing = s1.standing := by
    simp only [s3, s2, List.foldl_nil]
    split <;> simp
  rw [State.rehomeAll_standing, State.loseLines_standing, h3]
  rfl

theorem State.mapOutCore_effect {s : State} {c : BitVec 10} (h : (s.core c).mappedOut = false) :
    ((s.mapOutCore c []).core c).mappedOut = true ∧ (s.mapOutCore c []).hub.health.coresOut = s.hub.health.coresOut + 1
      ∧ (s.mapOutCore c []).hub.health.unc = s.hub.health.unc := by
  obtain ⟨x, hx, hs⟩ := State.mapOutCore_standing h
  have hout := State.mappedOut_of_standing hs c
  have hcount := State.coresOut_of_standing hs
  have hunc := State.unc_of_standing hs
  rw [State.core_setCore] at hout
  rw [hx]
  exact ⟨hout, congrArg (· + 1) hcount, hunc⟩

/-! ## Detected errors (R312 to R315) -/

/-- An error that was not corrected is counted, with the mechanism that found it and where. -/
def State.uncorrected (s : State) (m : Mechanism) (x : Nat) : State :=
  s.health (fun h => { h with unc := h.unc + 1, last := hlast (mechRow m) x })

theorem exec_correctedError (s : State) (m : Mechanism) (i : Nat) : exec (.correctedError m i) s =
    .next (s.health (fun h => { h with corr := h.corr + 1, last := hlast (mechRow m) i })) := rfl

theorem exec_uncontained (s : State) :
    exec (.uncorrectableError .uncontained) s = .next (s.uncorrected .secded 0).freeze := rfl

theorem exec_logicFault_uncontained (s : State) :
    exec (.logicFault .uncontained) s = .next (s.uncorrected .residue 0).freeze := rfl

section
variable {s : State} {cl : BitVec 7}

theorem exec_warp_idle (w : BitVec 2) (h : (s.cluster cl).loom.queue = []) : exec (.uncorrectableError (.warp cl w)) s =
    .next ((s.uncorrected .secded cl.toNat).putLoom cl ((s.cluster cl).loom.setWarp w Operand.empty)) :=
  congrArg Host.Outcome.next (State.loomDamage_idle 0 h)

variable {c : LoomCmd} (h : (s.cluster cl).loom.queue.find? (fun k => k.phase != .done) = some c) (hop : c.op ≠ .unwind)
  (hst : (s.cluster cl).loom.st ≠ 2)
include h hop hst

theorem exec_warp_stops (w : BitVec 2) : exec (.uncorrectableError (.warp cl w)) s =
    .next ((s.uncorrected .secded cl.toNat).damaged cl ((s.cluster cl).loom.setWarp w Operand.empty) c 0) :=
  congrArg Host.Outcome.next (State.loomDamage_stops 0 h hop hst)

theorem exec_weft_stops : exec (.uncorrectableError (.weft cl)) s =
    .next ((s.uncorrected .secded cl.toNat).damaged cl { (s.cluster cl).loom with weft := Operand.empty } c 0) :=
  congrArg Host.Outcome.next (State.loomDamage_stops 0 h hop hst)

theorem exec_tile_stops (t : BitVec 3) : exec (.uncorrectableError (.tile cl t)) s =
    .next ((s.uncorrected .secded cl.toNat).damaged cl ((s.cluster cl).loom.setTile t Tile.clear) c (t.setWidth 64)) :=
  congrArg Host.Outcome.next (State.loomDamage_stops (t.setWidth 64) h hop hst)

end

/-- A row is remapped: `n` spare rows are used now. -/
def State.remapped (s : State) (n : Nat) : State :=
  { s with free := s.free + 1, hub := { s.hub with
    health := { s.hub.health with rows := n, repl := true, degraded := true }, capGen := s.hub.capGen + 2 } }

section
variable {s : State} {r : Nat}

theorem exec_dramRowRemap_spare (h : Config.freeBit s.free = false) :
    exec (.dramRowRemap r) s = .next (s.remapped (s.hub.health.rows + 1)) := by
  show execDramRowRemap r s = _
  simp only [execDramRowRemap, h]
  rfl

variable (h : Config.freeBit s.free = true)
include h

theorem exec_dramRowRemap_moves (hk : (s.region r).tier ≠ none) : exec (.dramRowRemap r) s =
    .next ((s.remapped s.hub.health.rows).setRegion r { s.region r with moving := some 8, retired := true }) := by
  show execDramRowRemap r s = _
  simp only [execDramRowRemap, h, Bool.true_and]
  exact if_pos (Option.isSome_iff_ne_none.2 hk)

theorem exec_dramRowRemap_stays (hk : (s.region r).tier = none) :
    exec (.dramRowRemap r) s = .next (s.remapped s.hub.health.rows) := by
  show execDramRowRemap r s = _
  simp only [execDramRowRemap, h, Bool.true_and]
  exact if_neg (show ¬ (s.region r).tier.isSome = true by simp [hk])

end

theorem exec_patrolScrub_off {s : State} (a : Nat) (h : s.hub.scrubOff = true) :
    exec (.patrolScrub (some (.line a))) s = .next s :=
  congrArg Host.Outcome.next (if_pos h)

theorem exec_patrolScrub_on {s : State} (a : Nat) (h : s.hub.scrubOff = false) :
    exec (.patrolScrub (some (.line a))) s = .next ((s.uncorrected .dramEcc 0).markPoison (lineOf a) 1) :=
  congrArg Host.Outcome.next (if_neg (by simp [h]))

theorem exec_parityReplay_core (s : State) (c : BitVec 10) : exec (.parityReplay (.core c []) true) s =
    .next ((s.uncorrected .parity c.toNat).mapOutCore c []) := rfl

/-! ## Links (R312, R332, R335) -/

section
variable {s : State} {l : BitVec 4}

theorem exec_flitReplay_up (h : (s.link l).up = true) : exec (.flitReplay (.yv l) true) s =
    .next ((s.uncorrected .crc 0).setLink l { s.link l with recovery := true }) :=
  congrArg Host.Outcome.next (if_pos h)

theorem exec_flitReplay_down (h : (s.link l).up = false) : exec (.flitReplay (.yv l) true) s =
    .next (s.uncorrected .crc 0) :=
  congrArg Host.Outcome.next (if_neg (by simp [h]))

theorem exec_flitReplay_other {j : LinkId} (h : ∀ i, j ≠ .yv i) : exec (.flitReplay j true) s =
    .next ((s.uncorrected .crc 0).setRecovery j true) := by
  cases j with
  | yv i => exact absurd rfl (h i)
  | mesh a b => rfl
  | die a b => rfl

theorem exec_linkRecovery_other {j : LinkId} (h : ∀ i, j ≠ .yv i) : exec (.linkRecovery j false) s =
    .next (s.setRecovery j false) := by
  cases j with
  | yv i => exact absurd rfl (h i)
  | mesh a b => rfl
  | die a b => rfl

theorem exec_linkRecovery_yv (h : (s.link l).recovery = true) (failed : Bool) : exec (.linkRecovery (.yv l) failed) s =
    .next (if failed then (s.setLink l { s.link l with recovery := false, up := false }).rebuildCaps
      else s.setLink l { s.link l with recovery := false }) := by
  show execLinkRecovery (.yv l) failed s = _
  cases failed <;> simp [execLinkRecovery, h]

/-- A link without one of its lanes. -/
def Link.without (k : Link) (lane : BitVec 3) : Link := { k with good := k.good &&& ~~~(1#8 <<< lane.toNat) }

/-- A link that is up loses a lane: it goes on with 4 lanes or more. -/
theorem exec_laneFailure {lane : BitVec 3} (hup : (s.link l).up = true) (hg : (s.link l).good.getLsbD lane.toNat = true) :
    exec (.laneFailure l lane) s = .next ((s.setLink l { (s.link l).without lane with
      up := decide (4 ≤ ((s.link l).without lane).lanes) }).rebuildCaps) := by
  show execLaneFailure l lane s = _
  unfold execLaneFailure
  extract_lets k l1 l2
  rw [if_neg (by simp [k, hg]), if_pos hup]
  have h2 : l2 = { l1 with up := decide (4 ≤ l1.lanes) } := by
    by_cases hlt : l1.lanes < 4
    · simp only [l2, if_pos hlt, decide_eq_false (not_le.2 hlt)]
    · simp only [l2, if_neg hlt, decide_eq_true (not_lt.1 hlt)]
      simp [l1, k, hup]
  rw [h2]
  rfl

theorem exec_linkUp (hup : (s.link l).up = false) (hl : 4 ≤ (s.link l).lanes) :
    exec (.linkUp l) s = .next ((s.setLink l { s.link l with up := true }).rebuildCaps) := by
  show execLinkUp l s = _
  simp [execLinkUp, hup, hl]

end

/-! ## The loss and the return of a host (R22, R317) -/

theorem headAfter_ne (h : BitVec 1) : h + 1 ≠ h := by decide +revert
theorem headAfter_headAfter (h : BitVec 1) : h + 1 + 1 = h := by decide +revert

theorem State.head_setHead_other (s : State) {h i : BitVec 1} (k : Head) (hi : i ≠ h) :
    (s.setHead h k).head i = s.head i := by
  unfold State.setHead State.head
  by_cases h0 : h = 0
  · have hi0 : i ≠ 0 := h0 ▸ hi
    simp only [if_pos h0, if_neg hi0]
  · have hi0 : i = 0 := by
      revert i h
      decide
    simp only [if_neg h0, if_pos hi0]

@[simp] theorem State.abortHost_standing (s : State) (tn : BitVec 4) : (s.abortHost tn).standing = s.standing := rfl

@[simp] theorem State.departTenant_standing (s : State) (tn : BitVec 4) : (s.departTenant tn).standing = s.standing :=
  foldl_standing _ (fun _ _ => State.depart_standing ..) _ s

@[simp] theorem State.toError_standing (s : State) (tn : BitVec 4) : (s.toError tn).standing = s.standing := by
  simp [State.toError]

@[simp] theorem State.tenantUnasked_standing (s : State) (tn : BitVec 4) : (s.tenantUnasked tn).standing = s.standing := rfl

@[simp] theorem State.tenantLosesHost_standing (h : BitVec 1) (s : State) (tn : BitVec 4) :
    (s.tenantLosesHost h tn).standing = s.standing := by
  unfold State.tenantLosesHost
  dsimp only
  (repeat' split) <;> simp

theorem State.dropHostLines_standing (s : State) (h : BitVec 1) : (s.dropHostLines h).standing = s.standing := by
  unfold State.dropHostLines
  dsimp only
  rw [State.mapCores_standing, State.writtenBy_standing, State.updAll_standing]
  all_goals exact fun _ => rfl

/-- The loss of a host touches its head, and ends the standby of the other. -/
theorem State.loseHost_standing (s : State) (h : BitVec 1) : (s.loseHost h).standing =
    ((s.setHead h { s.head h with lost := true, session := false }).setHead (h + 1)
      { s.head (h + 1) with standby := false }).standing := by
  unfold State.loseHost
  extract_lets k s0 o s1 s2
  rw [foldl_standing _ (State.tenantLosesHost_standing h), State.dropHostLines_standing]
  have h0 : s0.head (h + 1) = s.head (h + 1) := State.head_setHead_other s _ (headAfter_ne h)
  show (s0.setHead (h + 1) { s0.head (h + 1) with standby := false }).standing = _
  rw [h0]

theorem State.loseHost_lost (s : State) (h : BitVec 1) : ((s.loseHost h).head h).lost = true := by
  rw [State.lost_of_standing (s.loseHost_standing h), State.head_setHead_other _ _ (headAfter_ne h).symm, State.head_setHead]

theorem State.loseHost_standby (s : State) (h : BitVec 1) : ((s.loseHost h).head (h + 1)).standby = false := by
  rw [State.standby_of_standing (s.loseHost_standing h), State.head_setHead]

theorem State.loseHost_cyc (s : State) (h : BitVec 1) : (s.loseHost h).cyc = s.cyc := by
  rw [State.cyc_of_standing (s.loseHost_standing h), State.setHead_cyc, State.setHead_cyc]

section
variable {s : State} {h : BitVec 1}

theorem exec_hostLinkDown (hup : (s.head h).up = true) : exec (.hostLinkDown h) s =
    .next ((s.setHead h { s.head h with up := false, downAt := s.cyc + 1, linkIde := false }).rebuildCaps) :=
  congrArg Host.Outcome.next (if_pos hup)

/-- The head of a link that returns (R22). -/
def State.linkBack (s : State) (h : BitVec 1) (b : Bool) : State :=
  s.setHead h { s.head h with up := true, downAt := 0, standby := b && (s.head (h + 1)).up && !(s.head (h + 1)).standby }

theorem State.linkBack_tenants (s : State) (h : BitVec 1) (b : Bool) : (s.linkBack h b).tenants = s.tenants :=
  s.setHead_tenants _ _

theorem exec_hostLinkUp (hup : (s.head h).up = false) (b : Bool) :
    exec (.hostLinkUp h b) s = .next (s.linkBack h b).returned.rebuildCaps :=
  congrArg Host.Outcome.next (if_neg (by simp [hup]))

theorem exec_hostLinkUp_waits (hup : (s.head h).up = false) (b : Bool)
    (ht : s.tenants.any (fun p => p.2.hostLost) = true) : exec (.hostLinkUp h b) s = .next (s.linkBack h b).rebuildCaps := by
  rw [exec_hostLinkUp hup]
  refine congrArg (fun u : State => Host.Outcome.next u.rebuildCaps) (if_pos ?_)
  rwa [State.linkBack_tenants]

/-- The heads whose links are up have lost no host any more. -/
def State.allReturned (s : State) : State :=
  { s with
    head0 := { s.head0 with lost := s.head0.lost && !s.head0.up }
    head1 := { s.head1 with lost := s.head1.lost && !s.head1.up } }

theorem exec_hostLinkUp_ends (hup : (s.head h).up = false) (b : Bool)
    (ht : s.tenants.any (fun p => p.2.hostLost) = false) :
    exec (.hostLinkUp h b) s = .next (s.linkBack h b).allReturned.rebuildCaps := by
  rw [exec_hostLinkUp hup]
  refine congrArg (fun u : State => Host.Outcome.next u.rebuildCaps) (if_neg ?_)
  simp [State.linkBack_tenants, ht]

theorem exec_hostLinkDownTimeout (hup : (s.head h).up = false) (hl : (s.head h).lost = false) (hd : (s.head h).downAt ≠ 0) :
    exec (.hostLinkDownTimeout h) s = .next ((s.reach ((s.head h).downAt - 1 + Config.hostLostCycles)).loseHost h) :=
  if_neg (by simp [hup, hl, hd])

theorem exec_adoptionWord (hup : (s.head h).up = true) (hl : (s.head h).lost = false) (hs : (s.head h).standby = true)
    (ho : (s.head (h + 1)).up = false) (hol : (s.head (h + 1)).lost = false) :
    exec (.adoptionWord h 0x41444F50) s = .next (s.loseHost (h + 1)) :=
  congrArg Host.Outcome.next (if_pos ⟨rfl, by simp [State.headUp, hup, hl], hs, by rw [ho]; rfl, by rw [hol]; rfl⟩)

theorem exec_freezeWord (hup : (s.head h).up = true) (hl : (s.head h).lost = false) (hs : (s.head h).standby = false) :
    exec (.freezeWord h 0x46525A45) s = .next s.freeze :=
  congrArg Host.Outcome.next (if_pos (by simp [State.headUp, hup, hl, hs]))

theorem exec_freezeWord_other {v : BitVec 32} (hv : v ≠ 0x46525A45) : exec (.freezeWord h v) s = .next s :=
  congrArg Host.Outcome.next (if_neg fun hc => hv hc.1)

end

end Sys2Proof.Machine

/-- Settles O56: one lemma for each answer of an error, a link or a head; what a containment or a loss leaves besides is
read off the standing that it keeps. -/
theorem failureEvents : Obligations.FailureEvents := by
  unfold Obligations.FailureEvents
  refine ⟨?errors, ?links⟩
  case errors =>
    intro s m i a r cl w c e h row last unc
    refine ⟨?corrected, rfl, rfl, ?uncontained, ?idle, ?stops, ?logic,
      ⟨exec_dramRowRemap_spare, exec_dramRowRemap_moves, exec_dramRowRemap_stays⟩, rfl, exec_patrolScrub_off a,
      exec_patrolScrub_on a, rfl, ?core⟩
    case corrected =>
      have hrow : row m = mechRow m := by cases m <;> rfl
      simp only [last, hrow]
      exact exec_correctedError s m i
    case uncontained =>
      exact ⟨_, exec_uncontained s, State.freeze_frozen _, State.freeze_mem _, State.freeze_threads _⟩
    case idle =>
      intro hq
      refine ⟨_, exec_warp_idle w hq, ?_, ?_, rfl, rfl⟩
      · simp [State.putLoom, Loom.warp, Loom.setWarp]
      · simp [State.putLoom, Loom.setWarp]
    case stops =>
      intro cmd t l hq hop hst v stopped
      exact ⟨exec_warp_stops hq hop hst w, exec_weft_stops hq hop hst, exec_tile_stops hq hop hst t⟩
    case logic =>
      refine ⟨_, exec_logicFault_uncontained s, State.freeze_frozen _, State.freeze_health _, ?_, ?_, ?_,
        State.freeze_mem _, State.freeze_threads _, fun hh n => State.freeze_out_of_read (s := s.uncorrected .residue 0)⟩
      all_goals rw [State.freeze_net]
    case core =>
      intro hc _
      obtain ⟨hout, hcount, hunc⟩ := State.mapOutCore_effect (s := s.uncorrected .parity c.toNat) (c := c) hc
      exact ⟨_, exec_parityReplay_core s c, hout, hcount, hunc⟩
  case links =>
    intro s l lane h b j k built rest x o good count lostFlits back shown
    refine ⟨rfl, fun hj => ⟨exec_flitReplay_other hj, exec_linkRecovery_other hj⟩, exec_flitReplay_up, exec_flitReplay_down,
      fun hr => exec_linkRecovery_yv hr false,
      fun hr => ⟨_, exec_linkRecovery_yv hr true, State.link_setLink .., rfl, rfl⟩,
      fun hk hg => ⟨_, exec_laneFailure hk hg, State.link_setLink .., rfl, rfl⟩,
      fun hk hg => ⟨_, exec_linkUp hk hg, State.link_setLink .., rfl, rfl⟩, exec_hostLinkDown,
      fun hx => exec_hostLinkUp_waits hx b, fun hx => exec_hostLinkUp_ends hx b, ?timeout, ?adopt, ?freeze,
      fun v => exec_freezeWord_other⟩
    case timeout =>
      intro hx hl hd
      exact ⟨_, exec_hostLinkDownTimeout hx hl hd, State.loseHost_lost .., State.loseHost_cyc ..,
        State.loseHost_standby ..⟩
    case adopt =>
      intro hx hl hs ho hol
      refine ⟨_, exec_adoptionWord hx hl hs ho hol, State.loseHost_lost .., ?_⟩
      have hstand := s.loseHost_standby (h + 1)
      rwa [headAfter_headAfter] at hstand
    case freeze =>
      intro hx hl hs
      refine ⟨_, exec_freezeWord hx hl hs, State.freeze_frozen s, ?_, ?_, State.freeze_mem s, State.freeze_threads s⟩
      all_goals rw [State.freeze_net]
end

section
/-! PROOFS. Decode and encode (R29, R31, R35 to R40): the fields of a word of each format, the codes of the sub-fields, and the
words of every instruction read back, family by family. -/

open Sys2Proof Sys2Proof.Machine

namespace Sys2Proof

/-! ## The fields of a word of each format (R35, R36) -/

section
variable (op : BitVec 6) (d s1 s2 : BitVec 5)

theorem packCN_fields (z : BitVec 15) (b : BitVec 1) (code : BitVec 9) :
    fld (packCN op z b code) 31 1 = 0 ∧ fld (packCN op z b code) 25 6 = op
    ∧ fld (packCN op z b code) 20 5 = z.extractLsb' 10 5 ∧ fld (packCN op z b code) 15 5 = z.extractLsb' 5 5
    ∧ fld (packCN op z b code) 10 5 = z.extractLsb' 0 5 ∧ fld (packCN op z b code) 9 1 = b
    ∧ fld (packCN op z b code) 0 9 = code := by
  simp (disch := decide) only [fld, packCN, BitVec.extractLsb'_append_eq_of_le, BitVec.extractLsb'_append_eq_of_add_le]
  simp

theorem packCR_fields (fn : BitVec 6) (md : BitVec 4) :
    fld (packCR op d s1 s2 fn md) 31 1 = 0 ∧ fld (packCR op d s1 s2 fn md) 25 6 = op
    ∧ fld (packCR op d s1 s2 fn md) 20 5 = d ∧ fld (packCR op d s1 s2 fn md) 15 5 = s1
    ∧ fld (packCR op d s1 s2 fn md) 10 5 = s2 ∧ fld (packCR op d s1 s2 fn md) 4 6 = fn
    ∧ fld (packCR op d s1 s2 fn md) 0 4 = md := by
  simp (disch := decide) only [fld, packCR, BitVec.extractLsb'_append_eq_of_le, BitVec.extractLsb'_append_eq_of_add_le]
  simp

theorem packCI_fields (imm : BitVec 20) : fld (packCI op d imm) 31 1 = 0 ∧ fld (packCI op d imm) 25 6 = op
    ∧ fld (packCI op d imm) 20 5 = d ∧ fld (packCI op d imm) 0 20 = imm := by
  simp (disch := decide) only [fld, packCI, BitVec.extractLsb'_append_eq_of_le, BitVec.extractLsb'_append_eq_of_add_le]
  simp

theorem packCB_fields (lo : BitVec 10) : fld (packCB op d s1 s2 lo) 31 1 = 0 ∧ fld (packCB op d s1 s2 lo) 25 6 = op
    ∧ fld (packCB op d s1 s2 lo) 20 5 = d ∧ fld (packCB op d s1 s2 lo) 15 5 = s1
    ∧ fld (packCB op d s1 s2 lo) 10 5 = s2 ∧ fld (packCB op d s1 s2 lo) 0 10 = lo := by
  simp (disch := decide) only [fld, packCB, BitVec.extractLsb'_append_eq_of_le, BitVec.extractLsb'_append_eq_of_add_le]
  simp

theorem packCJ_fields (k : BitVec 1) (imm : BitVec 14) : fld (packCJ op d s1 k imm) 31 1 = 0
    ∧ fld (packCJ op d s1 k imm) 25 6 = op ∧ fld (packCJ op d s1 k imm) 20 5 = d ∧ fld (packCJ op d s1 k imm) 15 5 = s1
    ∧ fld (packCJ op d s1 k imm) 14 1 = k ∧ fld (packCJ op d s1 k imm) 0 14 = imm := by
  simp (disch := decide) only [fld, packCJ, BitVec.extractLsb'_append_eq_of_le, BitVec.extractLsb'_append_eq_of_add_le]
  simp

theorem packCM_fields (z : BitVec 3) (off : BitVec 12) : fld (packCM op d s1 z off) 31 1 = 0
    ∧ fld (packCM op d s1 z off) 25 6 = op ∧ fld (packCM op d s1 z off) 20 5 = d ∧ fld (packCM op d s1 z off) 15 5 = s1
    ∧ fld (packCM op d s1 z off) 12 3 = z ∧ fld (packCM op d s1 z off) 0 12 = off := by
  simp (disch := decide) only [fld, packCM, BitVec.extractLsb'_append_eq_of_le, BitVec.extractLsb'_append_eq_of_add_le]
  simp

theorem packCV_fields (mk : BitVec 3) (ew : BitVec 2) (z : BitVec 5) :
    fld (packCV op d s1 s2 mk ew z) 31 1 = 0 ∧ fld (packCV op d s1 s2 mk ew z) 25 6 = op
    ∧ fld (packCV op d s1 s2 mk ew z) 20 5 = d ∧ fld (packCV op d s1 s2 mk ew z) 15 5 = s1
    ∧ fld (packCV op d s1 s2 mk ew z) 10 5 = s2 ∧ fld (packCV op d s1 s2 mk ew z) 7 3 = mk
    ∧ fld (packCV op d s1 s2 mk ew z) 5 2 = ew ∧ fld (packCV op d s1 s2 mk ew z) 0 5 = z := by
  simp (disch := decide) only [fld, packCV, BitVec.extractLsb'_append_eq_of_le, BitVec.extractLsb'_append_eq_of_add_le]
  simp

theorem packCT_fields (t2 z : BitVec 3) (fn : BitVec 4) :
    fld (packCT op d s1 s2 t2 z fn) 31 1 = 0 ∧ fld (packCT op d s1 s2 t2 z fn) 25 6 = op
    ∧ fld (packCT op d s1 s2 t2 z fn) 20 5 = d ∧ fld (packCT op d s1 s2 t2 z fn) 15 5 = s1
    ∧ fld (packCT op d s1 s2 t2 z fn) 10 5 = s2 ∧ fld (packCT op d s1 s2 t2 z fn) 7 3 = t2
    ∧ fld (packCT op d s1 s2 t2 z fn) 4 3 = z ∧ fld (packCT op d s1 s2 t2 z fn) 0 4 = fn := by
  simp (disch := decide) only [fld, packCT, BitVec.extractLsb'_append_eq_of_le, BitVec.extractLsb'_append_eq_of_add_le]
  simp

theorem packAR_fields (a3 : BitVec 5) (fn : BitVec 6) : fld (packAR op d s1 s2 a3 fn) 26 6 = op
    ∧ fld (packAR op d s1 s2 a3 fn) 21 5 = d ∧ fld (packAR op d s1 s2 a3 fn) 16 5 = s1
    ∧ fld (packAR op d s1 s2 a3 fn) 11 5 = s2 ∧ fld (packAR op d s1 s2 a3 fn) 6 5 = a3
    ∧ fld (packAR op d s1 s2 a3 fn) 0 6 = fn := by
  simp (disch := decide) only [fld, packAR, BitVec.extractLsb'_append_eq_of_le, BitVec.extractLsb'_append_eq_of_add_le]
  simp

theorem packAI_fields (imm : BitVec 16) : fld (packAI op d s1 imm) 26 6 = op ∧ fld (packAI op d s1 imm) 21 5 = d
    ∧ fld (packAI op d s1 imm) 16 5 = s1 ∧ fld (packAI op d s1 imm) 0 16 = imm := by
  simp (disch := decide) only [fld, packAI, BitVec.extractLsb'_append_eq_of_le, BitVec.extractLsb'_append_eq_of_add_le]
  simp

theorem packAS_fields (sh lm : BitVec 6) (fn : BitVec 4) : fld (packAS op d s1 sh lm fn) 26 6 = op
    ∧ fld (packAS op d s1 sh lm fn) 21 5 = d ∧ fld (packAS op d s1 sh lm fn) 16 5 = s1
    ∧ fld (packAS op d s1 sh lm fn) 10 6 = sh ∧ fld (packAS op d s1 sh lm fn) 4 6 = lm
    ∧ fld (packAS op d s1 sh lm fn) 0 4 = fn := by
  simp (disch := decide) only [fld, packAS, BitVec.extractLsb'_append_eq_of_le, BitVec.extractLsb'_append_eq_of_add_le]
  simp

theorem packAP_fields (fmt : BitVec 4) (blk : BitVec 3) (z : BitVec 9) : fld (packAP op d s1 fmt blk z) 26 6 = op
    ∧ fld (packAP op d s1 fmt blk z) 21 5 = d ∧ fld (packAP op d s1 fmt blk z) 16 5 = s1
    ∧ fld (packAP op d s1 fmt blk z) 12 4 = fmt ∧ fld (packAP op d s1 fmt blk z) 9 3 = blk
    ∧ fld (packAP op d s1 fmt blk z) 0 9 = z := by
  simp (disch := decide) only [fld, packAP, BitVec.extractLsb'_append_eq_of_le, BitVec.extractLsb'_append_eq_of_add_le]
  simp

theorem packAF_fields (a3 : BitVec 5) (ty : BitVec 2) (rm : BitVec 3) (z : BitVec 1) :
    fld (packAF op d s1 s2 a3 ty rm z) 26 6 = op ∧ fld (packAF op d s1 s2 a3 ty rm z) 21 5 = d
    ∧ fld (packAF op d s1 s2 a3 ty rm z) 16 5 = s1 ∧ fld (packAF op d s1 s2 a3 ty rm z) 11 5 = s2
    ∧ fld (packAF op d s1 s2 a3 ty rm z) 6 5 = a3 ∧ fld (packAF op d s1 s2 a3 ty rm z) 4 2 = ty
    ∧ fld (packAF op d s1 s2 a3 ty rm z) 1 3 = rm ∧ fld (packAF op d s1 s2 a3 ty rm z) 0 1 = z := by
  simp (disch := decide) only [fld, packAF, BitVec.extractLsb'_append_eq_of_le, BitVec.extractLsb'_append_eq_of_add_le]
  simp

theorem packAV_fields (ty : BitVec 3) (h1 h2 : BitVec 1) (fn mk : BitVec 3) :
    fld (packAV op d s1 s2 ty h1 h2 fn mk) 26 6 = op ∧ fld (packAV op d s1 s2 ty h1 h2 fn mk) 21 5 = d
    ∧ fld (packAV op d s1 s2 ty h1 h2 fn mk) 16 5 = s1 ∧ fld (packAV op d s1 s2 ty h1 h2 fn mk) 11 5 = s2
    ∧ fld (packAV op d s1 s2 ty h1 h2 fn mk) 8 3 = ty ∧ fld (packAV op d s1 s2 ty h1 h2 fn mk) 7 1 = h1
    ∧ fld (packAV op d s1 s2 ty h1 h2 fn mk) 6 1 = h2 ∧ fld (packAV op d s1 s2 ty h1 h2 fn mk) 3 3 = fn
    ∧ fld (packAV op d s1 s2 ty h1 h2 fn mk) 0 3 = mk := by
  simp (disch := decide) only [fld, packAV, BitVec.extractLsb'_append_eq_of_le, BitVec.extractLsb'_append_eq_of_add_le]
  simp

/-- The parts of the fields of format CR that some instructions read by themselves. -/
theorem packCR_parts (fn : BitVec 6) (md : BitVec 4) :
    fld (packCR op d s1 s2 fn md) 20 2 = d.extractLsb' 0 2 ∧ fld (packCR op d s1 s2 fn md) 20 3 = d.extractLsb' 0 3
    ∧ fld (packCR op d s1 s2 fn md) 10 3 = s2.extractLsb' 0 3 ∧ fld (packCR op d s1 s2 fn md) 0 2 = md.extractLsb' 0 2
    ∧ fld (packCR op d s1 s2 fn md) 2 2 = md.extractLsb' 2 2 ∧ fld (packCR op d s1 s2 fn md) 0 1 = md.extractLsb' 0 1
    ∧ fld (packCR op d s1 s2 fn md) 1 3 = md.extractLsb' 1 3 := by
  simp (disch := decide) only [fld, packCR, BitVec.extractLsb'_append_eq_of_le, BitVec.extractLsb'_append_eq_of_add_le]
  simp

/-- The same of format CT. -/
theorem packCT_parts (t2 z : BitVec 3) (fn : BitVec 4) :
    fld (packCT op d s1 s2 t2 z fn) 20 2 = d.extractLsb' 0 2 ∧ fld (packCT op d s1 s2 t2 z fn) 20 3 = d.extractLsb' 0 3
    ∧ fld (packCT op d s1 s2 t2 z fn) 7 2 = t2.extractLsb' 0 2 := by
  simp (disch := decide) only [fld, packCT, BitVec.extractLsb'_append_eq_of_le, BitVec.extractLsb'_append_eq_of_add_le]
  simp

/-- The same of format AV. -/
theorem packAV_parts (ty : BitVec 3) (h1 h2 : BitVec 1) (fn mk : BitVec 3) :
    fld (packAV op d s1 s2 ty h1 h2 fn mk) 21 3 = d.extractLsb' 0 3
    ∧ fld (packAV op d s1 s2 ty h1 h2 fn mk) 16 3 = s1.extractLsb' 0 3
    ∧ fld (packAV op d s1 s2 ty h1 h2 fn mk) 11 3 = s2.extractLsb' 0 3
    ∧ fld (packAV op d s1 s2 ty h1 h2 fn mk) 11 1 = s2.extractLsb' 0 1
    ∧ fld (packAV op d s1 s2 ty h1 h2 fn mk) 12 4 = s2.extractLsb' 1 4 := by
  simp (disch := decide) only [fld, packAV, BitVec.extractLsb'_append_eq_of_le, BitVec.extractLsb'_append_eq_of_add_le]
  simp

end

/-- Two fields side by side. -/
theorem fld_append (w : Half) (lo k m : Nat) : fld w lo (m + k) = fld w (lo + k) m ++ fld w lo k :=
  (BitVec.extractLsb'_append_extractLsb'_eq_extractLsb' rfl).symm

/-! ## The codes of the sub-fields (R40) -/

@[simp] theorem LoadSize.ofCode_code (z : LoadSize) : LoadSize.ofCode (z.code % 8) = some z := by cases z <;> rfl
@[simp] theorem Size.ofCode_code (z : Size) : Size.ofCode (z.code % 8) = some z := by cases z <;> rfl
@[simp] theorem Size.ofCode_code_four (z : Size) : Size.ofCode (z.code % 4) = some z := by cases z <;> rfl
@[simp] theorem Size.ofCode_code_sixteen (z : Size) : Size.ofCode (z.code % 16) = some z := by cases z <;> rfl
@[simp] theorem AmoOp.ofCode_code (z : AmoOp) : AmoOp.ofCode (z.code % 64) = some z := by cases z <;> rfl
@[simp] theorem AmoSize.ofCode_code (z : AmoSize) : AmoSize.ofCode (z.code % 4) = some z := by cases z <;> rfl
@[simp] theorem RangeFmt.ofCode_code (z : RangeFmt) : RangeFmt.ofCode (z.code % 16) = some z := by cases z <;> rfl
@[simp] theorem WatchCond.ofCode_code (z : WatchCond) : WatchCond.ofCode (z.code % 64) = some z := by cases z <;> rfl
@[simp] theorem FpTy.ofCode_code (z : FpTy) : FpTy.ofCode (z.code % 4) = some z := by cases z <;> rfl
@[simp] theorem RmField.ofCode_code (z : RmField) : RmField.ofCode (z.code % 8) = some z := by cases z <;> rfl
@[simp] theorem VTy.ofCode_code (z : VTy) : VTy.ofCode (z.code % 8) = some z := by cases z <;> rfl
@[simp] theorem CmpOp.ofCode_code (z : CmpOp) : CmpOp.ofCode (z.code % 8) = some z := by cases z <;> rfl
@[simp] theorem NarrowFmt.ofCode_code (z : NarrowFmt) : NarrowFmt.ofCode (z.code % 8) = some z := by cases z <;> rfl
@[simp] theorem RedOp.ofCode_code (z : RedOp) : RedOp.ofCode (z.code % 8) = some z := by cases z <;> rfl
@[simp] theorem CvtTy.ofCode_code (z : CvtTy) : CvtTy.ofCode (z.code % 32) = some z := by cases z <;> rfl

/-- A number widened to a field stands in the field's low bits. -/
@[simp] theorem extract_setWidth {k n : Nat} (q : BitVec k) (h : k ≤ n) : (q.setWidth n).extractLsb' 0 k = q := by
  rw [← BitVec.setWidth_eq_extractLsb' h, BitVec.setWidth_setWidth_of_le _ h, BitVec.setWidth_eq]

/-- A porter's number leaves the upper bits of MOD clear. -/
@[simp] theorem extract_porter_high (n : BitVec 2) : (n.setWidth 4).extractLsb' 2 2 = 0#2 := by decide +revert

@[simp] theorem AmoSize.mod_low (z : AmoSize) : (BitVec.ofNat 4 z.code).extractLsb' 0 2 = BitVec.ofNat 2 z.code := by
  cases z <;> rfl
@[simp] theorem AmoSize.mod_high (z : AmoSize) : (BitVec.ofNat 4 z.code).extractLsb' 2 2 = 0#2 := by cases z <;> rfl

/-- A flag is read from its bit. -/
@[simp] theorem ofBool_beq_one (h : Bool) : (BitVec.ofBool h == 1#1) = h := by cases h <;> rfl

/-! ## Reading back -/

/-- The words of an instruction are read as it, lone or beside `nop`. -/
def Instr.readBack (i : Instr) : Prop :=
  ∃ w0 w1, encode i = [w0, w1] ∧ (decodeBundle w0 w1 = .ok (.lone i) ∨ decodeBundle w0 w1 = .ok (.pair .nop i))

theorem readBack_lone {i : Instr} {w lit : Half} (he : encode i = loneWords w lit) (hp : fld w 31 1 = 0)
    (hc : decodeC w lit = .ok i) (hl : litBad w lit = false) : i.readBack := by
  refine ⟨w, lit, he, .inl ?_⟩
  simp [decodeBundle, hp, hc, hl]

theorem readBack_beside_nop {i : Instr} {w : Half} (he : encode i = pairWords w) (ha : decodeA w = .ok i) : i.readBack :=
  ⟨_, w, he, .inr (by rw [decodeBundle, ha]; rfl)⟩

theorem immOf_word_field {n : Nat} {off : Imm n} (h : off.ok = true) : immOf off.word off.field = off := by
  cases off with
  | short v => rfl
  | lit v => exact if_neg (by simpa [Imm.ok, Imm.word] using h)

/-- A literal is in order if the format is marked L and its short field is zero. -/
theorem litBad_word {n : Nat} {off : Imm n} {w : Half} (hL : isL (fld w 25 6).toNat = true)
    (hs : off.field = 0 → shortField w = 0) : litBad w off.word = false := by
  cases off with
  | short v => rfl
  | lit v => simp [litBad, hL, hs rfl]

theorem extract_append_extract (v : BitVec 15) : v.extractLsb' 10 5 ++ v.extractLsb' 0 10 = v :=
  BitVec.extractLsb'_append_extractLsb' (w := 5) (len := 10)

section
variable (a b : BitVec 5)

/-- The branches (R81). -/
theorem branch_readBack {off : Imm 15} (h : off.ok = true) :
    ∀ i ∈ [Instr.bEq a b off, .bNe a b off, .bLt a b off, .bGe a b off, .bLtu a b off, .bGeu a b off], i.readBack := by
  simp only [List.forall_mem_cons, List.not_mem_nil, false_imp_iff, implies_true, and_true]
  refine ⟨?_, ?_, ?_, ?_, ?_, ?_⟩
  all_goals
    refine readBack_lone rfl (packCB_fields ..).1 ?_ (litBad_word ?_ ?_)
    · simp [decodeC, packCB_fields, decC01, decC02, decC03, decC04, decC05, decC06, extract_append_extract, immOf_word_field h]
    · simp [packCB_fields, isL]
    · simp +contextual [shortField, packCB_fields]

/-- The jumps (R82). -/
theorem jump_readBack {off : Imm 14} (h : off.ok = true) : ∀ i ∈ [Instr.jal a off, .jalr a b off], i.readBack := by
  simp only [List.forall_mem_cons, List.not_mem_nil, false_imp_iff, implies_true, and_true]
  refine ⟨?_, ?_⟩
  all_goals
    refine readBack_lone rfl (packCJ_fields ..).1 ?_ (litBad_word ?_ ?_)
    · simp [decodeC, packCJ_fields, decC07, need, immOf_word_field h]
    · simp [packCJ_fields, isL]
    · simp +contextual [shortField, packCJ_fields]

/-- The loads and stores with an offset (R184 to R186). -/
theorem access_readBack {off : Imm 12} (h : off.ok = true) (z : LoadSize) (sz : Size) :
    ∀ i ∈ [Instr.ld z a b off, .st sz a b off, .prfL1 a off, .prfL2 a off, .zline a off], i.readBack := by
  simp only [List.forall_mem_cons, List.not_mem_nil, false_imp_iff, implies_true, and_true]
  refine ⟨?_, ?_, ?_, ?_, ?_⟩
  all_goals
    refine readBack_lone rfl (packCM_fields ..).1 ?_ (litBad_word ?_ ?_)
    · simp [decodeC, packCM_fields, decC08, decC09, decC0A, decC0B, need, want, immOf_word_field h]
    · simp [packCM_fields, isL]
    · simp +contextual [shortField, packCM_fields]

/-- The vector accesses (R188 to R190). -/
theorem vectorAccess_readBack (d : BitVec 5) (k : BitVec 3) (off : Half) (z : Size) :
    ∀ i ∈ [Instr.vld z d a b k off, .vst z d a b k off, .vldx z d a b k off, .vstx z d a b k off, .vldt d a b k off,
      .vstt d a b k off], i.readBack := by
  simp only [List.forall_mem_cons, List.not_mem_nil, false_imp_iff, implies_true, and_true]
  refine ⟨?_, ?_, ?_, ?_, ?_, ?_⟩
  all_goals
    refine readBack_lone rfl (packCV_fields ..).1 ?_ ?_
    · simp [decodeC, packCV_fields, decC10, decC11, decC12, decC13, decC14, decC15, need, want, fld_append _ 0 5 2]
    · simp [litBad, packCV_fields, isL, shortField]

/-- `nop` and `brk` (R83, R84). -/
theorem nop_readBack (n : BitVec 9) : ∀ i ∈ [Instr.nop, .brk n], i.readBack := by
  simp only [List.forall_mem_cons, List.not_mem_nil, false_imp_iff, implies_true, and_true]
  refine ⟨?_, ?_⟩
  all_goals
    refine readBack_lone rfl (packCN_fields ..).1 ?_ rfl
    simp [decodeC, packCN_fields, decC00, need]

theorem atomic_readBack (d : BitVec 5) (op : AmoOp) (z : AmoSize) (f : RangeFmt) :
    ∀ i ∈ [Instr.amo op z d a b, .cas z d a b, .crange f d a b, .radd f a b, .dflush], i.readBack := by
  simp only [List.forall_mem_cons, List.not_mem_nil, false_imp_iff, implies_true, and_true]
  refine ⟨?_, ?_, ?_, ?_, ?_⟩
  all_goals
    refine readBack_lone rfl (packCR_fields ..).1 ?_ rfl
    simp [decodeC, packCR_fields, packCR_parts, decC16, decC17, decC19, decC1A, decC1B, need, want]

/-- Posted atomics and the elements of drays (R193, R196). -/
theorem posted_readBack {op : AmoOp} (h : op ≠ .swap) (z : AmoSize) (sz : Size) :
    ∀ i ∈ [Instr.amop op z a b, .rst sz a b], i.readBack := by
  simp only [List.forall_mem_cons, List.not_mem_nil, false_imp_iff, implies_true, and_true]
  refine ⟨?_, ?_⟩
  all_goals
    refine readBack_lone rfl (packCR_fields ..).1 ?_ rfl
    simp [decodeC, packCR_fields, packCR_parts, decC18, decC1B, need, want, h]

theorem ramo_readBack {op : AmoOp} (h : op ≠ .swap) (z : AmoSize) : (Instr.ramo op z a b).readBack := by
  refine readBack_lone rfl (packCR_fields ..).1 ?_ rfl
  cases op <;> simp [decodeC, packCR_fields, packCR_parts, decC1B, need, want, AmoOp.code, AmoOp.ofCode] at h ⊢

/-- `chunk`, the fences and the regions (R198 to R202). -/
theorem region_readBack (d : BitVec 5) (n : BitVec 4) :
    ∀ i ∈ [Instr.chunk, .fenceD, .fenceE, .fenceA, .xbegin, .xend d, .xabort n], i.readBack := by
  simp only [List.forall_mem_cons, List.not_mem_nil, false_imp_iff, implies_true, and_true]
  refine ⟨?_, ?_, ?_, ?_, ?_, ?_, ?_⟩
  all_goals
    refine readBack_lone rfl (packCR_fields ..).1 ?_ rfl
    simp [decodeC, packCR_fields, decC1C, decC1D, decC1E, need]

/-- The queue instructions (R205 to R209). -/
theorem queue_readBack (d : BitVec 5) (q : BitVec 3) (i : BitVec 6) :
    ∀ j ∈ [Instr.qbind q a, .qwaitF q, .qwaitE q, .qadvH q, .qadvT q, .qld d q i, .qst d q i, .qstat d q], j.readBack := by
  have hq : q.toNat % 32 < 8 := by omega
  simp only [List.forall_mem_cons, List.not_mem_nil, false_imp_iff, implies_true, and_true]
  refine ⟨?_, ?_, ?_, ?_, ?_, ?_, ?_, ?_⟩
  all_goals
    refine readBack_lone rfl (packCR_fields ..).1 ?_ rfl
    simp [decodeC, packCR_fields, packCR_parts, decC20, decC21, decC22, decC23, decC24, decC25, need, hq]

/-- The commands of a porter (R212). -/
theorem porter_readBack (d : BitVec 5) (n : BitVec 2) :
    ∀ i ∈ [Instr.pcopy d a n, .pcopyt d a n, .pgath d a n, .pscat d a n, .pscadd d a n, .pfill d a n], i.readBack := by
  simp only [List.forall_mem_cons, List.not_mem_nil, false_imp_iff, implies_true, and_true]
  refine ⟨?_, ?_, ?_, ?_, ?_, ?_⟩
  all_goals
    refine readBack_lone rfl (packCR_fields ..).1 ?_ rfl
    simp [decodeC, packCR_fields, packCR_parts, decC26, need]

/-- The commands of the loom that load and multiply (R120 to R123). -/
theorem loomLoad_readBack (t : BitVec 3) (w : BitVec 2) :
    ∀ i ∈ [Instr.twarp w a b, .tzero t, .tlda a b, .tmul t w, .tmult t w, .touter t a b], i.readBack := by
  have ht : t.toNat % 32 < 8 := by omega
  have hw : w.toNat % 32 < 4 := by omega
  have hw' : w.toNat % 8 < 4 := by omega
  simp only [List.forall_mem_cons, List.not_mem_nil, false_imp_iff, implies_true, and_true]
  refine ⟨?_, ?_, ?_, ?_, ?_, ?_⟩
  all_goals
    refine readBack_lone rfl (packCT_fields ..).1 ?_ rfl
    simp [decodeC, packCT_fields, packCT_parts, fld_append _ 4 3 3, decC28, decC29, decC2A, decC2B, decC2C, need, ht, hw, hw']

/-- The other commands of the loom (R124 to R127, R145 to R147). -/
theorem loomTile_readBack (t : BitVec 3) :
    ∀ i ∈ [Instr.tewBias t a, .tewScale t a, .tewRelu t, .tewGelu t, .tewSilu t, .tewClamp t a b, .tred t a, .tst t a b,
      .tsync a, .trecOn, .trecOff, .unwind a, .tdrop], i.readBack := by
  have ht : t.toNat % 32 < 8 := by omega
  simp only [List.forall_mem_cons, List.not_mem_nil, false_imp_iff, implies_true, and_true]
  refine ⟨?_, ?_, ?_, ?_, ?_, ?_, ?_, ?_, ?_, ?_, ?_, ?_, ?_⟩
  all_goals
    refine readBack_lone rfl (packCT_fields ..).1 ?_ rfl
    simp [decodeC, packCT_fields, packCT_parts, fld_append _ 4 3 3, decC2D, decC2E, decC2F, need, ht]

/-- Waits, and the beginnings and ends of threads (R249 to R258). -/
theorem thread_readBack (d : BitVec 5) (c : WatchCond) (n : BitVec 2) :
    ∀ i ∈ [Instr.watch c n a b, .unwatch n, .wait d a, .yield, .halt, .haltRetain, .live a, .spawn d a b, .pwait, .smay],
      i.readBack := by
  have hn : n.toNat % 32 < 4 := by omega
  simp only [List.forall_mem_cons, List.not_mem_nil, false_imp_iff, implies_true, and_true]
  refine ⟨?_, ?_, ?_, ?_, ?_, ?_, ?_, ?_, ?_, ?_⟩
  all_goals
    refine readBack_lone rfl (packCR_fields ..).1 ?_ rfl
    simp [decodeC, packCR_fields, packCR_parts, decC30, decC31, decC32, decC33, need, want, hn]

/-- Barriers, vector contexts, launches and requests to threads (R259 to R266, R275 to R282). -/
theorem request_readBack (d : BitVec 5) :
    ∀ i ∈ [Instr.bar d a b, .dmem d a, .dbar d a, .vclaim d a, .vrel, .vreneg d a, .xchg d a b, .launch d a, .tstop d a,
      .tstart d a, .igrant d a, .irevoke d a, .iquery d a], i.readBack := by
  simp only [List.forall_mem_cons, List.not_mem_nil, false_imp_iff, implies_true, and_true]
  refine ⟨?_, ?_, ?_, ?_, ?_, ?_, ?_, ?_, ?_, ?_, ?_, ?_, ?_⟩
  all_goals
    refine readBack_lone rfl (packCR_fields ..).1 ?_ rfl
    simp [decodeC, packCR_fields, decC34, decC35, decC36, decC37, decC38, decC3B, need]

theorem trds_readBack (d : BitVec 5) {it : BitVec 6} (h : it.toNat < 61) : (Instr.trds d a it).readBack := by
  refine readBack_lone rfl (packCR_fields ..).1 ?_ rfl
  simp [decodeC, packCR_fields, decC39, need, h]

theorem twrs_readBack (d : BitVec 5) {it : BitVec 6} (h : it.toNat < 61) (hw : itemWritable it = true) :
    (Instr.twrs d a b it).readBack := by
  refine readBack_lone rfl (packCR_fields ..).1 ?_ rfl
  simp [decodeC, packCR_fields, decC3A, need, h, hw]

/-- The immediate moves (R85). -/
theorem move_readBack (d : BitVec 5) {imm : Imm 20} (h : imm.ok = true) : ∀ i ∈ [Instr.movi d imm, .movhi d imm], i.readBack := by
  simp only [List.forall_mem_cons, List.not_mem_nil, false_imp_iff, implies_true, and_true]
  refine ⟨?_, ?_⟩
  all_goals
    refine readBack_lone rfl (packCI_fields ..).1 ?_ (litBad_word ?_ ?_)
    · simp [decodeC, packCI_fields, decC3C, decC3D, immOf_word_field h]
    · simp [packCI_fields, isL]
    · simp +contextual [shortField, packCI_fields]

theorem srd_readBack (d : BitVec 5) {n : BitVec 5} (h : n.toNat < 29) : (Instr.srd d n).readBack := by
  refine readBack_lone rfl (packCR_fields ..).1 ?_ rfl
  simp [decodeC, packCR_fields, decC3E, need, h]

theorem time_readBack (d : BitVec 5) : (Instr.time d).readBack := by
  refine readBack_lone rfl (packCR_fields ..).1 ?_ rfl
  simp [decodeC, packCR_fields, decC3E, need]

theorem swr_readBack {n : BitVec 5} (h : n.toNat < 29) (hw : wordWritable n = true) : (Instr.swr a n).readBack := by
  refine readBack_lone rfl (packCR_fields ..).1 ?_ rfl
  simp [decodeC, packCR_fields, decC3E, need, h, hw]

end

/-! ### The A slot, beside `nop` (R51) -/

section
variable (d a b : BitVec 5)

/-- The integer instructions of three registers (R88 to R90). -/
theorem integer_readBack (c : BitVec 5) :
    ∀ i ∈ [Instr.add d a b, .sub d a b, .and d a b, .or d a b, .xor d a b, .shl d a b, .shr d a b, .sar d a b, .slt d a b,
      .sltu d a b, .min d a b, .max d a b, .minu d a b, .maxu d a b, .sel d a b c], i.readBack := by
  simp only [List.forall_mem_cons, List.not_mem_nil, false_imp_iff, implies_true, and_true]
  refine ⟨?_, ?_, ?_, ?_, ?_, ?_, ?_, ?_, ?_, ?_, ?_, ?_, ?_, ?_, ?_⟩
  all_goals
    refine readBack_beside_nop rfl ?_
    simp [decodeA, packAR_fields, decA00, need]

/-- Products, quotients and the bit counts (R88, R89). -/
theorem product_readBack :
    ∀ i ∈ [Instr.mul d a b, .mulh d a b, .mulhu d a b, .div d a b, .divu d a b, .rem d a b, .remu d a b, .clz d a, .ctz d a,
      .popc d a, .bswap d a], i.readBack := by
  simp only [List.forall_mem_cons, List.not_mem_nil, false_imp_iff, implies_true, and_true]
  refine ⟨?_, ?_, ?_, ?_, ?_, ?_, ?_, ?_, ?_, ?_, ?_⟩
  all_goals
    refine readBack_beside_nop rfl ?_
    simp [decodeA, packAR_fields, decA01, decA02, need]

/-- The integer instructions with an immediate (R90). -/
theorem immediate_readBack (imm : BitVec 16) (sh : BitVec 6) :
    ∀ i ∈ [Instr.addi d a imm, .andi d a imm, .ori d a imm, .xori d a imm, .slti d a imm, .sltiu d a imm, .shli d a sh,
      .shri d a sh, .sari d a sh], i.readBack := by
  simp only [List.forall_mem_cons, List.not_mem_nil, false_imp_iff, implies_true, and_true]
  refine ⟨?_, ?_, ?_, ?_, ?_, ?_, ?_, ?_, ?_⟩
  all_goals
    refine readBack_beside_nop rfl ?_
    simp [decodeA, packAI_fields, packAS_fields, decA04, decA05, decA06, decA07, decA08, decA09, decA0A, need]

theorem ext_readBack {pos lm : BitVec 6} (h : pos.toNat + lm.toNat + 1 ≤ 64) : (Instr.ext d a pos lm).readBack := by
  refine readBack_beside_nop rfl ?_
  simp only [decodeA, packAS_fields, decA03, need]
  simp [h]

/-- The pointer instructions (R91 to R93). -/
theorem pointer_readBack : ∀ i ∈ [Instr.padd d a b, .pidx d a b, .pfmt d a, .pclr d a], i.readBack := by
  simp only [List.forall_mem_cons, List.not_mem_nil, false_imp_iff, implies_true, and_true]
  refine ⟨?_, ?_, ?_, ?_⟩
  all_goals
    refine readBack_beside_nop rfl ?_
    simp [decodeA, packAR_fields, decA10, need]

theorem ptag_readBack {fmt : BitVec 4} {blk : BitVec 3} (hf : fmtReserved fmt = false) (hb : blkAllowed fmt blk = true) :
    (Instr.ptag d a fmt blk).readBack := by
  refine readBack_beside_nop rfl ?_
  simp [decodeA, packAP_fields, decA11, need, hf, hb]

/-- The scalar floating-point instructions that round (R95). -/
theorem rounded_readBack (c : BitVec 5) (ty : FpTy) (rm : RmField) :
    ∀ i ∈ [Instr.fadd ty rm d a b, .fsub ty rm d a b, .fmul ty rm d a b, .fdiv ty rm d a b, .fsqrt ty rm d a,
      .fma ty rm d a b c, .fnma ty rm d a b c], i.readBack := by
  simp only [List.forall_mem_cons, List.not_mem_nil, false_imp_iff, implies_true, and_true]
  refine ⟨?_, ?_, ?_, ?_, ?_, ?_, ?_⟩
  all_goals
    refine readBack_beside_nop rfl ?_
    simp [decodeA, packAF_fields, decA14, decA15, decA16, decA17, decA18, decA19, decA1A, need, want]

/-- The exact scalar floating-point instructions (R96). -/
theorem exactFp_readBack (ty : FpTy) :
    ∀ i ∈ [Instr.fmin ty d a b, .fmax ty d a b, .feq ty d a b, .flt ty d a b, .fle ty d a b, .fcls ty d a, .fsgn ty d a b],
      i.readBack := by
  simp only [List.forall_mem_cons, List.not_mem_nil, false_imp_iff, implies_true, and_true]
  refine ⟨?_, ?_, ?_, ?_, ?_, ?_, ?_⟩
  all_goals
    refine readBack_beside_nop rfl ?_
    simp [decodeA, packAF_fields, fld_append _ 0 1 3, decA1B, decA1C, decA1D, need, want]

theorem fcvt_readBack {dst src : CvtTy} (h : src ≠ dst) (rm : RmField) : (Instr.fcvt dst src rm d a).readBack := by
  refine readBack_beside_nop rfl ?_
  simp [decodeA, packAF_fields, decA1E, need, want, h]

variable (ty : VTy) (h1 h2 : Bool) (k : BitVec 3)

/-- The element-wise vector instructions of every type (R102, R104, R107). -/
theorem elementwise_readBack :
    ∀ i ∈ [Instr.vadd ty d a b h1 h2 k, .vsub ty d a b h1 h2 k, .vmul ty d a b h1 h2 k, .vmin ty d a b h1 h2 k,
      .vmax ty d a b h1 h2 k, .vsel ty d a b h1 h2 k, .vperm ty d a b h1 h2 k], i.readBack := by
  simp only [List.forall_mem_cons, List.not_mem_nil, false_imp_iff, implies_true, and_true]
  refine ⟨?_, ?_, ?_, ?_, ?_, ?_, ?_⟩
  all_goals
    refine readBack_beside_nop rfl ?_
    simp [decodeA, packAV_fields, decA20, decA21, decA22, decA27, decA28, decA2C, decA32, need, want]

/-- The vector instructions of floating-point types alone (R102, R108). -/
theorem fpVector_readBack (h : ty.isFp = true) :
    ∀ i ∈ [Instr.vfma ty d a b h1 h2 k, .vfnma ty d a b h1 h2 k, .vdiv ty d a b h1 h2 k, .vsqrt ty d a h1 k, .vrcp ty d a h1 k,
      .vrsq ty d a h1 k, .vexp2 ty d a h1 k, .vlog2 ty d a h1 k, .vtanh ty d a h1 k], i.readBack := by
  simp only [List.forall_mem_cons, List.not_mem_nil, false_imp_iff, implies_true, and_true]
  refine ⟨?_, ?_, ?_, ?_, ?_, ?_, ?_, ?_, ?_⟩
  all_goals
    refine readBack_beside_nop rfl ?_
    simp [decodeA, packAV_fields, decA23, decA24, decA25, decA26, decA38, need, want, h]

/-- The vector instructions of integer types alone (R102, R107). -/
theorem integerVector_readBack (h : ty.isFp = false) :
    ∀ i ∈ [Instr.vand ty d a b h1 h2 k, .vor ty d a b h1 h2 k, .vxor ty d a b h1 h2 k, .vshl ty d a b h1 h2 k,
      .vshr ty d a b h1 h2 k, .vsar ty d a b h1 h2 k, .vid ty d k], i.readBack := by
  simp only [List.forall_mem_cons, List.not_mem_nil, false_imp_iff, implies_true, and_true]
  refine ⟨?_, ?_, ?_, ?_, ?_, ?_, ?_⟩
  all_goals
    refine readBack_beside_nop rfl ?_
    simp [decodeA, packAV_fields, decA29, decA2A, decA3A, need, want, h]

/-- The moves of vector elements (R105, R107). -/
theorem vectorMove_readBack :
    ∀ i ∈ [Instr.vslideUp ty d a b h1 k, .vslideDn ty d a b h1 k, .vbcast ty d a k, .vext ty d a b h1, .vins ty d a b,
      .vmv ty d a h1 k], i.readBack := by
  simp only [List.forall_mem_cons, List.not_mem_nil, false_imp_iff, implies_true, and_true]
  refine ⟨?_, ?_, ?_, ?_, ?_, ?_⟩
  all_goals
    refine readBack_beside_nop rfl ?_
    simp [decodeA, packAV_fields, decA33, decA34, decA35, decA36, decA37, need, want]

theorem vcmp_readBack (m : BitVec 3) {c : CmpOp} (h : cmpTyOk c ty = true) : (Instr.vcmp c ty m a b h1 h2 k).readBack := by
  have hm : m.toNat % 32 < 8 := by omega
  refine readBack_beside_nop rfl ?_
  simp [decodeA, packAV_fields, packAV_parts, decA2B, need, want, h, hm]

theorem vcvt_readBack {dst src : VTy} (h : src ≠ dst) : (Instr.vcvt dst src d a h1 k).readBack := by
  refine readBack_beside_nop rfl ?_
  simp [decodeA, packAV_fields, decA2D, need, want, h]

theorem vpack_readBack {f : NarrowFmt} {inf : Bool} (h : packTyOk f ty = true) (hi : inf = true → infOk f = true) :
    (Instr.vpack f ty inf d a h1 k).readBack := by
  refine readBack_beside_nop rfl ?_
  cases inf with
  | false => simp [decodeA, packAV_fields, packAV_parts, decA2E, need, want, h]
  | true => simp [decodeA, packAV_fields, packAV_parts, decA2E, need, want, h, hi]

theorem vunpk_readBack {f : NarrowFmt} (h : packTyOk f ty = true) : (Instr.vunpk f ty d a h1 k).readBack := by
  refine readBack_beside_nop rfl ?_
  simp [decodeA, packAV_fields, decA2F, need, want, h]

/-- The reductions (R106). -/
theorem reduction_readBack (op : RedOp) (h : redTyOk ty = true) :
    ∀ i ∈ [Instr.vred op ty d a h1 k, .vscan ty d a h1 k], i.readBack := by
  simp only [List.forall_mem_cons, List.not_mem_nil, false_imp_iff, implies_true, and_true]
  refine ⟨?_, ?_⟩
  all_goals
    refine readBack_beside_nop rfl ?_
    simp [decodeA, packAV_fields, decA30, decA31, need, want, h]

/-- The mask instructions (R109). -/
theorem mask_readBack (m n p : BitVec 3) :
    ∀ i ∈ [Instr.vmand m n p, .vmor m n p, .vmxor m n p, .vmnot m n, .vmpop d n, .vmfirst d n], i.readBack := by
  have hm : m.toNat % 32 < 8 := by omega
  have hn : n.toNat % 32 < 8 := by omega
  have hp : p.toNat % 32 < 8 := by omega
  simp only [List.forall_mem_cons, List.not_mem_nil, false_imp_iff, implies_true, and_true]
  refine ⟨?_, ?_, ?_, ?_, ?_, ?_⟩
  all_goals
    refine readBack_beside_nop rfl ?_
    simp [decodeA, packAV_fields, packAV_parts, decA39, need, hm, hn, hp]

end
/-! ### Every instruction -/

/-- Every well-formed instruction that has words is read back from them. -/
theorem Instr.readBack_of_wf {i : Instr} (hwf : i.wf = true) (he : i.encodable = true) : i.readBack := by
  cases i with
  | nop => exact nop_readBack 0 _ (by simp)
  | brk n => exact nop_readBack n _ (by simp)
  | bEq a b off | bNe a b off | bLt a b off | bGe a b off | bLtu a b off | bGeu a b off =>
    exact branch_readBack a b hwf _ (by simp)
  | jal d off => exact jump_readBack d 0 hwf _ (by simp)
  | jalr d a off => exact jump_readBack d a hwf _ (by simp)
  | ld z d a off => exact access_readBack d a hwf z .b _ (by simp)
  | st z d a off => exact access_readBack d a hwf .b z _ (by simp)
  | prfL1 a off | prfL2 a off | zline a off => exact access_readBack a 0 hwf .b .b _ (by simp)
  | vld z d a b k off | vst z d a b k off | vldx z d a b k off | vstx z d a b k off =>
    exact vectorAccess_readBack a b d k off z _ (by simp)
  | vldt d a b k off | vstt d a b k off => exact vectorAccess_readBack a b d k off .b _ (by simp)
  | amo op z d a b => exact atomic_readBack a b d op z .s _ (by simp)
  | cas z d a b => exact atomic_readBack a b d .add z .s _ (by simp)
  | crange f d a b => exact atomic_readBack a b d .add .w f _ (by simp)
  | radd f a b => exact atomic_readBack a b 0 .add .w f _ (by simp)
  | dflush => exact atomic_readBack 0 0 0 .add .w .s _ (by simp)
  | amop op z a b => exact posted_readBack a b (of_decide_eq_true hwf) z .b _ (by simp)
  | rst z a b => exact posted_readBack a b (op := .add) nofun .w z _ (by simp)
  | ramo op z a b => exact ramo_readBack a b (of_decide_eq_true hwf) z
  | chunk | fenceD | fenceE | fenceA | xbegin => exact region_readBack 0 0 _ (by simp)
  | xend d => exact region_readBack d 0 _ (by simp)
  | xabort n => exact region_readBack 0 n _ (by simp)
  | qbind q a => exact queue_readBack a 0 q 0 _ (by simp)
  | qwaitF q | qwaitE q | qadvH q | qadvT q => exact queue_readBack 0 0 q 0 _ (by simp)
  | qld d q i | qst d q i => exact queue_readBack 0 d q i _ (by simp)
  | qstat d q => exact queue_readBack 0 d q 0 _ (by simp)
  | pcopy d a n | pcopyt d a n | pgath d a n | pscat d a n | pscadd d a n | pfill d a n =>
    exact porter_readBack a d n _ (by simp)
  | twarp w a b => exact loomLoad_readBack a b 0 w _ (by simp)
  | tzero t => exact loomLoad_readBack 0 0 t 0 _ (by simp)
  | tlda a b => exact loomLoad_readBack a b 0 0 _ (by simp)
  | tmul t w | tmult t w => exact loomLoad_readBack 0 0 t w _ (by simp)
  | touter t a b => exact loomLoad_readBack a b t 0 _ (by simp)
  | tewBias t a | tewScale t a | tred t a => exact loomTile_readBack a 0 t _ (by simp)
  | tewRelu t | tewGelu t | tewSilu t => exact loomTile_readBack 0 0 t _ (by simp)
  | tewClamp t a b | tst t a b => exact loomTile_readBack a b t _ (by simp)
  | tsync a | unwind a => exact loomTile_readBack a 0 0 _ (by simp)
  | trecOn | trecOff | tdrop => exact loomTile_readBack 0 0 0 _ (by simp)
  | watch c n a b => exact thread_readBack a b 0 c n _ (by simp)
  | unwatch n => exact thread_readBack 0 0 0 .any n _ (by simp)
  | wait d a => exact thread_readBack a 0 d .any 0 _ (by simp)
  | yield | halt | haltRetain | pwait | smay => exact thread_readBack 0 0 0 .any 0 _ (by simp)
  | live a => exact thread_readBack a 0 0 .any 0 _ (by simp)
  | spawn d a b => exact thread_readBack a b d .any 0 _ (by simp)
  | bar d a b | xchg d a b => exact request_readBack a b d _ (by simp)
  | dmem d a | dbar d a | vclaim d a | vreneg d a | launch d a | tstop d a | tstart d a | igrant d a | irevoke d a
  | iquery d a => exact request_readBack a 0 d _ (by simp)
  | vrel => exact request_readBack 0 0 0 _ (by simp)
  | trds d a it => exact trds_readBack a d (of_decide_eq_true hwf)
  | twrs d a b it =>
    simp only [Instr.wf, Bool.and_eq_true, decide_eq_true_eq] at hwf
    exact twrs_readBack a b d hwf.1 hwf.2
  | movi d imm | movhi d imm => exact move_readBack d hwf _ (by simp)
  | srd d n => exact srd_readBack d (of_decide_eq_true hwf)
  | swr a n =>
    simp only [Instr.wf, Bool.and_eq_true, decide_eq_true_eq] at hwf
    exact swr_readBack a hwf.1 hwf.2
  | time d => exact time_readBack d
  | add d a b | sub d a b | and d a b | or d a b | xor d a b | shl d a b | shr d a b | sar d a b | slt d a b | sltu d a b
  | min d a b | max d a b | minu d a b | maxu d a b => exact integer_readBack d a b 0 _ (by simp)
  | sel d a b c => exact integer_readBack d a b c _ (by simp)
  | mul d a b | mulh d a b | mulhu d a b | div d a b | divu d a b | rem d a b | remu d a b =>
    exact product_readBack d a b _ (by simp)
  | clz d a | ctz d a | popc d a | bswap d a => exact product_readBack d a 0 _ (by simp)
  | ext d a pos lm => exact ext_readBack d a (of_decide_eq_true hwf)
  | addi d a imm | andi d a imm | ori d a imm | xori d a imm | slti d a imm | sltiu d a imm =>
    exact immediate_readBack d a imm 0 _ (by simp)
  | shli d a sh | shri d a sh | sari d a sh => exact immediate_readBack d a 0 sh _ (by simp)
  | padd d a b | pidx d a b => exact pointer_readBack d a b _ (by simp)
  | pfmt d a | pclr d a => exact pointer_readBack d a 0 _ (by simp)
  | ptag d a fmt blk =>
    simp only [Instr.wf, Bool.and_eq_true, Bool.not_eq_true'] at hwf
    exact ptag_readBack d a hwf.1 hwf.2
  | fadd ty rm d a b | fsub ty rm d a b | fmul ty rm d a b | fdiv ty rm d a b =>
    exact rounded_readBack d a b 0 ty rm _ (by simp)
  | fsqrt ty rm d a => exact rounded_readBack d a 0 0 ty rm _ (by simp)
  | fma ty rm d a b c | fnma ty rm d a b c => exact rounded_readBack d a b c ty rm _ (by simp)
  | fmin ty d a b | fmax ty d a b | feq ty d a b | flt ty d a b | fle ty d a b | fsgn ty d a b =>
    exact exactFp_readBack d a b ty _ (by simp)
  | fcls ty d a => exact exactFp_readBack d a 0 ty _ (by simp)
  | fcvt dst src rm d a => exact fcvt_readBack d a (of_decide_eq_true hwf) rm
  | vadd ty d a b h1 h2 k | vsub ty d a b h1 h2 k | vmul ty d a b h1 h2 k | vmin ty d a b h1 h2 k | vmax ty d a b h1 h2 k
  | vsel ty d a b h1 h2 k | vperm ty d a b h1 h2 k => exact elementwise_readBack d a b ty h1 h2 k _ (by simp)
  | vfma ty d a b h1 h2 k | vfnma ty d a b h1 h2 k | vdiv ty d a b h1 h2 k =>
    exact fpVector_readBack d a b ty h1 h2 k hwf _ (by simp)
  | vsqrt ty d a h1 k | vrcp ty d a h1 k | vrsq ty d a h1 k | vexp2 ty d a h1 k | vlog2 ty d a h1 k | vtanh ty d a h1 k =>
    exact fpVector_readBack d a 0 ty h1 false k hwf _ (by simp)
  | vand ty d a b h1 h2 k | vor ty d a b h1 h2 k | vxor ty d a b h1 h2 k | vshl ty d a b h1 h2 k | vshr ty d a b h1 h2 k
  | vsar ty d a b h1 h2 k => exact integerVector_readBack d a b ty h1 h2 k ((Bool.not_eq_true' _).mp hwf) _ (by simp)
  | vid ty d k => exact integerVector_readBack d 0 0 ty false false k ((Bool.not_eq_true' _).mp hwf) _ (by simp)
  | vcmp c ty m a b h1 h2 k => exact vcmp_readBack a b ty h1 h2 k m hwf
  | vcvt dst src d a h1 k => exact vcvt_readBack d a h1 k (of_decide_eq_true hwf)
  | vpack f ty inf d a h1 k =>
    simp only [Instr.wf, Bool.and_eq_true, Bool.or_eq_true, Bool.not_eq_true'] at hwf
    exact vpack_readBack d a ty h1 k hwf.1 fun hi => hwf.2.resolve_left (by simp [hi])
  | vunpk f ty d a h1 k => exact vunpk_readBack d a ty h1 k hwf
  | vred op ty d a h1 k => exact reduction_readBack d a ty h1 k op hwf _ (by simp)
  | vscan ty d a h1 k => exact reduction_readBack d a ty h1 k .sum hwf _ (by simp)
  | vslideUp ty d a b h1 k | vslideDn ty d a b h1 k => exact vectorMove_readBack d a b ty h1 k _ (by simp)
  | vbcast ty d a k => exact vectorMove_readBack d a 0 ty false k _ (by simp)
  | vext ty d a b h1 => exact vectorMove_readBack d a b ty h1 0 _ (by simp)
  | vins ty d a b => exact vectorMove_readBack d a b ty false 0 _ (by simp)
  | vmv ty d a h1 k => exact vectorMove_readBack d a 0 ty h1 k _ (by simp)
  | vmand m n p | vmor m n p | vmxor m n p => exact mask_readBack 0 m n p _ (by simp)
  | vmnot m n => exact mask_readBack 0 m n 0 _ (by simp)
  | vmpop d n | vmfirst d n => exact mask_readBack d 0 n 0 _ (by simp)
  | _ => cases he

end Sys2Proof

/-- Settles O3: the instructions of each family are read back field by field. -/
theorem roundTrip : Obligations.RoundTrip := by
  unfold Obligations.RoundTrip
  exact fun i hwf he => Instr.readBack_of_wf hwf he
end

section
/-! PROOFS. The words that the spec writes out. -/

open Sys2Proof Sys2Proof.Machine

/-- Settles O2: each word is decoded. -/
theorem decodeSpecWords : Obligations.DecodeSpecWords := by
  unfold Obligations.DecodeSpecWords
  constructor <;> decide
end

section
/-! PROOFS. The frame of the A slot (R30): what the shared forms of its instructions keep for the end of the bundle, and that
every word which the decoder takes for the A slot is one of them. -/

open Sys2Proof Sys2Proof.Machine

namespace Sys2Proof.Machine

/-! ## Results and faults -/

/-- Only a result, or the fault it comes to, is kept for the end of the bundle. -/
def State.keepsA (s : State) (o : Out) : Prop :=
  ∃ x : ASlot, o = .next (s.withA x) ∧ ((∃ a, x = .done a ∨ x = .vec a) ∨ ∃ f, x = .fault f)

/-- A result of the A slot: registers or a fault, and nothing for which the bundle would have to wait. -/
def Res.settled (r : Res Arch) : Prop := (∃ a, r = .ok a) ∨ ∃ f, r = .error (.flt f)

theorem settled_ok (a : Arch) : Res.settled (.ok a) := .inl ⟨a, rfl⟩
theorem settled_fault (f : Flt) : Res.settled (.error (.flt f)) := .inr ⟨f, rfl⟩

theorem settled_ite {c : Prop} [Decidable c] {q r : Res Arch} (hq : Res.settled q) (hr : Res.settled r) :
    Res.settled (if c then q else r) := by
  split
  · exact hq
  · exact hr

theorem State.nanCheck_settled (s : State) (n : Option Nat) (a : Arch) : Res.settled (s.nanCheck n a) := by
  unfold State.nanCheck
  split
  · exact settled_ite (settled_fault _) (settled_ok a)
  · exact settled_ok a

section
variable {s : State} {n : Nat} (h : s.thr.aslot = .awaiting n)
include h

theorem State.runSlot_keepsA {k : Arch → ASlot} {f : Nat → Res Arch} (hk : ∀ a, k a = .done a ∨ k a = .vec a)
    (hf : Res.settled (f n)) : s.keepsA (s.runSlot k f) := by
  rcases hf with ⟨a, ha⟩ | ⟨x, hx⟩
  · exact ⟨k a, by simp [State.runSlot, State.withA, h, ha], .inl ⟨a, hk a⟩⟩
  · exact ⟨.fault { x with widx := if x.kind = 1 then 1 else 0 }, by simp [State.runSlot, State.withA, h, hx],
      .inr ⟨_, rfl⟩⟩

theorem State.runA_keepsA {f : Nat → Res Arch} (hf : ∀ m, Res.settled (f m)) : s.keepsA (s.runA f) :=
  State.runSlot_keepsA h (fun _ => .inl rfl) (hf n)

theorem State.runV_keepsA {f : Nat → Res Arch} (hf : ∀ m, Res.settled (f m)) : s.keepsA (s.runV f) :=
  State.runSlot_keepsA h (fun _ => .inr rfl) (hf n)

/-! ## The shared forms of A-slot instructions -/

theorem State.writeA_keepsA (d : BitVec 5) (v : Word) : s.keepsA (s.writeA d v) :=
  State.runA_keepsA h fun _ => settled_ok _

theorem State.binA_keepsA (d a b : BitVec 5) (f : Word → Word → Word) : s.keepsA (s.binA d a b f) :=
  State.writeA_keepsA h d _

theorem State.roundA_keepsA (f : Fmt) (rm : RmField) (d : BitVec 5) (wr : Nat → Word) (g : Mode → Val) :
    s.keepsA (s.roundA f rm d wr g) :=
  State.runA_keepsA h fun _ => settled_ok _

theorem State.fpA_keepsA (ty : FpTy) (rm : RmField) (d : BitVec 5) (g : Mode → Val) : s.keepsA (s.fpA ty rm d g) :=
  State.roundA_keepsA h ..

theorem State.vecA_keepsA (hs : List (BitVec 5)) {f : Arch → Res Arch} (hf : ∀ a, Res.settled (f a)) :
    s.keepsA (s.vecA hs f) :=
  State.runV_keepsA h fun _ => settled_ite (settled_fault _) (hf _)

theorem State.wordV_keepsA (hs : List (BitVec 5)) (b : Nat) (d : BitVec 5) (lanes : List Nat) (base : BitVec 16384)
    (g : Nat → Word) : s.keepsA (s.wordV hs b d lanes base g) :=
  State.vecA_keepsA h hs fun _ => settled_ok _

theorem State.roundV_keepsA (hs : List (BitVec 5)) (f : Fmt) (b : Nat) (inf : Bool) (d : BitVec 5) (lanes : List Nat)
    (base : BitVec 16384) (g : Mode → Nat → Val) : s.keepsA (s.roundV hs f b inf d lanes base g) := by
  unfold State.roundV
  exact State.vecA_keepsA h hs fun _ => s.nanCheck_settled _ _

theorem State.elemV_keepsA (ty : VTy) (d : BitVec 5) (k : BitVec 3) (hs : List (BitVec 5)) (fp : Mode → Nat → Val)
    (int : Nat → Word) : s.keepsA (s.elemV ty d k hs fp int) := by
  unfold State.elemV
  split
  · exact State.roundV_keepsA h ..
  · exact State.wordV_keepsA h ..

theorem State.pickV_keepsA (ty : VTy) (big : Bool) (d a b : BitVec 5) (h1 h2 : Bool) (k : BitVec 3) :
    s.keepsA (s.pickV ty big d a b h1 h2 k) := by
  unfold State.pickV
  exact State.vecA_keepsA h _ fun _ => s.nanCheck_settled _ _

theorem State.special_keepsA (g : VTy → FpTy → Word → Word) (ty : VTy) (d a : BitVec 5) (h1 : Bool) (k : BitVec 3) :
    s.keepsA (s.special g ty d a h1 k) := by
  unfold State.special
  exact State.vecA_keepsA h _ fun _ => s.nanCheck_settled _ _

theorem State.maskA_keepsA (f : Arch → Arch) : s.keepsA (s.maskA f) :=
  State.runV_keepsA h fun _ => settled_ok _

/-- Every A-slot instruction keeps its result or its fault. -/
theorem exec_keepsA {i : Instr} (hA : i.isA = true) : s.keepsA (exec i s) := by
  cases i with
  | add d a b | sub d a b | and d a b | or d a b | xor d a b | shl d a b | shr d a b | sar d a b | slt d a b | sltu d a b
  | min d a b | max d a b | minu d a b | maxu d a b | sel d a b c | mul d a b | mulh d a b | mulhu d a b | div d a b
  | divu d a b | rem d a b | remu d a b | padd d a b | fsgn ty d a b => simp only [exec]; exact State.binA_keepsA h ..
  | clz d a | ctz d a | popc d a | bswap d a | ext d a pos lm | addi d a imm | andi d a imm | ori d a imm | xori d a imm
  | shli d a sh | shri d a sh | sari d a sh | slti d a imm | sltiu d a imm | pclr d a | ptag d a fmt blk | fmin ty d a b
  | fmax ty d a b | feq ty d a b | flt ty d a b | fle ty d a b | fcls ty d a => exact State.writeA_keepsA h ..
  | pidx d a b =>
    exact State.runA_keepsA h fun _ => settled_ite (settled_fault _) (settled_ite (settled_fault _) (settled_ok _))
  | pfmt d a => exact State.runA_keepsA h fun _ => settled_ite (settled_fault _) (settled_ok _)
  | fadd ty rm d a b | fsub ty rm d a b | fmul ty rm d a b | fdiv ty rm d a b | fsqrt ty rm d a | fma ty rm d a b c
  | fnma ty rm d a b c => simp only [exec]; exact State.fpA_keepsA h ..
  | fcvt dst src rm d a => simp only [exec]; exact State.roundA_keepsA h ..
  | vadd ty d a b h1 h2 k | vsub ty d a b h1 h2 k | vmul ty d a b h1 h2 k | vfma ty d a b h1 h2 k | vfnma ty d a b h1 h2 k
  | vdiv ty d a b h1 h2 k | vsqrt ty d a h1 k => exact State.elemV_keepsA h ..
  | vmin ty d a b h1 h2 k | vmax ty d a b h1 h2 k => exact State.pickV_keepsA h ..
  | vand ty d a b h1 h2 k | vor ty d a b h1 h2 k | vxor ty d a b h1 h2 k | vshl ty d a b h1 h2 k | vshr ty d a b h1 h2 k
  | vsar ty d a b h1 h2 k | vsel ty d a b h1 h2 k | vperm ty d a b h1 h2 k | vslideUp ty d a b h1 k | vslideDn ty d a b h1 k
  | vbcast ty d a k | vmv ty d a h1 k | vid ty d k => simp only [exec]; exact State.wordV_keepsA h ..
  | vcmp c ty d a b h1 h2 k | vext ty d a b h1 | vins ty d a b =>
    simp only [exec, execVcmp, execVext, execVins]; exact State.vecA_keepsA h _ fun _ => settled_ok _
  | vcvt dst src d a h1 k | vpack f ty inf d a h1 k =>
    simp only [exec, execVcvt, execVpack]; exact State.roundV_keepsA h ..
  | vunpk f ty d a h1 k | vred op ty d a h1 k | vscan ty d a h1 k =>
    simp only [exec, execVunpk, execVred, execVscan]
    exact State.vecA_keepsA h _ fun _ => s.nanCheck_settled ..
  | vrcp ty d a h1 k | vrsq ty d a h1 k | vexp2 ty d a h1 k | vlog2 ty d a h1 k | vtanh ty d a h1 k =>
    exact State.special_keepsA h ..
  | vmand d a b | vmor d a b | vmxor d a b | vmnot d a | vmpop d a | vmfirst d a =>
    simp only [exec]; exact State.maskA_keepsA h _
  | _ => cases hA

end

end Sys2Proof.Machine

namespace Sys2Proof

/-! ## What the decoder takes for the A slot (R39) -/

/-- A word is read as an instruction of the A slot, or not at all. -/
def onlyA (r : Except Nat Instr) : Prop := ∀ i, r = .ok i → i.isA = true

@[simp] theorem onlyA_ok (i : Instr) : onlyA (.ok i) ↔ i.isA = true :=
  ⟨fun h => h i rfl, fun h _ hi => Except.ok.inj hi ▸ h⟩

@[simp] theorem onlyA_error (e : Nat) : onlyA (.error e) := fun _ hi => by cases hi

@[simp] theorem onlyA_ite (c : Prop) [Decidable c] (q r : Except Nat Instr) :
    onlyA (if c then q else r) ↔ (c → onlyA q) ∧ (¬ c → onlyA r) := by
  split <;> simp [*]

@[simp] theorem onlyA_need (c : Bool) (e : Nat) (k : Except Nat Instr) : onlyA (need c e k) ↔ (c = true → onlyA k) := by
  simp [need]

@[simp] theorem onlyA_want {α : Type} (o : Option α) (e : Nat) (k : α → Except Nat Instr) :
    onlyA (want o e k) ↔ ∀ a, o = some a → onlyA (k a) := by
  cases o <;> simp [want]

theorem onlyA_decodeA (w : Half) : onlyA (decodeA w) := by
  unfold decodeA
  split
  all_goals
    simp only [onlyA_ok, onlyA_error, onlyA_ite, onlyA_need, onlyA_want, Instr.isA, implies_true, and_self,
      decA00, decA01, decA02, decA03, decA04, decA05, decA06, decA07, decA08, decA09, decA0A, decA10, decA11, 
      decA14, decA15, decA16, decA17, decA18, decA19, decA1A, decA1B, decA1C, decA1D, decA1E, decA20, decA21, 
      decA22, decA23, decA24, decA25, decA26, decA27, decA28, decA29, decA2A, decA2B, decA2C, decA2D, decA2E, 
      decA2F, decA30, decA31, decA32, decA33, decA34, decA35, decA36, decA37, decA38, decA39, decA3A]

end Sys2Proof

/-- Settles O7: every instruction of the A slot is of one of a few shared forms, each of which keeps its result or its
fault. -/
theorem aSlotFrame : Obligations.ASlotFrame := by
  unfold Obligations.ASlotFrame
  exact fun w i hi s n h => exec_keepsA h (onlyA_decodeA w i hi)
end

section
/-! PROOFS. What a bundle that is performed, or that faults, comes to; and the branches and jumps (R33, R81, R82). -/

open Sys2Proof Sys2Proof.Machine

namespace Sys2Proof.Machine

/-! ## Bundles that only write registers, and faults -/

/-- A bundle that cannot be performed, whose A slot has not faulted. -/
theorem State.settle_error (s : State) (e : Stop) (h : s.thr.aslot.faults = false) : s.settle (.error e) = s.stopFor e := by
  unfold State.settle
  split <;> simp_all [ASlot.faults]

/-- A bundle that only writes registers and moves PC. -/
theorem State.runC_regs (s : State) (u : Arch → Arch) (x : Option Word) (h : s.fits Eff.none = true) :
    s.runC (s.retire { Eff.regs u with npc := x }) =
      .next (s.withRegs fun r => { u r with pc := x.getD (nextPc s.thr.arch.pc) }) :=
  s.runC_retire _ h

/-- A bundle that only writes registers. -/
theorem State.regsC_fits (s : State) (u : Arch → Arch) (h : s.fits Eff.none = true) :
    s.regsC u = .next (s.withRegs fun r => { u r with pc := nextPc s.thr.arch.pc }) :=
  s.runC_regs u none h

/-- A check that fails is the fault it names. -/
theorem State.checked_fault (s : State) (f : Flt) (r : Out) (h : s.thr.aslot.faults = false) :
    s.checked (.error (.flt f)) r = .next (s.raise f) := by
  rw [State.checked, s.settle_error _ h, State.stopFor]

/-! ## Where control goes -/

theorem jumpTo_eq (base off : Word) : jumpTo base off = BitVec.ofNat 64 ((base + 8 * off).toNat % 2 ^ 57) := by
  simp [jumpTo, addrWord, effAddr, va57]

theorem jumpTo_toNat (base off : Word) : (jumpTo base off).toNat = (base + 8 * off).toNat % 2 ^ 57 := by
  rw [jumpTo_eq, BitVec.toNat_ofNat]
  omega

/-- A conditional branch. -/
theorem State.branch_fits (s : State) {c c' : Bool} (hc : c = c') (off : Imm 15)
    (h : s.fits Eff.none = true) :
    s.branch c off = .next (s.withRegs fun r =>
      { r with pc := if c' then jumpTo s.thr.arch.pc (immValue off) else nextPc s.thr.arch.pc }) := by
  refine (s.runC_regs id _ h).trans ?_
  cases c' <;> simp [hc]

theorem execJal_fits (s : State) (d : BitVec 5) (off : Imm 14) (h : s.fits Eff.none = true) :
    execJal d off s = .next (s.withRegs fun r =>
      { r.setX d (nextPc s.thr.arch.pc) with pc := jumpTo s.thr.arch.pc (immValue off) }) :=
  s.runC_regs _ (some _) h

end Sys2Proof.Machine

/-- Settles O22: each transfer is a bundle that only writes registers. -/
theorem controlTransfers : Obligations.ControlTransfers := by
  unfold Obligations.ControlTransfers
  intro s d a b off joff
  dsimp only
  refine ⟨?_, fun hal h => ?_, fun hal h => ?_⟩
  · simp only [List.forall_mem_cons, List.not_mem_nil, false_imp_iff, implies_true, and_true]
    simp only [exec, execBEq, execBNe, execBLt, execBGe, execBLtu, execBGeu, ← jumpTo_eq]
    exact ⟨s.regsC_fits id, s.branch_fits (beq_eq_decide _ _) off, s.branch_fits (by rw [bne, beq_eq_decide, decide_not]) off,
      s.branch_fits rfl off, s.branch_fits (by simp [BitVec.slt, ← decide_not]) off, s.branch_fits rfl off,
      s.branch_fits (by simp [BitVec.ult, ← decide_not]) off, execJal_fits s d joff⟩
  · have ht : (jumpTo (s.thr.arch.getX a) (immValue joff)).toNat % 8 = 0 := by
      rw [jumpTo_toNat]
      omega
    simp only [exec, execJalr, aligned, if_pos ht, State.checked, ← jumpTo_eq]
    exact s.runC_regs _ (some _) h
  · have ht : (jumpTo (s.thr.arch.getX a) (immValue joff)).toNat % 8 ≠ 0 := by
      rw [jumpTo_toNat]
      omega
    simp only [exec, execJalr, aligned, if_neg ht, fault, ← jumpTo_eq]
    rw [s.checked_fault _ _ h, jumpTo_toNat]
    simp [addrWord, jumpTo_eq]
end

section
/-! PROOFS. A thread's own state words: what `srd` reads of each, and what `swr` leaves in each (R44 to R47, R85 to R87). -/

open Sys2Proof Sys2Proof.Machine

namespace Sys2Proof.Machine

theorem oat_oput {α : Type} (v : Vector α 8) (i j : BitVec 3) (a : α) : oat (oput v i a) j = if j = i then a else oat v j := by
  by_cases h : j = i
  · simp [h]
  · have hn : i.toNat ≠ j.toNat := fun e => h (BitVec.eq_of_toNat_eq e.symm)
    simp [oat, oput, hn, h]

/-! ## The fields that `swr` writes -/

section
variable (i : BitVec 5) (v : Word) (a : Arch)

@[simp] theorem setWord_pc : (setWord i v a).pc = a.pc := by
  unfold setWord; (repeat' split) <;> rfl
@[simp] theorem setWord_sts : (setWord i v a).sts = if i.toNat = 1 then stsStored v else a.sts := by
  unfold setWord; (repeat' split) <;> simp_all
@[simp] theorem setWord_rngs : (setWord i v a).rngs = if i.toNat = 2 then rngsStored v else a.rngs := by
  unfold setWord; (repeat' split) <;> simp_all
@[simp] theorem setWord_flta : (setWord i v a).flta = if i.toNat = 3 then v else a.flta := by
  unfold setWord; (repeat' split) <;> simp_all
@[simp] theorem setWord_dbk : (setWord i v a).dbk = if i.toNat = 16 then v else a.dbk := by
  unfold setWord; (repeat' split) <;> simp_all
@[simp] theorem setWord_dgo : (setWord i v a).dgo = if i.toNat = 17 then v else a.dgo := by
  unfold setWord; (repeat' split) <;> simp_all
@[simp] theorem setWord_live : (setWord i v a).live = if i.toNat = 18 then v.setWidth 32 else a.live := by
  unfold setWord; (repeat' split) <;> simp_all
@[simp] theorem setWord_why : (setWord i v a).why = if i.toNat = 19 then v.setWidth 13 else a.why := by
  unfold setWord; (repeat' split) <;> simp_all

theorem setWord_swin (k : Nat) (hk : k < 8) :
    oat (setWord i v a).swin (BitVec.ofNat 3 k) = if i.toNat = 8 + k then v else oat a.swin (BitVec.ofNat 3 k) := by
  unfold setWord
  split
  case h_8 =>
    split
    next hn =>
      have he : BitVec.ofNat 3 k = BitVec.ofNat 3 (i.toNat - 8) ↔ i.toNat = 8 + k := by
        rw [← BitVec.toNat_inj, BitVec.toNat_ofNat, BitVec.toNat_ofNat]
        omega
      simp [oat_oput, he]
    next hn =>
      rw [if_neg (by omega)]
  all_goals
    rename_i hi
    rw [if_neg (by omega)]

end

/-! ## State words -/

/-- A word whose high bits are clear is its low bits. -/
theorem setWidth_of_high_zero (v : Word) {n : Nat} (hn : n ≤ 64) (h : v.extractLsb' n (64 - n) = 0) :
    (v.setWidth n).setWidth 64 = v := by
  ext k hk
  by_cases hkn : k < n
  · simp [hkn, BitVec.getLsbD_eq_getElem hk]
  · have hb := congrArg (·.getLsbD (k - n)) h
    simp only [BitVec.getLsbD_extractLsb', show n + (k - n) = k by omega, show k - n < 64 - n by omega] at hb
    simpa [hkn, hk, BitVec.getLsbD_eq_getElem hk] using hb.symm

/-- A state word from 8 to 15 is a window word or a limit of SWIN. -/
theorem State.wordOf_swin (s : State) (t : Thread) {i : BitVec 5} {k : Nat} (hk : k < 8) (hi : i.toNat = 8 + k) :
    s.wordOf t i = oat t.arch.swin (BitVec.ofNat 3 k) := by
  simp only [State.wordOf, hi]
  interval_cases k <;> rfl

/-- Writing a state word leaves every other one but PC. -/
theorem State.wordOf_setWord_other (s : State) (t : Thread) (a : Arch) (v pc : Word) {i j : BitVec 5} (hj : j ≠ i) (h0 : j ≠ 0) :
    s.wordOf { t with arch := { setWord i v a with pc := pc } } j = s.wordOf { t with arch := a } j := by
  have hne : i.toNat ≠ j.toNat := fun e => hj (BitVec.eq_of_toNat_eq e.symm)
  have h0' : j.toNat ≠ 0 := fun e => h0 (BitVec.eq_of_toNat_eq e)
  by_cases hs : 8 ≤ j.toNat ∧ j.toNat ≤ 15
  · obtain ⟨k, hk⟩ : ∃ k, j.toNat = 8 + k := ⟨j.toNat - 8, by omega⟩
    have hk8 : k < 8 := by omega
    rw [s.wordOf_swin _ hk8 hk, s.wordOf_swin _ hk8 hk]
    exact (setWord_swin i v a k hk8).trans (if_neg (hk ▸ hne))
  · unfold State.wordOf
    split
    all_goals
      simp_all [-not_and, Thread.stsWord, Thread.inRegion, Thread.vcx, Thread.ngrp]

/-- A value that keeps a word's rules is read back. -/
theorem State.wordOf_setWord_same (s : State) (t : Thread) (a : Arch) {v : Word} (pc : Word) {i : BitVec 5}
    (hok : wordOk i v = true) (h1 : i ≠ 1) (h2 : i ≠ 2) :
    s.wordOf { t with arch := { setWord i v a with pc := pc } } i = v := by
  by_cases hs : 8 ≤ i.toNat ∧ i.toNat ≤ 15
  · obtain ⟨k, hk⟩ : ∃ k, i.toNat = 8 + k := ⟨i.toNat - 8, by omega⟩
    rw [s.wordOf_swin _ (by omega) hk]
    exact (setWord_swin i v a k (by omega)).trans (if_pos hk)
  · unfold wordOk at hok
    split at hok
    case h_1 he => exact absurd (BitVec.eq_of_toNat_eq he) h1
    case h_2 he => exact absurd (BitVec.eq_of_toNat_eq he) h2
    case h_3 he | h_12 he | h_13 he => simp [State.wordOf, he]
    case h_14 he =>
      simp only [Bool.and_eq_true, beq_iff_eq] at hok
      simpa [State.wordOf, he] using setWidth_of_high_zero v (n := 32) (by omega) hok.1
    case h_15 he => simpa [State.wordOf, he] using setWidth_of_high_zero v (n := 13) (by omega) (beq_iff_eq.1 hok)
    case h_16 => cases hok
    all_goals omega

/-- VCX as a number. -/
theorem Thread.vcx_eq (t : Thread) : t.vcx = BitVec.ofNat 64 (t.gmask.toNat * 65536 + t.ngrp) := by
  have hn : t.ngrp ≤ 16 := by
    unfold Thread.ngrp popc16
    exact (List.length_filter_le ..).trans (by simp)
  have hg := t.gmask.isLt
  apply BitVec.eq_of_toNat_eq
  rw [Thread.vcx, BitVec.toNat_append, BitVec.toNat_append, BitVec.toNat_append]
  simp only [BitVec.toNat_ofNat, Nat.zero_mod, Nat.zero_shiftLeft, Nat.zero_or]
  rw [Nat.mod_eq_of_lt (by omega : t.ngrp < 2 ^ 5), ← Nat.shiftLeft_add_eq_or_of_lt (by omega : t.ngrp < 2 ^ 5)]
  simp only [Nat.or_zero, Nat.shiftLeft_eq]
  omega

theorem boolWord_shiftLeft (b : Bool) (n : Nat) : boolWord b <<< n = if b then BitVec.twoPow 64 n else 0#64 := by
  cases b <;> simp [boolWord, BitVec.twoPow]

/-- Setting a bit that is clear adds its weight. -/
theorem or_bit (x : Word) (c : Bool) (n : Nat) (h : x.getLsbD n = false) :
    (x ||| if c then BitVec.twoPow 64 n else 0#64) = x + BitVec.ofNat 64 (if c then 2 ^ n else 0) := by
  cases c
  · simp
  · have ha : x &&& BitVec.twoPow 64 n = 0#64 := by simp [BitVec.and_twoPow, h]
    rw [if_pos rfl, if_pos rfl, ← BitVec.add_eq_or_of_and_eq_zero _ _ ha]
    congr 1
    apply BitVec.eq_of_toNat_eq
    rw [BitVec.toNat_twoPow, BitVec.toNat_ofNat]

/-- STS as it reads, of a word whose bits 19:18 are clear. -/
theorem Thread.stsWord_eq (t : Thread) (h : t.arch.sts.extractLsb' 18 2 = 0) :
    t.stsWord = BitVec.ofNat 64 (t.arch.sts.toNat + (if t.inRegion then 2 ^ 19 else 0) + if t.solo.isSome then 2 ^ 18 else 0) := by
  have h18 : t.arch.sts.getLsbD 18 = false := by simpa using congrArg (·.getLsbD 0) h
  have h19 : t.arch.sts.getLsbD 19 = false := by simpa using congrArg (·.getLsbD 1) h
  have h18' : (t.arch.sts ||| if t.inRegion then BitVec.twoPow 64 19 else 0#64).getLsbD 18 = false := by
    rw [BitVec.getLsbD_or, h18]
    cases t.inRegion <;> simp
  rw [Thread.stsWord, boolWord_shiftLeft, boolWord_shiftLeft, or_bit _ _ _ h18', or_bit _ _ _ h19]
  simp [BitVec.ofNat_add]

/-- Two words of 32 bits side by side. -/
theorem append_halves (x y : Word) :
    (x.setWidth 32 ++ y.setWidth 32 : Word) = BitVec.ofNat 64 (x.toNat % 2 ^ 32 * 2 ^ 32 + y.toNat % 2 ^ 32) := by
  apply BitVec.eq_of_toNat_eq
  rw [BitVec.toNat_append, BitVec.toNat_setWidth, BitVec.toNat_setWidth,
    ← Nat.shiftLeft_add_eq_or_of_lt (by omega), BitVec.toNat_ofNat]
  omega

/-- TENANT and generation as a number. -/
theorem append_tenant (g n : BitVec 4) : (0#56 ++ g ++ n : Word) = BitVec.ofNat 64 (n.toNat + 16 * g.toNat) := by
  apply BitVec.eq_of_toNat_eq
  rw [BitVec.toNat_append, BitVec.toNat_append, ← Nat.shiftLeft_add_eq_or_of_lt n.isLt, BitVec.toNat_ofNat]
  simp only [BitVec.toNat_ofNat, Nat.zero_mod, Nat.zero_mul, Nat.zero_or, Nat.shiftLeft_eq]
  omega

theorem execSwr_fits (s : State) (a i : BitVec 5) (hw : wordWritable i = true) (hok : wordOk i (s.thr.arch.getX a) = true)
    (h : s.fits Eff.none = true) :
    execSwr a i s = .next (s.withRegs fun r =>
      { setWord i (s.thr.arch.getX a) r with pc := nextPc s.thr.arch.pc }) := by
  simp only [execSwr, hw, hok, Bool.and_self, if_true, State.checked]
  exact s.regsC_fits _ h

/-- What a state word reads after a bundle that only writes registers. -/
theorem State.wordOf_withRegs (s : State) (f : Arch → Arch) (j : BitVec 5) :
    (s.withRegs f).wordOf (s.withRegs f).thr j = s.wordOf { s.thr with arch := f s.thr.pending } j := rfl

end Sys2Proof.Machine

/-- Settles O24: the reads and writes of registers are bundles that only write registers; the state words one by one. -/
theorem ownState : Obligations.OwnState := by
  unfold Obligations.OwnState
  refine ⟨fun s d i q imm h => ?_, fun s => ?_, fun s a i => ⟨fun hw hok h => ?_, fun hok h => ?_⟩⟩
  · dsimp only
    rw [← append_halves]
    exact ⟨s.regsC_fits _ h, s.regsC_fits _ h, s.regsC_fits _ h, s.regsC_fits _ h, s.regsC_fits _ h⟩
  · exact ⟨rfl, rfl, rfl, rfl, append_tenant .., s.thr.vcx_eq, rfl, rfl, rfl, rfl, rfl,
      fun k hk => by interval_cases k <;> exact ⟨rfl, rfl⟩, s.thr.stsWord_eq⟩
  · refine ⟨_, execSwr_fits s a i hw hok h, rfl, fun h1 h2 => ?_, fun h2 => ?_, fun h1 => ?_, fun j hj h0 => ?_⟩
    · rw [State.wordOf_withRegs]
      exact s.wordOf_setWord_same s.thr _ _ hok h1 h2
    · subst h2
      rfl
    · subst h1
      rfl
    · rw [State.wordOf_withRegs]
      exact s.wordOf_setWord_other s.thr _ _ _ hj h0
  · simp only [exec, execSwr, hok, Bool.false_eq_true, if_false, illegal]
    exact s.checked_fault _ _ h
end

section
/-! PROOFS. Fences, `dflush` and explicit regions: the begin, the end and the failure of a region, and the instructions it
forbids (R41, R161, R163, R172, R197, R199 to R202). -/

open Sys2Proof Sys2Proof.Machine

namespace Sys2Proof.Machine

/-! ## An instruction that a region forbids (R161) -/

section
variable {s : State} (hr : s.thr.inRegion = true) (hf : s.thr.aslot.faults = false)
include hr hf

/-- An instruction with checks that ends its chunk. -/
theorem State.enderC_forbidden (r : Res State) : s.enderC r = .next { s with thr := s.thr.failRegion 4 0 } := by
  rw [s.enderC_region r hr, s.settle_error _ hf, State.stopFor]

/-- An instruction that ends its chunk. -/
theorem State.endC_forbidden (e : Eff) (k : State → State) : s.endC e k = .next { s with thr := s.thr.failRegion 4 0 } := by
  rw [State.endC, State.runC, State.endChunk, if_pos hr, s.settle_error _ hf, State.stopFor]

/-- A tile command whose checks find no illegal instruction. -/
theorem State.loomC_forbidden (op : LoomOp) (a b : BitVec 5) (n : Nat)
    (hc : ∀ f : Flt, s.pushChecks op (s.thr.arch.getX a) (s.thr.arch.getX b) = .error (.flt f) → f.kind ≠ 1) :
    s.loomC op a b n = .next { s with thr := s.thr.failRegion 4 0 } := by
  unfold State.loomC
  dsimp only
  split
  next e he =>
    have hi : ¬ e.isIllegal = true := by
      cases e <;> simp_all [Stop.isIllegal]
    rw [if_neg hi, State.enderC_forbidden hr hf]
  next => exact State.enderC_forbidden hr hf _

end

/-- A tile command without a warp slot and without an operand in memory comes to no illegal-instruction fault. -/
theorem State.pushChecks_legal (s : State) {op : LoomOp} {a b : Word} (hw : op.warpSlot = none)
    (hargs : ∀ wide, op.args wide a b = []) (f : Flt) (h : s.pushChecks op a b = .error (.flt f)) : f.kind ≠ 1 := by
  simp only [State.pushChecks, LoomOp.lacks, hw, hargs, Bool.false_eq_true, if_false] at h
  split at h
  · cases h
    exact (by decide : (2#8) ≠ 1)
  · split at h
    · cases h
      exact (by decide : (12#8) ≠ 1)
    · cases h

/-- A tile command that is illegal is so in a region too (R41). -/
theorem State.loomC_illegal (s : State) (op : LoomOp) (a b : BitVec 5) (n : Nat) {f : Flt}
    (hc : s.pushChecks op (s.thr.arch.getX a) (s.thr.arch.getX b) = .error (.flt f)) (hk : f.kind = 1)
    (hf : s.thr.aslot.faults = false) : s.loomC op a b n = .next (s.raise f) := by
  simp [State.loomC, hc, Stop.isIllegal, hk, State.runC, s.settle_error _ hf, State.stopFor]

section
variable {s : State} (hr : s.thr.inRegion = true) (hf : s.thr.aslot.faults = false)
include hr hf

/-- A tile command that cannot be illegal. -/
theorem State.loomC_plain_forbidden {op : LoomOp} {a b : BitVec 5} {n : Nat} (hw : op.warpSlot = none)
    (hargs : ∀ wide x y, op.args wide x y = []) : s.loomC op a b n = .next { s with thr := s.thr.failRegion 4 0 } :=
  State.loomC_forbidden hr hf op a b n (s.pushChecks_legal hw fun wide => hargs wide _ _)

/-- A tile command that can be: only its illegal-instruction fault comes before the failure of the region. -/
theorem State.loomC_inRegion {op : LoomOp} {a b : BitVec 5} {n : Nat} {x y : Word} (hx : s.thr.arch.getX a = x)
    (hy : s.thr.arch.getX b = y) :
    ((∀ f : Flt, s.pushChecks op x y = .error (.flt f) → f.kind ≠ 1) →
      s.loomC op a b n = .next { s with thr := s.thr.failRegion 4 0 })
    ∧ ∀ f : Flt, s.pushChecks op x y = .error (.flt f) → f.kind = 1 → s.loomC op a b n = .next (s.raise f) := by
  subst hx hy
  exact ⟨State.loomC_forbidden hr hf op a b n, fun f hc hk => s.loomC_illegal op a b n hc hk hf⟩

end

/-! ## The end of a chunk or of a region -/

/-- `xend`, and `xabort` outside a region, commit what is open. -/
theorem State.closeChunk_commits (s : State) (e : Eff) (h : s.fits e = true) (hm : (s.retired e).mayCommit = true) :
    s.runC (s.closeChunk e) = .next (s.retired e).commitNow := by
  rw [State.closeChunk, s.retire_fits e h]
  dsimp only
  rw [State.commit_mayCommit _ hm, State.runC, s.settle_ok _ (State.fits_noFault h)]

theorem xendWord_eq (att xcode code : Nat) :
    xendWord att xcode code = BitVec.ofNat 64 (256 * (att % 4) + 16 * (xcode % 16) + code % 16) := by
  apply BitVec.eq_of_toNat_eq
  rw [xendWord, BitVec.toNat_append, BitVec.toNat_append, BitVec.toNat_append,
    ← Nat.shiftLeft_add_eq_or_of_lt (BitVec.isLt _), ← Nat.shiftLeft_add_eq_or_of_lt (BitVec.isLt _)]
  simp only [BitVec.toNat_ofNat, Nat.zero_mod, Nat.zero_mul, Nat.zero_or, Nat.shiftLeft_eq]
  omega

/-- The status of R163, field by field. -/
theorem Thread.xendStatus_eq (t : Thread) :
    t.xendStatus = match t.region with
      | none => 6
      | some r => match r.failed with
        | none => BitVec.ofNat 64 (256 * (r.attempt % 4))
        | some (code, x) => BitVec.ofNat 64 (256 * (r.attempt % 4) + 16 * (x % 16) + code % 16) := by
  unfold Thread.xendStatus
  cases t.region with
  | none => rfl
  | some r =>
    obtain ⟨_, _, _, _, failed, _⟩ := r
    cases failed <;> simp [xendWord_eq]

theorem execXend_commits {s : State} {d : BitVec 5} {w : Word} (hw : s.thr.xendStatus = w)
    (h : s.fits (Eff.regs fun a => a.setX d w) = true) (hm : (s.retired (Eff.regs fun a => a.setX d w)).mayCommit = true) :
    execXend d s = .next (s.retired (Eff.regs fun a => a.setX d w)).commitNow := by
  subst hw
  exact s.closeChunk_commits _ h hm

theorem Thread.inRegion_iff (t : Thread) : t.inRegion = true ↔ ∃ r, t.region = some r ∧ r.failed = none := by
  unfold Thread.inRegion
  cases t.region <;> simp

end Sys2Proof.Machine

/-- Settles O30: every form ends its chunk, or finds the region that forbids it. -/
theorem regions : Obligations.Regions := by
  unfold Obligations.Regions
  refine ⟨fun s h => ?_, fun s d n => ⟨fun h hm => ?_, fun hr h hm => ?_, fun hr hf => ?_⟩,
    fun s d a b q t n n9 it c op z f hr hf => ?_, fun s a b t n hr hf => ?_⟩
  · exact ⟨s.enderC_canEnd _ _ h, s.enderC_canEnd _ _ h, s.enderC_canEnd _ _ h, s.enderC_canEnd _ _ h, s.enderC_canEnd _ _ h⟩
  · exact execXend_commits s.thr.xendStatus_eq h hm
  · simp only [exec, execXabort, hr, Bool.false_eq_true, if_false]
    exact s.closeChunk_commits _ h hm
  · obtain ⟨r, hreg, -⟩ := s.thr.inRegion_iff.1 hr
    refine ⟨{ s with thr := s.thr.failRegion 3 n.toNat }, ?_, rfl, rfl, ?_, rfl⟩
    · simp only [exec, execXabort, hr, if_true, State.runC, s.settle_error _ hf, State.stopFor]
    · simp [Thread.failRegion, hreg]
  · simp only [List.forall_mem_cons, List.not_mem_nil, false_imp_iff, implies_true, and_true]
    simp only [exec, execBrk, execAmo, execCas, execAmop, execCrange, execDflush, execChunk, execFenceD, execFenceE, execFenceA,
      execXbegin, execQbind, execQwaitF, execQwaitE, execQadvH, execQadvT, execPcopy, execPcopyt, execPgath, execPscat,
      execPscadd, execPfill, execTzero, execTewScale, execTewRelu, execTewGelu, execTewSilu, execTewClamp, execTsync, execTrecOn,
      execTrecOff, execUnwind, execTdrop, execWatch, execUnwatch, execWait, execYield, execHalt, execHaltRetain, execLive,
      execSpawn, execPwait, execSmay, execBar, execDmem, execDbar, execVclaim, execVrel, execVreneg, execXchg, execLaunch,
      execTstop, execTstart, execTrds, execTwrs, execIgrant, execIrevoke, execIquery, State.atomicC, State.queueWait,
      State.queueAdvance, State.porterC, State.enderC_forbidden hr hf, State.endC_forbidden hr hf, true_and, and_true]
    have plain := @State.loomC_plain_forbidden s hr hf
    exact ⟨plain rfl fun _ _ _ => rfl, plain rfl fun _ _ _ => rfl, plain rfl fun _ _ _ => rfl, plain rfl fun _ _ _ => rfl,
      plain rfl fun _ _ _ => rfl, plain rfl fun _ _ _ => rfl, plain rfl fun _ _ _ => rfl, plain rfl fun _ _ _ => rfl,
      plain rfl fun _ _ _ => rfl, plain rfl fun _ _ _ => rfl, plain rfl fun _ _ _ => rfl⟩
  · simp only [List.forall_mem_cons, List.not_mem_nil, false_imp_iff, implies_true, and_true]
    have tile := @State.loomC_inRegion s hr hf
    exact ⟨tile rfl rfl, tile rfl rfl, tile rfl rfl, tile rfl rfl, tile rfl rfl, tile rfl rfl, tile rfl rfl, tile rfl rfl⟩
end

section
/-! PROOFS. The step that issues a bundle: fetch, decode, and the two slots (R29, R30, R33, R34, R41). -/

open Sys2Proof Sys2Proof.Machine

namespace Sys2Proof.Machine

/-- The state in which a chosen thread issues: it is in focus, and what its last bundle waited for is forgotten. -/
def State.issuing (s : State) (id : ThreadId) : State :=
  { s.drawn.focus id with thr := { (s.drawn.focus id).thr with balk := none } }

/-- A module that runs, with nothing on the agenda, makes a step of its own. -/
theorem State.step_awake (s : State) (hw : s.awake = true) (ha : s.agenda = []) : step s = s.ownStep := by
  simp only [State.awake, Bool.and_eq_true, Bool.not_eq_true', decide_eq_true_eq, Option.isNone_iff_eq_none] at hw
  obtain ⟨⟨⟨hz, hd⟩, hfail⟩, hst⟩ := hw
  simp [step, State.turn, State.runs, ha, hz, hd, hfail, Nat.not_lt.2 hst]

/-- A step that chooses a thread to issue tries its bundle, and time passes. -/
theorem State.step_issue (s : State) (id : ThreadId) (hw : s.awake = true) (ha : s.agenda = [])
    (hc : choose s.free (s.drawn.moves s.free) = some (.issue id)) :
    step s = s.passes (s.drawn.triedBy s.free (s.drawn.focus id).thr (s.issuing id).issueBundle) := by
  rw [s.step_awake hw ha, State.ownStep]
  have hc' : choose s.free (({ s with free := s.free + 8 } : State).moves s.free) = some (.issue id) := hc
  simp only [hc', State.make, State.issuing, State.drawn]
  generalize State.issueBundle _ = o
  cases o <;> rfl

section
variable {s : State} {pa : Nat} (hf : s.fetchAt s.thr.arch.pc = .ok pa)
include hf

theorem State.issueBundle_ok {b : Bundle}
    (hd : decodeBundle (((s.fetched pa).combined [pa]).bundleWords pa).1 (((s.fetched pa).combined [pa]).bundleWords pa).2 = .ok b) :
    s.issueBundle = (s.fetched pa).runBundle b := by
  simp only [State.issueBundle, hf, hd]

theorem State.issueBundle_bad {b : BadBundle}
    (hd : decodeBundle (((s.fetched pa).combined [pa]).bundleWords pa).1 (((s.fetched pa).combined [pa]).bundleWords pa).2 =
      .error b) : s.issueBundle = .next ((s.fetched pa).raise (badFault b)) := by
  simp only [State.issueBundle, hf, hd]

end

/-- A pair whose `live` clears no register that its A slot writes. -/
theorem State.runBundle_pair {s u : State} {c a : Instr} (hl : s.liveClash c a = false)
    (ha : exec a (s.withA (.awaiting (s.cDraws c))) = .next u) : s.runBundle (.pair c a) = exec c u := by
  simp [State.runBundle, State.runPair, hl, ha]

end Sys2Proof.Machine

/-- Settles O4: the step is that of the chosen thread, whose bundle is fetched, decoded and run. -/
theorem stepRunsBundle : Obligations.StepRunsBundle := by
  unfold Obligations.StepRunsBundle
  intro s id pa u0 s1 done s2 w hw ha hc hf
  refine ⟨fun c hd => ?_, fun c a u hd hl hu => ?_, fun b hd => ?_⟩
  · exact (s.step_issue id hw ha hc).trans (congrArg done (State.issueBundle_ok hf hd))
  · exact (s.step_issue id hw ha hc).trans
      (congrArg done ((State.issueBundle_ok hf hd).trans (State.runBundle_pair hl hu)))
  · exact (s.step_issue id hw ha hc).trans (congrArg done (State.issueBundle_bad hf hd))
end

section
/-! PROOFS. What a write event leaves alone: the name of the thread that issues, the indenture tables of the tenants, and a
thread that has only begun. -/

open Sys2Proof Sys2Proof.Machine

namespace Sys2Proof.Machine

/-! ## The thread that issues -/

@[simp] theorem State.l2Put_thr (s : State) (d l : Nat) (b : Bool) : (s.l2Put d l b).thr = s.thr := by
  unfold State.l2Put
  dsimp only
  (repeat' split) <;> simp [State.countAccess]

@[simp] theorem State.atHome_thr (b : Bool) (s : State) (l : Nat) : (s.atHome b l).thr = s.thr := by
  unfold State.atHome
  split <;> simp

@[simp] theorem State.backRegion_thr (s : State) (r : Nat) : (s.backRegion r).thr = s.thr := by
  unfold State.backRegion
  dsimp only
  split <;> simp

@[simp] theorem State.storeResume_thr (s : State) (c : Host.Cell) : (s.storeResume c).thr = s.thr := by
  unfold State.storeResume
  extract_lets va
  clear_value va
  (repeat' split) <;> simp

theorem State.settleLines_thr (s : State) (b : Bool) (ls : List Nat) : (s.settleLines b ls).thr = s.thr := by
  unfold State.settleLines
  have hback := State.foldl_keeps State.thr State.backRegion State.backRegion_thr
  split
  · exact hback _ s
  · exact (State.foldl_keeps State.thr _ (State.atHome_thr true) _ _).trans (hback _ s)

theorem Thread.strike_id (src : Option ThreadId) (b : Bool) (ls : List Nat) (t : Thread) : (t.strike src b ls).id = t.id := by
  unfold Thread.strike
  split <;> rfl

theorem Thread.light_id (f : Thread → BitVec 4) (code : Nat) (t : Thread) : (t.light f code).id = t.id := by
  unfold Thread.light
  split <;> rfl

theorem State.barSeen_id (s : State) (bs : List Nat) (t : Thread) : (s.barSeen bs t).id = t.id := by
  unfold State.barSeen
  (repeat' split) <;> rfl

@[simp] theorem State.written_thr_id (s : State) (src : Option ThreadId) (b : Bool) (bs : List Nat) :
    (s.written src b bs).thr.id = s.thr.id :=
  (s.barSeen_id bs _).trans ((Thread.light_id ..).trans (Thread.strike_id ..))

theorem State.combineLine_thr_id (s : State) (src : Option ThreadId) (l : Nat) :
    (s.combineLine src l).thr.id = s.thr.id := by
  unfold State.combineLine
  dsimp only
  split <;> simp

theorem State.putCells_thr_id (s : State) (src : Option ThreadId) (cs : List Host.Cell) :
    (s.putCells src cs).thr.id = s.thr.id :=
  (congrArg Thread.id (State.foldl_keeps State.thr State.storeResume State.storeResume_thr _ _)).trans
    (State.foldl_keeps (fun u => u.thr.id) _ (fun u => u.combineLine_thr_id src) _ s)

@[simp] theorem State.writeEvent_thr_id (s : State) (src : Option ThreadId) (b : Bool) (cs : List Host.Cell) :
    (s.writeEvent src b cs).thr.id = s.thr.id := by
  rw [State.writeEvent, State.written_thr_id, State.settleLines_thr, State.putCells_thr_id]

/-! ## Indenture tables and crew starts -/

theorem tget_map_indent {f : Nat × Tenant → Nat × Tenant} (hk : ∀ p, (f p).1 = p.1)
    (hi : ∀ p, (f p).2.indent = p.2.indent) (l : Tab Tenant) (i : Nat) :
    (tget Tenant.reset (l.map f) i).indent = (tget Tenant.reset l i).indent := by
  induction l with
  | nil => rfl
  | cons p l ih =>
    have hf : f p = (p.1, (f p).2) := by rw [← hk p]
    rw [List.map_cons, hf]
    simp only [tget]
    split
    · exact hi p
    · exact ih

@[simp] theorem State.winWritten_table (s : State) (pa n : Nat) (tn : BitVec 4) (r : BitVec 24) :
    ((s.winWritten pa n).tenant tn).table r = (s.tenant tn).table r := by
  refine congrArg (fun l => tget [] l r.toNat) (tget_map_indent (fun p => ?_) (fun p => ?_) s.tenants tn.toNat)
  all_goals (repeat' split) <;> rfl

theorem State.winWritten_crewGos (s : State) (pa n : Nat) : (s.winWritten pa n).net.crewGos = s.net.crewGos := rfl

/-! ## A thread that has only begun -/

/-- No event on a line changes the thread: it is ready, and has touched no line and armed no watch. -/
def Thread.begun (t : Thread) : Prop := t.run = .ready ∧ t.chunk.lines = [] ∧ t.watches = Vector.replicate 4 none

theorem State.fired_begun (s : State) (bs : List Nat) {t : Thread} (h : t.watches = Vector.replicate 4 none) :
    s.fired bs t = 0 := by
  simp [State.fired, h, List.range_succ]

theorem State.mem_winWritten_others (s : State) (pa n : Nat) {t : Thread} (hb : t.begun) (ht : t ∈ s.others) :
    t ∈ (s.winWritten pa n).others := by
  obtain ⟨hrun, hlines, hwatch⟩ := hb
  refine List.mem_map.2 ⟨t, ht, ?_⟩
  have hs : ∀ src b ls, t.strike src b ls = t := fun src b ls => by
    simp [Thread.strike, hlines, lmeets]
  rw [hs, Thread.light, if_pos (by simp [s.fired_begun _ hwatch]), State.barSeen, hrun]

end Sys2Proof.Machine
end

section
/-! PROOFS. The foreman, the start of a crew and the end of a launch (R44, R240 to R243, R325, R326, R340, R347, R348). -/

open Sys2Proof Sys2Proof.Machine

namespace Sys2Proof.Machine

/-! ## The foreman (R241, R243) -/

/-- The foreman places the next crew of the launch that is first, after the reservations of an early crew. -/
theorem State.exec_crewPlacement {s : State} {tn : BitVec 4} {l : Launch} {cl : BitVec 7} (hn : s.nextLaunch = some (tn, l))
    (hcl : (s.withReserved tn l).clusterFor tn l (s.mayStart tn l == some true) = some cl) :
    exec .crewPlacement s =
      .next { (s.withReserved tn l).updLaunch tn l.lid (fun m => { m with
          placed := m.placed + 1, reserved := m.reserved.filter (fun x => x.1 != l.placed) }) with
        net := { (s.withReserved tn l).net with crewGos := (s.withReserved tn l).net.crewGos ++
          [⟨tn, l.lid, l.placed, cl, s.mayStart tn l == some true⟩] } } := by
  simp only [exec, execCrewPlacement, hn, hcl]
  rfl

theorem State.withReserved_eq (s : State) (tn : BitVec 4) (l : Launch) :
    (if s.mayStart tn l == some true then s.reserveAll tn l.pred else (s, true)).1 = s.withReserved tn l := by
  rw [State.withReserved]
  split <;> rfl

/-! ## The registers of a new thread (R44) -/

theorem Arch.getX_setX_same (a : Arch) {d : BitVec 5} (v : Word) (h : d ≠ 0) : (a.setX d v).getX d = v := by
  rw [Arch.setX, Arch.getX, if_neg h, if_neg h, xat_xput_same]

theorem Arch.getX_setX_other (a : Arch) {d i : BitVec 5} (v : Word) (h : i ≠ d) : (a.setX d v).getX i = a.getX i := by
  unfold Arch.getX
  rw [Arch.setX]
  split
  · rfl
  · split
    · rfl
    · exact xat_xput_other _ _ h

theorem Arch.created_getX_10 (rank : BitVec 24) (pc v : Word) : (Arch.created rank pc v).getX 10 = v :=
  Arch.getX_setX_same _ v (by decide)

theorem Arch.created_getX_other (rank : BitVec 24) (pc v : Word) {i : BitVec 5} (h : i ≠ 10) :
    (Arch.created rank pc v).getX i = 0 := by
  rw [Arch.created, Arch.getX_setX_other _ _ h]
  simp [Arch.getX, Arch.zero, xat]

/-- The registers of thread `i` of a crew. -/
theorem Launch.thread_getX (l : Launch) (g : CrewGo) (now i : Nat) (c : BitVec 10) (n : BitVec 8) (r : BitVec 5) :
    (l.thread g now i c n).arch.getX r =
      if r = 12 then BitVec.ofNat 64 i else if r = 11 then BitVec.ofNat 64 g.crew else if r = 10 then l.argp else 0 := by
  change (((Arch.created _ _ _).setX 11 _).setX 12 _).getX r = _
  by_cases h12 : r = 12
  · rw [if_pos h12, h12, Arch.getX_setX_same _ _ (by decide)]
  · rw [if_neg h12, Arch.getX_setX_other _ _ h12]
    by_cases h11 : r = 11
    · rw [if_pos h11, h11, Arch.getX_setX_same _ _ (by decide)]
    · rw [if_neg h11, Arch.getX_setX_other _ _ h11]
      by_cases h10 : r = 10
      · rw [if_pos h10, h10, Arch.created_getX_10]
      · rw [if_neg h10, Arch.created_getX_other _ _ _ h10]

/-! ## The threads of a crew (R240, R325, R340, R352) -/

/-- Thread `i` of a crew as it starts: stopped, if its tenant is (log 102). -/
def State.crewThread (s : State) (l : Launch) (g : CrewGo) (i : Nat) (p : BitVec 10 × BitVec 8) : Thread :=
  if (s.tenant g.tn).stopped then (l.thread g s.cyc i p.1 p.2).stop .tenant s.cyc else l.thread g s.cyc i p.1 p.2

/-- The threads of a crew, in the order of its slots. -/
def State.crewThreads (s : State) (l : Launch) (g : CrewGo) : List Thread :=
  ((s.clusterFree g.cl).take l.csize).zipIdx.map fun p => s.crewThread l g p.2 p.1

/-- A thread that is stopped as it starts keeps its registers. -/
theorem Launch.thread_stop (l : Launch) (g : CrewGo) (now i : Nat) (c : BitVec 10) (n : BitVec 8) :
    (l.thread g now i c n).stop .tenant now =
      { (l.thread g now i c n).squash with stopped := some .tenant, since := now } := rfl

theorem State.crewThread_begun (s : State) (l : Launch) (g : CrewGo) (i : Nat) (p : BitVec 10 × BitVec 8) :
    (s.crewThread l g i p).begun := by
  unfold State.crewThread
  split <;> exact ⟨rfl, rfl, rfl⟩

/-- What a thread of a crew starts with, but for its x registers. -/
theorem State.crewThread_spec (s : State) (l : Launch) (g : CrewGo) (i : Nat) (p : BitVec 10 × BitVec 8) :
    let u := s.crewThread l g i p
    u.id = ⟨g.tn, BitVec.ofNat 24 (l.base + g.crew * l.csize + i)⟩ ∧ u.place = .slot p.1 p.2 ∧ u.core = p.1 ∧ u.run = .ready
      ∧ u.stopped = (if (s.tenant g.tn).stopped then some .tenant else none) ∧ u.arch.pc = l.entry ∧ u.arch.sts = 0x1000
      ∧ u.arch.flta = 0 ∧ u.arch.why = 0 := by
  unfold State.crewThread
  split <;> exact ⟨rfl, rfl, rfl, rfl, rfl, rfl, rfl, rfl, rfl⟩

theorem State.crewThread_getX (s : State) (l : Launch) (g : CrewGo) (i : Nat) (p : BitVec 10 × BitVec 8) (r : BitVec 5) :
    (s.crewThread l g i p).arch.getX r =
      if r = 12 then BitVec.ofNat 64 i else if r = 11 then BitVec.ofNat 64 g.crew else if r = 10 then l.argp else 0 := by
  rw [← l.thread_getX g s.cyc i p.1 p.2 r]
  unfold State.crewThread
  split <;> rfl

theorem State.mem_crewThreads {s : State} {l : Launch} {g : CrewGo} {i : Nat} {p : BitVec 10 × BitVec 8} (hi : i < l.csize)
    (hp : (s.clusterFree g.cl)[i]? = some p) : s.crewThread l g i p ∈ s.crewThreads l g :=
  List.mem_map.2 ⟨(p, i), List.mem_zipIdx_iff_getElem?.2 (by rw [List.getElem?_take, if_pos hi, hp]), rfl⟩

/-- A crew that can start has a free slot for each of its threads. -/
theorem State.canStart_slots {s : State} {n : Nat} {g : CrewGo} {l : Launch} (hg : s.net.crewGos[n]? = some g)
    (hl : s.launchAt g.tn g.lid = some l) (hc : s.canStart n = true) : l.csize ≤ (s.clusterFree g.cl).length := by
  simp only [State.canStart, hg, hl, Bool.and_eq_true, decide_eq_true_eq] at hc
  exact hc.1

theorem State.exec_crewStart {s : State} {n : Nat} {g : CrewGo} {l : Launch} (hg : s.net.crewGos[n]? = some g)
    (hl : s.launchAt g.tn g.lid = some l) (hc : s.canStart n = true) :
    exec (.crewStart n) s = .next ((s.crewThreads l g).foldl (fun s t => s.rankWritten t.id)
      { s with net := { s.net with crewGos := ldrop s.net.crewGos n }, others := s.others ++ s.crewThreads l g }) := by
  simp only [exec, execCrewStart, hc, hg, hl]
  rfl

theorem State.ranksWritten_crewGos (ts : List Thread) (s : State) :
    (ts.foldl (fun s t => s.rankWritten t.id) s).net.crewGos = s.net.crewGos :=
  State.foldl_keeps (fun u => u.net.crewGos) _ (fun u _ => u.winWritten_crewGos _ _) ts s

theorem State.ranksWritten_mem (ts : List Thread) (s : State) :
    (ts.foldl (fun s t => s.rankWritten t.id) s).mem = s.mem := by
  induction ts generalizing s with
  | nil => rfl
  | cons t ts ih => rw [List.foldl_cons, ih, State.rankWritten_mem]

/-- Rank-table entries that are written leave a thread that has only begun. -/
theorem State.mem_ranksWritten_others {t : Thread} (hb : t.begun) (ts : List Thread) (s : State) (ht : t ∈ s.others) :
    t ∈ (ts.foldl (fun s t => s.rankWritten t.id) s).others := by
  induction ts generalizing s with
  | nil => exact ht
  | cons u ts ih => exact ih _ (s.mem_winWritten_others _ _ hb ht)

end Sys2Proof.Machine

/-- Settles O47: each event of a launch, in the order of its life. -/
theorem launchEvents : Obligations.LaunchEvents := by
  unfold Obligations.LaunchEvents
  refine ⟨fun s tn l cl hn => ?_, fun s tn n lid hn => ?_, fun s n g l hg hl hc => ?_,
    fun s tn lid n l cl => ⟨fun hl hcomp hbusy hheld => ?_, fun hn => ?_⟩⟩
  · intro early r t _ hcl
    have hr : r.1 = s.withReserved tn l := s.withReserved_eq tn l
    simp only [t, hr] at hcl ⊢
    exact State.exec_crewPlacement hn hcl
  · simp only [exec, execSmayObserved, hn]
    rfl
  · refine ⟨_, State.exec_crewStart hg hl hc, State.ranksWritten_crewGos .., State.ranksWritten_mem .., fun i hi => ?_⟩
    have hlen : i < (s.clusterFree g.cl).length := hi.trans_le (State.canStart_slots hg hl hc)
    obtain ⟨p, hp⟩ : ∃ p, (s.clusterFree g.cl)[i]? = some p := ⟨_, List.getElem?_eq_getElem hlen⟩
    obtain ⟨hid, hplace, hcore, hrun, hstop, hpc, hsts, hflta, hwhy⟩ := s.crewThread_spec l g i p
    refine ⟨s.crewThread l g i p, ?_, p.1, p.2, hp, hid, hplace, hcore, hrun, hstop, hpc, ?_, ?_, ?_, hsts, hflta, hwhy,
      fun r h10 h11 h12 => ?_⟩
    · exact State.mem_ranksWritten_others (s.crewThread_begun l g i p) _ _
        (List.mem_append_right _ (State.mem_crewThreads hi hp))
    · exact s.crewThread_getX l g i p 10
    · exact s.crewThread_getX l g i p 11
    · exact s.crewThread_getX l g i p 12
    · rw [s.crewThread_getX l g i p r, if_neg h12, if_neg h11, if_neg h10]
  · simp only [exec, execLaunchComplete, State.canComplete, hl, hcomp, hbusy, hheld]
    rfl
  · simp only [exec, execPwaitRelease, hn]
end

section
/-! PROOFS. `spawn`, `xchg` and `launch`: the child and its parent's right over it, the directed wake, and the record that goes
to the device ring (R44, R237, R257, R265, R266, R269). -/

open Sys2Proof Sys2Proof.Machine

namespace Sys2Proof.Machine

theorem refusal_eq (k : Nat) : refusal k = BitVec.ofNat 64 (2 ^ 63 + k) := by
  rw [refusal, BitVec.ofNat_add]
  rfl

theorem effAddr_zero (a : Word) : effAddr a 0 = a.toNat % 2 ^ 57 := by
  simp [effAddr, va57]

theorem addrWord_effAddr_zero (a : Word) : addrWord (effAddr a 0) = BitVec.ofNat 64 (a.toNat % 2 ^ 57) := by
  rw [effAddr_zero, addrWord, Nat.mod_mod]

/-! ## Room in the loft (R235, R257) -/

theorem State.upd_thr_id {s : State} {i : ThreadId} {f : Thread → Thread} (hf : ∀ t, (f t).id = t.id) :
    (s.upd i f).thr.id = s.thr.id := by
  unfold State.upd
  dsimp only
  split
  · exact hf _
  · rfl

theorem State.spillTo_thr_id (s : State) (cl : BitVec 7) (o : Thread) (p : Nat) : (s.spillTo cl o p).thr.id = s.thr.id := by
  rw [State.spillTo, State.writeEvent_thr_id]
  exact State.upd_thr_id (fun _ => rfl)

/-- Making room, where there is some in the end, leaves the thread that issues its name. -/
theorem State.makeRoomBy_thr_id (cl : BitVec 7) (n fuel : Nat) (s : State) {r : State × Bool}
    (hr : State.makeRoomBy cl n fuel s = r) (h : r.2 = true) : r.1.thr.id = s.thr.id := by
  induction fuel generalizing s with
  | zero =>
    subst hr
    rfl
  | succ fuel ih =>
    unfold State.makeRoomBy at hr
    split at hr
    · subst hr
      rfl
    · split at hr
      · subst hr
        rfl
      · split at hr
        · subst hr
          cases h
        · exact (ih _ hr).trans (s.spillTo_thr_id ..)

/-! ## The child of a thread (R44, R257) -/

theorem Tenant.table_setTable (t : Tenant) (r : BitVec 24) (l : List IEntry) : (t.setTable r l).table r = l :=
  tget_tput_same _ _ _ _

theorem State.setReg_others (s : State) (d : BitVec 5) (v : Word) : (s.setReg d v).others = s.others := rfl
theorem State.setReg_tenant (s : State) (d : BitVec 5) (v : Word) (tn : BitVec 4) : (s.setReg d v).tenant tn = s.tenant tn := rfl

theorem State.mem_rankWritten_others {s : State} {t : Thread} {id : ThreadId} (hb : t.begun) (ht : t ∈ s.others) :
    t ∈ (s.rankWritten id).others := s.mem_winWritten_others _ _ hb ht

theorem State.rankWritten_table (s : State) (id : ThreadId) (tn : BitVec 4) (r : BitVec 24) :
    ((s.rankWritten id).tenant tn).table r = (s.tenant tn).table r := s.winWritten_table ..

theorem State.addEntry_table (s : State) (tn : BitVec 4) (r : BitVec 24) (e : IEntry) :
    ((s.addEntry tn r e).tenant tn).table r = (s.tenant tn).table r ++ [e] := by
  rw [State.addEntry, State.indentWritten, State.winWritten_table, State.tenant_setTenant, Tenant.table_setTable]

section
variable (s : State) (d : BitVec 5) (pc arg : Word) (rank : BitVec 24) (c : BitVec 10) (p : Place)

theorem Thread.child_begun (t : Thread) (now : Nat) : (t.child rank pc arg c p now).begun := ⟨rfl, rfl, rfl⟩

theorem State.child_mem_birth : s.thr.child rank pc arg c p s.cyc ∈ (s.birth d pc arg rank c p).others := by
  rw [State.birth, State.setReg_others]
  exact State.mem_rankWritten_others (s.thr.child_begun pc arg rank c p s.cyc)
    (List.mem_append_right _ (List.mem_singleton_self _))

theorem State.birth_table : ((s.birth d pc arg rank c p).tenant s.thr.id.tenant).table s.thr.id.rank =
    (s.tenant s.thr.id.tenant).table s.thr.id.rank ++ [⟨rank, rank, s.thr.id.rank, 0x3F⟩] := by
  rw [State.birth, State.setReg_tenant, State.rankWritten_table]
  exact s.addEntry_table _ _ _

theorem State.birth_getX (h : d ≠ 0) : (s.birth d pc arg rank c p).thr.arch.getX d = rank.setWidth 64 :=
  Arch.getX_setX_same _ _ h

theorem Thread.child_getX (t : Thread) (now : Nat) (i : BitVec 5) :
    (t.child rank pc arg c p now).arch.getX i = (Arch.created rank pc arg).getX i := rfl

end

/-! ## `spawn` (R257) -/

theorem State.exec_spawn {s : State} {d a b : BitVec 5}
    (hal : (BitVec.ofNat 64 ((s.thr.arch.getX a).toNat % 2 ^ 57)).toNat % 8 = 0) (hend : s.canEnd Eff.none = true) :
    exec (.spawn d a b) s = .next ((s.ended Eff.none).spawnNow d (BitVec.ofNat 64 ((s.thr.arch.getX a).toNat % 2 ^ 57))
      (s.thr.arch.getX b)) := by
  simp only [exec, execSpawn, addrWord_effAddr_zero, aligned, if_pos hal]
  exact s.enderC_canEnd _ _ hend

section
variable {s : State} (d : BitVec 5) (pc arg : Word)

theorem State.spawnNow_noTable (h : (s.tenant s.thr.id.tenant).hasRoom s.thr.id.rank = false) :
    s.spawnNow d pc arg = s.setReg d (refusal 1) := by
  simp [State.spawnNow, h]

variable (h : (s.tenant s.thr.id.tenant).hasRoom s.thr.id.rank = true)
include h

theorem State.spawnNow_noRank (hr : s.freeRun s.thr.id.tenant 1 = none) :
    s.spawnNow d pc arg = s.setReg d (refusal 2) := by
  simp [State.spawnNow, h, hr]

variable {r : Nat} (hr : s.freeRun s.thr.id.tenant 1 = some r)
include hr

theorem State.spawnNow_crewFull (hc : 2048 ≤ s.crewSize s.thr) : s.spawnNow d pc arg = s.setReg d (refusal 3) := by
  simp [State.spawnNow, h, hr, hc]

variable (hc : s.crewSize s.thr < 2048)
include hc

theorem State.spawnNow_slot {k : BitVec 10} {n : BitVec 8}
    (hw : s.resident.any (s.wantsSlot (clusterOf s.thr.core)) = false) (hs : s.slotFor (clusterOf s.thr.core) none = some (k, n)) :
    s.spawnNow d pc arg = s.birth d pc arg (BitVec.ofNat 24 r) k (.slot k n) := by
  simp only [State.spawnNow, h, hr, hw, hs, Nat.not_le.2 hc, Bool.not_true, Bool.false_eq_true, if_false]

theorem State.spawnNow_loft
    (hw : s.resident.any (s.wantsSlot (clusterOf s.thr.core)) = true ∨ s.slotFor (clusterOf s.thr.core) none = none) :
    s.spawnNow d pc arg =
      if (s.makeRoom (clusterOf s.thr.core) 1).2 then
        (s.makeRoom (clusterOf s.thr.core) 1).1.birth d pc arg (BitVec.ofNat 24 r) s.thr.core .loft
      else (s.makeRoom (clusterOf s.thr.core) 1).1.setReg d (refusal 4) := by
  have hn : (if s.resident.any (s.wantsSlot (clusterOf s.thr.core)) then none else s.slotFor (clusterOf s.thr.core) none) = none := by
    split
    · rfl
    · next hf => exact hw.resolve_left hf
  simp only [State.spawnNow, h, hr, hn, Nat.not_le.2 hc, Bool.not_true, Bool.false_eq_true, if_false]

end

theorem State.makeRoom_thr_id {s : State} {cl : BitVec 7} {n : Nat} (h : (s.makeRoom cl n).2 = true) :
    (s.makeRoom cl n).1.thr.id = s.thr.id := State.makeRoomBy_thr_id cl n 2 s rfl h

/-! ## `xchg` (R265) -/

theorem State.find_some {s : State} {id : ThreadId} {t : Thread} (h : s.find id = some t) : t.live = true ∧ t.id = id := by
  simpa using List.find?_some h

/-- The thread of a name after it was changed. -/
theorem State.find_upd {s : State} {id : ThreadId} {f : Thread → Thread} {t : Thread} (h : s.find id = some t)
    (hf : ∀ u, (f u).live = u.live ∧ (f u).id = u.id) : (s.upd id f).find id = some (f t) := by
  obtain ⟨hlive, hid⟩ := State.find_some h
  have hp : ∀ u : Thread, ((if u.live && u.id == id then f u else u).live && (if u.live && u.id == id then f u else u).id == id) =
      (u.live && u.id == id) := fun u => by
    split
    · rw [(hf u).1, (hf u).2]
    · rfl
  change (s.threads.map fun u => if u.live && u.id == id then f u else u).find? _ = _
  rw [List.find?_map]
  simp only [Function.comp_def, hp]
  rw [show s.threads.find? (fun u => u.live && u.id == id) = some t from h]
  simp [hlive, hid]

theorem Thread.light_live (f : Thread → BitVec 4) (code : Nat) (t : Thread) : (t.light f code).live = t.live := by
  unfold Thread.light
  split <;> rfl

/-- A live thread whose slots fire has their latches set. -/
theorem Thread.light_latch {t : Thread} (f : Thread → BitVec 4) (code : Nat) (h : t.live = true) :
    (t.light f code).latch = t.latch ||| f t := by
  by_cases h0 : f t = 0
  · simp [Thread.light, h0]
  · rw [Thread.light, if_neg (by rw [h]; simpa using h0)]

/-- A directed wake reaches its target, whose latch is set as if its watch had fired. -/
theorem State.find_poke {s : State} {id : ThreadId} {t : Thread} (n : BitVec 2) (h : s.find id = some t) :
    (s.poke id n).find id = some (t.light (fun _ => 1#4 <<< n.toNat) 1) :=
  State.find_upd (s := s) h fun u => ⟨u.light_live _ _, u.light_id _ _⟩

theorem State.sendPoke_moving {s : State} {t : Thread} {x : BitVec 10} (n : BitVec 2) (h : t.place = .moving x) :
    s.sendPoke t n = { s with net := { s.net with pokes := s.net.pokes ++ [(t.id, n)] } } := by
  rw [State.sendPoke, if_pos (by rw [Thread.inTransit, h])]

theorem State.sendPoke_here {s : State} {t : Thread} (n : BitVec 2) (h : t.inTransit = false) :
    s.sendPoke t n = s.poke t.id n := by
  rw [State.sendPoke, if_neg (by rw [h]; decide)]

theorem Thread.inTransit_eq_false {t : Thread} (h : ∀ x, t.place ≠ .moving x) : t.inTransit = false := by
  unfold Thread.inTransit
  split
  next x hx => exact absurd hx (h x)
  next => rfl

section
variable {c : State} {d : BitVec 5} {target opts : Word}

theorem State.exchange_none (h : c.find ⟨c.thr.id.tenant, target.setWidth 24⟩ = none) :
    c.exchange d target opts = c.setReg d (BitVec.ofNat 64 (2 ^ 63 + 1)) := by
  simp only [State.exchange, h, refusal_eq]

variable {u : Thread} (h : c.find ⟨c.thr.id.tenant, target.setWidth 24⟩ = some u)
include h

theorem State.exchange_noRight
    (hr : ((c.tenant c.thr.id.tenant).rights c.thr.id.rank (target.setWidth 24)).getLsbD 4 = false) :
    c.exchange d target opts = c.setReg d (BitVec.ofNat 64 (2 ^ 63 + 2)) := by
  simp only [State.exchange, h, hr, Bool.false_eq_true, if_false, refusal_eq]

theorem State.exchange_wakes
    (hr : ((c.tenant c.thr.id.tenant).rights c.thr.id.rank (target.setWidth 24)).getLsbD 4 = true) :
    c.exchange d target opts =
      if opts.getLsbD 8 then (c.sendPoke u (opts.extractLsb' 0 2)).waitNow d (.xchg d)
      else (c.sendPoke u (opts.extractLsb' 0 2)).setReg d 0 := by
  simp only [State.exchange, h, hr, if_true]

end

theorem State.waitNow_parks {s : State} (d : BitVec 5) (p : Park) (h : s.thr.arms ≠ [] ∨ s.thr.latch = 0) :
    s.waitNow d p = s.park p := by
  rw [State.waitNow, if_neg]
  rintro ⟨ha, hl⟩
  exact h.elim (fun h => h (List.isEmpty_iff.1 ha)) hl

theorem State.waitNow_returns {s : State} (d : BitVec 5) (p : Park) (ha : s.thr.arms = []) (hl : s.thr.latch ≠ 0) :
    s.waitNow d p = { s with thr := s.thr.waitReturn s.cyc s.thr.fireCode d } := by
  rw [State.waitNow, if_pos ⟨by simp [ha], hl⟩]

/-! ## `launch` (R266) -/

theorem State.exec_launch {s : State} {d a : BitVec 5} {pa pa2 : Nat}
    (hal : (s.thr.arch.getX a).toNat % 2 ^ 57 % 128 = 0) (h1 : s.readAt ((s.thr.arch.getX a).toNat % 2 ^ 57) 64 = .ok pa)
    (h2 : s.readAt ((s.thr.arch.getX a).toNat % 2 ^ 57 + 64) 64 = .ok pa2)
    (hend : s.canEnd { Eff.none with pages := [(s.thr.arch.getX a).toNat % 2 ^ 57 / 4096] } = true) :
    exec (.launch d a) s =
      .next ((s.ended { Eff.none with pages := [(s.thr.arch.getX a).toNat % 2 ^ 57 / 4096] }).submit d pa) := by
  simp only [exec, execLaunch, effAddr_zero, aligned, if_pos hal, h1, h2]
  exact s.enderC_canEnd _ _ hend

end Sys2Proof.Machine

/-- Settles O38: the outcomes of each form, in the order of its checks. -/
theorem threadStarts : Obligations.ThreadStarts := by
  unfold Obligations.ThreadStarts
  refine ⟨?_, ?_⟩
  · intro s d a b pc arg c tn cl m no born hal hend
    have hexec : exec (.spawn d a b) s = .next (c.spawnNow d pc arg) := State.exec_spawn hal hend
    have refuse : ∀ (x : State) (k : Nat), c.spawnNow d pc arg = x.setReg d (refusal k) → exec (.spawn d a b) s = no x k :=
      fun x k h => by rw [hexec, h, refusal_eq]
    have birth : ∀ (x : State) (r : Nat) (p : Place) (k : BitVec 10), x.thr.id.tenant = tn →
        c.spawnNow d pc arg = x.birth d pc arg (BitVec.ofNat 24 r) k p → born x r p k := by
      intro x r p k htn h
      refine ⟨_, _, hexec.trans (congrArg _ h), x.child_mem_birth d pc arg _ k p, ?_⟩
      rw [← htn]
      refine ⟨rfl, rfl, rfl, rfl, rfl, rfl, Arch.created_getX_10 .., fun i hi => Arch.created_getX_other _ _ _ hi, rfl, rfl,
        rfl, rfl, rfl, x.birth_table d pc arg _ k p, fun hd => ?_, x.birth_mem ..⟩
      rw [x.birth_getX d pc arg _ k p hd]
      exact BitVec.eq_of_toNat_eq (by simp)
    refine ⟨fun h => refuse c 1 (State.spawnNow_noTable d pc arg h),
      fun h => ⟨fun hr => refuse c 2 (State.spawnNow_noRank d pc arg h hr), fun r hr => ⟨fun hc => ?_, fun hc => ⟨?_, ?_⟩⟩⟩⟩
    · exact refuse c 3 (State.spawnNow_crewFull d pc arg h hr hc)
    · exact fun k n hw hs => birth c r _ k rfl (State.spawnNow_slot d pc arg h hr hc hw hs)
    · intro hw
      have hloft := State.spawnNow_loft d pc arg h hr hc hw
      exact ⟨fun hm => refuse m.1 4 (hloft.trans (if_neg (by rw [hm]; decide))),
        fun hm => birth m.1 r _ _ (congrArg ThreadId.tenant (State.makeRoom_thr_id hm)) (hloft.trans (if_pos hm))⟩
  · intro s d a b u pa pa2 c tn rank o n refuse p may va e f k tail f1 ws
    refine ⟨fun hend => ?_, fun hal h1 h2 hend => ?_⟩
    · have hexec : exec (.xchg d a b) s = .next (c.exchange d (s.thr.arch.getX a) o) := s.endC_canEnd _ _ hend
      refine ⟨fun h => ?_, fun h hr => ?_, fun h hr => ⟨fun ho => ?_, fun ho hp => ?_, fun ho ha hl => ?_, fun hp => ?_,
        fun x hx => ?_⟩⟩
      · exact hexec.trans (congrArg _ (State.exchange_none h))
      · obtain ⟨v, hv⟩ := Option.ne_none_iff_exists'.1 h
        exact hexec.trans (congrArg _ (State.exchange_noRight hv hr))
      · exact hexec.trans (congrArg _ ((State.exchange_wakes h hr).trans (if_neg (by rw [ho]; decide))))
      · exact hexec.trans (congrArg _ ((State.exchange_wakes h hr).trans ((if_pos ho).trans (State.waitNow_parks d _ hp))))
      · exact hexec.trans (congrArg _ ((State.exchange_wakes h hr).trans ((if_pos ho).trans (State.waitNow_returns d _ ha hl))))
      · obtain ⟨hlive, hid⟩ := State.find_some h
        have hpoke : p = c.poke u.id n := State.sendPoke_here n (Thread.inTransit_eq_false hp)
        rw [hpoke, hid]
        refine ⟨rfl, fun v hv => ?_⟩
        rw [State.find_poke n h] at hv
        rw [← Option.some.inj hv, Thread.light_latch _ _ hlive]
      · rw [← (State.find_some h).2]
        exact State.sendPoke_moving n hx
    · have hexec : exec (.launch d a) s = .next (f.submit d pa) := State.exec_launch hal h1 h2 hend
      refine ⟨fun hfull => ?_, fun hroom => ?_⟩
      · exact hexec.trans (congrArg _ (if_pos hfull))
      · exact hexec.trans (congrArg _ (if_neg (Nat.not_le.2 hroom)))
end

section
/-! PROOFS. Elements of vector registers and passes over the active ones (R71, R99, R100): reading back an element that was
written, what a pass that goes through the elements in ascending order leaves in each, its draws, and its lowest NaN. -/

open Sys2Proof Sys2Proof.Machine

namespace Sys2Proof.Machine

/-! ## Elements (R99) -/

/-- Bit `t` of a register after a write to element `i`: the word's bit within the element, and else as before. -/
theorem getLsbD_laneSet (b i : Nat) (v : BitVec 16384) (w : Word) (t : Nat) : (laneSet b i v w).getLsbD t =
    if t < 16384 ∧ b * i ≤ t ∧ t < b * i + b then w.getLsbD (t - b * i) else v.getLsbD t := by
  by_cases ht : t < 16384
  · by_cases h1 : t < b * i
    · simp [laneSet, h1, ht, Nat.not_le.2 h1]
    · by_cases h2 : t < b * i + b
      · have h3 : t - b * i < b := by omega
        simp [laneSet, h1, h2, h3, ht, Nat.not_lt.1 h1]
      · have h3 : ¬ t - b * i < b := by omega
        simp [laneSet, h1, h2, h3, ht]
  · simp [ht, BitVec.getLsbD_of_ge _ _ (Nat.not_lt.1 ht)]

/-- Bit `t` of an element. -/
theorem getLsbD_laneGet (b j : Nat) (v : BitVec 16384) (t : Nat) :
    (laneGet b j v).getLsbD t = (decide (t < 64) && (decide (t < b) && v.getLsbD (b * j + t))) := by
  simp [laneGet]

theorem laneGet_laneSet_same {b i : Nat} (v : BitVec 16384) (w : Word) (h : (i + 1) * b ≤ 16384) :
    laneGet b i (laneSet b i v w) = zext b w := by
  have hb : b * i + b ≤ 16384 := by rwa [Nat.mul_comm, ← Nat.add_one_mul]
  apply BitVec.eq_of_getLsbD_eq
  intro t ht
  simp only [getLsbD_laneGet, getLsbD_laneSet, zext, BitVec.getLsbD_setWidth, Nat.add_sub_cancel_left]
  by_cases htb : t < b
  · rw [if_pos (by omega)]
  · simp [htb]

theorem laneGet_laneSet_other {b i j : Nat} (v : BitVec 16384) (w : Word) (h : j ≠ i) :
    laneGet b j (laneSet b i v w) = laneGet b j v := by
  apply BitVec.eq_of_getLsbD_eq
  intro t ht
  simp only [getLsbD_laneGet, getLsbD_laneSet]
  by_cases htb : t < b
  · have hapart : ¬ (b * i ≤ b * j + t ∧ b * j + t < b * i + b) := by
      rintro ⟨h1, h2⟩
      rcases Nat.lt_or_gt_of_ne h with hlt | hlt
      all_goals
        have hle := Nat.mul_le_mul_left b hlt
        rw [Nat.mul_succ] at hle
        omega
    rw [if_neg fun hc => hapart hc.2]
  · simp [htb]

/-- An element is at most as wide as a word. -/
theorem vtyBits_le (ty : VTy) : ty.bits ≤ 64 := by cases ty <;> decide

theorem narrowBits_le (f : NarrowFmt) : f.fmt.bits ≤ 64 := by cases f <;> decide

theorem zext_ofNat {b : Nat} (h : b ≤ 64) (c : Nat) : zext b (BitVec.ofNat 64 c) = (BitVec.ofNat b c).setWidth 64 := by
  rw [zext, BitVec.setWidth_ofNat_of_le h]

/-! ## Going through the active elements (R100) -/

theorem activeLanes_succ (m : BitVec 2048) (n : Nat) :
    activeLanes m (n + 1) = if m.getLsbD n then activeLanes m n ++ [n] else activeLanes m n := by
  rw [activeLanes, List.range_succ, List.filter_append]
  cases h : m.getLsbD n <;> simp [h, activeLanes]

/-- A pass over one element more: its step, where that element is active. -/
theorem foldl_activeLanes_succ {α : Type} (f : α → Nat → α) (a : α) (m : BitVec 2048) (n : Nat) :
    (activeLanes m (n + 1)).foldl f a =
      if m.getLsbD n then f ((activeLanes m n).foldl f a) n else (activeLanes m n).foldl f a := by
  rw [activeLanes_succ]
  split <;> simp

theorem activeBelow_succ (m : BitVec 2048) (n : Nat) :
    activeBelow m (n + 1) = if m.getLsbD n then activeBelow m n + 1 else activeBelow m n := by
  show (activeLanes m (n + 1)).length = if m.getLsbD n then (activeLanes m n).length + 1 else (activeLanes m n).length
  rw [activeLanes_succ]
  split <;> simp

theorem rngSteps_succ (n : Nat) (x : BitVec 32) : rngSteps (n + 1) x = rngStep (rngSteps n x) := by
  induction n generalizing x with
  | zero => rfl
  | succ n ih => exact ih (rngStep x)

theorem mem_activeLanes {m : BitVec 2048} {n j : Nat} : j ∈ activeLanes m n ↔ j < n ∧ m.getLsbD j = true := by
  simp [activeLanes]

/-- The lowest active element with a property. -/
theorem find?_activeLanes {m : BitVec 2048} {n j : Nat} {p : Nat → Bool} (hj : j < n) (hm : m.getLsbD j = true)
    (hp : p j = true) (hl : ∀ l < j, m.getLsbD l = true → p l = false) : (activeLanes m n).find? p = some j := by
  rw [activeLanes, List.find?_filter, List.find?_range_eq_some]
  refine ⟨by simp [hm, hp], List.mem_range.2 hj, fun l hlj => ?_⟩
  cases hml : m.getLsbD l <;> simp_all

/-- A pass that writes a word to each of the elements of a list: what stands in each element after it. -/
theorem laneGet_foldl_laneSet {b j : Nat} (g : Nat → Word) (l : List Nat) (v : BitVec 16384) (h : (j + 1) * b ≤ 16384) :
    laneGet b j (l.foldl (fun v i => laneSet b i v (g i)) v) = if j ∈ l then zext b (g j) else laneGet b j v := by
  induction l generalizing v with
  | nil => rfl
  | cons i l ih =>
    rw [List.foldl_cons, ih]
    by_cases hl : j ∈ l
    · simp [hl]
    · by_cases hi : j = i
      · subst hi
        simp [hl, laneGet_laneSet_same v _ h]
      · simp [hl, hi, laneGet_laneSet_other v _ hi]

/-! ## A pass that rounds (R71, R76) -/

/-- RNGS when element `j` is rounded, in a pass that begins with RNGS `r`. -/
def passRng (m : BitVec 2048) (mode : Mode) (r : BitVec 32) (j : Nat) : BitVec 32 :=
  rngSteps (if mode = .sr then activeBelow m j else 0) r

theorem passRng_succ (m : BitVec 2048) (mode : Mode) (r : BitVec 32) (j : Nat) : passRng m mode r (j + 1) =
    if m.getLsbD j ∧ mode = .sr then rngStep (passRng m mode r j) else passRng m mode r j := by
  unfold passRng
  rw [activeBelow_succ]
  by_cases hs : mode = .sr <;> by_cases hm : m.getLsbD j = true <;> simp [hs, hm, rngSteps_succ]

/-- The code of element `j` of a pass that rounds. -/
def passCode (f : Fmt) (mode : Mode) (inf : Bool) (g : Nat → Val) (m : BitVec 2048) (r : BitVec 32) (j : Nat) : Nat :=
  roundCode f mode (rngZ (passRng m mode r j)) inf (g j)

/-- A pass that rounds: each active element has its code, RNGS has made the draws, and the lowest NaN is kept. -/
theorem foldl_roundLane (f : Fmt) (b : Nat) (mode : Mode) (inf : Bool) (g : Nat → Val) (m : BitVec 2048)
    (base : BitVec 16384) (r : BitVec 32) (n : Nat) :
    (activeLanes m n).foldl (roundLane f b mode inf g) ⟨base, r, none⟩ =
      ⟨(activeLanes m n).foldl (fun v i => laneSet b i v (BitVec.ofNat 64 (passCode f mode inf g m r i))) base,
        passRng m mode r n, (activeLanes m n).find? (fun i => (decodeVal f (passCode f mode inf g m r i)).isNan)⟩ := by
  induction n with
  | zero => simp [activeLanes, passRng, activeBelow, rngSteps]
  | succ n ih =>
    rw [foldl_activeLanes_succ, foldl_activeLanes_succ, activeLanes_succ, passRng_succ, ih]
    by_cases hm : m.getLsbD n = true
    · simp [hm, roundLane, drawRound, passCode, List.find?_append, Option.orElse_eq_or, List.find?_singleton]
    · simp [hm]

end Sys2Proof.Machine
end

section
/-! PROOFS. The vector instructions that round, and the faults of the vector instructions (R71, R76, R77, R98, R102, R104,
R105): what a vector instruction of the A slot comes to, and the passes of those that round. -/

open Sys2Proof Sys2Proof.Machine

namespace Sys2Proof.Machine

/-! ## What a vector instruction comes to (R76, R98) -/

section
variable {s : State} {n : Nat} (h : s.thr.aslot = .awaiting n) (hs : List (BitVec 5)) {f : Arch → Res Arch}
  (hc : s.thr.ngrp ≠ 0)
include h hc

theorem State.vecA_ok {a : Arch} (hf : f ((s.thr.arch.beside n).aged hs) = .ok a) :
    s.vecA hs f = .next (s.withA (.vec a)) :=
  s.runV_awaiting n _ a h (by rw [if_neg hc, hf])

theorem State.vecA_fault {x : Flt} (hf : f ((s.thr.arch.beside n).aged hs) = .error (.flt x)) :
    s.vecA hs f = .next (s.withA (.fault { x with widx := if x.kind = 1 then 1 else 0 })) := by
  simp [State.vecA, State.runV, State.runSlot, h, hc, hf, State.withA]

end

/-- No NaN fault: NANF is clear, or there is no NaN. -/
theorem State.nanCheck_ok {s : State} {o : Option Nat} (a : Arch) (h : stsNanf s.thr.arch.sts = true → o = none) :
    s.nanCheck o a = .ok a := by
  cases o with
  | none => rfl
  | some i => exact if_neg fun hn => by cases h hn

theorem State.nanCheck_fault {s : State} (i : Nat) (a : Arch) (h : stsNanf s.thr.arch.sts = true) :
    s.nanCheck (some i) a = .error (.flt ⟨0x09, 0, 0, i, 0, none⟩) := if_pos h

/-! ## The shared forms of vector instructions without a context (R98) -/

/-- The outcome is the vector-context fault. -/
def State.lacksContext (s : State) (o : Out) : Prop := o = .next (s.withA (.fault ⟨0x08, 0, 0, 0, 0, none⟩))

section
variable {s : State} {n : Nat} (h : s.thr.aslot = .awaiting n) (h0 : s.thr.ngrp = 0)
include h h0

theorem State.vecA_lacksContext (hs : List (BitVec 5)) (f : Arch → Res Arch) : s.lacksContext (s.vecA hs f) := by
  simp [State.lacksContext, State.vecA, State.runV, State.runSlot, h, h0, fault, State.withA]

theorem State.wordV_lacksContext (hs : List (BitVec 5)) (b : Nat) (d : BitVec 5) (lanes : List Nat) (base : BitVec 16384)
    (g : Nat → Word) : s.lacksContext (s.wordV hs b d lanes base g) := State.vecA_lacksContext h h0 hs _

theorem State.roundV_lacksContext (hs : List (BitVec 5)) (f : Fmt) (b : Nat) (inf : Bool) (d : BitVec 5) (lanes : List Nat)
    (base : BitVec 16384) (g : Mode → Nat → Val) : s.lacksContext (s.roundV hs f b inf d lanes base g) := by
  unfold State.roundV
  exact State.vecA_lacksContext h h0 hs _

theorem State.elemV_lacksContext (ty : VTy) (d : BitVec 5) (k : BitVec 3) (hs : List (BitVec 5)) (fp : Mode → Nat → Val)
    (int : Nat → Word) : s.lacksContext (s.elemV ty d k hs fp int) := by
  unfold State.elemV
  split
  · exact State.roundV_lacksContext h h0 ..
  · exact State.wordV_lacksContext h h0 ..

theorem State.pickV_lacksContext (ty : VTy) (big : Bool) (d a b : BitVec 5) (h1 h2 : Bool) (k : BitVec 3) :
    s.lacksContext (s.pickV ty big d a b h1 h2 k) := by
  unfold State.pickV
  exact State.vecA_lacksContext h h0 _ _

theorem State.special_lacksContext (g : VTy → FpTy → Word → Word) (ty : VTy) (d a : BitVec 5) (h1 : Bool) (k : BitVec 3) :
    s.lacksContext (s.special g ty d a h1 k) := by
  unfold State.special
  exact State.vecA_lacksContext h h0 _ _

end

/-! ## The instructions that round (R102, R104, R105) -/

/-- What a vector instruction that rounds does, as one pass over the active elements. -/
theorem State.roundV_pass (s : State) (hs : List (BitVec 5)) (f : Fmt) (b : Nat) (inf : Bool) (d : BitVec 5) (m : BitVec 2048)
    (count : Nat) (base : BitVec 16384) (g : Mode → Nat → Val) :
    s.roundV hs f b inf d (activeLanes m count) base g = s.vecA hs fun a =>
      s.nanCheck ((activeLanes m count).find? fun i =>
          (decodeVal f (passCode f (stsMode s.thr.arch.sts) inf (g (stsMode s.thr.arch.sts)) m a.rngs i)).isNan)
        (({ a with rngs := passRng m (stsMode s.thr.arch.sts) a.rngs count } : Arch).setV d
          ((activeLanes m count).foldl (fun v i => laneSet b i v
            (BitVec.ofNat 64 (passCode f (stsMode s.thr.arch.sts) inf (g (stsMode s.thr.arch.sts)) m a.rngs i))) base)) := by
  simp only [State.roundV, foldl_roundLane]

theorem State.elemV_fp (s : State) {ty : VTy} (d : BitVec 5) (k : BitVec 3) (hs : List (BitVec 5)) (fp : Mode → Nat → Val)
    (int : Nat → Word) (h : ty.isFp = true) : s.elemV ty d k hs fp int =
      s.roundV hs ty.fmt ty.bits false d (s.active ty.bits k) (s.thr.arch.getV d) fp := if_pos h

/-- Each instruction that rounds is such a pass, on elements that fit a word. -/
theorem State.exec_roundedForms {s : State} {ty to' src : VTy} {nf : NarrowFmt} {inf : Bool} {d a b : BitVec 5} {h1 h2 : Bool}
    {k : BitVec 3} (hfp : ty.isFp = true) : ∀ p ∈ s.roundedForms ty to' src nf inf d a b h1 h2 k,
      p.b ≤ 64 ∧ exec p.i s =
        s.roundV p.hs p.f p.b p.inf d (activeLanes (s.thr.arch.getM k) p.count) p.base (fun _ => p.val) := by
  simp only [State.roundedForms, List.forall_mem_cons, List.not_mem_nil, false_imp_iff, implies_true, and_true]
  refine ⟨⟨vtyBits_le _, ?_⟩, ⟨vtyBits_le _, ?_⟩, ⟨vtyBits_le _, ?_⟩, ⟨vtyBits_le _, ?_⟩, ⟨vtyBits_le _, ?_⟩,
    ⟨vtyBits_le _, ?_⟩, ⟨vtyBits_le _, ?_⟩, ⟨vtyBits_le _, rfl⟩, ⟨narrowBits_le _, rfl⟩⟩
  all_goals exact s.elemV_fp d k _ _ _ hfp

section
variable {s : State} {n : Nat} {d : BitVec 5} {k : BitVec 3} {p : RoundedForm}
  (h : s.thr.aslot = .awaiting n) (hc : s.thr.ngrp ≠ 0)
  (he : exec p.i s = s.roundV p.hs p.f p.b p.inf d (activeLanes (s.thr.arch.getM k) p.count) p.base (fun _ => p.val))
include h hc he

theorem RoundedForm.completes_of_nanFree (hb : p.b ≤ 64) (hn : p.nanFree s n k (stsMode s.thr.arch.sts)) :
    p.completes s n d k (stsMode s.thr.arch.sts) := by
  refine ⟨_, he.trans ((s.roundV_pass ..).trans (State.vecA_ok h _ hc (State.nanCheck_ok _ fun hf => ?_))), fun j hj => ?_⟩
  · rw [List.find?_eq_none]
    intro j hj
    obtain ⟨hlt, hm⟩ := mem_activeLanes.1 hj
    exact Bool.not_eq_true _ ▸ hn hf j (by simp [RoundedForm.on, hlt, hm])
  · rw [laneGet_foldl_laneSet _ _ _ hj, zext_ofNat hb]
    simp only [mem_activeLanes, RoundedForm.on, Bool.and_eq_true, decide_eq_true_eq]
    rfl

theorem RoundedForm.faults_of_nan {j : Nat} (hf : stsNanf s.thr.arch.sts = true) (hj : p.on s k j = true)
    (hnan : (decodeVal p.f (p.code s n k (stsMode s.thr.arch.sts) j)).isNan = true)
    (hl : ∀ l < j, p.on s k l = true → (decodeVal p.f (p.code s n k (stsMode s.thr.arch.sts) l)).isNan = false) :
    exec p.i s = .next (s.withA (.fault ⟨0x09, 0, 0, j, 0, none⟩)) := by
  simp only [RoundedForm.on, Bool.and_eq_true, decide_eq_true_eq] at hj hl
  obtain ⟨hlt, hm⟩ := hj
  rw [he, s.roundV_pass]
  refine (State.vecA_fault (x := ⟨0x09, 0, 0, j, 0, none⟩) h _ hc ?_).trans rfl
  refine (congrArg (s.nanCheck · _) ?_).trans (State.nanCheck_fault j _ hf)
  exact find?_activeLanes hlt hm hnan fun l hlj hml => hl l hlj ⟨hlj.trans hlt, hml⟩

end

end Sys2Proof.Machine

/-- Settles O16: each of the instructions is one pass over its active elements. -/
theorem vectorRoundsEachElement : Obligations.VectorRoundsEachElement := by
  unfold Obligations.VectorRoundsEachElement
  intro s n ty to' src nf inf d a b h1 h2 k h hc hfp m p hp hn
  obtain ⟨hb, he⟩ := State.exec_roundedForms hfp p hp
  exact RoundedForm.completes_of_nanFree h hc he hb hn

/-- Settles O21: the context is checked before anything else, and the pass of an instruction that rounds keeps the lowest
NaN. -/
theorem vectorFaults : Obligations.VectorFaults := by
  unfold Obligations.VectorFaults
  constructor
  · intro s n ty src nf c op inf h1 h2 m k d a b h h0
    have elem := State.elemV_lacksContext h h0 ty d k
    have word := State.wordV_lacksContext h h0
    have special := fun g => State.special_lacksContext h h0 g ty d a h1 k
    have pick := fun big => State.pickV_lacksContext h h0 ty big d a b h1 h2 k
    change ∀ i ∈ _, s.lacksContext (exec i s)
    simp only [List.forall_mem_cons, List.not_mem_nil, false_imp_iff, implies_true, and_true]
    refine ⟨elem _ _ _, elem _ _ _, elem _ _ _, elem _ _ _, elem _ _ _, elem _ _ _, elem _ _ _, pick false, pick true,
      word .., word .., word .., word .., word .., word .., ?vcmp, word .., ?vcvt, ?vpack, ?vunpk, ?vred, ?vscan, word ..,
      word .., word .., word .., ?vext, ?vins, word .., special _, special _, special _, special _, special _, word ..⟩
    case vcvt | vpack =>
      simp only [exec, execVcvt, execVpack]
      exact State.roundV_lacksContext h h0 ..
    all_goals
      simp only [exec, execVcmp, execVunpk, execVred, execVscan, execVext, execVins]
      exact State.vecA_lacksContext h h0 _ _
  · intro s n ty to' src nf inf d a b h1 h2 k j h hc hfp hf m p hp hj hnan hl
    obtain ⟨-, he⟩ := State.exec_roundedForms hfp p hp
    exact RoundedForm.faults_of_nan h hc he hf hj hnan hl
end

section
/-! PROOFS. The element-wise vector instructions that do not round (R62, R100, R102, R103): a pass that writes a word to each
element, and the words of the integer forms at the width of their elements. -/

open Sys2Proof Sys2Proof.Machine

namespace Sys2Proof.Machine

/-! ## Words at the width of an element -/

theorem setWidth_ofInt_of_le {b : Nat} (h : b ≤ 64) (i : Int) : (BitVec.ofInt 64 i).setWidth b = BitVec.ofInt b i := by
  apply BitVec.eq_of_toInt_eq
  rw [BitVec.toInt_setWidth, BitVec.toNat_ofInt, BitVec.toInt_ofInt, Int.toNat_of_nonneg (Int.emod_nonneg _ (by decide))]
  have hdvd : ((2 ^ b : Nat) : Int) ∣ ((2 ^ 64 : Nat) : Int) := Int.natCast_dvd_natCast.2 (Nat.pow_dvd_pow 2 h)
  rw [Int.bmod_def, Int.bmod_def, Int.emod_emod_of_dvd _ hdvd]

theorem zext_eq_of_setWidth {b : Nat} {x y : Word} (h : x.setWidth b = y.setWidth b) : zext b x = zext b y := by
  rw [zext, zext, h]

theorem setWidth_zext {b : Nat} (h : b ≤ 64) (x : Word) : (zext b x).setWidth b = x.setWidth b := by
  rw [zext, BitVec.setWidth_setWidth_of_le _ h, BitVec.setWidth_eq]

theorem sext_slt {b : Nat} (h : b ≤ 64) (x y : Word) :
    (sext b x).slt (sext b y) = decide ((x.setWidth b).toInt < (y.setWidth b).toInt) := by
  rw [sext, sext, BitVec.slt_eq_decide, BitVec.toInt_signExtend_of_le h, BitVec.toInt_signExtend_of_le h]

/-- An arithmetic shift of a sign-extended element. -/
theorem zext_sshiftRight_sext {b : Nat} (h : b ≤ 64) (x : Word) (n : Nat) :
    zext b ((sext b x).sshiftRight n) = zext b (((x.setWidth b).sshiftRight n).setWidth 64) := by
  apply zext_eq_of_setWidth
  rw [BitVec.setWidth_setWidth_of_le _ h, BitVec.setWidth_eq, BitVec.sshiftRight, BitVec.sshiftRight, sext,
    BitVec.toInt_signExtend_of_le h, setWidth_ofInt_of_le h]

/-- The pick of two integers, as a number: the lesser, or the greater. -/
theorem toInt_pickLane {ty : VTy} (h : ty.isFp = false) (big : Bool) (x y : Word) :
    ((pickLane ty big x y).setWidth ty.bits).toInt =
      if big then max (x.setWidth ty.bits).toInt (y.setWidth ty.bits).toInt
      else min (x.setWidth ty.bits).toInt (y.setWidth ty.bits).toInt := by
  simp only [pickLane, h, sext_slt (vtyBits_le ty), Bool.false_eq_true, if_false]
  by_cases hlt : (y.setWidth ty.bits).toInt < (x.setWidth ty.bits).toInt
  · cases big
    · simp [-BitVec.toInt_setWidth, hlt, min_eq_right hlt.le]
    · simp [-BitVec.toInt_setWidth, hlt, max_eq_left hlt.le]
  · cases big
    · simp [-BitVec.toInt_setWidth, hlt, min_eq_left (not_lt.1 hlt)]
    · simp [-BitVec.toInt_setWidth, hlt, max_eq_right (not_lt.1 hlt)]

theorem zext_pickLane {ty : VTy} (h : ty.isFp = false) (big : Bool) (x y : Word) : zext ty.bits (pickLane ty big x y) =
    zext ty.bits (BitVec.ofInt 64 (if big then max (x.setWidth ty.bits).toInt (y.setWidth ty.bits).toInt
      else min (x.setWidth ty.bits).toInt (y.setWidth ty.bits).toInt)) := by
  apply zext_eq_of_setWidth
  rw [setWidth_ofInt_of_le (vtyBits_le ty), ← toInt_pickLane h, BitVec.ofInt_toInt]

theorem pickLane_fp {ty : VTy} (h : ty.isFp = true) (big : Bool) (x y : Word) : pickLane ty big x y = exactCode ty.fmt
    (if big then maxVal (decodeVal ty.fmt x.toNat) (decodeVal ty.fmt y.toNat)
      else minVal (decodeVal ty.fmt x.toNat) (decodeVal ty.fmt y.toNat)) := if_pos h

/-! ## Instructions that write a word to each element -/

theorem State.elemV_int (s : State) {ty : VTy} (d : BitVec 5) (k : BitVec 3) (hs : List (BitVec 5)) (fp : Mode → Nat → Val)
    (int : Nat → Word) (h : ty.isFp = false) : s.elemV ty d k hs fp int =
      s.wordV hs ty.bits d (s.active ty.bits k) (s.thr.arch.getV d) int := if_neg (by simp [h])

section
variable {s : State} {n : Nat} {d : BitVec 5} {p : WordForm} {lanes : List Nat} (h : s.thr.aslot = .awaiting n)
  (hc : s.thr.ngrp ≠ 0) (hl : ∀ j, j ∈ lanes ↔ p.on j = true)
include h hc hl

/-- A pass whose words agree with those of a form, and whose NaNs are the form's. -/
theorem WordForm.completes_of_pass {g : Nat → Word} {o : Option Nat} (hg : ∀ j, zext p.b (g j) = zext p.b (p.w j))
    (ho : stsNanf s.thr.arch.sts = true → o = none)
    (he : exec p.i s = s.vecA p.hs fun r =>
      s.nanCheck o (r.setV d (lanes.foldl (fun v i => laneSet p.b i v (g i)) p.base))) : p.completes s n d := by
  refine ⟨_, he.trans (State.vecA_ok h _ hc (State.nanCheck_ok _ ho)), fun j hj => ?_⟩
  rw [laneGet_foldl_laneSet _ _ _ hj, hg]
  simp only [hl]

/-- Such a pass that produces no NaN. -/
theorem WordForm.completes_of_wordV {g : Nat → Word} (hg : ∀ j, zext p.b (g j) = zext p.b (p.w j))
    (he : exec p.i s = s.wordV p.hs p.b d lanes p.base g) : p.completes s n d :=
  WordForm.completes_of_pass h hc hl hg (o := none) (fun _ => rfl) he

/-- A pass that looks for a NaN among the words it writes. -/
theorem WordForm.completes_of_nanFree (hn : p.nanFree s)
    (he : exec p.i s = s.vecA p.hs fun r =>
      s.nanCheck (lanes.find? p.nan) (r.setV d (lanes.foldl (fun v i => laneSet p.b i v (p.w i)) p.base))) :
    p.completes s n d := by
  refine WordForm.completes_of_pass h hc hl (fun _ => rfl) (fun hf => ?_) he
  rw [List.find?_eq_none]
  exact fun j hj => Bool.not_eq_true _ ▸ hn hf j ((hl j).1 hj)

end

/-- The elements that a mask makes active, and the test of an instruction's form. -/
theorem State.mem_active {s : State} {b : Nat} {k : BitVec 3} {j : Nat} :
    j ∈ s.active b k ↔ (decide (j < laneCount s.thr.ngrp b) && (s.thr.arch.getM k).getLsbD j) = true := by
  simp [State.active, mem_activeLanes]

end Sys2Proof.Machine

/-- Settles O17: each of the instructions writes a word to each of its elements, and the words agree at the width of an
element. -/
theorem vectorExactElements : Obligations.VectorExactElements := by
  unfold Obligations.VectorExactElements
  intro s n it ft ty d a b h1 h2 k h hc hit hft x y num fp on keep hs low high
  have plain {p : WordForm} (hl : ∀ j, j ∈ s.active p.b k ↔ p.on j = true)
      (he : exec p.i s = s.wordV p.hs p.b d (s.active p.b k) p.base p.w) : p.nanFree s → p.completes s n d := fun _ =>
    WordForm.completes_of_wordV h hc hl (fun _ => rfl) he
  have elem {i : Instr} {fv : Mode → Nat → Val} {g : Nat → Word} (he : exec i s = s.elemV it d k hs fv g) :
      (⟨i, hs, it.bits, on it, keep, g, fun _ => false⟩ : WordForm).nanFree s →
      (⟨i, hs, it.bits, on it, keep, g, fun _ => false⟩ : WordForm).completes s n d :=
    plain (fun _ => State.mem_active) (he.trans (s.elemV_int d k hs fv g hit))
  simp only [List.forall_mem_cons, List.not_mem_nil, false_imp_iff, implies_true, and_true]
  refine ⟨elem rfl, elem rfl, elem rfl, fun _ => ?vmin, fun _ => ?vmax, fun hn => ?fmin, fun hn => ?fmax,
    plain (fun _ => State.mem_active) rfl, plain (fun _ => State.mem_active) rfl, plain (fun _ => State.mem_active) rfl,
    plain (fun _ => State.mem_active) rfl, plain (fun _ => State.mem_active) rfl, fun _ => ?vsar, fun _ => ?vsel⟩
  case vmin =>
    refine WordForm.completes_of_pass h hc (fun _ => State.mem_active) (fun j => zext_pickLane hit false _ _) ?_ rfl
    simp [hit]
  case vmax =>
    refine WordForm.completes_of_pass h hc (fun _ => State.mem_active) (fun j => zext_pickLane hit true _ _) ?_ rfl
    simp [hit]
  case fmin | fmax =>
    refine WordForm.completes_of_nanFree h hc (fun _ => State.mem_active) hn ?_
    simp only [exec, execVmin, execVmax, State.pickV, pickLane_fp hft, hft, if_true]
    rfl
  case vsar =>
    exact WordForm.completes_of_wordV h hc (fun _ => State.mem_active) (fun j => zext_sshiftRight_sext (vtyBits_le ty) _ _) rfl
  case vsel =>
    exact WordForm.completes_of_wordV h hc (fun _ => by simp) (fun _ => rfl) rfl
end

section
/-! PROOFS. Reductions and the running sum (R71, R73, R74, R106): a tree of an associative operation is the fold of its leaves,
whatever its shape, with one draw for each node that draws; leaves that are the identity do not count; and the running sum
element by element. -/

open Sys2Proof Sys2Proof.Machine

namespace Sys2Proof.Machine

/-! ## The tree of a reduction (R73) -/

theorem rngSteps_add (a b : Nat) (x : BitVec 32) : rngSteps (a + b) x = rngSteps b (rngSteps a x) := by
  induction a generalizing x with
  | zero => rw [Nat.zero_add, rngSteps]
  | succ a ih => rw [Nat.succ_add, rngSteps, rngSteps, ih]

section
variable {op : RedOp} {ty : VTy} {mode : Mode}

theorem redLevel_nil (r : BitVec 32) : redLevel op ty mode r [] = ([], r) := by simp [redLevel]

theorem redLevel_singleton (r : BitVec 32) (x : Word) : redLevel op ty mode r [x] = ([x], r) := by simp [redLevel]

theorem redLevel_cons_cons (r : BitVec 32) (x y : Word) (l : List Word) : redLevel op ty mode r (x :: y :: l) =
    ((redNode op ty mode r x y).1 :: (redLevel op ty mode (redNode op ty mode r x y).2 l).1,
      (redLevel op ty mode (redNode op ty mode r x y).2 l).2) := rfl

theorem redLevel_length : ∀ (r : BitVec 32) (l : List Word), (redLevel op ty mode r l).1.length = (l.length + 1) / 2
  | r, [] => by rw [redLevel_nil]; rfl
  | r, [x] => by simp [redLevel_singleton]
  | r, x :: y :: l => by
    rw [redLevel_cons_cons, List.length_cons, redLevel_length _ l, List.length_cons, List.length_cons]
    omega

/-- The draws of a level whose nodes draw `c` times each. -/
theorem redLevel_draws {c : Nat} (hc : ∀ r x y, (redNode op ty mode r x y).2 = rngSteps c r) :
    ∀ (r : BitVec 32) (l : List Word), (redLevel op ty mode r l).2 = rngSteps (c * (l.length / 2)) r
  | r, [] => by rw [redLevel_nil]; rfl
  | r, [x] => by simp [redLevel_singleton, rngSteps]
  | r, x :: y :: l => by
    have hlen : (x :: y :: l).length / 2 = l.length / 2 + 1 := by simp only [List.length_cons]; omega
    rw [redLevel_cons_cons, redLevel_draws hc _ l, hc, hlen, ← rngSteps_add, Nat.mul_succ, Nat.add_comm]

/-- The draws of a tree of 2^n leaves: it has 2^n − 1 nodes. -/
theorem redTree_draws {c : Nat} (hc : ∀ r x y, (redNode op ty mode r x y).2 = rngSteps c r) {n : Nat} (r : BitVec 32)
    {l : List Word} (hl : l.length = 2 ^ n) : (redTree op ty mode n r l).2 = rngSteps (c * (2 ^ n - 1)) r := by
  induction n generalizing r l with
  | zero => rfl
  | succ n ih =>
    have hpos := Nat.two_pow_pos n
    have hlen : (redLevel op ty mode r l).1.length = 2 ^ n := by rw [redLevel_length, hl, Nat.pow_succ]; omega
    show (redTree op ty mode n (redLevel op ty mode r l).2 (redLevel op ty mode r l).1).2 = _
    rw [ih _ hlen, redLevel_draws hc, hl, ← rngSteps_add, ← Nat.mul_add, Nat.pow_succ]
    congr 2
    omega

variable {α : Type} {φ : Word → α} {f : α → α → α} (hf : ∀ r x y, φ (redNode op ty mode r x y).1 = f (φ x) (φ y))
  (hassoc : ∀ a b c, f (f a b) c = f a (f b c))
include hf hassoc

/-- A level leaves the fold of its list. -/
theorem foldl_redLevel : ∀ (r : BitVec 32) (l : List Word) (a : α),
    ((redLevel op ty mode r l).1.map φ).foldl f a = (l.map φ).foldl f a
  | r, [], a => by rw [redLevel_nil]
  | r, [x], a => by rw [redLevel_singleton]
  | r, x :: y :: l, a => by
    rw [redLevel_cons_cons]
    simp only [List.map_cons, List.foldl_cons, hf, foldl_redLevel _ l, hassoc]

/-- What a tree comes to is the fold of its leaves. -/
theorem redTree_eq_foldl {e : α} (he : ∀ x, f e (φ x) = φ x) {n : Nat} (r : BitVec 32) {l : List Word}
    (hl : l.length = 2 ^ n) : φ (redTree op ty mode n r l).1 = (l.map φ).foldl f e := by
  induction n generalizing r l with
  | zero =>
    obtain ⟨x, rfl⟩ := List.length_eq_one_iff.1 hl
    exact (he x).symm
  | succ n ih =>
    have hlen : (redLevel op ty mode r l).1.length = 2 ^ n := by
      rw [redLevel_length, hl, Nat.pow_succ]
      omega
    show φ (redTree op ty mode n (redLevel op ty mode r l).2 (redLevel op ty mode r l).1).1 = _
    rw [ih _ hlen, foldl_redLevel hf hassoc]

end

/-! ## Leaves that are the identity -/

section
variable {α : Type} {f : α → α → α} (hassoc : ∀ a b c, f (f a b) c = f a (f b c)) (hcomm : ∀ a b, f a b = f b a)
include hassoc hcomm

/-- Entries that are the identity do not count in a fold that begins with it. -/
theorem foldl_ite_eq_filter {e : α} (p : Nat → Bool) (v : Nat → α) (l : List Nat) {a : α} (ha : f a e = a) :
    (l.map fun i => if p i then v i else e).foldl f a = ((l.filter p).map v).foldl f a := by
  induction l generalizing a with
  | nil => rfl
  | cons i l ih =>
    by_cases hp : p i = true
    · have hv : f (f a (v i)) e = f a (v i) := by rw [hassoc, hcomm (v i), ← hassoc, ha]
      simpa [hp] using ih hv
    · simpa [hp, ha] using ih ha

end

theorem le_two_pow_redLevels (n : Nat) : n ≤ 2 ^ redLevels n := by
  unfold redLevels
  split
  · assumption
  · have := Nat.lt_log2_self (n := n - 1)
    omega

/-- The active elements, among more indices than there are elements. -/
theorem filter_range_active (m : BitVec 2048) {n k : Nat} (h : n ≤ k) :
    (List.range k).filter (fun i => decide (i < n) && m.getLsbD i) = activeLanes m n := by
  obtain ⟨d, rfl⟩ := Nat.exists_eq_add_of_le h
  rw [List.range_add, List.filter_append, activeLanes]
  have hhigh : ((List.range d).map (n + ·)).filter (fun i => decide (i < n) && m.getLsbD i) = [] := by
    simp [List.filter_eq_nil_iff]
  rw [hhigh, List.append_nil]
  exact List.filter_congr fun i hi => by simp [List.mem_range.1 hi]

/-! ## Integer reductions (R106) -/

/-- The leaf of a reduction at index `j`: an element, or the identity. -/
def State.redLeaf (s : State) (op : RedOp) (ty : VTy) (a : BitVec 5) (k : BitVec 3) (j : Nat) : Word :=
  if decide (j < laneCount s.thr.ngrp ty.bits) && (s.thr.arch.getM k).getLsbD j then s.lane ty.bits a j else redIdent op ty

/-- The tree of a `vred` that begins with RNGS `r`. -/
def State.redOf (s : State) (op : RedOp) (ty : VTy) (a : BitVec 5) (k : BitVec 3) (r : BitVec 32) : Word × BitVec 32 :=
  redTree op ty (stsMode s.thr.arch.sts) (redLevels (laneCount s.thr.ngrp ty.bits)) r
    ((List.range (2 ^ redLevels (laneCount s.thr.ngrp ty.bits))).map (s.redLeaf op ty a k))

section
variable {s : State} {op : RedOp} {ty : VTy} (a : BitVec 5) (k : BitVec 3) (r : BitVec 32)

theorem State.redOf_draws {c : Nat} (hc : ∀ r x y, (redNode op ty (stsMode s.thr.arch.sts) r x y).2 = rngSteps c r) :
    (s.redOf op ty a k r).2 = rngSteps (c * (2 ^ redLevels (laneCount s.thr.ngrp ty.bits) - 1)) r :=
  redTree_draws hc r (by simp)

/-- The tree of a `vred`, through a measure of words in which its nodes are an operation whose identity its padding is. -/
theorem State.redOf_eq_foldl {α : Type} {φ : Word → α} {f : α → α → α}
    (hf : ∀ r x y, φ (redNode op ty (stsMode s.thr.arch.sts) r x y).1 = f (φ x) (φ y))
    (hassoc : ∀ a b c, f (f a b) c = f a (f b c)) (hcomm : ∀ a b, f a b = f b a)
    (he : ∀ x, f (φ (redIdent op ty)) (φ x) = φ x) : φ (s.redOf op ty a k r).1 =
      ((activeLanes (s.thr.arch.getM k) (laneCount s.thr.ngrp ty.bits)).map
        (fun j => φ (s.lane ty.bits a j))).foldl f (φ (redIdent op ty)) := by
  rw [State.redOf, redTree_eq_foldl hf hassoc he r (by simp), List.map_map,
    ← filter_range_active _ (le_two_pow_redLevels _), ← foldl_ite_eq_filter hassoc hcomm _ _ _ (he _)]
  congr 2
  funext j
  exact apply_ite φ ..

end

/-- A sum of words at a width is the sum of the numbers they are, at that width. -/
theorem foldl_add_ofInt {b : Nat} (x : Nat → BitVec b) (l : List Nat) (i : Int) :
    (l.map x).foldl (· + ·) (BitVec.ofInt b i) = BitVec.ofInt b (i + (l.map fun j => (x j).toInt).sum) := by
  induction l generalizing i with
  | nil => simp
  | cons j l ih =>
    have hj : BitVec.ofInt b i + x j = BitVec.ofInt b (i + (x j).toInt) := by rw [BitVec.ofInt_add, BitVec.ofInt_toInt]
    rw [List.map_cons, List.foldl_cons, hj, ih, List.map_cons, List.sum_cons, add_assoc]

section
variable {ty : VTy} (h : ty.isFp = false)
include h

theorem redNode_sum_int (mode : Mode) (r : BitVec 32) (x y : Word) : redNode .sum ty mode r x y =
    (zext ty.bits (x + y), if mode = .sr then rngStep r else r) := if_neg (by simp [h])

/-- The identities of integer minimum and maximum: the ends of the type's range. -/
theorem redIdent_min_int : ((redIdent .min ty).setWidth ty.bits).toInt = 2 ^ (ty.bits - 1) - 1 := by
  cases ty <;> (revert h; decide)

theorem redIdent_max_int : ((redIdent .max ty).setWidth ty.bits).toInt = -2 ^ (ty.bits - 1) := by
  cases ty <;> (revert h; decide)

variable (s : State) (a : BitVec 5) (k : BitVec 3) (r : BitVec 32)

theorem State.redOf_sum_int : (s.redOf .sum ty a k r).1.setWidth ty.bits =
    BitVec.ofInt ty.bits ((activeLanes (s.thr.arch.getM k) (laneCount s.thr.ngrp ty.bits)).map fun j =>
      ((s.lane ty.bits a j).setWidth ty.bits).toInt).sum := by
  have h0 : (redIdent .sum ty).setWidth ty.bits = BitVec.ofInt ty.bits 0 := by simp [redIdent, h]
  rw [State.redOf_eq_foldl (φ := BitVec.setWidth ty.bits) (f := (· + ·)) a k r ?node BitVec.add_assoc BitVec.add_comm ?ident,
    h0, foldl_add_ofInt, zero_add]
  case node =>
    intro r x y
    rw [redNode_sum_int h, setWidth_zext (vtyBits_le ty), BitVec.setWidth_add _ _ (vtyBits_le ty)]
  case ident =>
    intro x
    simp [h0]

theorem State.redOf_min_int : ((s.redOf .min ty a k r).1.setWidth ty.bits).toInt =
    ((activeLanes (s.thr.arch.getM k) (laneCount s.thr.ngrp ty.bits)).map fun j =>
      ((s.lane ty.bits a j).setWidth ty.bits).toInt).foldl min (2 ^ (ty.bits - 1) - 1) := by
  rw [← redIdent_min_int h]
  refine State.redOf_eq_foldl (φ := fun x => (x.setWidth ty.bits).toInt) a k r (fun r x y => ?_) min_assoc min_comm fun x => ?_
  · rw [redNode, setWidth_zext (vtyBits_le ty), toInt_pickLane h]
    rfl
  · have := (x.setWidth ty.bits).toInt_lt
    rw [redIdent_min_int h, min_eq_right]
    omega

theorem State.redOf_max_int : ((s.redOf .max ty a k r).1.setWidth ty.bits).toInt =
    ((activeLanes (s.thr.arch.getM k) (laneCount s.thr.ngrp ty.bits)).map fun j =>
      ((s.lane ty.bits a j).setWidth ty.bits).toInt).foldl max (-2 ^ (ty.bits - 1)) := by
  rw [← redIdent_max_int h]
  refine State.redOf_eq_foldl (φ := fun x => (x.setWidth ty.bits).toInt) a k r (fun r x y => ?_) max_assoc max_comm fun x => ?_
  · rw [redNode, setWidth_zext (vtyBits_le ty), toInt_pickLane h]
    rfl
  · rw [redIdent_max_int h, max_eq_right]
    exact (x.setWidth ty.bits).le_toInt

end

/-! ## What `vred` comes to (R106) -/

section
variable {s : State} {n : Nat} (h : s.thr.aslot = .awaiting n) (hc : s.thr.ngrp ≠ 0) (op : RedOp) {ty : VTy} (d a : BitVec 5)
  (h1 : Bool) (k : BitVec 3)
include h hc

theorem State.exec_vred_int (hi : ty.isFp = false) {draws : Nat} {i : Int}
    (hg : (s.redOf op ty a k (s.thr.arch.beside n).rngs).2 = rngSteps draws (s.thr.arch.beside n).rngs)
    (hz : (s.redOf op ty a k (s.thr.arch.beside n).rngs).1.setWidth ty.bits = BitVec.ofInt ty.bits i) :
    exec (.vred op ty d a h1 k) s = .next (s.withA (.vec
      (({ (s.thr.arch.beside n).aged (holds h1 false a a) with
          rngs := rngSteps draws (s.thr.arch.beside n).rngs } : Arch).setX d
        ((BitVec.ofInt ty.bits i).signExtend 64)))) := by
  rw [← hg, ← hz]
  simp only [exec, execVred]
  refine State.vecA_ok h _ hc ?_
  simp only [hi, Bool.false_and, Bool.false_eq_true, if_false]
  rfl

theorem State.exec_vred_fp (hfp : ty.isFp = true) (hn : stsNanf s.thr.arch.sts = false) :
    exec (.vred op ty d a h1 k) s = .next (s.withA (.vec
      (({ (s.thr.arch.beside n).aged (holds h1 false a a) with
          rngs := (s.redOf op ty a k (s.thr.arch.beside n).rngs).2 } : Arch).setX d
        (s.redOf op ty a k (s.thr.arch.beside n).rngs).1))) := by
  simp only [exec, execVred]
  refine State.vecA_ok h _ hc ?_
  simp only [hfp, if_true]
  exact State.nanCheck_ok _ fun hf => by simp [hn] at hf

end

/-! ## The running sum (R74) -/

/-- A running sum over the active elements below `j`. -/
def scanTo (ty : VTy) (mode : Mode) (x : Nat → Word) (m : BitVec 2048) (base : BitVec 16384) (r : BitVec 32) (j : Nat) :
    Pass × Word := (activeLanes m j).foldl (scanLane ty mode x) (⟨base, r, none⟩, redIdent .sum ty)

section
variable (ty : VTy) (mode : Mode) (x : Nat → Word) (m : BitVec 2048) (base : BitVec 16384) (r : BitVec 32) (j : Nat)

theorem scanTo_succ : scanTo ty mode x m base r (j + 1) =
    if m.getLsbD j then scanLane ty mode x (scanTo ty mode x m base r j) j else scanTo ty mode x m base r j :=
  foldl_activeLanes_succ ..

/-- An active element is added to the sum below it. -/
theorem scanTo_active (h : m.getLsbD j = true) :
    redNode .sum ty mode (scanTo ty mode x m base r j).1.r (scanTo ty mode x m base r j).2 (x j) =
      ((scanTo ty mode x m base r (j + 1)).2, (scanTo ty mode x m base r (j + 1)).1.r) := by
  rw [scanTo_succ, if_pos h]
  rfl

/-- The register that a running sum writes. -/
theorem scanTo_v : (scanTo ty mode x m base r j).1.v =
    (activeLanes m j).foldl (fun v i => laneSet ty.bits i v (scanTo ty mode x m base r (i + 1)).2) base := by
  induction j with
  | zero => rfl
  | succ j ih =>
    rw [foldl_activeLanes_succ, ← ih]
    by_cases hm : m.getLsbD j = true
    · simp only [scanTo_succ, hm, if_true]
      rfl
    · simp only [scanTo_succ, hm, Bool.false_eq_true, if_false]

end

/-- The running sum of a `vscan` that begins with RNGS `r`, when it comes to element `j`. -/
def State.scanAt (s : State) (ty : VTy) (a d : BitVec 5) (k : BitVec 3) (r : BitVec 32) (j : Nat) : Pass × Word :=
  scanTo ty (stsMode s.thr.arch.sts) (s.lane ty.bits a) (s.thr.arch.getM k) (s.thr.arch.getV d) r
    (min j (laneCount s.thr.ngrp ty.bits))

section
variable {s : State} (ty : VTy) (a d : BitVec 5) (k : BitVec 3) (r : BitVec 32) (j : Nat)

theorem State.scanAt_zero : s.scanAt ty a d k r 0 = (⟨s.thr.arch.getV d, r, none⟩, redIdent .sum ty) := by
  rw [State.scanAt, Nat.zero_min]
  rfl

/-- An active element is added to the sum below it. -/
theorem State.scanAt_active (hj : j < laneCount s.thr.ngrp ty.bits) (hm : (s.thr.arch.getM k).getLsbD j = true) :
    redNode .sum ty (stsMode s.thr.arch.sts) (s.scanAt ty a d k r j).1.r (s.scanAt ty a d k r j).2 (s.lane ty.bits a j) =
      ((s.scanAt ty a d k r (j + 1)).2, (s.scanAt ty a d k r (j + 1)).1.r) := by
  rw [State.scanAt, State.scanAt, min_eq_left hj.le, min_eq_left (Nat.succ_le_of_lt hj)]
  exact scanTo_active _ _ _ _ _ _ _ hm

/-- Any other element leaves the sum as it is. -/
theorem State.scanAt_idle (h : ¬ (j < laneCount s.thr.ngrp ty.bits ∧ (s.thr.arch.getM k).getLsbD j = true)) :
    s.scanAt ty a d k r (j + 1) = s.scanAt ty a d k r j := by
  by_cases hj : j < laneCount s.thr.ngrp ty.bits
  · rw [State.scanAt, State.scanAt, min_eq_left hj.le, min_eq_left (Nat.succ_le_of_lt hj), scanTo_succ,
      if_neg fun hm => h ⟨hj, hm⟩]
  · rw [State.scanAt, State.scanAt, min_eq_right (not_lt.1 hj), min_eq_right ((not_lt.1 hj).trans (Nat.le_succ j))]

/-- What stands in element `j` in the end: the sum up to it, where it is active. -/
theorem State.laneGet_scanAt (hj : (j + 1) * ty.bits ≤ 16384) :
    laneGet ty.bits j (s.scanAt ty a d k r (laneCount s.thr.ngrp ty.bits)).1.v =
      if j < laneCount s.thr.ngrp ty.bits ∧ (s.thr.arch.getM k).getLsbD j = true then
        zext ty.bits (s.scanAt ty a d k r (j + 1)).2 else laneGet ty.bits j (s.thr.arch.getV d) := by
  rw [State.scanAt, min_self, scanTo_v, laneGet_foldl_laneSet _ _ _ hj]
  simp only [mem_activeLanes]
  split
  · next h => rw [State.scanAt, min_eq_left (Nat.succ_le_of_lt h.1)]
  · rfl

variable {n : Nat} (h : s.thr.aslot = .awaiting n) (hc : s.thr.ngrp ≠ 0) (h1 : Bool) (hn : stsNanf s.thr.arch.sts = false)
include h hc hn

theorem State.exec_vscan {p : Pass × Word}
    (hp : s.scanAt ty a d k (s.thr.arch.beside n).rngs (laneCount s.thr.ngrp ty.bits) = p) :
    exec (.vscan ty d a h1 k) s = .next (s.withA (.vec
      (({ (s.thr.arch.beside n).aged (holds h1 false a a) with rngs := p.1.r } : Arch).setV d p.1.v))) := by
  rw [State.scanAt, min_self] at hp
  subst hp
  simp only [exec, execVscan]
  exact State.vecA_ok h _ hc (State.nanCheck_ok _ fun hf => by simp [hn] at hf)

end

end Sys2Proof.Machine

/-- Settles O20: the tree of an integer reduction is the fold of its active elements, in whatever order it combines them, and
a running sum goes on from element to element. -/
theorem reductions : Obligations.Reductions := by
  unfold Obligations.Reductions
  constructor
  · intro s n ty d a h1 k h hc hi num xs r adds out
    refine ⟨State.exec_vred_int h hc .sum d a h1 k hi ?_ (s.redOf_sum_int hi a k _),
      State.exec_vred_int h hc .min d a h1 k hi ?_ ?_, State.exec_vred_int h hc .max d a h1 k hi ?_ ?_⟩
    · rw [State.redOf_draws (c := if stsMode s.thr.arch.sts = .sr then 1 else 0) a k _ fun r x y => ?_]
      · simp only [adds, ite_mul, one_mul, zero_mul]
      · rw [redNode_sum_int hi]
        split <;> rfl
    · rw [State.redOf_draws (c := 0) a k _ fun r x y => rfl, zero_mul]
    · rw [← BitVec.ofInt_toInt (x := BitVec.setWidth _ _), s.redOf_min_int hi]
    · rw [State.redOf_draws (c := 0) a k _ fun r x y => rfl, zero_mul]
    · rw [← BitVec.ofInt_toInt (x := BitVec.setWidth _ _), s.redOf_max_int hi]
  · intro s n op ft ty d a h1 k h hc hfp hn r m E mask leaf tree
    have hleaf : s.redLeaf op ft a k = leaf := by
      funext j
      simp only [State.redLeaf, leaf, E, mask, Bool.and_eq_true, decide_eq_true_eq]
    have htree : s.redOf op ft a k (s.thr.arch.beside n).rngs = tree := by
      rw [State.redOf, hleaf]
      rfl
    refine ⟨htree ▸ State.exec_vred_fp h hc op d a h1 k hfp hn, ?_⟩
    refine ⟨_, fun j => (s.scanAt ty a d k r.rngs j).2, fun j => (s.scanAt ty a d k r.rngs j).1.r,
      State.exec_vscan ty a d k h hc h1 hn rfl, by simp only [State.scanAt_zero], by simp only [State.scanAt_zero],
      fun j hj => ?_⟩
    by_cases hon : j < E ty ∧ mask.getLsbD j = true
    · rw [if_pos hon]
      exact ⟨State.scanAt_active ty a d k _ j hon.1 hon.2, (State.laneGet_scanAt ty a d k _ j hj).trans (if_pos hon)⟩
    · have hstay := State.scanAt_idle ty a d k r.rngs j hon
      rw [if_neg hon]
      exact ⟨congrArg Prod.snd hstay, congrArg (fun p => p.1.r) hstay,
        (State.laneGet_scanAt ty a d k _ j hj).trans (if_neg hon)⟩
end

section
/-! PROOFS. Vector loads and stores (R66, R100, R187 to R190): what an access comes to whose elements can be reached, and what
an access without an active element leaves alone. -/

open Sys2Proof Sys2Proof.Machine

namespace Sys2Proof.Machine

theorem effAddr_eq (a off : Word) : effAddr a off = (a + off).toNat % 2 ^ 57 := by
  simp [effAddr, va57]

/-! ## Accesses whose elements can be reached (R188 to R190) -/

/-- A bundle that loads can be performed: the lines it reads are allocated. -/
theorem State.runC_retireLoad (s : State) (e : Eff) (h : s.fits e = true) :
    s.runC (s.retireLoad e) = .next ((s.retired e).allocD s.thr.core e.reads) := by
  rw [State.runC, State.retireLoad, s.retire_fits e h]
  exact congrArg _ (s.settle_ok _ (State.fits_noFault h))

theorem State.vecC_context {s : State} (r : Res State) (hc : s.thr.ngrp ≠ 0) : s.vecC r = s.runC r := by
  rw [State.vecC, State.context, if_neg hc]

/-- What a vector load of elements of `w` bytes does. -/
def State.vecLoadEff (s : State) (w : Nat) (d : BitVec 5) (es : List ElemAt) : Eff :=
  { Eff.regs (fun r => (s.thr.agedC r).setV d (es.foldl
      (fun v e => laneSet (8 * w) e.i v ((s.combined (elemPas es)).chunkN e.pa w)) (s.thr.arch.getV d))) with
    reads := laddAll [] (es.map (fun e => lineOf e.pa)), pages := elemPages es }

/-- What a vector store of elements of `w` bytes does. -/
def State.vecStoreEff (s : State) (w : Nat) (d : BitVec 5) (es : List ElemAt) : Eff :=
  { Eff.regs (fun r => s.thr.agedC r) with
    stores := es.map (fun e => (e.va, e.pa, w, laneGet (8 * w) e.i (s.thr.arch.getV d))), pages := elemPages es
    spots := spotsOf 0 es }

section
variable {s : State} {w : Nat} {d : BitVec 5} {l : List (Nat × Nat)} {es : List ElemAt} (hc : s.thr.ngrp ≠ 0)
include hc

theorem State.vecC_vecLoad (he : eachOf (s.elemAt .read w) l = .ok es) (hf : s.fits (s.vecLoadEff w d es) = true) :
    s.vecC (s.vecLoad w d l) = .next ((s.retired (s.vecLoadEff w d es)).allocD s.thr.core (s.vecLoadEff w d es).reads) := by
  rw [State.vecC_context _ hc, State.vecLoad, he]
  exact s.runC_retireLoad _ hf

theorem State.vecC_vecStore (he : eachOf (s.elemAt .write w) l = .ok es) (hf : s.fits (s.vecStoreEff w d es) = true) :
    s.vecC (s.vecStore w d l) = .next (s.retired (s.vecStoreEff w d es)) := by
  rw [State.vecC_context _ hc, State.vecStore, he]
  exact s.runC_retire _ hf

end

/-- The offset that an index vector gives an element (R189), as a signed number of elements. -/
theorem State.indexOf_eq (s : State) (b : BitVec 5) {w : Nat} (hw : w ≤ 8) (i : Nat) : s.indexOf b w i =
    ((laneGet (8 * w) i (s.thr.arch.getV b)).setWidth (8 * w)).toInt * w := by
  rw [State.indexOf, sext, BitVec.toInt_signExtend_of_le (by omega)]

theorem sizeBytes_le (z : Size) : sizeBytes z ≤ 8 := by cases z <;> decide

/-- The checks of a typed access that its tag decides are passed (R181, R190). -/
theorem State.typedTag_ok {s : State} {p : Word} {store strided : Bool} (hf : (pFmt p).toNat < 14) (hc : s.thr.ngrp ≠ 0)
    (ht : tagOk p = true) (hb : store = true → strided = false ∨ pBlk p = 0) : s.typedTag p store strided = .ok () := by
  rw [State.typedTag, if_neg (by simpa [fmtReserved] using hf), if_neg hc, if_neg (by simp [ht]), if_neg]
  cases store with
  | false => simp
  | true => rcases hb rfl with h | h <;> simp [h]

/-! ## An access without an active element (R100, R187) -/

/-- No element of an empty mask is accessed. -/
theorem State.vecElems_zero {s : State} {k : BitVec 3} (h : s.thr.arch.getM k = 0) (w : Nat) (off : Nat → Int) (ea : Nat) :
    s.vecElems w k off ea = [] := by
  simp [State.vecElems, activeLanes, h]

@[simp] theorem Thread.agedC_x (t : Thread) (a : Arch) : (t.agedC a).x = a.x := by
  unfold Thread.agedC
  split <;> rfl

@[simp] theorem Thread.agedC_v (t : Thread) (a : Arch) : (t.agedC a).v = a.v := by
  unfold Thread.agedC
  split <;> rfl

theorem xput_xat {α : Type} (v : Vector α 32) (i : BitVec 5) : xput v i (xat v i) = v := Vector.set_getElem_self _

/-- The outcome is a bundle that accessed nothing and wrote at most vD. -/
def State.accessesNothing (s : State) (d : BitVec 5) (o : Out) : Prop :=
  ∃ t, o = .next t ∧ t.mem = s.mem ∧ t.thr.chunk.buf = s.thr.chunk.buf ∧ t.thr.chunk.reads = s.thr.chunk.reads
    ∧ t.thr.arch.x = s.thr.pending.x ∧ t.thr.arch.v = s.thr.pending.v.set d.toNat (t.thr.arch.getV d) (by omega)

theorem State.accessesNothing_retired {s : State} {d : BitVec 5} {u : Arch → Arch}
    (hx : (u s.thr.pending).x = s.thr.pending.x)
    (hv : (u s.thr.pending).v = xput s.thr.pending.v d (xat (u s.thr.pending).v d)) :
    s.accessesNothing d (.next (s.retired (Eff.regs u))) :=
  ⟨_, rfl, rfl, rfl, rfl, hx, hv⟩

section
variable {s : State} (w : Nat) (d : BitVec 5) {l : List (Nat × Nat)} (hl : l = []) (hc : s.thr.ngrp ≠ 0)
  (hf : s.fits Eff.none = true)
include hl hc hf

theorem State.vecStore_nil : s.accessesNothing d (s.vecC (s.vecStore w d l)) := by
  subst hl
  rw [State.vecC_vecStore (es := []) hc rfl hf]
  exact State.accessesNothing_retired (s.thr.agedC_x _) (by simp [Eff.regs, xput_xat])

theorem State.vecLoad_nil : s.accessesNothing d (s.vecC (s.vecLoad w d l)) := by
  subst hl
  rw [State.vecC_vecLoad (es := []) hc rfl hf]
  exact State.accessesNothing_retired (s.thr.agedC_x _) (by simp [Eff.regs, Arch.setV])

end

end Sys2Proof.Machine

/-- Settles O26: each access is its checks, which the hypotheses pass, and then one bundle that can be performed; without an
active element that bundle has no address. -/
theorem vectorAccesses : Obligations.VectorAccesses := by
  unfold Obligations.VectorAccesses
  refine ⟨?load, ?store, ?typed, ?empty⟩
  case load =>
    intro s z d a b k off es es' w ea lanes stride addr idx v e out hc
    have hea : effAddr (s.thr.arch.getX a) (off.signExtend 64) = ea := effAddr_eq _ _
    refine ⟨fun he hf => ?_, fun he hf => ?_⟩
    · simp only [exec, execVld, hea]
      exact State.vecC_vecLoad hc he hf
    · simp only [exec, execVldx, hea]
      refine State.vecC_vecLoad hc ?_ hf
      rw [← he]
      simp only [State.vecElems, State.indexOf_eq _ _ (sizeBytes_le z)]
      rfl
  case store =>
    intro s z d a b k off es es' w ea lanes stride addr idx e hc
    have hea : effAddr (s.thr.arch.getX a) (off.signExtend 64) = ea := effAddr_eq _ _
    refine ⟨fun he hf => ?_, fun he hf => ?_⟩
    · simp only [exec, execVst, hea]
      exact State.vecC_vecStore hc he hf
    · simp only [exec, execVstx, hea]
      refine State.vecC_vecStore hc ?_ hf
      rw [← he]
      simp only [State.vecElems, State.indexOf_eq _ _ (sizeBytes_le z)]
      rfl
  case typed =>
    intro s d a b k off es es' p ea f w stride l v el scales whole est hc hf ht
    have hea : effAddr p (off.signExtend 64) = ea := effAddr_eq _ _
    have hl : s.typedElems p b k = l := rfl
    refine ⟨fun he hfit => ?_, fun hb he hfit => ?_⟩
    · simp only [exec, execVldt]
      rw [State.typedTag_ok hf hc ht (by simp), hea, hl, he]
      exact s.runC_retireLoad el hfit
    · simp only [exec, execVstt]
      rw [State.typedTag_ok hf hc ht fun _ => hb.imp_left (by rintro rfl; rfl), hea, hl, he]
      exact s.runC_retire est hfit
  case empty =>
    intro s z d a b k off hm hc hf
    have store (off ea) := State.vecStore_nil (sizeBytes z) d (State.vecElems_zero hm (sizeBytes z) off ea) hc hf
    have load (off ea) := State.vecLoad_nil (sizeBytes z) d (State.vecElems_zero hm (sizeBytes z) off ea) hc hf
    simp only [List.forall_mem_cons, List.not_mem_nil, false_imp_iff, implies_true, and_true]
    exact ⟨store _ _, store _ _, load _ _, load _ _⟩
end

section
/-! PROOFS. The end of a loom command that is alone in its queue (R113, R117, R118): what LDONE's write event leaves alone, and
the loom as the command leaves it. -/

open Sys2Proof Sys2Proof.Machine

namespace Sys2Proof.Machine

/-! ## Crews that live on -/

/-- The thread has not halted and is of a crew. -/
def Thread.livesIn (k : BitVec 4 × Nat × Nat) (t : Thread) : Bool := t.live && t.run != .retained && t.crewKey == k

theorem State.crewLives_eq (s : State) (k : BitVec 4 × Nat × Nat) : s.crewLives k = s.threads.any (Thread.livesIn k) := rfl

theorem Thread.strike_livesIn (k : BitVec 4 × Nat × Nat) (src : Option ThreadId) (b : Bool) (ls : List Nat) (t : Thread) :
    (t.strike src b ls).livesIn k = t.livesIn k := by
  unfold Thread.strike
  split <;> rfl

theorem Thread.light_livesIn (k : BitVec 4 × Nat × Nat) (f : Thread → BitVec 4) (code : Nat) (t : Thread) :
    (t.light f code).livesIn k = t.livesIn k := by
  unfold Thread.light
  split <;> rfl

theorem State.barSeen_livesIn (s : State) (k : BitVec 4 × Nat × Nat) (bs : List Nat) (t : Thread) :
    (s.barSeen bs t).livesIn k = t.livesIn k := by
  unfold State.barSeen
  split
  · next d va pa ph x y hrun =>
    split
    · simp only [Thread.livesIn, Thread.live, hrun]
      rfl
    · rfl
  · rfl

/-- A write event changes no thread's crew, and ends none. -/
theorem State.written_crewLives (s : State) (src : Option ThreadId) (b : Bool) (bs : List Nat) (k : BitVec 4 × Nat × Nat) :
    (s.written src b bs).crewLives k = s.crewLives k := by
  have hmap : (s.written src b bs).threads =
      s.threads.map fun t => s.barSeen bs ((t.strike src b (lsort (bs.map lineOf))).light (s.fired bs) 1) := rfl
  rw [State.crewLives_eq, State.crewLives_eq, hmap, List.any_map]
  congr 1
  funext t
  exact (s.barSeen_livesIn k bs _).trans ((Thread.light_livesIn ..).trans (Thread.strike_livesIn ..))

/-! ## A loom that is written -/

section
variable (s : State) (cl : BitVec 7) (l : Loom)

@[simp] theorem State.putLoom_loom : ((s.putLoom cl l).cluster cl).loom = l := by
  rw [State.putLoom, State.cluster_setCluster]

@[simp] theorem State.setLoom_loom : ((s.setLoom cl l).cluster cl).loom = l := s.putLoom_loom cl l

theorem State.putLoom_crewLives (k : BitVec 4 × Nat × Nat) : (s.putLoom cl l).crewLives k = s.crewLives k := rfl

theorem State.setLoom_crewLives (k : BitVec 4 × Nat × Nat) : (s.setLoom cl l).crewLives k = s.crewLives k :=
  State.written_crewLives _ none false _ k

end

/-- A loom whose crew lives on keeps its context. -/
theorem State.releaseLoom_owned {s : State} {cl : BitVec 7} {k : BitVec 4 × Nat × Nat}
    (ho : (s.cluster cl).loom.owner = some k) (hk : s.crewLives k = true) : s.releaseLoom cl = s := by
  rw [State.releaseLoom, if_neg]
  simp [State.canReleaseLoom, ho, hk]

/-! ## A command that completes (R117) -/

/-- A loom whose only command has completed. -/
def Loom.ended (l : Loom) (seq now : Nat) : Loom := { l with queue := [], ldone := seq, lastRun := now }

theorem Loom.ended_tile (l : Loom) (seq now : Nat) (t : BitVec 3) : (l.ended seq now).tile t = l.tile t := rfl

theorem State.linkLoad_compute (s : State) (cl : BitVec 7) {c : LoomCmd} (i : Option Nat) (h : c.op.isLoad = false) :
    s.linkLoad cl c i = s := by
  unfold State.linkLoad
  split
  · rfl
  · dsimp only
    split <;> simp_all [LoomOp.isLoad]

/-- The one command of a loom, done and without an entry, is counted. -/
theorem State.countDone_alone {s : State} {cl : BitVec 7} {c : LoomCmd} (hq : (s.cluster cl).loom.queue = [c])
    (hc : c.complete = true) (hop : c.op.isLoad = false) : State.countDone cl (s.cluster cl).loom.queue.length s =
      s.putLoom cl { (s.cluster cl).loom with ldone := c.seq, queue := [] } := by
  simp [State.countDone, hq, hc, State.popDone, s.linkLoad_compute cl none hop]

theorem State.loomCount_alone {s : State} {cl : BitVec 7} {c : LoomCmd} {k : BitVec 4 × Nat × Nat} (before : Option Loom)
    (hq : (s.cluster cl).loom.queue = [c]) (hc : c.complete = true) (hop : c.op.isLoad = false)
    (ho : (s.cluster cl).loom.owner = some k) (hk : s.crewLives k = true) :
    ((s.loomCount cl before).cluster cl).loom = (s.cluster cl).loom.ended c.seq s.cyc := by
  unfold State.loomCount
  rw [State.countDone_alone hq hc hop]
  extract_lets _ s1 _ l
  have hl : l = (s.cluster cl).loom.ended c.seq s.cyc :=
    congrArg (fun l : Loom => { l with lastRun := s.cyc }) (s.putLoom_loom cl _)
  split
  · rw [State.releaseLoom_owned (k := k)]
    · exact (State.setLoom_loom _ _ _).trans hl
    · exact (congrArg Loom.owner ((State.setLoom_loom _ _ _).trans hl)).trans ho
    · exact (State.setLoom_crewLives _ _ _ k).trans hk
  · split
    · exact (State.setLoom_loom _ _ _).trans hl
    · exact (State.putLoom_loom _ _ _).trans hl

/-- A compute command alone in its queue, without a daybook, is done. -/
theorem State.loomDone_alone {s : State} {cl : BitVec 7} {c d : LoomCmd} {k : BitVec 4 × Nat × Nat}
    (hq : (s.cluster cl).loom.queue = [d]) (hd : d.seq = c.seq) (hb : wNpg c.dbk = 0) (hop : c.op.isLoad = false)
    (ho : (s.cluster cl).loom.owner = some k) (hk : s.crewLives k = true) :
    ((s.loomDone cl c).cluster cl).loom = (s.cluster cl).loom.ended c.seq s.cyc := by
  have hput : ((s.cluster cl).loom.put { c with phase := .done, pend := [] }).queue =
      [{ c with phase := .done, pend := [] }] := by
    simp [Loom.put, hq, hd]
  unfold State.loomDone
  rw [State.loomCount_alone (c := { c with phase := .done, pend := [] }) (k := k)]
  · rw [State.putLoom_loom]
    rfl
  · rw [State.putLoom_loom, hput]
  · simp [LoomCmd.complete, LoomCmd.unrecorded, hb]
  · exact hop
  · rw [State.putLoom_loom]
    exact ho
  · exact hk

/-- A started command is alone in the queue of a loom of a crew that lives on: its operands are read, the NaN check is off and
recording takes no entry of it. -/
structure State.runsAlone (s : State) (cl : BitVec 7) (c : LoomCmd) : Prop where
  owned : ∃ k, (s.cluster cl).loom.owner = some k ∧ s.crewLives k = true
  queue : (s.cluster cl).loom.queue = [c]
  phase : c.phase = .started
  mapped : (s.cluster cl).loom.mapped = false
  nan : c.nanf = false ∨ c.nanOff = true
  book : wNpg c.dbk = 0
  read : ((c.readArgs (isWide cl)).flatMap (fun g => g.needed c.swin)).all (fun a => (tfind c.buf a).isSome) = true

section
variable {s : State} {cl : BitVec 7} {c : LoomCmd} (h : s.runsAlone cl c)
include h

theorem State.runsAlone.exec_eq : exec (.loomCommandComplete cl c.seq) s = .next (s.loomRun cl c) := by
  have hfind : (s.cluster cl).loom.queue.find? (fun d => d.seq == c.seq) = some c := by simp [h.queue]
  have hread : ((c.readArgs (isWide cl)).flatMap (fun g => g.needed c.swin)).find?
      (fun a => (tfind c.buf a).isNone) = none := by
    rw [List.find?_eq_none]
    intro a ha
    simpa [Option.isSome_iff_ne_none] using List.all_eq_true.1 h.read a ha
  show execLoomCommandComplete cl c.seq s = _
  simp only [execLoomCommandComplete, hfind, h.mapped, h.phase, hread, Bool.false_eq_true, if_false]

/-- The loom of a command that writes tiles. -/
theorem State.runsAlone.loom_tilesDone (hop : c.op.isLoad = false) (p : List Byte) (t : BitVec 3) (f : TFmt) (two : Bool)
    (out : List CellOut) : ((s.tilesDone cl { c with payload := p } t f two out).cluster cl).loom =
      (if two then ((s.cluster cl).loom.setTile t (tileFrom f t out)).setTile (t + 1) (tileFrom f (t + 1) out)
        else (s.cluster cl).loom.setTile t (tileFrom f t out)).ended c.seq s.cyc := by
  obtain ⟨k, ho, hk⟩ := h.owned
  have hcheck : (c.nanf && !c.nanOff) = false := by rcases h.nan with hn | hn <;> simp [hn]
  unfold State.tilesDone
  simp only [hcheck, Bool.false_eq_true, if_false]
  rw [State.loomDone_alone (d := c) (k := k)]
  · rw [State.putLoom_loom]
    rfl
  · rw [State.putLoom_loom]
    split <;> exact h.queue
  · rfl
  · exact h.book
  · exact hop
  · rw [State.putLoom_loom]
    split <;> exact ho
  · exact hk

end

end Sys2Proof.Machine
end

section
/-! PROOFS. What the tile commands leave in a tile (R75, R114, R121 to R124): the codes of a tile that is made from results, the
results of the products and of the functions, and the tiles of a loom whose only command has completed. -/

open Sys2Proof Sys2Proof.Machine

namespace Sys2Proof.Machine

/-! ## The codes of a tile made from results -/

/-- The entry of a result in the tile that it is written to. -/
def CellOut.entry (f : TFmt) (c : CellOut) : Option (Nat × Word) :=
  if encodeVal f.fmt c.v = 0 then none else some (512 * c.i + c.j, BitVec.ofNat 64 (encodeVal f.fmt c.v))

theorem tileFrom_eq (f : TFmt) (t : BitVec 3) (l : List CellOut) :
    tileFrom f t l = ⟨f, (l.filter (fun c => c.t == t)).filterMap (CellOut.entry f)⟩ := rfl

/-- Entries at a key that all have one value, +0 among them. -/
theorem tget_filterMap_entry {f : TFmt} {k : Nat} {v : Val} (l : List CellOut) (h : ∀ c ∈ l, 512 * c.i + c.j = k → c.v = v)
    (hk : (∃ c ∈ l, 512 * c.i + c.j = k) ∨ encodeVal f.fmt v = 0) :
    tget 0 (l.filterMap (CellOut.entry f)) k = BitVec.ofNat 64 (encodeVal f.fmt v) := by
  induction l with
  | nil =>
    obtain ⟨c, hc, -⟩ | h0 := hk
    · cases hc
    · rw [h0]
      rfl
  | cons c l ih =>
    have hl : ∀ d ∈ l, 512 * d.i + d.j = k → d.v = v := fun d hd => h d (List.mem_cons_of_mem c hd)
    by_cases hz : encodeVal f.fmt c.v = 0
    · have hnone : c.entry f = none := if_pos hz
      rw [List.filterMap_cons_none hnone]
      refine ih hl ?_
      obtain ⟨d, hd, hdk⟩ | h0 := hk
      · obtain rfl | hd := List.mem_cons.1 hd
        · exact .inr (h d List.mem_cons_self hdk ▸ hz)
        · exact .inl ⟨d, hd, hdk⟩
      · exact .inr h0
    · have hsome : c.entry f = some (512 * c.i + c.j, BitVec.ofNat 64 (encodeVal f.fmt c.v)) := if_neg hz
      rw [List.filterMap_cons_some hsome, tget]
      split
      · next heq => rw [h c List.mem_cons_self heq]
      · next hne =>
        refine ih hl (hk.imp_left ?_)
        rintro ⟨d, hd, hdk⟩
        obtain rfl | hd := List.mem_cons.1 hd
        · exact absurd hdk hne
        · exact ⟨d, hd, hdk⟩

/-- An element of a tile whose results at that place all have one value. -/
theorem code_tileFrom {f : TFmt} {t : BitVec 3} {l : List CellOut} {i j : Nat} {v : Val}
    (h : ∀ c ∈ l, c.t = t → 512 * c.i + c.j = 512 * i + j → c.v = v)
    (hk : (∃ c ∈ l, c.t = t ∧ 512 * c.i + c.j = 512 * i + j) ∨ encodeVal f.fmt v = 0) :
    (tileFrom f t l).code i j = BitVec.ofNat 64 (encodeVal f.fmt v) := by
  rw [tileFrom_eq]
  refine tget_filterMap_entry _ (fun c hc hck => ?_) (hk.imp_left ?_)
  · obtain ⟨hm, ht⟩ := List.mem_filter.1 hc
    exact h c hm (by simpa using ht) hck
  · rintro ⟨c, hm, ht, hck⟩
    exact ⟨c, List.mem_filter.2 ⟨hm, by simpa using ht⟩, hck⟩

theorem mem_cellsIn {f : TFmt} {p : Nat × Nat} : p ∈ cellsIn f ↔ p.1 < 64 ∧ p.2 < f.width := by
  obtain ⟨i, j⟩ := p
  simp [cellsIn]

theorem TFmt.width_le (f : TFmt) : f.width ≤ 512 := by cases f <;> decide

/-- A tile with a result for each of its elements. -/
theorem code_tileFrom_cells {f : TFmt} {t : BitVec 3} {v : Nat → Nat → Val} {g : Nat × Nat → Nat} {i j : Nat} (hi : i < 64)
    (hj : j < f.width) : (tileFrom f t ((cellsIn f).map fun p => ⟨t, p.1, p.2, v p.1 p.2, g p⟩)).code i j =
      BitVec.ofNat 64 (encodeVal f.fmt (v i j)) := by
  refine code_tileFrom (fun c hc _ hk => ?_) 
    (.inl ⟨_, List.mem_map.2 ⟨(i, j), mem_cellsIn.2 ⟨hi, hj⟩, rfl⟩, rfl, rfl⟩)
  obtain ⟨p, hp, rfl⟩ := List.mem_map.1 hc
  obtain ⟨-, hp2⟩ := mem_cellsIn.1 hp
  have hw := f.width_le
  dsimp only at hk ⊢
  rw [show p.1 = i by omega, show p.2 = j by omega]

/-! ## Products (R75, R122) -/

theorem encodeVal_zero (f : TFmt) : encodeVal f.fmt .zero = 0 := by cases f <;> decide

/-- An element of `tmul`: the old one plus the rounded group sums. -/
def Loom.tmulVal (l : Loom) (t : BitVec 3) (w : BitVec 2) (f : BitVec 4) (i j : Nat) : Val :=
  groupSums (workFmt (f == 5)).fmt (groupLen f) (warpShape f).1 ((l.tile t).val i j)
    (fun q => mulVal (l.weft.val i q) ((l.warp w).val q j))

/-- Column `p` of the product of a `tmult`, in column `j` of tile `x`. -/
def Loom.tmultVal (l : Loom) (x : BitVec 3) (w : BitVec 2) (f : BitVec 4) (i j p : Nat) : Val :=
  groupSums (workFmt (f == 5)).fmt (groupLen f) (warpShape f).2 ((l.tile x).val i j)
    (fun q => mulVal (l.weft.val i q) ((l.warp w).val p q))

/-- The tile that column `p` of the product of a `tmult` goes to. -/
def tmultTile (t : BitVec 3) (f : BitVec 4) (p : Nat) : BitVec 3 := if p < (warpShape f).2 then t else t + 1

/-- A product that goes on in another tile does not come back to the first. -/
theorem tile_ne_succ (t : BitVec 3) : t ≠ t + 1 := by
  revert t
  decide

/-- A warp has as many rows as columns, or 1,024 rows and 512 columns (R19). -/
theorem warpShape_cases (f : BitVec 4) : (warpShape f).1 = (warpShape f).2 ∧ (warpShape f).2 ≤ (workFmt (f == 5)).width ∨
    (warpShape f).1 = 1024 ∧ (warpShape f).2 = 512 := by
  revert f
  decide

section
variable {l : Loom} {t : BitVec 3} {w : BitVec 2} {f : BitVec 4} {b : BitVec 3} (hw : (l.warp w).fmt = some (f, b))
include hw

theorem Loom.code_tmulOut {i j : Nat} (hi : i < 64) (hj : j < (workFmt (f == 5)).width) :
    (tileFrom (workFmt (f == 5)) t (l.tmulOut t w)).code i j =
      BitVec.ofNat 64 (encodeVal (workFmt (f == 5)).fmt (l.tmulVal t w f i j)) := by
  simp only [Loom.tmulOut, hw, Option.map_some, Option.getD_some]
  exact code_tileFrom_cells (v := l.tmulVal t w f) hi hj

/-- The results of a `tmult`, one for each column of the product in each row. -/
theorem Loom.mem_tmultOut {c : CellOut} (hc : c ∈ l.tmultOut t w) : ∃ p < (warpShape f).1, c.t = tmultTile t f p ∧ c.i < 64
    ∧ c.j = p % (warpShape f).2 ∧ c.v = l.tmultVal (tmultTile t f p) w f c.i (p % (warpShape f).2) p := by
  simp only [Loom.tmultOut, hw, Option.map_some, Option.getD_some, List.mem_flatMap, List.mem_map, List.mem_range] at hc
  obtain ⟨i, hi, p, hp, rfl⟩ := hc
  exact ⟨p, hp, rfl, hi, rfl, rfl⟩

theorem Loom.exists_mem_tmultOut {i p : Nat} (hi : i < 64) (hp : p < (warpShape f).1) : ∃ c ∈ l.tmultOut t w,
    c.t = tmultTile t f p ∧ c.i = i ∧ c.j = p % (warpShape f).2 := by
  simp only [Loom.tmultOut, hw, Option.map_some, Option.getD_some, List.mem_flatMap, List.mem_map, List.mem_range]
  exact ⟨_, ⟨i, hi, p, hp, rfl⟩, rfl, rfl, rfl⟩

/-- The first tile of a `tmult`: the columns of the product within its width, and else +0. -/
theorem Loom.code_tmultOut_first {i j : Nat} (hi : i < 64) (hj : j < (workFmt (f == 5)).width) :
    (tileFrom (workFmt (f == 5)) t (l.tmultOut t w)).code i j = BitVec.ofNat 64 (encodeVal (workFmt (f == 5)).fmt
      (if j < min (warpShape f).1 (warpShape f).2 then l.tmultVal t w f i j j else .zero)) := by
  have hwidth := (workFmt (f == 5)).width_le
  refine code_tileFrom (fun c hc ht hk => ?_) ?_
  · obtain ⟨p, hp, htp, -, hjp, hv⟩ := Loom.mem_tmultOut hw hc
    have hlt : p < (warpShape f).2 := by
      by_contra hge
      exact tile_ne_succ t (((htp.trans (if_neg hge)).symm.trans ht).symm)
    have hn : (warpShape f).2 ≤ 512 := by rcases warpShape_cases f with h | h <;> omega
    rw [Nat.mod_eq_of_lt hlt] at hjp hv
    have hij : c.i = i ∧ p = j := by omega
    obtain ⟨rfl, rfl⟩ := hij
    rw [if_pos (lt_min hp hlt), hv, tmultTile, if_pos hlt]
  · split
    · next hlt =>
      obtain ⟨hp, hn⟩ := lt_min_iff.1 hlt
      obtain ⟨c, hc, ht, hci, hcj⟩ := Loom.exists_mem_tmultOut (t := t) hw hi hp
      refine .inl ⟨c, hc, ht.trans (if_pos hn), ?_⟩
      rw [hci, hcj, Nat.mod_eq_of_lt hn]
    · exact .inr (encodeVal_zero _)

/-- The second tile of a `tmult` of a warp with more rows than columns. -/
theorem Loom.code_tmultOut_second {i j : Nat} (hshape : (warpShape f).2 < (warpShape f).1) (hi : i < 64)
    (hj : j < (warpShape f).2) : (tileFrom (workFmt (f == 5)) (t + 1) (l.tmultOut t w)).code i j =
      BitVec.ofNat 64 (encodeVal (workFmt (f == 5)).fmt (l.tmultVal (t + 1) w f i j ((warpShape f).2 + j))) := by
  obtain ⟨h1, h2⟩ : (warpShape f).1 = 1024 ∧ (warpShape f).2 = 512 := by
    rcases warpShape_cases f with h | h
    · omega
    · exact h
  refine code_tileFrom (fun c hc ht hk => ?_) (.inl ?_)
  · obtain ⟨p, hp, htp, -, hjp, hv⟩ := Loom.mem_tmultOut hw hc
    have hge : ¬ p < (warpShape f).2 := fun hlt => tile_ne_succ t ((htp.trans (if_pos hlt)).symm.trans ht)
    have hpm : p % (warpShape f).2 = p - 512 := by rw [h2]; omega
    have hij : c.i = i ∧ p % (warpShape f).2 = j ∧ p = (warpShape f).2 + j := by omega
    obtain ⟨hci, hpj, hp'⟩ := hij
    rw [hv, tmultTile, if_neg hge, hpj, hci, ← hp']
  · have hp : (warpShape f).2 + j < (warpShape f).1 := by omega
    obtain ⟨c, hc, ht, hci, hcj⟩ := Loom.exists_mem_tmultOut (t := t) hw hi hp
    refine ⟨c, hc, ht.trans (if_neg (by omega)), ?_⟩
    rw [hci, hcj, Nat.add_mod_left, Nat.mod_eq_of_lt hj]

end

/-! ## What a computing command runs (R121 to R124) -/

/-- The value of an element of operand `i` of a command, +0 where it has no such operand. -/
def LoomCmd.argVal (c : LoomCmd) (wide : Bool) (i r j : Nat) : Val :=
  match (c.readArgs wide)[i]? with
  | some g => g.valIn c.swin c.buf r j
  | none => .zero

section
variable {s : State} {cl : BitVec 7} {c : LoomCmd} {t : BitVec 3} {w : BitVec 2} {f : BitVec 4} {b : BitVec 3}

theorem State.loomRun_tmul (hop : c.op = .tmul t w) (hw : ((s.cluster cl).loom.warp w).fmt = some (f, b)) :
    s.loomRun cl c = s.tilesDone cl c t (workFmt (f == 5)) false ((s.cluster cl).loom.tmulOut t w) := by
  simp only [State.loomRun, hop, hw, Option.map_some, Option.getD_some]

theorem State.loomRun_tmult (hop : c.op = .tmult t w) (hw : ((s.cluster cl).loom.warp w).fmt = some (f, b)) :
    s.loomRun cl c = s.tilesDone cl c t (workFmt (f == 5)) (decide ((warpShape f).2 < (warpShape f).1))
      ((s.cluster cl).loom.tmultOut t w) := by
  simp only [State.loomRun, hop, hw, Option.map_some, Option.getD_some]

theorem State.loomRun_touter (hop : c.op = .touter t) : s.loomRun cl c =
    s.tilesDone cl c t (workFmt (fp64Vec c.opa && fp64Vec c.opb)) false (mapOut t ((s.cluster cl).loom.tile t)
      (workFmt (fp64Vec c.opa && fp64Vec c.opb))
      (fun i j x => addVal .rne x (mulVal (c.argVal (isWide cl) 0 0 i) (c.argVal (isWide cl) 1 0 j)))) := by
  simp only [State.loomRun, hop]
  rfl

theorem State.loomRun_bias (hop : c.op = .bias t) : s.loomRun cl c =
    s.tilesDone cl c t (workFmt (fp64Vec c.opa)) false (mapOut t ((s.cluster cl).loom.tile t) (workFmt (fp64Vec c.opa))
      (fun _ j x => addVal .rne x (c.argVal (isWide cl) 0 0 j))) := by
  simp only [State.loomRun, hop]
  rfl

/-- A `tew` that reads no vector keeps something for its entry, and writes its function of each element. -/
theorem State.loomRun_tew (s : State) (cl : BitVec 7)
    (hop : c.op ∈ [LoomOp.scale t, .relu t, .gelu t, .silu t, .clamp t]) : ∃ keep, s.loomRun cl c = s.tewDone cl c t keep := by
  simp only [List.mem_cons, List.not_mem_nil, or_false] at hop
  rcases hop with hop | hop | hop | hop | hop
  all_goals exact ⟨_, by simp only [State.loomRun, hop]; rfl⟩

end

/-- The fixed functions of R124 leave a zero as it is. -/
theorem activation_zero (g : Nat → Nat → Bool → Nat → Int) (free : FpTy → Word → Word) (f : TFmt) (b : Bool) (e : Int) :
    activation g free f (.fin b 0 e) = .fin b 0 e := by
  simp [activation]

/-! ## The tiles that a command leaves -/

/-- The command completes, and leaves tile `t` in a format with given values in its elements. -/
def State.gives (s : State) (cl : BitVec 7) (seq : Nat) (t : BitVec 3) (af : TFmt) (v : Nat → Nat → Val) : Prop :=
  ∃ u, exec (.loomCommandComplete cl seq) s = .next u
    ∧ ((u.cluster cl).loom.tile t).fmt = af ∧ (u.cluster cl).loom.ldone = seq ∧ (u.cluster cl).loom.queue = []
    ∧ ∀ i < 64, ∀ j < af.width, ((u.cluster cl).loom.tile t).code i j = BitVec.ofNat 64 (encodeVal af.fmt (v i j))

@[simp] theorem Loom.tile_setTile (l : Loom) (t : BitVec 3) (k : Tile) : (l.setTile t k).tile t = k := tget_tset_same ..

theorem Loom.tile_setTile_other (l : Loom) {t x : BitVec 3} (k : Tile) (h : x ≠ t) : (l.setTile t k).tile x = l.tile x :=
  tget_tset_other _ _ _ fun he => h (BitVec.eq_of_toNat_eq he)

section
variable {s : State} {cl : BitVec 7} {c : LoomCmd} (h : s.runsAlone cl c)
include h

/-- The tile that a computing command names. -/
theorem State.runsAlone.firstTile_tilesDone (hop : c.op.isLoad = false) (p : List Byte) (t : BitVec 3) (f : TFmt) (two : Bool)
    (out : List CellOut) :
    ((s.tilesDone cl { c with payload := p } t f two out).cluster cl).loom.tile t = tileFrom f t out := by
  rw [h.loom_tilesDone hop, Loom.ended_tile]
  split
  · rw [Loom.tile_setTile_other _ _ (tile_ne_succ t), Loom.tile_setTile]
  · exact Loom.tile_setTile ..

/-- The tile after it, where its product goes on. -/
theorem State.runsAlone.secondTile_tilesDone (hop : c.op.isLoad = false) (p : List Byte) (t : BitVec 3) (f : TFmt)
    (out : List CellOut) :
    ((s.tilesDone cl { c with payload := p } t f true out).cluster cl).loom.tile (t + 1) = tileFrom f (t + 1) out := by
  rw [h.loom_tilesDone hop, Loom.ended_tile]
  exact Loom.tile_setTile ..

theorem State.runsAlone.gives_tilesDone (hop : c.op.isLoad = false) {p : List Byte} {t : BitVec 3} {f : TFmt} {two : Bool}
    {out : List CellOut} {v : Nat → Nat → Val} (hrun : s.loomRun cl c = s.tilesDone cl { c with payload := p } t f two out)
    (hv : ∀ i < 64, ∀ j < f.width, (tileFrom f t out).code i j = BitVec.ofNat 64 (encodeVal f.fmt (v i j))) :
    s.gives cl c.seq t f v := by
  have hloom := h.loom_tilesDone hop p t f two out
  have htile := h.firstTile_tilesDone hop p t f two out
  refine ⟨_, h.exec_eq.trans (congrArg _ hrun), congrArg Tile.fmt htile, ?_, ?_, fun i hi j hj => ?_⟩
  · rw [hloom]
    rfl
  · rw [hloom]
    rfl
  · rw [htile, hv i hi j hj]

/-- A function on every element of a tile. -/
theorem State.runsAlone.gives_mapOut (hop : c.op.isLoad = false) {p : List Byte} {t : BitVec 3} {f : TFmt}
    {g : Nat → Nat → Val → Val}
    (hrun : s.loomRun cl c = s.tilesDone cl { c with payload := p } t f false (mapOut t ((s.cluster cl).loom.tile t) f g)) :
    s.gives cl c.seq t f (fun i j => tileRound f.fmt (g i j (((s.cluster cl).loom.tile t).val i j))) :=
  h.gives_tilesDone hop hrun fun _ hi _ hj =>
    code_tileFrom_cells (v := fun i j => tileRound f.fmt (g i j (((s.cluster cl).loom.tile t).val i j))) hi hj

/-- A `tew` that reads no vector: one rounding of its function of each element. -/
theorem State.runsAlone.gives_tew {op : LoomOp} {t : BitVec 3} (hop : c.op = op)
    (hmem : op ∈ [LoomOp.scale t, .relu t, .gelu t, .silu t, .clamp t]) :
    s.gives cl c.seq t ((s.cluster cl).loom.tile t).fmt.fixed (fun i j =>
      tileRound ((s.cluster cl).loom.tile t).fmt.fixed.fmt (tewFun op ((s.cluster cl).loom.tile t).fmt.fixed c.opa c.opb
        (fun _ => .zero) j (((s.cluster cl).loom.tile t).val i j))) := by
  subst hop
  obtain ⟨keep, hrun⟩ := State.loomRun_tew s cl hmem
  refine h.gives_mapOut ?_ hrun
  simp only [List.mem_cons, List.not_mem_nil, or_false] at hmem
  rcases hmem with hop | hop | hop | hop | hop
  all_goals rw [hop]; rfl

theorem State.runsAlone.gives_tzero {t : BitVec 3} (hop : c.op = .tzero t) : s.gives cl c.seq t .clear (fun _ _ => .zero) := by
  obtain ⟨k, ho, hk⟩ := h.owned
  have hloom : ((s.loomRun cl c).cluster cl).loom = ((s.cluster cl).loom.setTile t Tile.clear).ended c.seq s.cyc := by
    simp only [State.loomRun, hop]
    rw [State.loomDone_alone (d := c) (k := k)]
    · rw [State.putLoom_loom]
      rfl
    · rw [State.putLoom_loom]
      exact h.queue
    · rfl
    · exact h.book
    · rfl
    · rw [State.putLoom_loom]
      exact ho
    · exact hk
  have htile : ((s.loomRun cl c).cluster cl).loom.tile t = Tile.clear := by
    rw [hloom, Loom.ended_tile, Loom.tile_setTile]
  refine ⟨_, h.exec_eq, congrArg Tile.fmt htile, congrArg Loom.ldone hloom, congrArg Loom.queue hloom, fun i _ j _ => ?_⟩
  rw [htile, encodeVal_zero]
  rfl

end

end Sys2Proof.Machine

/-- Settles O51: the command, alone in its queue, is counted in the event that writes its tiles, and each tile has the results
of the command at its elements. -/
theorem tileResults : Obligations.TileResults := by
  unfold Obligations.TileResults
  intro s cl c t w f b l wide k arg gives act once howned hq hphase hmapped hnan hbook hread
  have h : s.runsAlone cl c := ⟨howned, hq, hphase, hmapped, hnan, hbook, hread⟩
  refine ⟨fun hop hw hb => ?tmul, fun hop hw hb hshape => ?narrow, fun hop hw hb hshape => ?tall, fun hop => ?gelu,
    fun hop => ?silu, fun hop => ?touter, fun hop => ?bias, fun hop => ?scale, fun hop => ?relu,
    fun hop => ?clamp, fun hop => h.gives_tzero hop⟩
  case tmul =>
    exact h.gives_tilesDone (hop ▸ rfl) (State.loomRun_tmul hop hw) fun i hi j hj => Loom.code_tmulOut hw hi hj
  case narrow =>
    refine h.gives_tilesDone (hop ▸ rfl) (State.loomRun_tmult hop hw) fun i hi j hj => ?_
    rw [Loom.code_tmultOut_first hw hi hj, min_eq_left hshape]
    rfl
  case tall =>
    intro af n col
    have hrun := State.loomRun_tmult (s := s) (cl := cl) hop hw
    have htile : ((s.loomRun cl c).cluster cl).loom.tile (t + 1) = tileFrom af (t + 1) (l.tmultOut t w) := by
      rw [hrun, decide_eq_true hshape]
      exact h.secondTile_tilesDone (hop ▸ rfl) c.payload ..
    refine ⟨h.gives_tilesDone (hop ▸ rfl) hrun fun i hi j hj => ?_, _, h.exec_eq, congrArg Tile.fmt htile, fun i hi j hj => ?_⟩
    · rw [Loom.code_tmultOut_first hw hi hj, min_eq_right hshape.le]
      simp only [col, Nat.zero_add]
      rfl
    · rw [htile, Loom.code_tmultOut_second hw hshape hi hj]
      rfl
  case gelu | silu =>
    have hgives := h.gives_tew (t := t) hop (by simp)
    exact ⟨hgives, rfl, rfl, rfl, fun b e => activation_zero ..⟩
  case scale | relu | clamp =>
    have hgives := h.gives_tew (t := t) hop (by simp)
    exact hgives
  case touter =>
    exact h.gives_mapOut (g := fun i j x => addVal .rne x (mulVal (arg 0 0 i) (arg 1 0 j))) (hop ▸ rfl)
      (State.loomRun_touter hop)
  case bias =>
    exact h.gives_mapOut (g := fun i j x => addVal .rne x (arg 0 0 j)) (hop ▸ rfl) (State.loomRun_bias hop)
end

section
/-! PROOFS. Integer and pointer instructions of the A slot (R88 to R94): the words they write as numbers and by their bits, and
what an instruction of the A slot comes to beside a C slot. -/

open Sys2Proof Sys2Proof.Machine

namespace Sys2Proof.Machine

/-! ## Words as numbers (R88) -/

theorem add_eq_ofInt (x y : Word) : x + y = BitVec.ofInt 64 (x.toInt + y.toInt) := by
  rw [BitVec.ofInt_add, BitVec.ofInt_toInt, BitVec.ofInt_toInt]

theorem mul_eq_ofInt (x y : Word) : x * y = BitVec.ofInt 64 (x.toInt * y.toInt) := by
  rw [BitVec.ofInt_mul, BitVec.ofInt_toInt, BitVec.ofInt_toInt]

theorem boolWord_decide (p : Prop) [Decidable p] : boolWord (decide p) = if p then 1 else 0 := by
  simp [boolWord]

section
variable {β : Type} [LinearOrder β] (num : Word → β) (word : β → Word) (hword : ∀ x, word (num x) = x) (x y : Word)
include hword

/-- The lesser of two words in the order of their numbers, signed or not. -/
theorem ite_lt_eq_min : (if decide (num y < num x) then y else x) = word (min (num x) (num y)) := by
  by_cases h : num y < num x
  · simp [h, min_eq_right h.le, hword]
  · simp [h, min_eq_left (not_lt.1 h), hword]

/-- The greater of two words in the order of their numbers, signed or not. -/
theorem ite_lt_eq_max : (if decide (num x < num y) then y else x) = word (max (num x) (num y)) := by
  by_cases h : num x < num y
  · simp [h, max_eq_right h.le, hword]
  · simp [h, max_eq_left (not_lt.1 h), hword]

end

theorem mulHigh_eq_extract (x y : Word) : mulHigh x y = (x.signExtend 128 * y.signExtend 128).extractLsb' 64 64 := by
  have hprod : x.signExtend 128 * y.signExtend 128 = BitVec.ofInt 128 (x.toInt * y.toInt) := (BitVec.ofInt_mul ..).symm
  apply BitVec.eq_of_toNat_eq
  rw [hprod, mulHigh, BitVec.extractLsb'_toNat, BitVec.toNat_ofInt, BitVec.toNat_ofInt, Nat.shiftRight_eq_div_pow]
  omega

theorem mulHighU_eq_extract (x y : Word) : mulHighU x y = (x.setWidth 128 * y.setWidth 128).extractLsb' 64 64 := by
  have hprod : x.toNat * y.toNat < 2 ^ 128 := by
    simpa [← Nat.pow_add] using Nat.mul_lt_mul'' x.isLt y.isLt
  apply BitVec.eq_of_toNat_eq
  rw [mulHighU, BitVec.extractLsb'_toNat, BitVec.toNat_mul, BitVec.toNat_setWidth_of_le (by decide),
    BitVec.toNat_setWidth_of_le (by decide), BitVec.toNat_ofNat, Nat.shiftRight_eq_div_pow, Nat.mod_eq_of_lt hprod]

/-! ## Bits (R88, R90) -/

/-- The leading zeros, by the bits they count. -/
theorem countLead_spec (x : Word) : ∃ k ≤ 64, countLead x = BitVec.ofNat 64 k ∧ (∀ i < k, x.getLsbD (63 - i) = false)
    ∧ (k < 64 → x.getLsbD (63 - k) = true) := by
  by_cases h : x = 0
  · exact ⟨64, le_rfl, if_pos h, by simp [h], by simp⟩
  · have h0 : x.toNat ≠ 0 := fun h0 => h (BitVec.eq_of_toNat_eq h0)
    have hlog : x.toNat.log2 < 64 := (Nat.log2_lt h0).2 x.isLt
    refine ⟨63 - x.toNat.log2, by omega, if_neg h, fun i hi => ?_, fun _ => ?_⟩
    · exact Nat.testBit_lt_two_pow ((Nat.log2_lt h0).1 (by omega))
    · rw [Nat.sub_sub_self (by omega)]
      exact Nat.testBit_log2 h0

/-- The trailing zeros, by the bits they count. -/
theorem countTrail_spec (x : Word) : ∃ k ≤ 64, countTrail x = BitVec.ofNat 64 k ∧ (∀ i < k, x.getLsbD i = false)
    ∧ (k < 64 → x.getLsbD k = true) := by
  unfold countTrail
  cases hf : (List.range 64).find? x.getLsbD with
  | none =>
    refine ⟨64, le_rfl, rfl, fun i hi => ?_, by simp⟩
    simpa using List.find?_eq_none.1 hf i (List.mem_range.2 hi)
  | some k =>
    obtain ⟨hk, hlt, hlow⟩ := List.find?_range_eq_some.1 hf
    exact ⟨k, (List.mem_range.1 hlt).le, rfl, fun i hi => by simpa using hlow i hi, fun _ => hk⟩

theorem countOnes_eq (x : Word) : countOnes x = BitVec.ofNat 64 ((List.range 64).countP x.getLsbD) := by
  rw [countOnes, List.countP_eq_length_filter]

/-- A bit of words that are laid over each other is a bit of one of them. -/
theorem getLsbD_foldl_or {w : Nat} (f : Nat → BitVec w) (l : List Nat) (v : BitVec w) (t : Nat) :
    (l.foldl (fun w i => w ||| f i) v).getLsbD t = (v.getLsbD t || l.any fun i => (f i).getLsbD t) := by
  induction l generalizing v with
  | nil => simp
  | cons i l ih => simp [ih, Bool.or_assoc]

/-- Byte `i` of the result is made of one byte of the operand: the others lie above or below it. -/
theorem byteOf_swapBytes (x : Word) {i : Nat} (hi : i < 8) : byteOf (swapBytes x) i = byteOf x (7 - i) := by
  apply BitVec.eq_of_getLsbD_eq
  intro j hj
  rw [byteOf, BitVec.getLsbD_extractLsb', swapBytes, getLsbD_foldl_or, Bool.eq_iff_iff]
  simp only [hj, decide_true, Bool.true_and, BitVec.ofNat_eq_ofNat, BitVec.getLsbD_zero, Bool.false_or, List.any_eq_true,
    List.mem_range, BitVec.getLsbD_shiftLeft, BitVec.getLsbD_setWidth, Bool.and_eq_true, Bool.not_eq_true', decide_eq_true_eq,
    decide_eq_false_iff_not]
  constructor
  · rintro ⟨k, hk, ⟨-, hge⟩, -, hbit⟩
    have hlt := BitVec.lt_of_getLsbD hbit
    have hk' : k = 7 - i := by omega
    rw [hk', show 8 * i + j - (56 - 8 * (7 - i)) = j by omega] at hbit
    exact hbit
  · intro hbit
    refine ⟨7 - i, by omega, ⟨by omega, by omega⟩, by omega, ?_⟩
    rwa [show 8 * i + j - (56 - 8 * (7 - i)) = j by omega]

theorem zext_ushiftRight (x : Word) (p n : Nat) : zext n (x >>> p) = (x.extractLsb' p n).setWidth 64 := by
  apply congrArg (BitVec.setWidth 64)
  apply BitVec.eq_of_toNat_eq
  rw [BitVec.toNat_setWidth, BitVec.toNat_ushiftRight, BitVec.extractLsb'_toNat]

/-! ## Division (R89) -/

theorem divS_eq (x : Word) {y : Word} (h : y ≠ 0) : divS x y = BitVec.ofInt 64 (x.toInt.tdiv y.toInt) := by
  rw [divS, if_neg h]
  apply BitVec.eq_of_toInt_eq
  rw [BitVec.toInt_sdiv, BitVec.toInt_ofInt]

theorem divU_eq (x : Word) {y : Word} (h : y ≠ 0) : divU x y = BitVec.ofNat 64 (x.toNat / y.toNat) := by
  rw [divU, if_neg h, ← BitVec.toNat_udiv, BitVec.ofNat_toNat, BitVec.setWidth_eq]

theorem remS_eq (x : Word) {y : Word} (h : y ≠ 0) : remS x y = BitVec.ofInt 64 (x.toInt - y.toInt * x.toInt.tdiv y.toInt) := by
  rw [remS, if_neg h, ← Int.tmod_def, ← BitVec.toInt_srem, BitVec.ofInt_toInt]

theorem remU_eq (x : Word) {y : Word} (h : y ≠ 0) : remU x y = BitVec.ofNat 64 (x.toNat - y.toNat * (x.toNat / y.toNat)) := by
  rw [remU, if_neg h, ← Nat.mod_eq_sub, ← BitVec.toNat_umod, BitVec.ofNat_toNat, BitVec.setWidth_eq]

/-! ## Pointers (R91 to R93) -/

/-- The address of a pointer moved by a signed offset, modulo 2^57. -/
theorem ofNat_effAddr (p o : Word) {i : Int} (h : o = BitVec.ofInt 64 i) :
    BitVec.ofNat 57 (effAddr p o) = BitVec.ofInt 57 ((p.setWidth 57).toNat + i) := by
  rw [effAddr, va57, BitVec.ofNat_toNat, BitVec.setWidth_eq, ← BitVec.setWidth_eq_extractLsb' (by decide),
    BitVec.setWidth_add _ _ (by decide), h, setWidth_ofInt_of_le (by decide), BitVec.ofInt_add, BitVec.ofInt_natCast,
    BitVec.ofNat_toNat, BitVec.setWidth_eq]

theorem fmtBits_cases (f : BitVec 4) : fmtBits f = 4 ∨ fmtBits f ≠ 4 ∧ 8 ∣ fmtBits f := by decide +revert

/-- A signed index in bytes, at the element size of a tag; a pair of 4-bit elements shares a byte. -/
theorem scaledIndex_eq (f : BitVec 4) (i : Word) : scaledIndex (fmtBits f) i = BitVec.ofInt 64 (i.toInt * fmtBits f / 8) := by
  rcases fmtBits_cases f with h | ⟨h, hd⟩
  · rw [scaledIndex, if_pos h, h, BitVec.sshiftRight, Int.shiftRight_eq_div_pow]
    congr 1
    omega
  · rw [scaledIndex, if_neg h, Int.mul_ediv_assoc _ (by exact_mod_cast hd), BitVec.ofInt_mul, BitVec.ofInt_toInt]
    rfl

/-- A signed index is odd where its lowest bit is set. -/
theorem getLsbD_zero_iff (i : Word) : i.getLsbD 0 = true ↔ i.toInt % 2 = 1 := by
  have hbit : i.getLsbD 0 = decide (i.toNat % 2 = 1) := by simp [BitVec.getLsbD]
  rw [hbit, decide_eq_true_eq, BitVec.toInt_eq_toNat_cond]
  split <;> omega

theorem append_tag (f : BitVec 4) (b : BitVec 3) (p : Word) : (f ++ b ++ p.setWidth 57 : Word) =
    BitVec.ofNat 64 (f.toNat * 2 ^ 60 + b.toNat * 2 ^ 57 + p.toNat % 2 ^ 57) := by
  apply BitVec.eq_of_toNat_eq
  have hp := (p.setWidth 57).isLt
  rw [BitVec.toNat_append, BitVec.toNat_append, ← Nat.shiftLeft_add_eq_or_of_lt b.isLt, ← Nat.shiftLeft_add_eq_or_of_lt hp,
    BitVec.toNat_setWidth, BitVec.toNat_ofNat]
  omega

theorem toNat_zext {b : Nat} (h : b ≤ 64) (x : Word) : (zext b x).toNat = x.toNat % 2 ^ b := by
  rw [zext, BitVec.toNat_setWidth_of_le h, BitVec.toNat_setWidth]

/-! ## What an instruction of the A slot comes to beside a C slot (R30) -/

section
variable {s : State} {n : Nat} (h : s.thr.aslot = .awaiting n)
include h

theorem State.writeA_awaiting (d : BitVec 5) (v : Word) :
    s.writeA d v = .next (s.withA (.done ((s.thr.arch.beside n).setX d v))) := s.runA_awaiting n _ _ h rfl

/-- An instruction that writes one x register, under another name of the word it writes. -/
theorem State.exec_of_writeA {i : Instr} {d : BitVec 5} {v w : Word} (he : exec i s = s.writeA d v) (hv : v = w) :
    exec i s = .next (s.withA (.done ((s.thr.arch.beside n).setX d w))) := by
  rw [he, hv, State.writeA_awaiting h]

/-- Beside a C slot the fault is kept for the end of the bundle; only an illegal instruction names the slot. -/
theorem State.runA_fault {f : Nat → Res Arch} {x : Flt} (hf : f n = .error (.flt x)) :
    s.runA f = .next (s.withA (.fault { x with widx := if x.kind = 1 then 1 else 0 })) := by
  simp [State.runA, State.runSlot, h, hf, State.withA]

end

end Sys2Proof.Machine

/-- Settles O11: each form writes one register, and its word is the one that R88 or R90 gives. -/
theorem integerForms : Obligations.IntegerForms := by
  unfold Obligations.IntegerForms
  refine ⟨?_, ?_, ?_⟩
  · intro s n d a b c h x y z
    have hint (v : Word) : BitVec.ofInt 64 v.toInt = v := BitVec.ofInt_toInt
    have hnat (v : Word) : BitVec.ofNat 64 v.toNat = v := by rw [BitVec.ofNat_toNat, BitVec.setWidth_eq]
    have write {i : Instr} {v w : Word} (he : exec i s = s.writeA d v) (hv : v = w) := State.exec_of_writeA h he hv
    simp only [List.forall_mem_cons, List.not_mem_nil, false_imp_iff, implies_true, and_true]
    exact ⟨write rfl rfl, write rfl rfl, write rfl rfl, write rfl rfl, write rfl rfl, write rfl rfl, write rfl rfl,
      write rfl rfl, write rfl (boolWord_decide _), write rfl (boolWord_decide _),
      write rfl (ite_lt_eq_min BitVec.toInt (BitVec.ofInt 64) hint x y),
      write rfl (ite_lt_eq_max BitVec.toInt (BitVec.ofInt 64) hint x y),
      write rfl (ite_lt_eq_min BitVec.toNat (BitVec.ofNat 64) hnat x y),
      write rfl (ite_lt_eq_max BitVec.toNat (BitVec.ofNat 64) hnat x y), write rfl rfl, write rfl (mul_eq_ofInt x y),
      write rfl (mulHigh_eq_extract x y), write rfl (mulHighU_eq_extract x y)⟩
  · intro s n d a h x out
    have write (v : Word) : s.writeA d v = out v := State.writeA_awaiting h d v
    obtain ⟨k, hk, hlead⟩ := countLead_spec x
    obtain ⟨j, hj, htrail⟩ := countTrail_spec x
    refine ⟨⟨k, hk, ?_, hlead.2⟩, ⟨j, hj, ?_, htrail.2⟩, ?_, swapBytes x, ?_, fun i hi => byteOf_swapBytes x hi⟩
    · rw [← hlead.1]
      exact write _
    · rw [← htrail.1]
      exact write _
    · rw [← countOnes_eq]
      exact write _
    · exact write _
  · intro s n d a pos lm sh imm h hpos x
    have write {i : Instr} {v w : Word} (he : exec i s = s.writeA d v) (hv : v = w) := State.exec_of_writeA h he hv
    simp only [List.forall_mem_cons, List.not_mem_nil, false_imp_iff, implies_true, and_true]
    refine ⟨write rfl (zext_ushiftRight ..), write rfl ?_, write rfl rfl, write rfl rfl, write rfl rfl, write rfl rfl,
      write rfl rfl, write rfl rfl, write rfl ?_, write rfl (boolWord_decide _)⟩
    · rw [add_eq_ofInt, BitVec.toInt_signExtend_of_le (by decide)]
    · rw [BitVec.slt_eq_decide, BitVec.toInt_signExtend_of_le (by decide), boolWord_decide]

/-- Settles O12: a divisor that is not zero gives the quotient rounded toward zero, and the corners are rows of one table. -/
theorem divisionNeverFaults : Obligations.DivisionNeverFaults := by
  unfold Obligations.DivisionNeverFaults
  intro s n d a b h x y out
  have write {i : Instr} {v w : Word} (he : exec i s = s.writeA d v) (hv : v = w) : exec i s = out w :=
    State.exec_of_writeA h he hv
  have quotient {w : Word} (hv : divS x y = w) : exec (.div d a b) s = out w := write rfl hv
  have remainder {w : Word} (hv : remS x y = w) : exec (.rem d a b) s = out w := write rfl hv
  refine ⟨fun hy => ⟨quotient (if_pos hy), write rfl (if_pos hy), remainder (if_pos hy), write rfl (if_pos hy)⟩,
    fun hx hy => ⟨quotient ?_, remainder ?_⟩,
    fun hy => ⟨quotient (divS_eq x hy), write rfl (divU_eq x hy), remainder (remS_eq x hy), write rfl (remU_eq x hy)⟩,
    fun hx hy => ⟨quotient ?_, remainder ?_⟩⟩
  all_goals
    rw [hx, hy]
    decide

/-- Settles O13: the tag is laid over the sum of the address and the signed offset. -/
theorem paddKeepsTag : Obligations.PaddKeepsTag := by
  unfold Obligations.PaddKeepsTag
  refine fun s n d a b => ⟨?_, fun h => ?_⟩
  · simp [decodeA, packAR_fields, decA10, need]
  · rw [← ofNat_effAddr _ _ (BitVec.ofInt_toInt ..).symm]
    exact State.writeA_awaiting h d _

/-- Settles O14: `pidx` checks FMT, then the parity of its index, and else scales it. -/
theorem pointerForms : Obligations.PointerForms := by
  unfold Obligations.PointerForms
  constructor
  · intro s n d a b h p i bits
    refine ⟨fun hr => ?_, fun hf hb hi => ?_, fun hf hi => ?_⟩
    · exact State.runA_fault (x := ⟨0x01, 9, 0, 0, 1, none⟩) h (if_pos (decide_eq_true hr))
    · have hodd : fmtBits (pFmt p) = 4 ∧ i.getLsbD 0 = true := ⟨hb, (getLsbD_zero_iff i).2 hi⟩
      refine State.runA_fault (x := ⟨0x06, 2, 0, 0, 0, none⟩) h ((if_neg ?_).trans (if_pos hodd))
      simpa [fmtReserved] using hf
    · refine s.runA_awaiting n _ _ h ((if_neg ?_).trans ((if_neg ?_).trans ?_))
      · simpa [fmtReserved] using hf
      · rintro ⟨hb, hodd⟩
        have heven := hi hb
        have hrest := (getLsbD_zero_iff i).1 hodd
        omega
      · rw [pWith, ofNat_effAddr _ _ (scaledIndex_eq _ i)]
  · intro s n d a fmt blk h p out
    refine ⟨fun hr => ?_, fun hf => ?_, ?_, ?_⟩
    · exact State.runA_fault (x := ⟨0x01, 9, 0, 0, 1, none⟩) h (if_pos (decide_eq_true hr))
    · refine s.runA_awaiting n _ _ h (if_neg ?_)
      simpa [fmtReserved] using hf
    · refine (State.writeA_awaiting h d _).trans ?_
      rw [← toNat_zext (by decide), BitVec.ofNat_toNat, BitVec.setWidth_eq]
    · rw [← append_tag]
      exact State.writeA_awaiting h d _
end

section
/-! PROOFS. Scalar floating point (R95 to R97): an instruction that rounds does so once and draws once under SR, and the words of
those that do not round. -/

open Sys2Proof Sys2Proof.Machine

namespace Sys2Proof.Machine

/-! ## Operands and results (R43, R96, R97) -/

theorem fpOperand_eq {f : Fmt} (h : f.bits ≤ 64) (v : Word) : fpOperand f v = decodeVal f (v.toNat % 2 ^ f.bits) := by
  rw [fpOperand, toNat_zext h]

theorem cvtWord_eq (t : CvtTy) (c : Nat) : cvtWord t c =
    if t = .i32 then ((BitVec.ofNat 64 c).setWidth 32).signExtend 64 else BitVec.ofNat 64 c := by
  cases t <;> rfl

theorem one_shiftLeft_eq (k : Nat) : (1 : Word) <<< k = BitVec.ofNat 64 (2 ^ k) := by
  apply BitVec.eq_of_toNat_eq
  simp [Nat.shiftLeft_eq]

theorem fpTyBits_le (t : FpTy) : t.fmt.bits ≤ 64 := by cases t <;> decide
theorem cvtTyBits_le (t : CvtTy) : t.fmt.bits ≤ 64 := by cases t <;> decide

/-- The low bits of one code under the sign bit of another (R96). -/
theorem withSign_eq {w : Nat} (h0 : 0 < w) (h : w ≤ 64) (x y : Word) : withSign w x y =
    BitVec.ofNat 64 (x.toNat % 2 ^ w % 2 ^ (w - 1) + y.toNat % 2 ^ w / 2 ^ (w - 1) * 2 ^ (w - 1)) := by
  obtain ⟨k, rfl⟩ : ∃ k, w = k + 1 := ⟨w - 1, by omega⟩
  have hone : ((1 <<< k : Nat) : Word) = BitVec.twoPow 64 k := by
    rw [Nat.one_shiftLeft]
    exact BitVec.eq_of_toNat_eq (BitVec.toNat_twoPow ..).symm
  have hmask : zext (k + 1) y &&& (1 <<< k) = if y.getLsbD k then BitVec.twoPow 64 k else 0#64 := by
    rw [hone, BitVec.and_twoPow]
    simp [zext, show k < 64 by omega]
  have hbit : y.toNat % 2 ^ (k + 1) / 2 ^ k * 2 ^ k = if y.getLsbD k then 2 ^ k else 0 := by
    rw [BitVec.getLsbD, Nat.testBit_eq_decide_div_mod_eq, Nat.pow_succ, Nat.mod_mul_right_div_self]
    rcases Nat.mod_two_eq_zero_or_one (y.toNat / 2 ^ k) with h | h
    all_goals simp [h]
  have hlow : zext k x = BitVec.ofNat 64 (x.toNat % 2 ^ (k + 1) % 2 ^ k) := by
    rw [Nat.mod_mod_of_dvd _ (Nat.pow_dvd_pow 2 (Nat.le_succ k)), ← toNat_zext (by omega), BitVec.ofNat_toNat,
      BitVec.setWidth_eq]
  rw [withSign, Nat.add_sub_cancel, hmask, or_bit _ _ _ (by simp [zext]), hbit, hlow, ← BitVec.ofNat_add]

/-! ## One rounding (R68, R71) -/

theorem State.roundA_awaiting {s : State} {n : Nat} (h : s.thr.aslot = .awaiting n) (f : Fmt) (rm : RmField)
    (d : BitVec 5) (wr : Nat → Word) (g : Mode → Val) :
    let r := s.thr.arch.beside n
    let m := rmMode rm s.thr.arch.sts
    s.roundA f rm d wr g = .next (s.withA (.done (({ r with rngs := if m = .sr then rngStep r.rngs else r.rngs } : Arch).setX d
      (wr (roundCode f m (rngZ r.rngs) false (g m)))))) := s.runA_awaiting n _ _ h rfl

end Sys2Proof.Machine

/-- Settles O15: the rounding forms share one rounding, and the others write a word without one. -/
theorem scalarFloatingPoint : Obligations.ScalarFloatingPoint := by
  unfold Obligations.ScalarFloatingPoint
  constructor
  · intro s n ty dst src rm d a b c h r m f x y z drawn
    constructor
    · have value (i : BitVec 5) : decodeVal f ((s.thr.arch.getX i).toNat % 2 ^ f.bits) = s.fpX ty i :=
        (fpOperand_eq (fpTyBits_le ty) _).symm
      have round {i : Instr} (g : Mode → Val) (he : exec i s = s.fpA ty rm d g) :
          exec i s = .next (s.withA (.done (drawn.setX d (BitVec.ofNat 64 (roundCode f m (rngZ r.rngs) false (g m)))))) :=
        he.trans (State.roundA_awaiting h ..)
      simp only [x, y, z, value, List.forall_mem_cons, List.not_mem_nil, false_imp_iff, implies_true, and_true]
      exact ⟨round (fun m => addVal m (s.fpX ty a) (s.fpX ty b)) rfl,
        round (fun m => addVal m (s.fpX ty a) (s.fpX ty b).neg) rfl, round (fun _ => mulVal (s.fpX ty a) (s.fpX ty b)) rfl,
        round (fun _ => divVal (s.fpX ty a) (s.fpX ty b)) rfl, round (fun _ => sqrtVal (s.fpX ty a)) rfl,
        round (fun m => addVal m (mulVal (s.fpX ty a) (s.fpX ty b)) (s.fpX ty c)) rfl,
        round (fun m => addVal m (mulVal (s.fpX ty a) (s.fpX ty b)).neg (s.fpX ty c)) rfl⟩
    · intro w
      rw [← cvtWord_eq, ← fpOperand_eq (cvtTyBits_le src)]
      exact State.roundA_awaiting h dst.fmt rm d (cvtWord dst) fun _ => fpOperand src.fmt (s.thr.arch.getX a)
  · intro s n ty d a b h f u v x y
    have value (i : BitVec 5) : decodeVal f ((s.thr.arch.getX i).toNat % 2 ^ f.bits) = s.fpX ty i :=
      (fpOperand_eq (fpTyBits_le ty) _).symm
    have write {i : Instr} {v w : Word} (he : exec i s = s.writeA d v) (hv : v = w) := State.exec_of_writeA h he hv
    simp only [x, y, u, v, value, List.forall_mem_cons, List.not_mem_nil, false_imp_iff, implies_true, and_true]
    refine ⟨write rfl rfl, write rfl rfl, write rfl rfl, write rfl rfl, write rfl ?_, write rfl ?_, write rfl ?_⟩
    · simp [boolWord]
    · rw [toNat_zext (fpTyBits_le ty)]
      exact one_shiftLeft_eq _
    · exact withSign_eq (by cases ty <;> decide) (fpTyBits_le ty) _ _
end

section
/-! PROOFS. `nop` (R83). -/

open Sys2Proof Sys2Proof.Machine

/-- Settles O23: `nop` is a bundle that writes no register, and its decoder refuses a CODE that is not zero. -/
theorem nopOnlyAdvances : Obligations.NopOnlyAdvances := by
  unfold Obligations.NopOnlyAdvances
  refine ⟨fun s h => s.regsC_fits id h, fun lit => ⟨rfl, rfl⟩, fun code lit h => ?_, fun s b hb => ?_⟩
  · simp [decodeC, packCN_fields, decC00, need, show code ≠ 0#9 from h]
  · rw [badFault, hb]
end

section
/-! PROOFS. Vector moves, unpacking and special functions (R105, R107, R108): the special inputs and the bounds of the special
functions, and the elements that each instruction writes. -/

open Sys2Proof Sys2Proof.Machine

namespace Sys2Proof.Machine

/-! ## Special functions of a code (R108) -/

/-- A free code that keeps the bound, or else the nearest one (log 4). -/
theorem within_cases (f : Fmt) (ok : Val → Bool) (c : Word) (y : Val) :
    within f ok c y = exactCode f y ∨ ok (decodeVal f (within f ok c y).toNat) = true := by
  rw [within]
  split
  · exact .inr ‹_›
  · exact .inl rfl

section
variable {ft : VTy} {fp : FpTy} {c : Word}

theorem rcpCode_fin {n : Bool} {m : Nat} {e : Int} (hv : decodeVal ft.fmt c.toNat = .fin n m e) (hm : m ≠ 0) :
    let x : Val := .fin n m e
    let y := divVal .one x
    let r := decodeVal ft.fmt (rcpCode ft fp c).toNat
    (tooLarge ft.fmt y = true → rcpCode ft fp c = exactCode ft.fmt (.inf n))
    ∧ (tooLarge ft.fmt y = false → rcpCode ft fp c = exactCode ft.fmt y
      ∨ (r.finite = true ∧ ltVal (mulVal (ulpOf ft.fmt y) x.abs) (addVal .rne (mulVal r x) Val.one.neg).abs = false)) := by
  intro x y r
  refine ⟨fun hbig => ?_, fun hfit => ?_⟩
  · simp only [rcpCode, hv, if_neg hm]
    exact if_pos hbig
  · have hcode : rcpCode ft fp c = within ft.fmt (fun r => r.finite
        && !ltVal (mulVal (ulpOf ft.fmt y) x.abs) (addVal .rne (mulVal r x) Val.one.neg).abs) (Config.vrcp fp c) y := by
      simp only [rcpCode, hv, if_neg hm]
      exact if_neg (by rw [hfit]; decide)
    simp only [r]
    rw [hcode]
    refine (within_cases ..).imp_right fun hok => ?_
    simpa only [Bool.and_eq_true, Bool.not_eq_true'] using hok

theorem rsqCode_fin {m : Nat} {e : Int} (hv : decodeVal ft.fmt c.toNat = .fin false m e) (hm : m ≠ 0) :
    let x : Val := .fin false m e
    let y := sqrtVal (divVal .one x)
    let r := decodeVal ft.fmt (rsqCode ft fp c).toNat
    let lo := addVal .rne r (ulpOf ft.fmt y).neg
    let hi := addVal .rne r (ulpOf ft.fmt y)
    rsqCode ft fp c = exactCode ft.fmt y
    ∨ (r.finite = true ∧ (lo.sign = true ∨ ltVal .one (mulVal (mulVal lo lo) x) = false)
      ∧ hi.sign = false ∧ ltVal (mulVal (mulVal hi hi) x) .one = false) := by
  intro x y r lo hi
  have hcode : rsqCode ft fp c = within ft.fmt (fun r =>
      let lo := addVal .rne r (ulpOf ft.fmt y).neg
      let hi := addVal .rne r (ulpOf ft.fmt y)
      r.finite && (lo.sign || !ltVal .one (mulVal (mulVal lo lo) x)) && !hi.sign
        && !ltVal (mulVal (mulVal hi hi) x) .one) (Config.vrsq fp c) y := by
    simp only [rsqCode, hv, if_neg hm]
    rfl
  simp only [lo, hi, r]
  rw [hcode]
  refine (within_cases ..).imp_right fun hok => ?_
  simpa only [Bool.and_eq_true, Bool.or_eq_true, Bool.not_eq_true', and_assoc] using hok

theorem exp2Code_int {k : Int} (hk : (decodeVal ft.fmt c.toNat).toInt? = some k) (hp : holdsPow2 ft.fmt k = true)
    (hlt : ltVal (decodeVal ft.fmt c.toNat) (Val.ofInt (ft.fmt.shape.2.2 + 1)) = true) :
    exp2Code ft fp c = exactCode ft.fmt (.pow2 k) := by
  cases hv : decodeVal ft.fmt c.toNat with
  | nan => rw [hv] at hk; cases hk
  | inf n => rw [hv] at hk; cases hk
  | fin n m e =>
    rw [hv] at hk hlt
    simp only [exp2Code, hv, hlt, hk, hp, Bool.not_true, Bool.false_eq_true, if_false, if_true]

theorem log2Code_pow2 {k : Nat} {e : Int} (hv : decodeVal ft.fmt c.toNat = .fin false (2 ^ k) e) :
    log2Code ft fp c = exactCode ft.fmt (Val.ofInt (k + e)) := by
  have hk : 2 ^ k ≠ 0 := by positivity
  simp only [log2Code, hv, Nat.log2_two_pow, if_neg hk, Bool.false_eq_true, if_false, if_true]

end

/-! ## What a vector instruction comes to -/

section
variable {s : State} {n : Nat} {d : BitVec 5} (h : s.thr.aslot = .awaiting n) (hc : s.thr.ngrp ≠ 0)
include h hc

/-- A vector instruction that produces no NaN. -/
theorem State.vecA_done (hs : List (BitVec 5)) (f : Arch → Arch) :
    s.vecA hs (fun r => .ok (f r)) = .next (s.withA (.vec (f ((s.thr.arch.beside n).aged hs)))) :=
  State.vecA_ok h hs hc rfl

/-- A special function writes its code to each active element. -/
theorem State.special_completes {ft : VTy} {a : BitVec 5} {h1 : Bool} {k : BitVec 3} (g : VTy → FpTy → Word → Word)
    {i : Instr} (he : exec i s = s.special g ft d a h1 k) :
    let p : WordForm := ⟨i, holds h1 false a a, ft.bits,
      fun j => decide (j < laneCount s.thr.ngrp ft.bits) && (s.thr.arch.getM k).getLsbD j, s.thr.arch.getV d,
      fun j => g ft (VTy.fp ft) (s.lane ft.bits a j),
      fun j => (decodeVal ft.fmt (g ft (VTy.fp ft) (s.lane ft.bits a j)).toNat).isNan⟩
    p.nanFree s → p.completes s n d := fun hn =>
  WordForm.completes_of_nanFree h hc (fun _ => State.mem_active) hn he

end

end Sys2Proof.Machine

/-- Settles O18: the special functions by the value of their code, and each instruction as one pass over its elements. -/
theorem vectorMovesElements : Obligations.VectorMovesElements := by
  unfold Obligations.VectorMovesElements
  constructor
  · intro ft fp c _ f v code
    refine ⟨fun hv => ?_, fun n hv => ?_, fun n e hv => ?_, fun m e hv hm => ?_, fun k => exp2Code_int,
      fun k e => log2Code_pow2, fun n m e hv hm => ?_, fun m e hv hm => ?_⟩
    · change decodeVal ft.fmt c.toNat = .nan at hv
      simp only [rcpCode, rsqCode, exp2Code, log2Code, tanhCode, hv, code, f, and_self]
    · change decodeVal ft.fmt c.toNat = .inf n at hv
      cases n
      all_goals
        simp only [rcpCode, rsqCode, exp2Code, log2Code, tanhCode, hv, code, f, Val.one, Val.neg, Bool.not_false,
          Bool.false_eq_true, if_true, if_false, and_self]
    · change decodeVal ft.fmt c.toNat = .fin n 0 e at hv
      simp only [rcpCode, rsqCode, log2Code, tanhCode, hv, code, f, if_true, and_self]
    · change decodeVal ft.fmt c.toNat = .fin true m e at hv
      simp only [rsqCode, log2Code, hv, if_neg hm, code, f, if_true, and_self]
    · rw [hv]
      exact rcpCode_fin hv hm
    · rw [hv]
      exact rsqCode_fin hv hm
  · intro s n ft ty nf d a b h1 h2 k h hc hft E x c on keep wide special
    have plain {p : WordForm} (hl : ∀ j, j ∈ s.active p.b k ↔ p.on j = true)
        (he : exec p.i s = s.wordV p.hs p.b d (s.active p.b k) p.base p.w) : p.nanFree s → p.completes s n d := fun _ =>
      WordForm.completes_of_wordV h hc hl (fun _ => rfl) he
    have hvins : exec (.vins ty d a b) s = .next (s.withA (.vec (if c < E ty then
        ((s.thr.arch.beside n).aged []).setV d (laneSet ty.bits c keep (s.thr.arch.getX a))
        else (s.thr.arch.beside n).aged []))) :=
      State.vecA_done h hc [] fun r => if c < E ty then r.setV d (laneSet ty.bits c keep (s.thr.arch.getX a)) else r
    refine ⟨?_, ?_, fun hout => ?_, fun hin => ?_⟩
    · simp only [List.forall_mem_cons, List.not_mem_nil, false_imp_iff, implies_true, and_true]
      refine ⟨plain (fun _ => State.mem_active) rfl, plain (fun _ => State.mem_active) rfl, plain (fun _ => State.mem_active) rfl,
        plain (fun _ => State.mem_active) rfl, plain (fun _ => State.mem_active) rfl, plain (fun _ => State.mem_active) rfl,
        fun hn => ?vunpk, State.special_completes h hc rcpCode rfl, State.special_completes h hc rsqCode rfl,
        State.special_completes h hc exp2Code rfl, State.special_completes h hc log2Code rfl,
        State.special_completes h hc tanhCode rfl⟩
      case vunpk =>
        refine WordForm.completes_of_pass h hc (fun _ => State.mem_active) (fun _ => rfl) (o := if ty.isFp then
          (s.active ty.bits k).find? (fun j => (decodeVal ty.fmt (wide j).toNat).isNan) else none) (fun hf => ?_) rfl
        cases hfp : ty.isFp with
        | false => rfl
        | true =>
          rw [if_pos rfl, List.find?_eq_none]
          intro j hj hnan
          have hfree := hn hf j (State.mem_active.1 hj)
          simp [hfp, hnan] at hfree
    · exact State.vecA_done h hc (holds h1 false a a) fun r =>
        r.setX d (if c < E ty then (if ty.isFp then x c else ((x c).setWidth ty.bits).signExtend 64) else 0)
    · rw [hvins, if_neg (Nat.not_lt.2 hout)]
    · refine ⟨laneSet ty.bits c keep (s.thr.arch.getX a), by rw [hvins, if_pos hin], fun j hj => ?_⟩
      split
      · next hjc => rw [← hjc, laneGet_laneSet_same _ _ hj]
      · next hjc => exact laneGet_laneSet_other _ _ hjc
end

section
/-! PROOFS. `vcmp` and the mask instructions (R103, R109). -/

open Sys2Proof Sys2Proof.Machine

namespace Sys2Proof.Machine

/-! ## Bits of masks -/

theorem getLsbD_ofNat_one_shiftLeft {w i j : Nat} (hj : j < w) : (BitVec.ofNat w (1 <<< i)).getLsbD j = decide (i = j) := by
  rw [BitVec.getLsbD_ofNat, decide_eq_true hj, Bool.true_and, Nat.one_shiftLeft, Nat.testBit_two_pow]

/-- Bit `j` of a mask that is built by setting the bits of those elements of a list that `c` names. -/
theorem getLsbD_foldl_setBit {w : Nat} (c : Nat → Bool) (l : List Nat) (m : BitVec w) {j : Nat} (hj : j < w) :
    (l.foldl (fun (m : BitVec w) i => if c i then m ||| (1 <<< i) else m) m).getLsbD j =
      (m.getLsbD j || decide (j ∈ l) && c j) := by
  induction l generalizing m with
  | nil => simp
  | cons i l ih =>
    rw [List.foldl_cons, ih]
    cases hc : c i
    · by_cases hi : j = i
      · simp [hi, hc]
      · simp [hi]
    · by_cases hi : j = i
      · subst hi
        simp [getLsbD_ofNat_one_shiftLeft hj, hc]
      · simp [getLsbD_ofNat_one_shiftLeft hj, hi, Ne.symm hi]

theorem State.maskA_awaiting {s : State} {n : Nat} (h : s.thr.aslot = .awaiting n) (f : Arch → Arch) :
    s.maskA f = .next (s.withA (.vec (f ((s.thr.arch.beside n).aged [])))) := s.runV_awaiting n _ _ h rfl

/-- The lowest one bit. -/
theorem find?_range_getLsbD {w j : Nat} {x : BitVec w} (hj : x.getLsbD j = true) (hl : ∀ l < j, x.getLsbD l = false) :
    (List.range w).find? x.getLsbD = some j :=
  List.find?_range_eq_some.2 ⟨hj, List.mem_range.2 (BitVec.lt_of_getLsbD hj), fun l hlj => by rw [hl l hlj]; rfl⟩

end Sys2Proof.Machine

/-- Settles O19: `vcmp` sets the bits of the active elements that the relation holds of, over a mask of zeros. -/
theorem maskResults : Obligations.MaskResults := by
  unfold Obligations.MaskResults
  constructor
  · intro s n c ty d a b h1 h2 k h hc
    refine ⟨_, State.vecA_ok (f := fun r => .ok (r.setM d _)) h _ hc rfl, fun j hj => ?_⟩
    rw [getLsbD_foldl_setBit _ _ _ hj]
    simp [State.active, mem_activeLanes]
  · intro s n d a b e h r x y out
    have mask {i : Instr} (f : Arch → Arch) (he : exec i s = s.maskA f) : exec i s = out (f r) :=
      he.trans (State.maskA_awaiting h f)
    refine ⟨mask (fun r => r.setM d (x &&& y)) rfl, mask (fun r => r.setM d (x ||| y)) rfl,
      mask (fun r => r.setM d (x ^^^ y)) rfl, mask (fun r => r.setM d (~~~x)) rfl, ?_, fun hx => ?_, fun j hj hl => ?_⟩
    · rw [List.countP_eq_length_filter]
      exact mask (fun r => r.setX e (BitVec.ofNat 64 (maskBits x).length)) rfl
    · change s.thr.arch.getM a = 0 at hx
      have hnone : (List.range 2048).find? (s.thr.arch.getM a).getLsbD = none := List.find?_eq_none.2 (by simp [hx])
      rw [exec, execVmfirst, State.maskA_awaiting h, hnone]
      rfl
    · have hsome : (List.range 2048).find? (s.thr.arch.getM a).getLsbD = some j := find?_range_getLsbD hj hl
      rw [exec, execVmfirst, State.maskA_awaiting h, hsome]
end

section
/-! PROOFS. The end of a thread (R251, R256, R271) may write memory: its indenture table is freed, a watch on the table's page is
lost, and the record of that is written to the watching thread's fault line. -/

open Sys2Proof Sys2Proof.Machine

namespace Sys2Proof.Machine

/-- The first word of the indenture table of rank 7. -/
def tableVa : Nat := indentVa + 65536 * 7

/-- A watch armed on it, which fires on any write. -/
def tableWatch : Watch := ⟨.any, tableVa, winPa 0 tableVa, 0, false, false⟩

/-- A root with that watch, whose fault line is at 0x4_0200. -/
def tableWatcher : Thread :=
  { Thread.fresh ⟨0, 0⟩ { Arch.zero with pc := 0x40000, flta := 0x40200 } 0 0 with
    watches := qput (Vector.replicate 4 none) 0 (some tableWatch) }

/-- The thread of rank 7, whose table has one entry, issues; the root watches the table. -/
def State.tableWatched : State :=
  let s := State.reset.placeThread (0, 0)
  { s.setTenant 0 { s.tenant 0 with ipool := 1, indent := [(7, [⟨0, 7, 0, 0x3F⟩])] } with
    thr := Thread.fresh ⟨0, 7⟩ Arch.zero 0 1
    others := [tableWatcher] }

/-- While the thread lives the page of the watch is mapped; its end writes a record to the root's fault line, of whose first byte
bit 0 is FULL (R300). -/
theorem State.endThread_tableWatched :
    State.tableWatched.translate 0 0 .read tableVa = .ok tableWatch.pa
    ∧ memRead State.tableWatched.mem 0x40200 = 0
    ∧ memRead (State.tableWatched.endThread State.tableWatched.thr.id false).mem 0x40200 = 1 := by decide +kernel

end Sys2Proof.Machine

/-- Refutes O36: a thread that ends without `retain`, and whose indenture table is watched, does not leave memory as it was: the
record of the lost watch (R231, R251) is written in the same event. -/
theorem not_threadEnds : ¬ Obligations.ThreadEnds := by
  unfold Obligations.ThreadEnds
  rintro ⟨-, hends, -⟩
  have hfind : State.tableWatched.find State.tableWatched.thr.id = some State.tableWatched.thr := by decide +kernel
  obtain ⟨-, -, -, -, -, -, hmem⟩ := hends State.tableWatched false _ hfind rfl
  obtain ⟨-, hbefore, hafter⟩ := State.endThread_tableWatched
  rw [hmem, hbefore] at hafter
  exact absurd hafter (by decide)
end

section
/-! PROOFS. The faults of scalar accesses and of queues (R181, R184, R205 to R208), and the queue instructions where they go
on. -/

open Sys2Proof Sys2Proof.Machine

namespace Sys2Proof.Machine

/-! ## Faults of the C slot (R181) -/

section
variable {s : State} (hf : s.thr.aslot.faults = false) (f : Flt)
include hf

/-- A C slot that comes to a fault raises it. -/
theorem State.runC_flt : s.runC (.error (.flt f)) = .next (s.raise f) := by
  rw [State.runC, s.settle_error _ hf, State.stopFor]

/-- So does one that ends its chunk, outside a region. -/
theorem State.enderC_flt (hr : s.thr.inRegion = false) : s.enderC (.error (.flt f)) = .next (s.raise f) := by
  rw [State.enderC, hr, if_neg Bool.false_ne_true, State.runC_flt hf]

end

/-! ## Alignment (R184) -/

theorem va57_eq (v : Word) : va57 v = v.toNat % 2 ^ 57 := by simp [va57]

/-- The alignment fault of an address. -/
def alignmentFlt (va : Nat) : Flt := ⟨0x02, 0, BitVec.ofNat 64 va, 0, 0, none⟩

theorem aligned_ok {va n : Nat} (h : va % n = 0) : aligned va n = .ok () := if_pos h

theorem aligned_error {v : Word} {n : Nat} (h : v.toNat % 2 ^ 57 % n ≠ 0) :
    aligned (v.toNat % 2 ^ 57) n = .error (.flt (alignmentFlt (v.toNat % 2 ^ 57))) := by
  rw [aligned, if_neg h, fault, addrWord, Nat.mod_mod, alignmentFlt]

section
variable {s : State} (hf : s.thr.aslot.faults = false)
include hf

theorem execLd_misaligned {z : LoadSize} {d a : BitVec 5} {off : Imm 12} {ea : Nat}
    (hea : (s.thr.arch.getX a + immValue off).toNat % 2 ^ 57 = ea) (h : ea % loadBytes z ≠ 0) :
    execLd z d a off s = .next (s.raise (alignmentFlt ea)) := by
  subst hea
  simp only [execLd, effAddr_eq, aligned_error h, State.runC_flt hf]

theorem execSt_misaligned {z : Size} {d a : BitVec 5} {off : Imm 12} {ea : Nat}
    (hea : (s.thr.arch.getX a + immValue off).toNat % 2 ^ 57 = ea) (h : ea % sizeBytes z ≠ 0) :
    execSt z d a off s = .next (s.raise (alignmentFlt ea)) := by
  subst hea
  simp only [execSt, effAddr_eq, aligned_error h, State.runC_flt hf]

section
variable {a : BitVec 5} {va : Nat} (hva : (s.thr.arch.getX a).toNat % 2 ^ 57 = va)
include hva

theorem execRadd_misaligned {f : RangeFmt} (b : BitVec 5) (h : va % rangeBytes f ≠ 0) :
    execRadd f a b s = .next (s.raise (alignmentFlt va)) := by
  subst hva
  simp only [execRadd, effAddr_zero, aligned_error h, State.runC_flt hf]

/-- A dray element at a misaligned address (R196). -/
theorem State.drayC_misaligned {n : Nat} (b : BitVec 5) (op : ElemOp) (h : va % n ≠ 0) :
    s.drayC (s.elemOf a b n op) = .next (s.raise (alignmentFlt va)) := by
  subst hva
  simp only [State.drayC, State.elemOf, effAddr_zero, aligned_error h, State.runC_flt hf]

/-- An atomic at a misaligned address (R191). -/
theorem State.atomicC_misaligned {z : AmoSize} (h : va % amoBytes z ≠ 0) (hr : s.thr.inRegion = false) (result : Bool)
    (k : Nat → Nat → State → State) : s.atomicC a z result k = .next (s.raise (alignmentFlt va)) := by
  subst hva
  simp only [State.atomicC, State.rmwAt, effAddr_zero, aligned_error h, State.enderC_flt hf _ hr]

end

/-! ## Queue faults (R205 to R208) -/

theorem execQbind_reserved {q : BitVec 3} {a : BitVec 5} (hr : s.thr.inRegion = false) (h : (s.thr.handle q).role ≠ .none)
    (ha : (s.thr.arch.getX a).toNat % 64 = 0) : execQbind q a s = .next (s.raise ⟨0x0E, 1, 0, 0, 0, none⟩) := by
  have hal : (if s.thr.arch.getX a = 0 then .ok () else aligned (va57 (s.thr.arch.getX a)) 64) = .ok () :=
    ite_eq_left_iff.2 fun _ => aligned_ok (by rw [va57_eq]; omega)
  simp only [execQbind, hal, if_pos h, queueFault, fault, State.enderC_flt hf _ hr]

theorem State.queueWait_unbound {q : BitVec 3} (hr : s.thr.inRegion = false) (h : (s.thr.handle q).valid = false)
    (prod : Bool) : s.queueWait q prod = .next (s.raise ⟨0x0E, 3, 0, 0, 0, none⟩) := by
  simp [State.queueWait, h, queueFault, fault, State.enderC_flt hf _ hr]

theorem State.queueWait_other {q : BitVec 3} {prod : Bool} (hr : s.thr.inRegion = false) (h : (s.thr.handle q).valid = true)
    (hrole : (s.thr.handle q).role = if prod then .consumer else .producer) :
    s.queueWait q prod = .next (s.raise ⟨0x0E, 2, 0, 0, 0, none⟩) := by
  cases prod <;> simp_all [State.queueWait, queueFault, fault, State.enderC_flt hf _ hr]

theorem State.queueAdvance_role {q : BitVec 3} {role : QRole} (hr : s.thr.inRegion = false)
    (h : (s.thr.handle q).role ≠ role) (val : QHandle → Word) :
    s.queueAdvance q role val = .next (s.raise ⟨0x0E, 6, 0, 0, 0, none⟩) := by
  rw [State.queueAdvance, if_pos h, queueFault, fault, State.enderC_flt hf _ hr]

end

/-! ## The reserved slot (R207) -/

theorem QHandle.slotOk_noRole {h : QHandle} (i : BitVec 6) {store : Bool}
    (hr : h.role = .none ∨ (store ∧ h.role = .consumer)) : h.slotOk i store = queueFault 6 := if_pos hr

theorem QHandle.slotOk_past {h : QHandle} {i : BitVec 6} {store : Bool}
    (hr : ¬ (h.role = .none ∨ (store ∧ h.role = .consumer))) (hi : 8 * 2 ^ h.lesz ≤ i.toNat) :
    h.slotOk i store = queueFault 5 := by rw [QHandle.slotOk, if_neg hr, if_pos hi]

theorem QHandle.slotOk_inside {h : QHandle} {i : BitVec 6} {store : Bool}
    (hr : ¬ (h.role = .none ∨ (store ∧ h.role = .consumer))) (hi : i.toNat < 8 * 2 ^ h.lesz) :
    h.slotOk i store = .ok () := by rw [QHandle.slotOk, if_neg hr, if_neg (by omega)]

/-- A role that may load from the slot. -/
theorem QRole.mayLoad {r : QRole} (h : r ≠ .none) : ¬ (r = .none ∨ (false = true ∧ r = .consumer)) := by simp [h]

/-- A role that may store to it. -/
theorem QRole.mayStore {r : QRole} (h : r = .producer) : ¬ (r = .none ∨ (true = true ∧ r = .consumer)) := by simp [h]

theorem QRole.mayNotStore {r : QRole} (h : r ≠ .producer) : r = .none ∨ (true = true ∧ r = .consumer) := by
  cases r <;> simp_all

section
variable {s : State} (hf : s.thr.aslot.faults = false) {q : BitVec 3} {i : BitVec 6} {detail : Nat}
include hf

theorem execQld_fault (d : BitVec 5) (h : (s.thr.handle q).slotOk i false = queueFault detail) :
    execQld d q i s = .next (s.raise ⟨0x0E, detail, 0, 0, 0, none⟩) := by
  simp only [execQld, h, queueFault, fault, State.runC_flt hf]

theorem execQst_fault (d : BitVec 5) (h : (s.thr.handle q).slotOk i true = queueFault detail) :
    execQst d q i s = .next (s.raise ⟨0x0E, detail, 0, 0, 0, none⟩) := by
  simp only [execQst, h, queueFault, fault, State.runC_flt hf]

end

/-! ## Queue instructions that go on (R205 to R208) -/

/-- An address that an access may read is one whose bytes the chunk may read (R184). -/
theorem State.readable_of_readAt {s : State} {va n pa : Nat} (h : s.readAt va n = .ok pa) : s.readable va pa n = .ok () := by
  unfold State.readAt at h
  (repeat' split at h) <;> cases h
  assumption

/-- A bundle that only ends its chunk, having translated an address of a page. -/
def Eff.onPage (va : Nat) : Eff := { Eff.none with pages := [va / 4096] }

/-- A handle holds no reservation any more (R208). -/
def State.releases (s : State) (q : BitVec 3) (h : QHandle) : State :=
  { s with thr := s.thr.setHandle q { h with role := .none, r := 0 } }

section
variable {s : State} {q : BitVec 3}

theorem execQbind_unbinds {a : BitVec 5} (hn : (s.thr.handle q).role = .none) (hv : s.thr.arch.getX a = 0)
    (h : s.canEnd Eff.none = true) : execQbind q a s =
      .next { s.ended Eff.none with thr := (s.ended Eff.none).thr.setHandle q QHandle.unbound } := by
  simp only [execQbind, hv, if_true, hn, ne_eq, not_true_eq_false, if_false]
  exact s.enderC_canEnd _ _ h

theorem execQbind_binds {a : BitVec 5} {va pa : Nat} (hva : (s.thr.arch.getX a).toNat % 2 ^ 57 = va)
    (hn : (s.thr.handle q).role = .none) (hv : s.thr.arch.getX a ≠ 0) (hal : va % 64 = 0) (hpa : s.readAt va 8 = .ok pa)
    (h : s.canEnd (Eff.onPage va) = true) : execQbind q a s =
      .next ((s.ended (Eff.onPage va)).bindEvent q va pa s.thr.arch.pc) := by
  simp only [execQbind, va57_eq, hva, if_neg hv, aligned_ok hal, hn, ne_eq, not_true_eq_false, if_false, hpa]
  exact s.enderC_canEnd _ _ h

theorem State.queueWait_reserves {va pa : Nat} {e : Eff} (hva : (s.thr.handle q).line = va) (he : e = Eff.onPage va)
    (hv : (s.thr.handle q).valid = true) (hn : (s.thr.handle q).role = .none) (hpa : s.xlate .write va = .ok pa)
    (hm : (!isIo pa && !isFab pa) = true) (h : s.canEnd e = true) (prod : Bool) :
    s.queueWait q prod = .next ((s.ended e).ask (.reserve q prod)) := by
  subst he
  have hm' : (isIo pa || isFab pa) = false := by simpa using hm
  simp only [State.queueWait, hva, hv, hn, hpa, hm', Bool.not_true, Bool.false_eq_true, ne_eq, not_true_eq_false, false_and,
    if_false, if_true]
  exact s.enderC_canEnd _ _ h

theorem State.queueWait_again {prod : Bool} (hv : (s.thr.handle q).valid = true)
    (hrole : (s.thr.handle q).role = if prod then .producer else .consumer) (h : s.canEnd Eff.none = true) :
    s.queueWait q prod = .next ((s.ended Eff.none).stampCheck (s.ended Eff.none).thr.id q none) := by
  have hn : (if prod then QRole.producer else .consumer) ≠ .none := by cases prod <;> decide
  simp only [State.queueWait, hv, hrole, Bool.not_true, Bool.false_eq_true, ne_eq, not_true_eq_false, and_false, if_false,
    if_neg hn]
  exact s.enderC_canEnd _ _ h

theorem State.queueAdvance_asks {role : QRole} {va pa : Nat} (hva : (s.thr.handle q).stampVa = va)
    (hpa : s.xlate .write va = .ok pa) (hm : (!isIo pa && !isFab pa) = true)
    (h : s.canEnd (Eff.onPage va) = true) (hrole : (s.thr.handle q).role = role)
    (val : QHandle → Word) : s.queueAdvance q role val =
      .next (((s.ended (Eff.onPage va)).releases q (s.thr.handle q)).ask (.stamp q va pa (val (s.thr.handle q)))) := by
  have hm' : (isIo pa || isFab pa) = false := by simpa using hm
  simp only [State.queueAdvance, hva, hrole, hpa, hm', ne_eq, not_true_eq_false, Bool.false_eq_true, if_false]
  exact s.enderC_canEnd _ _ h

/-- A load from the reserved slot. -/
def State.slotLoad (s : State) (d : BitVec 5) (va pa : Nat) : Eff :=
  { Eff.regs (fun r => r.setX d ((s.combined [pa]).chunkN pa 8)) with reads := [lineOf pa], pages := [va / 4096] }

/-- A store to it. -/
def State.slotStore (s : State) (d : BitVec 5) (va pa : Nat) : Eff :=
  { Eff.none with stores := [(va, pa, 8, s.thr.arch.getX d)], pages := [va / 4096] }

theorem execQld_slot {d : BitVec 5} {i : BitVec 6} {va pa : Nat} (hva : (s.thr.handle q).slotVa i = va)
    (hi : i.toNat < 8 * 2 ^ (s.thr.handle q).lesz) (hrole : (s.thr.handle q).role ≠ .none) (hpa : s.readAt va 8 = .ok pa)
    (h : s.fits (s.slotLoad d va pa) = true) :
    execQld d q i s = .next ((s.retired (s.slotLoad d va pa)).allocD s.thr.core [lineOf pa]) := by
  simp only [execQld, QHandle.slotOk_inside (QRole.mayLoad hrole) hi, hva, hpa, State.loadReg, State.readable_of_readAt hpa]
  exact s.runC_retireLoad (s.slotLoad d va pa) h

theorem execQst_slot {d : BitVec 5} {i : BitVec 6} {va pa : Nat} (hva : (s.thr.handle q).slotVa i = va)
    (hi : i.toNat < 8 * 2 ^ (s.thr.handle q).lesz) (hrole : (s.thr.handle q).role = .producer) (hpa : s.writeAt va 8 = .ok pa)
    (h : s.fits (s.slotStore d va pa) = true) : execQst d q i s = .next (s.retired (s.slotStore d va pa)) := by
  simp only [execQst, QHandle.slotOk_inside (QRole.mayStore hrole) hi, hva, hpa]
  exact s.runC_retire _ h

end

end Sys2Proof.Machine

/-- Settles O32: the check that each form makes first stops it, and the faults of a queue follow one another in the order of
its checks. -/
theorem accessFaults : Obligations.AccessFaults := by
  unfold Obligations.AccessFaults
  refine ⟨?scalar, ?queue⟩
  case scalar =>
    intro s z y d a b off f n op ea va bad hf
    refine ⟨execLd_misaligned hf rfl, execSt_misaligned hf rfl, execRadd_misaligned hf rfl b,
      State.drayC_misaligned hf rfl b _, fun h => ⟨State.drayC_misaligned hf rfl b _ h, fun hr => ?_⟩⟩
    have atomic := State.atomicC_misaligned hf rfl h hr
    simp only [exec, execAmo, execCas, execAmop]
    exact ⟨atomic .., atomic .., atomic ..⟩
  case queue =>
    intro s q d a i h bad hf
    refine ⟨fun hr => ?ends, fun hn => ?_, fun hp => ?_, fun hn hi => ?_, fun hp hi => ?_⟩
    case ends =>
      have unbound (hv : h.valid = false) := State.queueWait_unbound hf hr hv
      have role {x : QRole} (hx : h.role ≠ x) := State.queueAdvance_role hf hr hx
      simp only [exec, execQwaitF, execQwaitE, execQadvT, execQadvH]
      exact ⟨execQbind_reserved hf hr, fun hv => ⟨unbound hv true, unbound hv false⟩,
        fun hv hc => State.queueWait_other (prod := true) hf hr hv hc,
        fun hv hp => State.queueWait_other (prod := false) hf hr hv hp, fun hp => role hp _, fun hc => role hc _⟩
    · exact execQld_fault hf d (QHandle.slotOk_noRole i (.inl hn))
    · exact execQst_fault hf d (QHandle.slotOk_noRole i (QRole.mayNotStore hp))
    · exact execQld_fault hf d (QHandle.slotOk_past (QRole.mayLoad hn) hi)
    · exact execQst_fault hf d (QHandle.slotOk_past (QRole.mayStore hp) hi)

/-- Settles O31: each form passes its checks, and is then one bundle that ends its chunk, or, at the reserved slot, one that can
be performed. -/
theorem queueInstructions : Obligations.QueueInstructions := by
  unfold Obligations.QueueInstructions
  intro s q d a i pa h v va S slot stamp mem page ask free get put
  refine ⟨execQbind_unbinds, execQbind_binds rfl, fun hv hn hpa hm hend => ?reserve, fun hv hend => ?again,
    fun hpa hm hend => ?release, fun hi => ⟨fun hrole => execQld_slot rfl hi hrole, execQst_slot rfl hi⟩⟩
  case reserve =>
    have reserve := State.queueWait_reserves (e := page h.line) rfl rfl hv hn hpa hm hend
    exact ⟨reserve true, reserve false⟩
  case again =>
    exact ⟨fun hp => State.queueWait_again (prod := true) hv hp hend,
      fun hc => State.queueWait_again (prod := false) hv hc hend⟩
  case release =>
    exact ⟨fun hp => State.queueAdvance_asks rfl hpa hm hend hp fun h => h.r + 1,
      fun hc => State.queueAdvance_asks rfl hpa hm hend hc fun h => h.r + BitVec.ofNat 64 h.slots⟩
end

section
/-! PROOFS. Atomics that commit their chunk first (R191 to R193). -/

open Sys2Proof Sys2Proof.Machine

namespace Sys2Proof.Machine

theorem amoCut_eq (z : AmoSize) (w : Word) : amoCut z w = BitVec.ofNat 64 (w.toNat % 2 ^ (8 * amoBytes z)) := by
  apply BitVec.eq_of_toNat_eq
  cases z <;> simp [amoCut, amoBytes, zext]
  omega

section
variable {s : State} {va pa pr : Nat}

/-- An address that may be written and read, and is on no I/O page, may take an atomic (R182, R191). -/
theorem State.rmwAt_ok {n : Nat} (hal : va % n = 0) (hw : s.xlate .write va = .ok pa) (hr : s.xlate .read va = .ok pr)
    (hio : isIo pa = false) : s.rmwAt va n = .ok pa := by
  simp [State.rmwAt, aligned_ok hal, hw, hr, hio]

/-- An atomic whose address is in order commits its chunk, and then asks for its operation. -/
theorem State.atomicC_commits {a : BitVec 5} {z : AmoSize} {result : Bool} {e : Eff}
    (hva : (s.thr.arch.getX a).toNat % 2 ^ 57 = va) (he : e = Eff.onPage va) (hpa : s.rmwAt va (amoBytes z) = .ok pa)
    (hlink : isFab pa = true → s.carries (farModuleOf pa) = true) (h : s.canEnd e = true)
    (k : Nat → Nat → State → State) : s.atomicC a z result k = .next (k va pa (s.ended e)) := by
  subst he
  have hcarries : ¬ (result && isFab pa && !s.carries (farModuleOf pa)) = true := by
    cases hfab : isFab pa <;> simp_all
  simp only [State.atomicC, effAddr_zero, hva, hpa, if_neg hcarries]
  exact s.enderC_canEnd _ _ h

end

end Sys2Proof.Machine

/-- Settles O28: the address passes its checks, the chunk commits, and what is asked for is made of the operands at issue. -/
theorem atomicsCommitFirst : Obligations.AtomicsCommitFirst := by
  unfold Obligations.AtomicsCommitFirst
  intro s op z d a b pa pr va cut v x pc c sent hal hw hr hio hlink hend
  have commits (result : Bool) (k : Nat → Nat → State → State) : s.atomicC a z result k = .next (k va pa c) :=
    State.atomicC_commits rfl rfl (State.rmwAt_ok hal hw hr hio) hlink hend k
  clear_value c
  simp only [exec, execAmo, execCas, execAmop, amoCut_eq, commits]
  exact ⟨rfl, rfl, rfl⟩
end

section
/-! PROOFS. `chunk` (R198). -/

open Sys2Proof Sys2Proof.Machine

/-- Settles O29: a word of the opcode is read field by field, and `chunk` ends its chunk as every form that does. -/
theorem chunkEndsChunk : Obligations.ChunkEndsChunk := by
  unfold Obligations.ChunkEndsChunk
  refine ⟨fun lit => ?_, fun d a b fn md lit h => ?_, fun s h => s.enderC_canEnd _ _ h,
    fun s hr hf => State.enderC_forbidden hr hf _⟩
  · simp [decodeC, packCR_fields, decC1C, need]
  · have hz : ¬ (d = 0 ∧ a = 0 ∧ b = 0 ∧ fn = 0 ∧ md = 0) := by tauto
    simpa [decodeC, packCR_fields, decC1C, need] using hz
end

section
/-! PROOFS. `qstat` (R209). -/

open Sys2Proof Sys2Proof.Machine

namespace Sys2Proof.Machine

/-- ROLE of a status word. -/
def QHandle.roleCode (h : QHandle) : BitVec 2 := match h.role with | .none => 0 | .producer => 1 | .consumer => 2

/-- RIDX of a status word. -/
def QHandle.ridx (h : QHandle) : BitVec 32 := if h.role = .none then 0#32 else h.r.setWidth 32

/-- The fields of a status word stand side by side. -/
theorem QHandle.stat_fields (h : QHandle) :
    h.stat.getLsbD 63 = h.valid ∧ h.stat.extractLsb' 61 2 = h.roleCode ∧ h.stat.extractLsb' 58 3 = BitVec.ofNat 3 h.lesz
    ∧ h.stat.extractLsb' 53 5 = BitVec.ofNat 5 h.lslot ∧ h.stat.getLsbD 60 = (BitVec.ofNat 3 h.lesz).getLsbD 2
    ∧ h.stat.extractLsb' 32 21 = 0 ∧ h.stat.extractLsb' 0 32 = h.ridx := by
  have hw : h.stat = BitVec.ofBool h.valid ++ h.roleCode ++ BitVec.ofNat 3 h.lesz ++ BitVec.ofNat 5 h.lslot ++ 0#21 ++ h.ridx :=
    rfl
  simp (disch := decide) only [hw, BitVec.extractLsb'_append_eq_of_le, BitVec.extractLsb'_append_eq_of_add_le,
    BitVec.getLsbD_append]
  simp

/-- A bundle that stores nothing ends its chunk only where the chunk is full, or is a solo chunk (R154, R157). -/
theorem State.chunkAfter_none_open {s : State} (he : s.thr.chunk.ended = false) (hn : s.thr.chunk.count + 1 < s.thr.chunk.max)
    (hs : s.thr.solo = none) (hl : s.thr.chunk.firsts.length ≤ Config.chunkLines) :
    (s.chunkAfter Eff.none).ended = false := by
  have hfirsts : addFirsts s.thr.arch.pc s.thr.chunk.firsts Eff.none = s.thr.chunk.firsts := rfl
  simp [State.chunkAfter, Thread.chunkAfter, hfirsts, he, hs, hn, hl]

theorem execQstat_fits {s : State} (d : BitVec 5) (q : BitVec 3) (h : s.fits Eff.none = true) : execQstat d q s =
    .next (s.withRegs fun r => { r.setX d (s.thr.handle q).stat with pc := nextPc s.thr.arch.pc }) :=
  s.regsC_fits _ h

end Sys2Proof.Machine

/-- Settles O33: a word of the opcode is read field by field, `qstat` is a bundle that only writes registers, and the fields of
its word stand side by side. -/
theorem qstatFields : Obligations.QstatFields := by
  unfold Obligations.QstatFields
  refine ⟨fun d q lit => ?_, fun d a b fn md lit h => ?_, fun s d q h => ?_, fun h hslot hsz => ?_⟩
  · have hq : q.toNat % 32 < 8 := by omega
    simp [decodeC, packCR_fields, packCR_parts, decC25, need, hq]
  · simp [decodeC, packCR_fields, decC25, need]
    tauto
  · exact ⟨_, execQstat_fits d q h, rfl, ⟨rfl, rfl, rfl⟩, rfl, rfl, State.chunkAfter_none_open⟩
  · obtain ⟨hvalid, hrole, hlesz, hlslot, hhigh, hzero, hridx⟩ := h.stat_fields
    refine ⟨hvalid, ?_, ?_, ?_, fun hsmall => ?_, hzero, ?_⟩
    · rw [hrole, QHandle.roleCode]
      cases h.role <;> rfl
    · rw [hlesz, BitVec.toNat_ofNat, Nat.mod_eq_of_lt hsz]
    · rw [hlslot, BitVec.toNat_ofNat, Nat.mod_eq_of_lt hslot]
    · rw [hhigh, BitVec.getLsbD_ofNat, Nat.testBit_lt_two_pow hsmall, Bool.and_false]
    · exact (BitVec.setWidth_eq_extractLsb' (by decide)).trans hridx
end

section
/-! PROOFS. The events that queue and barrier instructions ask for (R181, R206, R208, R259, R301). -/

open Sys2Proof Sys2Proof.Machine

namespace Sys2Proof.Machine

section
variable {s : State} {id : ThreadId} {t : Thread} {pa : Nat} (ht : s.find id = some t) (hg : s.granted (some id) pa = true)
include ht hg

/-! ## Queues (R206, R208) -/

section
variable {q : BitVec 3} {prod : Bool} (hp : t.post = some (.reserve q prod))
  (hpa : s.translate id.tenant t.core .write (t.handle q).line = .ok pa)
include hp hpa

/-- The reservation reads and advances the number of its side in one event (R206). -/
theorem execQueueReservation_takes {at' : Nat} {l : State} {old : Word} (hat : (pa + if prod then 24 else 32) = at')
    (hl : (s.posted id).combineLine (some id) (lineOf at') = l) (hold : l.readN at' 8 = old)
    (hclean : s.homePoison id.tenant pa = none) : execQueueReservation id s =
      .next (((l.writeEvent (some id) false (cellsOf at' 8 (old + 1))).upd id (Thread.setHandle q
        { t.handle q with role := if prod then .producer else .consumer, r := old })).stampCheck id q none) := by
  subst hat hl hold
  simp [execQueueReservation, Thread.reservation, ht, hp, hpa, hg, hclean, State.rmw]

theorem execQueueReservation_poisoned {e : BitVec 16} (hbad : s.homePoison id.tenant pa = some e) :
    execQueueReservation id s = .next ((s.posted id).homeRecord id (prevPc t.arch.pc)
      ⟨0x05, e.toNat, addrWord (t.handle q).line, 0, 0, none⟩) := by
  simp [execQueueReservation, Thread.reservation, ht, hp, hpa, hg, hbad]

end

section
variable {q : BitVec 3} {va : Nat} {v : Word} (hp : t.post = some (.stamp q va pa v))
include hp

theorem execStampWrite_publishes (hclean : (s.posted id).homePoison id.tenant pa = none) :
    execStampWrite id s = .next ((s.posted id).writeEvent (some id) false (cellsOf pa 8 v)) := by
  simp [execStampWrite, State.canStamp, Thread.stamping, ht, hp, hg, hclean]

theorem execStampWrite_poisoned {e : BitVec 16} (hbad : (s.posted id).homePoison id.tenant pa = some e) :
    execStampWrite id s =
      .next ((s.posted id).homeRecord id (prevPc t.arch.pc) ⟨0x05, e.toNat, addrWord va, 0, 0, none⟩) := by
  simp [execStampWrite, State.canStamp, Thread.stamping, ht, hp, hg, hbad]

end

/-! ## Barrier words (R259) -/

section
variable {d : BitVec 5} {va tout : Nat} {n : BitVec 32} {pc : Word} (hp : t.post = some (.bar d va pa n tout pc))
include hp

theorem execBarArrival_poisoned {e : BitVec 16} (hbad : (s.posted id).homePoison id.tenant pa = some e) :
    execBarArrival id s = .next ((s.posted id).homeRecord id pc ⟨0x05, e.toNat, addrWord va, 0, 0, none⟩) := by
  simp [execBarArrival, Thread.arriving, ht, hp, hg, hbad]

variable {l : State} {w : Word} (hclean : (s.posted id).homePoison id.tenant pa = none)
  (hl : (s.posted id).combineLine (some id) (lineOf pa) = l) (hw : l.readN pa 8 = w)
include hclean hl hw

/-- The last arrival. -/
theorem execBarArrival_last (hn : n.toNat ≤ (w.extractLsb' 0 32).toNat + 1) : execBarArrival id s =
    .next ((l.writeEvent (some id) false (cellsOf pa 8 (barWord (barPhase w + 1) 0))).upd id
      (Thread.between fun a => a.setX d (barResult false true (barPhase w)))) := by
  subst hl hw
  simp only [execBarArrival, ht, Option.bind_some, Thread.arriving, hp, hg, hclean, if_pos hn, Bool.not_true,
    Bool.false_eq_true, if_false]

/-- An arrival that others are to follow. -/
theorem execBarArrival_waits (hn : (w.extractLsb' 0 32).toNat + 1 < n.toNat) : execBarArrival id s =
    .next ((l.writeEvent (some id) false (cellsOf pa 8 (barWord (barPhase w) (w.extractLsb' 0 32 + 1)))).upd id
      (Thread.park s.cyc (.bar d va pa (barPhase w) (if tout = 0 then none else some (s.cyc + tout)) pc))) := by
  subst hl hw
  simp only [execBarArrival, ht, Option.bind_some, Thread.arriving, hp, hg, hclean, if_neg (Nat.not_le.2 hn), Bool.not_true,
    Bool.false_eq_true, if_false]

end

section
variable {d : BitVec 5} {va c : Nat} {p : BitVec 32} {pc : Word} {u : State} {w : Word} (hlive : t.live = true)
  (hrun : t.run = .parked (.bar d va pa p (some c) pc))
  (hu : (s.reach c).combineLine (some id) (lineOf pa) = u) (hclean : u.poisonOf pa = none) (hw : u.readN pa 8 = w)
include hlive hrun hu hclean hw

/-- A time-out that finds PHASE changed: the barrier has released the thread. -/
theorem execBarTimeout_changed (hstop : t.stopped = none) (hph : barPhase w ≠ p) : execBarTimeout id s =
    .next (u.upd id (Thread.readyCode u.cyc 4 fun a => a.setX d (barResult false false p))) := by
  subst hu hw
  simp [execBarTimeout, ht, Thread.barDeadline, hrun, hlive, hg, hclean, if_pos hph, hstop]

/-- A time-out that finds PHASE as it was and no arrival counted has none to withdraw. -/
theorem execBarTimeout_uncounted (hph : barPhase w = p) (hc : w.extractLsb' 0 32 = 0#32) :
    execBarTimeout id s = .next (u.upd id (Thread.endWait u.cyc d (barResult true false p) 2)) := by
  subst hu hw
  simp [execBarTimeout, ht, Thread.barDeadline, hrun, hlive, hg, hclean, hph, hc]

/-- A time-out withdraws the arrival. -/
theorem execBarTimeout_withdraws (hph : barPhase w = p) (hc : w.extractLsb' 0 32 ≠ 0#32) : execBarTimeout id s =
    .next ((u.writeEvent (some id) false (cellsOf pa 8 (barWord p (w.extractLsb' 0 32 - 1)))).upd id
      (Thread.endWait u.cyc d (barResult true false p) 2)) := by
  subst hu hw
  simp [execBarTimeout, ht, Thread.barDeadline, hrun, hlive, hg, hclean, hph, hc]

end

end

end Sys2Proof.Machine

/-- Settles O44: each event finds its thread and its line, and its outcomes are those of its checks. -/
theorem queueAndBarrierEvents : Obligations.QueueAndBarrierEvents := by
  unfold Obligations.QueueAndBarrierEvents
  intro s id t q prod pa va v d n tout c p pc ht hg s1 h role l at' r1 old w ph cnt u uw bad
  refine ⟨fun hp hpa => ⟨execQueueReservation_takes ht hg hp hpa rfl rfl rfl,
      fun e => execQueueReservation_poisoned ht hg hp hpa⟩,
    fun hp => ⟨execStampWrite_publishes ht hg hp, fun e => execStampWrite_poisoned ht hg hp⟩,
    fun e hp => execBarArrival_poisoned ht hg hp,
    fun hp hclean => ⟨execBarArrival_last ht hg hp hclean rfl rfl, execBarArrival_waits ht hg hp hclean rfl rfl⟩,
    fun hlive hstop hrun hclean => ⟨execBarTimeout_changed ht hg hlive hrun rfl hclean rfl hstop,
      execBarTimeout_uncounted ht hg hlive hrun rfl hclean rfl, execBarTimeout_withdraws ht hg hlive hrun rfl hclean rfl⟩⟩
end

section
/-! PROOFS. Watches, waits and the instructions that give a core up (R243, R251 to R258, R349, R353). -/

open Sys2Proof Sys2Proof.Machine

namespace Sys2Proof.Machine

/-! ## Watches (R251, R252) -/

theorem exec_watch {s : State} {w : WatchCond} {n : BitVec 2} {a b : BitVec 5} {va pa : Nat}
    (hva : (s.thr.arch.getX a).toNat % 2 ^ 57 = va) (hal : va % 8 = 0) (hx : s.xlate .read va = .ok pa)
    (hio : isIo pa = false) (hfab : isFab pa = false)
    (hend : s.canEnd { Eff.none with pages := [va / 4096] } = true) :
    exec (.watch w n a b) s = .next { s.ended { Eff.none with pages := [va / 4096] } with
      thr := (s.ended { Eff.none with pages := [va / 4096] }).thr.toArm n ⟨w, va, pa, s.thr.arch.getX b, false, false⟩ } := by
  simp only [exec, execWatch, effAddr_zero, hva, aligned, if_pos hal, hx, hio, hfab, Bool.or_self, Bool.false_eq_true, if_false]
  exact s.enderC_canEnd _ _ hend

section
variable {t : Thread} {n : BitVec 2}

/-- The slot is armed, or about to be. -/
def Thread.armedAt (t : Thread) (n : BitVec 2) : Prop := (qat t.watches n).isSome = true ∨ ∃ p ∈ t.arms, p.1 = n

theorem Thread.not_armedAt_iff :
    ((qat t.watches n).isNone && t.arms.all (fun p => p.1 != n)) = true ↔ ¬ t.armedAt n := by
  rw [Thread.armedAt, not_or, Bool.and_eq_true, List.all_eq_true]
  simp only [Option.isNone_iff_eq_none, Option.not_isSome_iff_eq_none, bne_iff_ne, not_exists, not_and, ne_eq]

theorem Thread.unwatch_armedAt (h : t.armedAt n) : t.unwatch n = { t with
    watches := qput t.watches n none
    latch := t.latch &&& ~~~(1#4 <<< n.toNat)
    took := t.took &&& ~~~(1#4 <<< n.toNat)
    arms := t.arms.filter (fun p => p.1 != n) } := by
  rw [Thread.unwatch, if_neg (fun hn => Thread.not_armedAt_iff.1 hn h)]
  simp [Thread.setWatch]

theorem Thread.unwatch_not_armedAt (h : ¬ t.armedAt n) : t.unwatch n = t := by
  rw [Thread.unwatch, if_pos (Thread.not_armedAt_iff.2 h)]

end

/-! ## Instructions that end their chunk without an effect of their own -/

/-- The launch of the thread that issues may be followed early, and the foreman is told (R347). -/
def State.maySucceed (s : State) (l : Launch) : State :=
  let tn := s.thr.id.tenant
  { s.setTenant tn { s.tenant tn with
      launches := (s.tenant tn).launches.map (fun m => if m.lid = l.lid then { m with smay := true } else m) } with
    net := { s.net with smays := s.net.smays ++ [(tn, l.lid)] } }

theorem State.maySucceed_smays (s : State) (l : Launch) :
    (s.maySucceed l).net.smays = s.net.smays ++ [(s.thr.id.tenant, l.lid)] := rfl

theorem State.maySucceed_mem (s : State) (l : Launch) : (s.maySucceed l).mem = s.mem := rfl

theorem State.maySucceed_launches (s : State) (l : Launch) :
    ((s.maySucceed l).tenant s.thr.id.tenant).launches =
      (s.tenant s.thr.id.tenant).launches.map (fun m => if m.lid = l.lid then { m with smay := true } else m) :=
  congrArg Tenant.launches (State.tenant_setTenant ..)

section
variable {s c : State} (h : s.canEnd Eff.none = true) (hc : s.ended Eff.none = c)
include h hc

/-- The chunk ends and the effect follows on the commit. -/
theorem State.endC_then (k : State → State) : s.endC Eff.none k = .next (k c) := hc ▸ s.endC_canEnd _ k h

theorem exec_unwatch (n : BitVec 2) : exec (.unwatch n) s = .next { c with thr := c.thr.unwatch n } :=
  State.endC_then h hc _

/-- The time-out counts from the commit (R253). -/
theorem exec_wait (d a : BitVec 5) : exec (.wait d a) s = .next (c.waitNow d (.wait d
    (if (s.thr.arch.getX a).toNat = 0 then none else some (c.cyc + (s.thr.arch.getX a).toNat)))) :=
  State.endC_then h hc _

theorem exec_yield : exec .yield s =
    .next { c with thr := { c.thr with yielded := !(c.tenant c.thr.id.tenant).rr } } := State.endC_then h hc _

theorem exec_halt : exec .halt s = .next (c.endThread c.thr.id false) := State.endC_then h hc _

theorem exec_haltRetain : exec .haltRetain s = .next (c.endThread c.thr.id true) := State.endC_then h hc _

/-! ## `pwait`, `smay` (R258) -/

theorem exec_pwait_done (hp : c.predDone c.thr = true) :
    exec .pwait s = .next { c with thr := { c.thr with spot := c.thr.spot.over } } :=
  (State.endC_then h hc _).trans (by rw [if_pos hp])

theorem exec_pwait_parks (hp : c.predDone c.thr = false) :
    exec .pwait s = .next { c with thr := { c.thr.park c.cyc .pwait with spot := (c.thr.park c.cyc .pwait).spotAt } } :=
  (State.endC_then h hc _).trans (by rw [if_neg (by rw [hp]; decide)])

theorem exec_smay_noLaunch (hl : c.launchOf c.thr = none) : exec .smay s = .next c :=
  (State.endC_then h hc _).trans (by simp only [hl])

variable {l : Launch} (hl : c.launchOf c.thr = some l)
include hl

theorem exec_smay_again (hm : l.smay = true) : exec .smay s = .next c :=
  (State.endC_then h hc _).trans (by simp only [hl, hm, if_true])

theorem exec_smay_first (hm : l.smay = false) : exec .smay s = .next (c.maySucceed l) := by
  refine (State.endC_then h hc _).trans ?_
  simp only [hl, hm, Bool.false_eq_true, if_false]
  rfl

end

end Sys2Proof.Machine

/-- Settles O35: each instruction ends its chunk, and its outcomes are those of what it finds after the commit. -/
theorem waitInstructions : Obligations.WaitInstructions := by
  unfold Obligations.WaitInstructions
  intro s w n d a b pa va v k c tn
  have hc : s.ended Eff.none = c := rfl
  refine ⟨fun hal hx hio hfab hend => exec_watch rfl hal hx hio hfab hend, fun h => ⟨fun hheld => ?_, fun hheld => ?_,
    fun hw => ?_, fun ha hl => ?_, exec_yield h hc, exec_halt h hc, exec_haltRetain h hc, exec_pwait_done h hc,
    exec_pwait_parks h hc, exec_smay_noLaunch h hc, fun l hl => ⟨exec_smay_again h hc hl, fun hm =>
      ⟨_, exec_smay_first h hc hl hm, c.maySucceed_smays l, c.maySucceed_mem l, c.maySucceed_launches l⟩⟩⟩⟩
  · rw [exec_unwatch h hc, Thread.unwatch_armedAt hheld]
  · rw [exec_unwatch h hc, Thread.unwatch_not_armedAt hheld]
  · exact (exec_wait h hc d a).trans (congrArg _ (State.waitNow_parks d _ hw))
  · exact (exec_wait h hc d a).trans (congrArg _ (State.waitNow_returns d _ ha hl))
end

section
/-! PROOFS. The device's detectors and the records that wait (R246, R247, R299, R330). -/

open Sys2Proof Sys2Proof.Machine

namespace Sys2Proof.Machine

/-! ## Deadlock (R246) -/

theorem exec_deadlockDetect {s : State} {tn : BitVec 4} (h : s.deadlocked tn = true) : exec (.deadlockDetect tn) s =
    .next ((s.setTenant tn { s.tenant tn with deadlock := true }).detector tn 0x13 (rengWord 5 0 0)
      (BitVec.ofNat 64 ((s.unhalted tn).filter (fun t => t.stopped.isNone && !t.packed)).length)
      (BitVec.ofNat 64 ((s.unhalted tn).filter (fun t => t.stopped.isNone && t.packed)).length)
      (BitVec.ofNat 64 ((s.unhalted tn).filter (fun t => t.stopped.isSome)).length) 0) := by
  change execDeadlockDetect tn s = _
  rw [execDeadlockDetect, h]
  rfl

/-- The record of a detector goes to the line of the tenant as it stands. -/
theorem State.detector_setTenant (s : State) (tn : BitVec 4) (t : Tenant) (kind : BitVec 8) (eng addr seq pos det : Word) :
    (s.setTenant tn t).detector tn kind eng addr seq pos det = (s.setTenant tn t).deliver none
      (coreOf (t.rect.clusters.headD 0) 0) t.rootFlta ⟨kind, 5, tn, 0, 0, addr, eng, seq, pos, 0, det⟩ := by
  rw [State.detector, State.baseCore, State.tenant_setTenant]

/-! ## Pulse periods (R247) -/

/-- The state in which a tenant's pulse period is over, with the silent ones in a row. -/
def State.pulseOver (s : State) (tn : BitVec 4) (u : Pulse) (n : Nat) : State :=
  (s.reach (u.opened + u.period)).setTenant tn
    { s.tenant tn with pulse := some { u with opened := u.opened + u.period, silent := n } }

/-- The record that the end of a silent period writes. -/
def watchdogRecord (tn : BitVec 4) (u : Pulse) (n : Nat) : Record :=
  ⟨0x14, 5, tn, 0, 0, addrWord u.va, rengWord 5 0 0, BitVec.ofNat 64 n, 0, 0, rdetWord n 0 0⟩

/-- The tenant after a silent period, its record delivered. -/
def State.pulseSilent (s : State) (tn : BitVec 4) (u : Pulse) (n : Nat) : State :=
  (s.pulseOver tn u n).deliver none (s.baseCore tn) (s.tenant tn).rootFlta (watchdogRecord tn u n)

theorem exec_pulsePeriodExpiry {s : State} {tn : BitVec 4} {u : Pulse} (h : (s.tenant tn).pulse = some u)
    (hs : u.silent < 2) : exec (.pulsePeriodExpiry tn) s =
    .next (if u.silent + 1 = 2 then ((s.pulseSilent tn u (u.silent + 1)).stopTenant tn).report
      (watchdogRecord tn u (u.silent + 1)) else s.pulseSilent tn u (u.silent + 1)) := by
  change execPulsePeriodExpiry tn s = _
  have hd : (s.tenant tn).pulseDeadline = some (u.opened + u.period) := by
    rw [Tenant.pulseDeadline, h]
    exact if_pos hs
  rw [execPulsePeriodExpiry, h, hd]
  rfl

/-! ## Held records (R299, R330) -/

theorem exec_pendingRecordDelivery_held {s : State} {tn : BitVec 4} {n : Nat} {p : Option ThreadId × Held}
    (hp : (s.heldOf tn)[n]? = some p) (hask : s.canAskHeld tn p = false) (hdel : s.canDeliver tn p = true) :
    exec (.pendingRecordDelivery tn n) s =
      .next ((s.takeHeld tn p).deliver p.1 (s.heldCore tn p.1) p.2.line p.2.body) := by
  change execPendingRecordDelivery tn n s = _
  simp [execPendingRecordDelivery, hp, hask, hdel]

theorem exec_pendingRecordDelivery_report {s : State} {tn : BitVec 4} {n : Nat} {r : Record} {l : List Record}
    (hn : (s.heldOf tn)[n]? = none) (hr : (s.tenant tn).reports = r :: l) (hcan : s.canReport tn = true) :
    exec (.pendingRecordDelivery tn n) s = .next ((s.setTenant tn { s.tenant tn with reports := l }).report r) := by
  change execPendingRecordDelivery tn n s = _
  simp only [execPendingRecordDelivery, hn, hr, hcan, if_true]

end Sys2Proof.Machine

/-- Settles O50: what each detector writes, and what each held record becomes. -/
theorem detectorEvents : Obligations.DetectorEvents := by
  unfold Obligations.DetectorEvents
  intro s tn u n p r l t us count core hub later dog barked
  have hhub : rengWord 5 0 0 = hub := by decide
  have hdog : ∀ k, rdetWord k 0 0 = BitVec.ofNat 64 k → watchdogRecord tn u k = dog k := fun k hk => by
    rw [watchdogRecord, hhub, hk]
  have hbark : ∀ k, rdetWord k 0 0 = BitVec.ofNat 64 k → s.pulseSilent tn u k = barked k := fun k hk => by
    rw [State.pulseSilent, hdog k hk]
    rfl
  refine ⟨fun h => ?_, fun hu => ⟨fun h0 => ?_, fun h1 => ?_⟩, exec_pendingRecordDelivery_held,
    exec_pendingRecordDelivery_report⟩
  · rw [exec_deadlockDetect h, State.detector_setTenant, hhub]
  · rw [exec_pulsePeriodExpiry hu (by omega), h0, if_neg (by decide), hbark _ (by decide)]
  · rw [exec_pulsePeriodExpiry hu (by omega), h1, if_pos (by decide), hbark _ (by decide), hdog _ (by decide)]
end

section
/-! PROOFS. The factor thread of a queue: the records it takes and reads, and what it makes of each (R240, R308, R324, R326,
R327). -/

open Sys2Proof Sys2Proof.Machine

namespace Sys2Proof.Machine

/-! ## Words read without a fault path (log 7) -/

/-- Two readers that agree on the bytes read the same word. -/
theorem readLe_congr {f g : Nat → Byte} {a n : Nat} (h : ∀ i < n, f (a + i) = g (a + i)) : readLe f a n = readLe g a n := by
  induction n generalizing a with
  | zero => rfl
  | succ n ih =>
    have hrest : readLe f (a + 1) n = readLe g (a + 1) n := ih fun i hi => by
      simpa [Nat.add_assoc, Nat.add_comm 1 i] using h (i + 1) (by omega)
    have hfirst : f a = g a := h 0 (Nat.succ_pos n)
    rw [readLe, readLe, hrest, hfirst]

/-- Of lines that are not poisoned, an agent without a fault path reads what stands in memory. -/
theorem State.agentWord_clean {s : State} {pa : Nat} (h : ∀ j < 8, s.poisonOf (pa + j) = none) :
    s.agentWord pa = s.readN pa 8 :=
  readLe_congr fun j hj => by simp [State.agentByte, h j hj]

/-! ## Taking and reading a record (R240, R324) -/

section
variable {s : State} {q : BitVec 6} {k : HostQueue} (hk : s.queue q = k)
include hk

theorem exec_notifyWrite {dev : Bool} {n : Nat} {rest : List (Bool × Nat)} (hstage : s.hub.stage = 6) (hv : k.valid = true)
    (hlost : k.lost = false) (hidle : k.st = .idle) (htodo : k.todo = (dev, n) :: rest) :
    exec (.notifyWrite q) s = .next (s.setQueue q { k with st := .reading dev }) := by
  subst hk
  have hcan : s.canNotify q = true := by simp [State.canNotify, hstage, hv, hlost, hidle, htodo]
  simp [exec, execNotifyWrite, hcan, htodo]

end

/-- The sixteen doublewords of a record at an address. -/
def State.recordWords (s : State) (a : Nat) : List Word := (List.range 16).map fun i => s.agentWord (a + 8 * i)

/-- The record at an address is with the factor thread, which has counted it. -/
def State.recordRead (s : State) (q : BitVec 6) (dev : Bool) (a : Nat) : State :=
  let k := s.queue q
  ({ s with free := s.free + 128 } : State).setQueue q { k with
    todo := takeOne k.todo
    qhead := if dev then k.qhead else (k.qhead + 1) % 2 ^ 32
    devHead := if dev then (k.devHead + 1) % 2 ^ 32 else k.devHead
    st := .validating dev (s.recordWords a) }

theorem State.recordWords_clean {s : State} {a i : Nat} (hi : i < 16) (h : ∀ j < 8, s.poisonOf (a + 8 * i + j) = none) :
    (s.recordWords a)[i]? = some (s.readN (a + 8 * i) 8) := by
  simp [State.recordWords, hi, State.agentWord_clean h]

theorem State.recordRead_queue (s : State) (q : BitVec 6) (dev : Bool) (a : Nat) :
    ((s.recordRead q dev a).queue q).st = .validating dev (s.recordWords a)
      ∧ ((s.recordRead q dev a).queue q).qhead =
        if dev then (s.queue q).qhead else ((s.queue q).qhead + 1) % 2 ^ 32 := by
  rw [State.recordRead, State.queue_setQueue]
  exact ⟨rfl, rfl⟩

theorem exec_launchRecordRead {s : State} {q : BitVec 6} {dev : Bool} {a : Nat} (hst : (s.queue q).st = .reading dev)
    (ha : (s.queue q).recordAt dev = a) (hd : s.draining a = false) : exec (.launchRecordRead q) s =
      .next ((s.combineAll none [lineOf a, lineOf (a + 64)]).recordRead q dev a) := by
  subst ha
  change execLaunchRecordRead q s = _
  simp only [execLaunchRecordRead, hst, hd, Bool.false_eq_true, if_false]
  rfl

/-! ## The answer to a record (R325, R326) -/

theorem bitsMask_address : bitsMask 56 3 = 0x01FFFFFFFFFFFFF8#64 := by decide

theorem recStata_eq (r : List Word) : recStata r = r.getD 5 0 &&& 0x01FFFFFFFFFFFFF8#64 := by
  rw [recStata, bitsMask_address, recWord]

/-- A refusal's status word is its code. -/
theorem statusWord_refused (c : Nat) : statusWord false false 0 c = BitVec.ofNat 64 (c % 256) := by
  have h : statusWord false false 0 c = 0#56 ++ BitVec.ofNat 8 c := rfl
  apply BitVec.eq_of_toNat_eq
  rw [h, BitVec.toNat_append]
  simp
  omega

theorem statusWord_done : statusWord true true 0 0 = BitVec.ofNat 64 (3 * 2 ^ 62) := by decide

/-- A queue's factor thread is free. -/
def State.factorIdle (s : State) (q : BitVec 6) : State := s.setQueue q { s.queue q with st := .idle }

/-- A factor thread that is free stays so. -/
theorem State.factorIdle_factorIdle (s : State) (q : BitVec 6) : (s.factorIdle q).factorIdle q = s.factorIdle q := by
  unfold State.factorIdle
  rw [State.queue_setQueue]
  simp only [State.setQueue, tset_tset]

/-- The answer to a record goes to the status address it names. -/
def State.statusAnswer (s : State) (q : BitVec 6) (r : List Word) (v : Word) : State :=
  s.writeStatus q (r.getD 5 0 &&& 0x01FFFFFFFFFFFFF8#64) v ((r.getD 6 0).getLsbD 15) ((r.getD 6 0).extractLsb' 0 6).toNat

theorem State.endService_eq (s : State) (q : BitVec 6) (r : List Word) (v : Word) :
    s.endService q r v = (s.factorIdle q).statusAnswer q r v := by
  rw [State.endService, recStata_eq]
  rfl

theorem State.endService_factorIdle (s : State) (q : BitVec 6) (r : List Word) (v : Word) :
    (s.factorIdle q).endService q r v = (s.factorIdle q).statusAnswer q r v := by
  rw [State.endService_eq, State.factorIdle_factorIdle]

/-! ## Validation (R326) -/

section
variable {s : State} {q : BitVec 6} {dev : Bool} {r : List Word}

theorem exec_launchValidated (s : State) (q : BitVec 6) : exec (.launchValidated q) s = execLaunchValidated q s := rfl

section
variable (hst : (s.queue q).st = .validating dev r)
include hst

/-- A status write that has to wait holds the factor thread up. -/
theorem exec_launchValidated_held (hheld : s.statusHeld q (recStata r) = true) :
    exec (.launchValidated q) s = .next (s.statusAsk q (recStata r)) := by
  simp only [exec_launchValidated, execLaunchValidated, hst, hheld, if_true]

variable (hfree : s.statusHeld q (recStata r) = false) {c : Nat} (hc : s.launchCode q dev r = c)
include hfree hc

theorem exec_launchValidated_refused (h0 : c ≠ 0) (h5 : c ≠ 5) : exec (.launchValidated q) s =
    .next ((s.factorIdle q).statusAnswer q r (BitVec.ofNat 64 (c % 256))) := by
  rw [← statusWord_refused, ← State.endService_factorIdle]
  simp only [exec_launchValidated, execLaunchValidated, hst, hfree, hc, h0, h5, false_and, Bool.false_eq_true, if_false]
  rfl

theorem exec_launchValidated_accepted (h0 : c = 0) (ht : recType r = 0) :
    exec (.launchValidated q) s = .next ((s.factorIdle q).acceptLaunch q r) := by
  simp [exec_launchValidated, execLaunchValidated, hst, hfree, hc, h0, ht]
  rfl

theorem exec_launchValidated_service (h0 : c = 0) (ht : recType r = 1) :
    exec (.launchValidated q) s = .next (s.serveRecord q r) := by
  simp [exec_launchValidated, execLaunchValidated, hst, hfree, hc, h0, ht]

variable {entry : Nat} (hentry : (recWord r 0 &&& bitsMask 56 3).toNat = entry) (h5 : c = 5)
include hentry h5

/-- An entry page that is not known is asked for. -/
theorem exec_launchValidated_asks
    (hm : (s.pageMissing (s.queue q).owner (s.baseCore (s.queue q).owner) .fetch entry).isSome = true) :
    exec (.launchValidated q) s = .next (s.askAddr (s.queue q).owner (s.baseCore (s.queue q).owner) .fetch entry) := by
  simp only [exec_launchValidated, execLaunchValidated, hst, hfree, hc, h5, hentry, hm, and_self, Bool.false_eq_true, if_false,
    if_true]

/-- An entry that is not mapped executable. -/
theorem exec_launchValidated_noEntry
    (hm : s.pageMissing (s.queue q).owner (s.baseCore (s.queue q).owner) .fetch entry = none) :
    exec (.launchValidated q) s = .next ((((s.factorIdle q).forget (s.queue q).owner
      ((s.factorIdle q).baseCore (s.queue q).owner) entry).factorIdle q).statusAnswer q r 5) := by
  rw [← State.endService_eq]
  subst h5
  simp [exec_launchValidated, execLaunchValidated, hst, hfree, hc, hentry, hm]
  rfl

end

/-! ## Service requests (R308, R327) -/

theorem drainedBy_eq_some {g : Nat} (h : recFunc r = 3 ∧ g = (recOpers r).o4.toNat / 65536
    ∨ recFunc r = 4 ∧ g = (recOpers r).o0.toNat / 65536) : drainedBy r = some g := by
  rcases h with ⟨hf, rfl⟩ | ⟨hf, rfl⟩ <;> simp only [drainedBy, hf]

theorem drainedBy_eq_none (h3 : recFunc r ≠ 3) (h4 : recFunc r ≠ 4) : drainedBy r = none := by
  unfold drainedBy
  split
  next h => exact absurd h h3
  next h => exact absurd h h4
  next => rfl

section
variable {u u' : State}

/-- A request performed whose region drains waits for that. -/
theorem State.serveRecord_drains {g : Nat} (h : s.serve (s.queue q).head (recFunc r) (recOpers r) = (some (u, true), u'))
    (hg : drainedBy r = some g) : s.serveRecord q r = u.setQueue q { u.queue q with st := .draining r g } := by
  simp only [State.serveRecord, h, hg]

theorem State.serveRecord_done (h : s.serve (s.queue q).head (recFunc r) (recOpers r) = (some (u, true), u'))
    (hg : drainedBy r = none) :
    s.serveRecord q r = (u.factorIdle q).statusAnswer q r (BitVec.ofNat 64 (3 * 2 ^ 62)) := by
  simp only [State.serveRecord, h, hg, State.endService_eq, statusWord_done]

theorem State.serveRecord_refused (h : s.serve (s.queue q).head (recFunc r) (recOpers r) = (some (u, false), u')) :
    s.serveRecord q r = (u.factorIdle q).statusAnswer q r 9 := by
  simp only [State.serveRecord, h, State.endService_eq, statusWord_refused]
  rfl

theorem State.serveRecord_waits (h : s.serve (s.queue q).head (recFunc r) (recOpers r) = (none, u')) :
    s.serveRecord q r = u' := by
  simp only [State.serveRecord, h]

end

section
variable {g : Nat} (hst : (s.queue q).st = .draining r g)
include hst

theorem exec_launchValidated_draining (hd : (s.region g).drain ≠ none) : exec (.launchValidated q) s = .next s := by
  simp [exec_launchValidated, execLaunchValidated, hst, Option.isSome_iff_ne_none, hd]

variable (hd : (s.region g).drain = none)
include hd

theorem exec_launchValidated_drained_held (hheld : s.statusHeld q (recStata r) = true) :
    exec (.launchValidated q) s = .next (s.statusAsk q (recStata r)) := by
  simp [exec_launchValidated, execLaunchValidated, hst, hd, hheld]

theorem exec_launchValidated_drained (hfree : s.statusHeld q (recStata r) = false) : exec (.launchValidated q) s =
    .next ((s.factorIdle q).statusAnswer q r (BitVec.ofNat 64 (3 * 2 ^ 62))) := by
  simp [exec_launchValidated, execLaunchValidated, hst, hd, hfree, State.endService_eq, statusWord_done]

end

end

end Sys2Proof.Machine

/-- Settles O46: what each event of the factor thread finds, and its outcomes in the order of the checks. -/
theorem factorThread : Obligations.FactorThread := by
  unfold Obligations.FactorThread
  intro s q dev n rest r k a c s1 idle st entry answer done
  have hstata : recStata r = st := recStata_eq r
  have hentry : (recWord r 0 &&& bitsMask 56 3).toNat = entry.toNat := by rw [bitsMask_address, recWord]
  refine ⟨fun hstage hv hlost hidle htodo => exec_notifyWrite rfl hstage hv hlost hidle htodo, fun hst hd => ?read,
    fun hst hheld => ?_, fun hst hfree => ?validated, fun g hst => ⟨?_, fun hd hheld => ?_, fun hd hfree => ?_⟩⟩
  case read =>
    obtain ⟨hread, hhead⟩ := s1.recordRead_queue q dev a
    exact ⟨_, s1.recordWords a, exec_launchRecordRead hst rfl hd, hread, by simp [State.recordWords], rfl, hhead,
      fun i hi hclean => State.recordWords_clean hi hclean⟩
  case validated =>
    rw [← hstata] at hfree
    refine ⟨exec_launchValidated_refused hst hfree rfl, fun h5 hm => ?_, fun h5 hm => ?_,
      exec_launchValidated_accepted hst hfree rfl, fun u u' h0 ht hserve => ⟨fun h3 h4 => ?_, fun g hg => ?_⟩,
      fun u u' h0 ht hserve => ?_, fun u' h0 ht hserve => ?_⟩
    · exact exec_launchValidated_noEntry hst hfree rfl hentry h5 hm
    · exact exec_launchValidated_asks hst hfree rfl hentry h5 hm
    · rw [exec_launchValidated_service hst hfree rfl h0 ht, State.serveRecord_done hserve (drainedBy_eq_none h3 h4)]
      rfl
    · rw [exec_launchValidated_service hst hfree rfl h0 ht, State.serveRecord_drains hserve (drainedBy_eq_some hg)]
    · rw [exec_launchValidated_service hst hfree rfl h0 ht, State.serveRecord_refused hserve]
      rfl
    · rw [exec_launchValidated_service hst hfree rfl h0 ht, State.serveRecord_waits hserve]
  · rw [← hstata] at hheld ⊢
    exact exec_launchValidated_held hst hheld
  · exact exec_launchValidated_draining hst
  · rw [← hstata] at hheld ⊢
    exact exec_launchValidated_drained_held hst hd hheld
  · rw [← hstata] at hfree
    exact exec_launchValidated_drained hst hd hfree
end

section
/-! PROOFS. The packing of a thread (R234, R243) where a state holds two live threads of one name: `State.upd` reaches both, and
each goes into the position of its own. -/

open Sys2Proof Sys2Proof.Machine

namespace Sys2Proof.Machine

/-- A root that has halted, in a slot of core 0, with what is reserved for it in the loft. -/
def retainedRoot (p : Spot) : Thread := { Thread.fresh ⟨0, 0⟩ Arch.zero 0 0 with run := .retained, spot := p }

/-- Two threads have the root's name: the first has no reserved position, the second keeps one unused. -/
def State.twoRoots : State :=
  { State.reset.placeThread (0, 0) with thr := retainedRoot .none, others := [retainedRoot .barred] }

/-- The positions of the other threads in an outcome. -/
def othersSpots : Host.Outcome State Fault Refusal → List Spot
  | .next u => u.others.map Thread.spot
  | _ => []

theorem State.twoRoots_find : State.twoRoots.find ⟨0, 0⟩ = some (retainedRoot .none) := by decide +kernel

theorem State.twoRoots_canPack : State.twoRoots.canPack (retainedRoot .none) = true := by decide +kernel

theorem State.twoRoots_fits :
    State.twoRoots.docketSize (retainedRoot .none) - (if (retainedRoot .none).takesSpot then 1 else 0) ≤
      State.twoRoots.loftFree (clusterOf (retainedRoot .none).core) := by decide +kernel

/-- The second thread keeps its own position. -/
theorem exec_packComplete_twoRoots : othersSpots (exec (.packComplete ⟨0, 0⟩) State.twoRoots) = [.barred] := by
  decide +kernel

end Sys2Proof.Machine

/-- Refutes O45: the statement gives every thread of the name the loft position of the first one that has it, while a packed
thread has its own (R243). The two differ in a state with two live threads of one name, which the statement does not exclude. -/
theorem not_placementEvents : ¬ Obligations.PlacementEvents := by
  unfold Obligations.PlacementEvents
  intro h
  obtain ⟨-, hpack, -⟩ := h State.twoRoots ⟨0, 0⟩ (retainedRoot .none) 0 0 0 ⟨0, 0, 0⟩ State.twoRoots_find
  obtain ⟨hexec, -⟩ := hpack State.twoRoots_canPack State.twoRoots_fits
  have hspots : [Spot.barred] = [Spot.none] := exec_packComplete_twoRoots.symm.trans (congrArg othersSpots hexec)
  exact absurd hspots (by decide)
end

section
/-! PROOFS. `vclaim`, `vreneg` and `vrel` (R264): the groups that a mask names, the free groups of a cluster's pool, and the
outcomes of each form. -/

open Sys2Proof Sys2Proof.Machine

namespace Sys2Proof.Machine

/-! ## Masks of groups -/

theorem getLsbD_groupMask (l : List Nat) {j : Nat} (hj : j < 16) : (groupMask l).getLsbD j = decide (j ∈ l) := by
  have hbit : ∀ i, 1#16 <<< i = BitVec.ofNat 16 (1 <<< i) := fun i => BitVec.eq_of_toNat_eq (by simp)
  simpa [groupMask, hbit] using getLsbD_foldl_setBit (w := 16) (fun _ => true) l 0 hj

/-- A mask of different groups of the pool has as many groups. -/
theorem popc16_groupMask {l : List Nat} (hn : l.Nodup) (hl : ∀ i ∈ l, i < 16) : popc16 (groupMask l) = l.length := by
  have hsub : ∀ i, i ∈ (List.range 16).filter (groupMask l).getLsbD ↔ i ∈ l := fun i => by
    rw [List.mem_filter, List.mem_range]
    refine ⟨fun ⟨hi, hm⟩ => of_decide_eq_true ((getLsbD_groupMask l hi).symm.trans hm), fun hi => ⟨hl i hi, ?_⟩⟩
    rw [getLsbD_groupMask l (hl i hi), decide_eq_true hi]
  exact ((List.perm_ext_iff_of_nodup (List.nodup_range.filter _) hn).2 hsub).length_eq

/-! ## The pool of a cluster -/

variable (s : State) (cl : BitVec 7)

theorem State.groupsFree_nodup : (s.groupsFree cl).Nodup := List.nodup_range.filter _

theorem State.lt_of_mem_groupsFree {i : Nat} (h : i ∈ s.groupsFree cl) : i < 16 :=
  List.mem_range.1 (List.mem_filter.1 h).1

/-- The groups that a fold over threads gathers hold those it began with and those of every thread of the cluster. -/
theorem getLsbD_foldl_gmask (l : List Thread) (m : BitVec 16) (i : Nat) :
    (l.foldl (fun m t => if clusterOf t.core = cl then m ||| t.gmask else m) m).getLsbD i =
      (m.getLsbD i || l.any fun t => decide (clusterOf t.core = cl) && t.gmask.getLsbD i) := by
  induction l generalizing m with
  | nil => simp
  | cons t l ih =>
    rw [List.foldl_cons, ih, List.any_cons]
    by_cases ht : clusterOf t.core = cl <;> simp [ht, Bool.or_assoc]

variable {s}

/-- No free group of the pool is one that the thread that issues holds. -/
theorem State.not_mem_groupsFree_of_held {i : Nat} (hl : s.thr.live = true) (ho : (s.tenant s.thr.id.tenant).out = false)
    (hi : s.thr.gmask.getLsbD i = true) : i ∉ s.groupsFree (clusterOf s.thr.core) := by
  have hres : s.thr ∈ s.resident := List.mem_filter.2 ⟨List.mem_cons_self, by simp [hl, ho]⟩
  have hheld : (s.groupsHeld (clusterOf s.thr.core)).getLsbD i = true := by
    rw [State.groupsHeld, getLsbD_foldl_gmask, Bool.or_eq_true, List.any_eq_true]
    exact .inr ⟨s.thr, hres, by simp [hi]⟩
  intro hf
  have := (List.mem_filter.1 hf).2
  simp [hheld] at this

/-! ## The groups after a `vreneg` -/

/-- The groups that a thread holds, lowest first. -/
def Thread.groups (t : Thread) : List Nat := (List.range 16).filter t.gmask.getLsbD

/-- The groups that a `vreneg` of `want` leaves the thread that issues: the lowest of its own, or all of them and the lowest free
ones. -/
def State.regroup (s : State) (want : Nat) : List Nat :=
  if want ≤ s.thr.groups.length then s.thr.groups.take want
  else s.thr.groups ++ (s.groupsFree (clusterOf s.thr.core)).take (want - s.thr.groups.length)

theorem Thread.groups_nodup (t : Thread) : t.groups.Nodup := List.nodup_range.filter _

theorem State.length_regroup (want : Nat) : (s.regroup want).length =
    min want (s.thr.groups.length + (s.groupsFree (clusterOf s.thr.core)).length) := by
  unfold State.regroup
  split <;> simp <;> omega

theorem State.lt_of_mem_regroup (want : Nat) : ∀ i ∈ s.regroup want, i < 16 := by
  have hown : ∀ i ∈ s.thr.groups, i < 16 := fun i hi => List.mem_range.1 (List.mem_filter.1 hi).1
  intro i hi
  unfold State.regroup at hi
  split at hi
  · exact hown i (List.mem_of_mem_take hi)
  · exact (List.mem_append.1 hi).elim (hown i) fun h => s.lt_of_mem_groupsFree _ (List.mem_of_mem_take h)

theorem State.regroup_nodup (want : Nat) (hl : s.thr.live = true) (ho : (s.tenant s.thr.id.tenant).out = false) :
    (s.regroup want).Nodup := by
  unfold State.regroup
  split
  · exact s.thr.groups_nodup.sublist (List.take_sublist ..)
  · refine List.Nodup.append s.thr.groups_nodup ((s.groupsFree_nodup _).sublist (List.take_sublist ..)) fun i hi hf => ?_
    exact State.not_mem_groupsFree_of_held hl ho (List.mem_filter.1 hi).2 (List.mem_of_mem_take hf)

/-! ## Grants -/

@[simp] theorem State.poolGrant_gmask (d : BitVec 5) (g : BitVec 16) (b : Bool) : (s.poolGrant d g b).thr.gmask = g := rfl

/-- A grant of different groups of the pool makes the context as wide as they are many. -/
theorem State.poolGrant_ngrp (d : BitVec 5) {l : List Nat} (b : Bool) (hn : l.Nodup) (hl : ∀ i ∈ l, i < 16) :
    (s.poolGrant d (groupMask l) b).thr.ngrp = l.length := popc16_groupMask hn hl

theorem State.releaseGroups_pend (s : State) (t : Thread) (h : t.gmask ≠ 0) :
    ((s.releaseGroups t).cluster (clusterOf t.core)).pend = false := by
  rw [State.releaseGroups, if_neg h, State.cluster_setCluster]

/-! ## `vclaim` and `vreneg` -/

section
variable {d : BitVec 5} {v : Word}

theorem State.claim_badRequest (hv : ¬ requestOk v = true) : s.claim d v = s.poolRefuse d 3 := by
  simp [State.claim, hv]

theorem State.reneg_badRequest (hv : ¬ requestOk v = true) : s.reneg d v = s.poolRefuse d 3 := by
  simp [State.reneg, hv]

variable (hv : requestOk v = true)
include hv

theorem State.claim_ok_eq : s.claim d v =
    if s.thr.gmask ≠ 0 then s.poolRefuse d 2
    else if (s.groupsFree (clusterOf s.thr.core)).length < (v.extractLsb' 8 5).toNat then s.poolRefuse d 1
    else s.poolGrant d (groupMask ((s.groupsFree (clusterOf s.thr.core)).take (v.extractLsb' 0 5).toNat)) false := by
  rw [State.claim, if_neg (by simp [hv])]

theorem State.claim_refused (h : s.thr.gmask ≠ 0) : s.claim d v = s.poolRefuse d 2 := by
  rw [State.claim_ok_eq hv, if_pos h]

theorem State.claim_tooFew (hg : s.thr.gmask = 0)
    (hf : (s.groupsFree (clusterOf s.thr.core)).length < (v.extractLsb' 8 5).toNat) : s.claim d v = s.poolRefuse d 1 := by
  rw [State.claim_ok_eq hv, if_neg (not_not.2 hg), if_pos hf]

theorem State.claim_grants (hg : s.thr.gmask = 0)
    (hf : (v.extractLsb' 8 5).toNat ≤ (s.groupsFree (clusterOf s.thr.core)).length) : s.claim d v =
      s.poolGrant d (groupMask ((s.groupsFree (clusterOf s.thr.core)).take (v.extractLsb' 0 5).toNat)) false := by
  rw [State.claim_ok_eq hv, if_neg (not_not.2 hg), if_neg (not_lt.2 hf)]

theorem State.reneg_ok_eq : s.reneg d v =
    if s.thr.gmask = 0 then s.poolRefuse d 2
    else if s.thr.groups.length + (s.groupsFree (clusterOf s.thr.core)).length < (v.extractLsb' 8 5).toNat then
      s.poolRefuse d 1
    else if (v.extractLsb' 0 5).toNat ≤ s.thr.groups.length then
      s.poolGrant d (groupMask (s.thr.groups.take (v.extractLsb' 0 5).toNat))
        (decide ((v.extractLsb' 0 5).toNat < s.thr.groups.length))
    else s.poolGrant d (groupMask (s.thr.groups ++ (s.groupsFree (clusterOf s.thr.core)).take
      ((v.extractLsb' 0 5).toNat - s.thr.groups.length))) false := by
  rw [State.reneg, if_neg (by simp [hv])]
  rfl

theorem State.reneg_refused (hg : s.thr.gmask = 0) : s.reneg d v = s.poolRefuse d 2 := by
  rw [State.reneg_ok_eq hv, if_pos hg]

theorem State.reneg_tooFew (hg : s.thr.gmask ≠ 0)
    (hf : s.thr.groups.length + (s.groupsFree (clusterOf s.thr.core)).length < (v.extractLsb' 8 5).toNat) :
    s.reneg d v = s.poolRefuse d 1 := by
  rw [State.reneg_ok_eq hv, if_neg hg, if_pos hf]

theorem State.reneg_grants (hg : s.thr.gmask ≠ 0)
    (hf : (v.extractLsb' 8 5).toNat ≤ s.thr.groups.length + (s.groupsFree (clusterOf s.thr.core)).length) :
    ∃ b, s.reneg d v = s.poolGrant d (groupMask (s.regroup (v.extractLsb' 0 5).toNat)) b := by
  rw [State.reneg_ok_eq hv, if_neg hg, if_neg (not_lt.2 hf), State.regroup]
  split
  · exact ⟨_, rfl⟩
  · exact ⟨_, rfl⟩

end

end Sys2Proof.Machine

/-- Settles O37: each form ends its chunk and answers as R264 does. The groups granted are different groups of the pool, since no
free group is one that the thread holds, and so the width is their number. -/
theorem vectorContexts : Obligations.VectorContexts := by
  unfold Obligations.VectorContexts
  intro s d a hend c v want least free held ok no
  have hclaim : exec (.vclaim d a) s = .next (c.claim d v) := s.endC_canEnd _ _ hend
  have hreneg : exec (.vreneg d a) s = .next (c.reneg d v) := s.endC_canEnd _ _ hend
  have hrel : exec .vrel s = .next { c.releaseGroups c.thr with thr := c.thr.setGroups 0 } := s.endC_canEnd _ _ hend
  rw [hclaim, hreneg, hrel]
  clear_value c v
  refine ⟨fun hv => ⟨?_, ?_⟩, fun hv hg => ?_, fun hv hg => ?_, fun hv hg hf => ?_, fun hv hg hf => ?_, fun hv hg hf => ?_,
    fun hv hg hf hl ho => ?_, _, rfl, rfl, c.releaseGroups_pend c.thr⟩
  · exact congrArg _ (State.claim_badRequest hv)
  · exact congrArg _ (State.reneg_badRequest hv)
  · exact congrArg _ (State.claim_refused hv hg)
  · exact congrArg _ (State.reneg_refused hv hg)
  · exact congrArg _ (State.claim_tooFew hv hg hf)
  · exact congrArg _ (State.reneg_tooFew hv hg hf)
  · rw [State.claim_grants hv hg hf]
    refine ⟨_, rfl, rfl, ?_⟩
    rw [State.poolGrant_ngrp _ _ ((c.groupsFree_nodup _).sublist (List.take_sublist ..))
      (fun i hi => c.lt_of_mem_groupsFree _ (List.mem_of_mem_take hi)), List.length_take]
  · obtain ⟨b, hb⟩ := State.reneg_grants (d := d) hv hg hf
    rw [hb]
    refine ⟨_, rfl, ?_, rfl⟩
    rw [State.poolGrant_ngrp _ _ (State.regroup_nodup _ hl ho) (State.lt_of_mem_regroup _), State.length_regroup]
    rfl
end

section
/-! PROOFS. `bar`, `dmem` and `dbar` (R259 to R261): the arrival that a `bar` asks for, the rows of the table of `dmem` in their
order, and the answers of `dbar`. -/

open Sys2Proof Sys2Proof.Machine

namespace Sys2Proof.Machine

/-! ## `bar` (R259) -/

theorem toNat_highHalf (v : Word) : (v.extractLsb' 32 32).toNat = v.toNat / 2 ^ 32 := by
  have := v.isLt
  simp [BitVec.extractLsb'_toNat, Nat.shiftRight_eq_div_pow]
  omega

theorem exec_bar {s : State} {d a b : BitVec 5} {va pa pr : Nat} (hva : (s.thr.arch.getX a).toNat % 2 ^ 57 = va)
    (hal : va % 8 = 0) (hw : s.xlate .write va = .ok pa) (hr : s.xlate .read va = .ok pr) (hio : isIo pa = false)
    (hfab : isFab pa = false) (hend : s.canEnd (Eff.onPage va) = true) :
    exec (.bar d a b) s = .next ((s.ended (Eff.onPage va)).ask (.bar d va pa ((s.thr.arch.getX b).setWidth 32)
      ((s.thr.arch.getX b).toNat / 2 ^ 32) s.thr.arch.pc)) := by
  have hlow : (s.thr.arch.getX b).extractLsb' 0 32 = (s.thr.arch.getX b).setWidth 32 := BitVec.eq_of_toNat_eq (by simp)
  simp only [exec, execBar, effAddr_zero, hva, State.rmwAt_ok hal hw hr hio, hfab, Bool.false_eq_true, if_false, hlow,
    toNat_highHalf]
  exact s.enderC_canEnd _ _ hend

/-! ## `dmem` (R260) -/

theorem DKind.crier_iff (k : DKind) : k.crier = true ↔ ∀ c0 r0 wm hm, k ≠ .rect c0 r0 wm hm := by
  cases k <;> simp [DKind.crier]

/-- The tenant has a domain of the kind already. -/
def Tenant.knows (k : Tenant) (u : DKind) : Bool := k.domains.any (fun e => e.kind == u)

/-- A new domain of the kind would be one too many for the crier. -/
def Tenant.crierFull (k : Tenant) (u : DKind) : Bool :=
  !k.knows u && u.crier && decide (1024 ≤ (k.domains.filter (fun e => e.kind.crier)).length)

theorem Tenant.crierFull_iff (k : Tenant) (u : DKind) : k.crierFull u = true ↔ k.knows u = false
    ∧ (∀ c0 r0 wm hm, u ≠ .rect c0 r0 wm hm) ∧ 1024 ≤ (k.domains.filter (fun e => e.kind.crier)).length := by
  rw [Tenant.crierFull, Bool.and_eq_true, Bool.and_eq_true, Bool.not_eq_true', u.crier_iff, decide_eq_true_iff, and_assoc]

/-- The thread that issues has joined a domain, which is a new one where its tenant has none of the kind. -/
def State.joined (s : State) (u : DKind) (sl : BitVec 2) (n : Nat) : State :=
  let k := s.tenant s.thr.id.tenant
  (s.setTenant s.thr.id.tenant { k with
    domains := (if k.knows u then k.domains else k.domains ++ [Domain.new u]).map
      (fun e => if e.kind = u then e.join s.thr.id.rank sl n else e) }).crierRestart s.thr.id.tenant u

section
variable {s : State} {d : BitVec 5} {v : Word}

theorem State.member_bad (h : memberOk v = false) : s.member d v = s.setReg d 1 := by
  rw [State.member, if_pos (by rw [h]; rfl)]

theorem State.member_leaves (h : memberOk v = true) (hk : s.thr.domainKind v = none) :
    s.member d v = (s.leaveDomains s.thr.id (some (v.extractLsb' 59 2))).setReg d 0 := by
  rw [State.member, if_neg (by rw [h]; decide), hk]

/-- A value that names a domain: the rows of the table in their order, and then the membership. -/
theorem State.member_named {u : DKind} (h : memberOk v = true) (hk : s.thr.domainKind v = some u) : s.member d v =
    if (!s.rectOk s.thr u) = true then s.setReg d 2
    else if s.rectTaken s.thr u = true then s.setReg d 3
    else if ((s.tenant s.thr.id.tenant).domainIn s.thr.id.rank (v.extractLsb' 59 2)).isSome = true then s.setReg d 4
    else if (s.tenant s.thr.id.tenant).crierFull u = true then s.setReg d 5
    else (s.joined u (v.extractLsb' 59 2) (v.extractLsb' 20 23).toNat).setReg d 0 := by
  rw [State.member, if_neg (by rw [h]; decide), hk]
  rfl

variable {u : DKind} (h : memberOk v = true) (hk : s.thr.domainKind v = some u)
include h hk

theorem State.member_outside (hr : s.rectOk s.thr u = false) : s.member d v = s.setReg d 2 := by
  simp [State.member_named h hk, hr]

variable (hr : s.rectOk s.thr u = true)
include hr

theorem State.member_taken (ht : s.rectTaken s.thr u = true) : s.member d v = s.setReg d 3 := by
  simp [State.member_named h hk, hr, ht]

variable (ht : s.rectTaken s.thr u = false)
include ht

theorem State.member_slotHeld
    (hs : ((s.tenant s.thr.id.tenant).domainIn s.thr.id.rank (v.extractLsb' 59 2)).isSome = true) :
    s.member d v = s.setReg d 4 := by
  rw [State.member_named h hk, if_neg (by simp [hr]), if_neg (by simp [ht]), if_pos hs]

variable (hs : ((s.tenant s.thr.id.tenant).domainIn s.thr.id.rank (v.extractLsb' 59 2)).isSome = false)
include hs

theorem State.member_full (hf : (s.tenant s.thr.id.tenant).crierFull u = true) : s.member d v = s.setReg d 5 := by
  rw [State.member_named h hk, if_neg (by simp [hr]), if_neg (by simp [ht]), if_neg (by simp [hs]), if_pos hf]

theorem State.member_joins (hf : ¬ (s.tenant s.thr.id.tenant).crierFull u = true) :
    s.member d v = (s.joined u (v.extractLsb' 59 2) (v.extractLsb' 20 23).toNat).setReg d 0 := by
  rw [State.member_named h hk, if_neg (by simp [hr]), if_neg (by simp [ht]), if_neg (by simp [hs]), if_neg hf]

end

/-! ## `dbar` (R261) -/

theorem dbarWord_eq (n code : Nat) : dbarWord n code = BitVec.ofNat 64 (n % 2 ^ 32 * 2 ^ 32 + code % 16) := by
  apply BitVec.eq_of_toNat_eq
  rw [dbarWord, BitVec.toNat_append, BitVec.toNat_append, ← Nat.shiftLeft_add_eq_or_of_lt (BitVec.isLt _),
    ← Nat.shiftLeft_add_eq_or_of_lt (BitVec.isLt _)]
  simp only [BitVec.toNat_ofNat, Nat.zero_mod, Nat.shiftLeft_eq]
  omega

section
variable {s : State} {d : BitVec 5} {v : Word}

theorem State.dbarNow_bad (h : v.extractLsb' 2 30 ≠ 0) : s.dbarNow d v = s.setReg d
    (dbarWord ((((s.tenant s.thr.id.tenant).domainIn s.thr.id.rank (v.extractLsb' 0 2)).map Domain.phases).getD 0) 5) := by
  rw [State.dbarNow, if_pos h]

theorem State.dbarNow_none (h : v.extractLsb' 2 30 = 0)
    (hd : (s.tenant s.thr.id.tenant).domainIn s.thr.id.rank (v.extractLsb' 0 2) = none) :
    s.dbarNow d v = s.setReg d (dbarWord 0 4) := by
  rw [State.dbarNow, if_neg (not_not.2 h), if_pos (by rw [hd]; rfl)]

theorem State.dbarNow_asks (h : v.extractLsb' 2 30 = 0)
    (hd : (s.tenant s.thr.id.tenant).domainIn s.thr.id.rank (v.extractLsb' 0 2) ≠ none) :
    s.dbarNow d v = s.ask (.dbar d (v.extractLsb' 0 2) (v.toNat / 2 ^ 32)) := by
  rw [State.dbarNow, if_neg (not_not.2 h), if_neg (by simpa using hd), toNat_highHalf]

end

end Sys2Proof.Machine

/-- Settles O39: each instruction ends its chunk, and then answers or asks by the row of its table that applies. -/
theorem barriersAndDomains : Obligations.BarriersAndDomains := by
  unfold Obligations.BarriersAndDomains
  intro s d a b pa va v m e u c dom
  refine ⟨fun hal hw ⟨pr, hr⟩ hio hfab hend => exec_bar rfl hal hw hr hio hfab hend, fun hend => ?_⟩
  have hdmem : exec (.dmem d a) s = .next (c.member d m) := s.endC_canEnd _ _ hend
  have hdbar : exec (.dbar d a) s = .next (c.dbarNow d m) := s.endC_canEnd _ _ hend
  rw [hdmem, hdbar]
  clear_value c m
  refine ⟨⟨_, rfl, State.member_bad, State.member_leaves, fun k hm hk => ?_⟩, fun hb => ?_, fun hb hn => ?_, fun hb hn => ?_⟩
  · exact ⟨State.member_outside hm hk, State.member_taken hm hk, fun hr ht =>
      ⟨State.member_slotHeld hm hk hr ht, fun hs => ⟨fun hf => State.member_full hm hk hr ht hs ((Tenant.crierFull_iff ..).2 hf),
        fun hf => State.member_joins hm hk hr ht hs (mt (Tenant.crierFull_iff ..).1 hf)⟩⟩⟩
  · rw [State.dbarNow_bad hb, dbarWord_eq]
  · rw [State.dbarNow_none hb hn, dbarWord_eq]
    rfl
  · rw [State.dbarNow_asks hb hn]
    rfl
end

section
/-! PROOFS. The events of domains (R261 to R263): arrivals, the row-and-column wires, the crier's beginnings and messages, and
time-outs. -/

open Sys2Proof Sys2Proof.Machine

namespace Sys2Proof.Machine

section
variable {s : State} {id : ThreadId} {t : Thread} {d : BitVec 5} {sl : BitVec 2} {e : Domain} {tn : BitVec 4} {n : Nat}

/-! ## Arrivals (R261) -/

/-- A member has arrived, and its N counts for the phase if it is the first. -/
def Domain.arrive (r : BitVec 24) (sl : BitVec 2) (n : Nat) (d : Domain) : Domain :=
  { d.updMember r sl (fun m => { m with arrived := true, raised := false }) with
    n := if d.members.any Member.arrived then d.n else n }

/-- The N with which a thread has joined a domain. -/
def Domain.joinedWith (d : Domain) (r : BitVec 24) : Nat := ((d.ns.find? (fun p => p.1 == r)).map Prod.snd).getD 0

theorem exec_dbarArrival {tout : Nat} (hf : s.find id = some t) (hp : t.post = some (.dbar d sl tout))
    (hd : (s.tenant id.tenant).domainIn id.rank sl = some e) : exec (.dbarArrival id) s =
      .next ((((s.posted id).departMembers id.tenant e).updDomain id.tenant e.kind
        (Domain.arrive id.rank sl (e.joinedWith id.rank))).upd id
          (Thread.park s.cyc (.dbar d sl e.phases (if tout = 0 then none else some (s.cyc + tout))))) := by
  have hasked : t.dbarAsked = some (d, sl, tout) := by rw [Thread.dbarAsked, hp]
  simp only [exec, execDbarArrival, hf, Option.bind_some, hasked, Option.map_some, hd]
  rfl

/-! ## The wires (R262) -/

/-- What a core's raising makes of a member: it is raised if it is the thread's, has arrived, and everything that it committed
has been acknowledged. -/
def State.raiseMember (s : State) (id : ThreadId) (m : Member) : Member :=
  if m.rank = id.rank ∧ m.arrived = true ∧ s.hasElems ⟨id.tenant, m.rank⟩ = false ∧ s.hasAmops ⟨id.tenant, m.rank⟩ = false
  then { m with raised := true } else m

theorem State.isRaised_iff (s : State) (tn : BitVec 4) (m : Member) : s.isRaised tn m = true ↔
    m.arrived = true ∧ s.hasElems ⟨tn, m.rank⟩ = false ∧ s.hasAmops ⟨tn, m.rank⟩ = false := by
  simp [State.isRaised, State.memberClear]

theorem exec_wireRaise (id : ThreadId) (s : State) : exec (.wireRaise id) s =
    .next (s.setTenant id.tenant { s.tenant id.tenant with domains := (s.tenant id.tenant).domains.map (fun x =>
      if x.kind.crier then x else { x with members := x.members.map (s.raiseMember id) }) }) := by
  simp only [exec, execWireRaise, State.isRaised_iff]
  rfl

theorem exec_wireComplete (hn : (s.tenant tn).domains[n]? = some e) (hup : s.wiresUp tn e = true) :
    exec (.wireComplete tn n) s = .next ((s.updDomain tn e.kind (fun x => { x with phases := x.phases + 1 })).releaseMembers tn
      e.kind (dbarWord (e.phases + 1) 0) 5 (fun _ => true)) := by
  simp only [exec, execWireComplete, hn, hup, Bool.not_true, Bool.false_eq_true, if_false]

/-! ## The crier (R263) -/

/-- A domain as a cluster begins its phase: the first to begin names the clusters that take part. -/
def State.ringed (s : State) (tn : BitVec 4) (e : Domain) : Domain :=
  if e.ring.isEmpty then { e with ring := s.crierClusters tn e } else e

theorem exec_crierBegin {cl : BitVec 7} (hn : (s.tenant tn).domains[n]? = some e) (hb : s.canBegin tn e cl = true) :
    exec (.crierBegin tn n cl) s =
      let x := s.ringed tn e
      let s1 := s.updDomain tn e.kind (fun _ => Domain.setPos { x.posOf cl with begun := true } x)
      .next ((if 1 < x.ring.length then s1.crierSend tn x cl 0 false else s1).crierAdvance tn e.kind cl 16) := by
  simp only [exec, execCrierBegin, hn, hb, Bool.not_true, Bool.false_eq_true, if_false]
  rfl

end

/-- A message of the crier has arrived. -/
def State.heard (s : State) (n : Nat) : State := { s with net := { s.net with criers := ldrop s.net.criers n } }

section
variable {s : State} {m : CrierMsg} {e : Domain} {n : Nat} (hn : s.net.criers[n]? = some m)
  (he : s.domain m.tn m.dom = some e)
include hn he

theorem exec_crierAbort (ha : m.abort = true) : exec (.crierAbort n) s =
    .next (if e.turn = m.turn then (s.heard n).crierBreak m.tn m.dom m.dst else s.heard n) := by
  have hd : (s.heard n).domain m.tn m.dom = some e := he
  rw [State.heard] at hd
  simp only [exec, execCrierAbort, hn, ha, hd, Option.any_some, beq_iff_eq, Bool.not_true, Bool.false_eq_true, if_false]
  rfl

theorem exec_crierMessage (ha : m.abort = false) : exec (.crierMessage n) s =
    .next (if e.turn ≠ m.turn then s.heard n
      else ((s.heard n).updDomain m.tn m.dom (Domain.setPos { e.posOf m.dst with
        got := (e.posOf m.dst).got ++ [m.round] })).crierAdvance m.tn m.dom m.dst 16) := by
  have hd : (s.heard n).domain m.tn m.dom = some e := he
  rw [State.heard] at hd
  simp only [exec, execCrierMessage, hn, ha, hd, Bool.false_eq_true, if_false]
  split <;> rfl

end

/-! ## Time-outs (R261 to R263) -/

/-- The cluster has begun the domain's phase and has not finished it. -/
def Domain.inPhase (e : Domain) (cl : BitVec 7) : Bool := e.kind.crier && (e.posOf cl).begun && !(e.posOf cl).finished

/-- A thread's arrival has been withdrawn, and its wait has ended with a result. -/
def State.withdrawn (s : State) (id : ThreadId) (d : BitVec 5) (sl : BitVec 2) (e : Domain) (v : Word) : State :=
  (s.updDomain id.tenant e.kind (Domain.updMember id.rank sl (fun m => { m with arrived := false, raised := false }))).upd id
    (Thread.endWait s.cyc d v 2)

theorem dbarWord_timeout (n : Nat) (b : Bool) :
    dbarWord n (if b then 2 else 1) = (BitVec.ofNat 32 n ++ (if b then 2#32 else 1#32) : Word) := by
  apply BitVec.eq_of_toNat_eq
  rw [dbarWord_eq, BitVec.toNat_append, ← Nat.shiftLeft_add_eq_or_of_lt (BitVec.isLt _), Nat.shiftLeft_eq, BitVec.toNat_ofNat,
    BitVec.toNat_ofNat]
  cases b <;> simp <;> omega

theorem exec_dbarTimeout {s : State} {id : ThreadId} {t : Thread} {d : BitVec 5} {sl : BitVec 2} {p c : Nat} {e : Domain}
    (hf : s.find id = some t) (hl : t.live = true) (hr : t.run = .parked (.dbar d sl p (some c)))
    (hd : (s.tenant id.tenant).domainIn id.rank sl = some e) : exec (.dbarTimeout id) s =
      let w := (s.reach c).withdrawn id d sl e (dbarWord e.phases (if e.inPhase (clusterOf t.core) then 2 else 1))
      .next (if e.inPhase (clusterOf t.core) then w.crierBreak id.tenant e.kind (clusterOf t.core) else w) := by
  have hline : t.dbarDeadline = some (d, sl, c) := by simp only [Thread.dbarDeadline, hr, hl, if_true]
  have hdc : ((s.reach c).tenant id.tenant).domainIn id.rank sl = some e := hd
  simp only [exec, execDbarTimeout, hf, Option.bind_some, hline, Option.map_some, hdc]
  rfl

end Sys2Proof.Machine

/-- Settles O48: each event finds what it is about, and does what its rule says. -/
theorem domainEvents : Obligations.DomainEvents := by
  unfold Obligations.DomainEvents
  intro s id t d sl tout n c p e tn cl m k
  refine ⟨fun hf hp hd => ⟨_, exec_dbarArrival hf hp hd, rfl⟩, exec_wireRaise id s, exec_wireComplete, exec_crierBegin,
    fun hn => ⟨fun ha he => exec_crierAbort hn he ha, fun ha he ht => ?_, fun ha he ht => ?_⟩, fun hf hl hr hd => ?_⟩
  · rw [exec_crierMessage hn he ha, if_pos ht]
    rfl
  · rw [exec_crierMessage hn he ha, if_neg (not_not.2 ht)]
    rfl
  · rw [exec_dbarTimeout hf hl hr hd, dbarWord_timeout]
    rfl
end

section
/-! PROOFS. What the look at a tenant's watches leaves alone (R231, R251, R271): no record that it delivers, and nothing that a
delivery writes, changes an indenture table. -/

open Sys2Proof Sys2Proof.Machine

namespace Sys2Proof.Machine

/-- The indenture tables of every tenant. -/
def State.indents (s : State) (tn : BitVec 4) : Tab (List IEntry) := (s.tenant tn).indent

theorem State.table_of_indents {s t : State} (h : s.indents = t.indents) (tn : BitVec 4) (r : BitVec 24) :
    (s.tenant tn).table r = (t.tenant tn).table r := congrArg (fun l => tget [] l r.toNat) (congrFun h tn)

theorem State.indents_of_tenants {s t : State} (h : s.tenants = t.tenants) : s.indents = t.indents := by
  unfold State.indents State.tenant
  rw [h]

@[simp] theorem foldl_indents {α : Type} (f : State → α → State) (hf : ∀ s a, (f s a).indents = s.indents)
    (l : List α) (s : State) : (l.foldl f s).indents = s.indents := State.foldl_keeps State.indents f hf l s

theorem State.setTenant_indents {s : State} {n : BitVec 4} {k : Tenant} (h : k.indent = (s.tenant n).indent) :
    (s.setTenant n k).indents = s.indents := by
  funext tn
  by_cases hn : tn = n
  · subst hn
    exact (congrArg Tenant.indent (s.tenant_setTenant tn k)).trans h
  · exact congrArg Tenant.indent (s.tenant_setTenant_other k hn)

/-! ## Write events -/

@[simp] theorem State.upd_indents (s : State) (i : ThreadId) (f : Thread → Thread) : (s.upd i f).indents = s.indents := rfl

theorem State.l2Put_tenants (s : State) (d l : Nat) (b : Bool) : (s.l2Put d l b).tenants = s.tenants := by
  unfold State.l2Put
  dsimp only
  (repeat' split) <;> simp [State.countAccess]

@[simp] theorem State.atHome_indents (b : Bool) (s : State) (l : Nat) : (s.atHome b l).indents = s.indents := by
  unfold State.atHome
  split
  · exact State.indents_of_tenants (s.l2Put_tenants ..)
  · rfl

@[simp] theorem State.backRegion_indents (s : State) (r : Nat) : (s.backRegion r).indents = s.indents := by
  unfold State.backRegion
  dsimp only
  split <;> rfl

@[simp] theorem State.writtenBy_indents (s : State) (src : Option ThreadId) (b : Bool) (bs : List Nat)
    (f : Thread → BitVec 4) (code : Nat) : (s.writtenBy src b bs f code).indents = s.indents := by
  funext tn
  refine tget_map_indent (fun p => ?_) (fun p => ?_) s.tenants tn.toNat
  all_goals (repeat' split) <;> rfl

@[simp] theorem State.written_indents (s : State) (src : Option ThreadId) (b : Bool) (bs : List Nat) :
    (s.written src b bs).indents = s.indents := s.writtenBy_indents ..

@[simp] theorem State.indentWritten_indents (s : State) (tn : BitVec 4) (r : BitVec 24) (i : Nat) :
    (s.indentWritten tn r i).indents = s.indents := s.written_indents ..

@[simp] theorem State.combineLine_indents (s : State) (src : Option ThreadId) (l : Nat) :
    (s.combineLine src l).indents = s.indents := by
  unfold State.combineLine
  dsimp only
  split
  · rfl
  · rw [State.written_indents, State.atHome_indents]
    rfl

@[simp] theorem State.storeResume_indents (s : State) (c : Host.Cell) : (s.storeResume c).indents = s.indents := by
  unfold State.storeResume
  extract_lets va
  clear_value va
  (repeat' split) <;> rfl

@[simp] theorem State.putCells_indents (s : State) (src : Option ThreadId) (cs : List Host.Cell) :
    (s.putCells src cs).indents = s.indents := by
  unfold State.putCells
  rw [foldl_indents _ State.storeResume_indents]
  exact foldl_indents _ (fun u => u.combineLine_indents src) _ s

@[simp] theorem State.settleLines_indents (s : State) (b : Bool) (ls : List Nat) :
    (s.settleLines b ls).indents = s.indents := by
  unfold State.settleLines
  split <;> simp

@[simp] theorem State.writeEvent_indents (s : State) (src : Option ThreadId) (b : Bool) (cs : List Host.Cell) :
    (s.writeEvent src b cs).indents = s.indents := by simp [State.writeEvent]

/-! ## Records -/

@[simp] theorem State.forget_indents (s : State) (tn : BitVec 4) (c : BitVec 10) (va : Nat) :
    (s.forget tn c va).indents = s.indents := by
  unfold State.forget
  dsimp only
  split
  · exact State.setTenant_indents rfl
  · rfl

@[simp] theorem State.askAddr_indents (s : State) (tn : BitVec 4) (c : BitVec 10) (k : Acc) (va : Nat) :
    (s.askAddr tn c k va).indents = s.indents :=
  State.indents_of_tenants (congrArg Prod.snd (s.askAddr_tables tn c k va))

@[simp] theorem State.storeRecord_indents (s : State) (h : Held) : (s.storeRecord h).indents = s.indents := by
  refine State.setTenant_indents ?_
  split <;> rfl

@[simp] theorem State.holdRecord_indents (s : State) (who : Option ThreadId) (l : Word) (r : Record) :
    (s.holdRecord who l r).indents = s.indents := by
  unfold State.holdRecord
  split <;> simp

@[simp] theorem State.holdReport_indents (s : State) (l : Nat) (r : Record) : (s.holdReport l r).indents = s.indents := by
  refine State.setTenant_indents ?_
  split <;> rfl

@[simp] theorem State.sendMsix_indents (s : State) (h : BitVec 1) (v : BitVec 6) : (s.sendMsix h v).indents = s.indents := by
  unfold State.sendMsix
  dsimp only
  split
  · exact State.indents_of_tenants (State.setHead_tenants ..)
  · rfl

@[simp] theorem State.stopTenant_indents (s : State) (tn : BitVec 4) : (s.stopTenant tn).indents = s.indents :=
  State.setTenant_indents rfl

theorem State.setDrops_indents (s : State) (tn : BitVec 4) (l : Word) (n : Nat) :
    (s.setTenant tn ((s.tenant tn).setDrops l n)).indents = s.indents := State.setTenant_indents rfl

@[simp] theorem State.report_indents (s : State) (r : Record) : (s.report r).indents = s.indents := by
  unfold State.report
  dsimp only
  (repeat' split) <;> simp [State.setDrops_indents]

@[simp] theorem State.writeRecord_indents (s : State) (l : Word) (pa : Nat) (r : Record) :
    (s.writeRecord l pa r).indents = s.indents := by simp [State.writeRecord, State.setDrops_indents]

@[simp] theorem State.deliver_indents (s : State) (who : Option ThreadId) (c : BitVec 10) (l : Word) (r : Record) :
    (s.deliver who c l r).indents = s.indents := by
  unfold State.deliver
  dsimp only
  (repeat' split) <;> simp

/-! ## Watches -/

@[simp] theorem State.dropWatches_indents (s : State) (t : Thread) : (s.dropWatches t).indents = s.indents := by
  unfold State.dropWatches
  split
  · rfl
  · dsimp only
    rw [foldl_indents _ (fun _ _ => by simp)]
    split <;> rfl

theorem State.checkWatches_indents (s : State) (tn : BitVec 4) : (s.checkWatches tn).indents = s.indents := by
  simp [State.checkWatches]

end Sys2Proof.Machine
end

section
/-! PROOFS. Thread-state and indenture requests at their targets, and their results at their callers (R256, R275 to R283,
R314). -/

open Sys2Proof Sys2Proof.Machine

namespace Sys2Proof.Machine

section
variable {s : State} {caller : ThreadId} {t : Thread}

/-! ## `tstop` and `tstart` (R277 to R279) -/

theorem State.stopItem_retained (h : t.run = .retained) : s.stopItem caller t = (s, refusal 3) := by
  rw [State.stopItem, if_pos h]

theorem State.stopItem_again (h : t.run ≠ .retained) (hs : t.stopped ≠ none) : s.stopItem caller t = (s, 1) := by
  rw [State.stopItem, if_neg h, if_pos (Option.isSome_iff_ne_none.2 hs)]

theorem State.stopItem_self (h : t.run ≠ .retained) (hs : t.stopped = none) (hc : t.id = caller) :
    s.stopItem caller t = (s, 0) := by
  rw [State.stopItem, if_neg h, if_neg (by simp [hs]), if_pos hc]

theorem State.stopItem_other (h : t.run ≠ .retained) (hs : t.stopped = none) (hc : t.id ≠ caller) :
    s.stopItem caller t = (s.upd t.id (Thread.stop .tstop s.cyc), 0) := by
  rw [State.stopItem, if_neg h, if_neg (by simp [hs]), if_neg hc]

theorem State.startItem_stopped (h : t.stopped ≠ none) : s.startItem t = (s.startThread t.id, 0) := by
  rw [State.startItem, if_pos (Option.isSome_iff_ne_none.2 h)]

theorem State.startItem_waiting {d : BitVec 5} (h : t.stopped = none)
    (hr : t.run = .parked (.wait d none) ∨ t.run = .parked (.xchg d)) :
    s.startItem t = (s.upd t.id (Thread.waitReturn s.cyc 8 d), 1) := by
  rcases hr with hr | hr <;> simp [State.startItem, h, hr]

theorem State.startItem_retained (h : t.stopped = none) (hr : t.run = .retained) (h0 : t.id.rank ≠ 0) :
    s.startItem t = (s.freeRetained t, 2) := by
  simp only [State.startItem, h, hr, Option.isSome_none, Bool.false_eq_true, if_false, if_neg h0]

theorem State.startItem_ready (h : t.stopped = none) (hr : t.run = .ready) : s.startItem t = (s, refusal 3) := by
  simp [State.startItem, h, hr]

/-! ## `trds` and `twrs` (R275, R280, R281, R314) -/

theorem itemReg_low {i : BitVec 6} (h : i.toNat < 32) : itemReg i = some (i.setWidth 5) := if_pos h

/-- The registers for which a thread or its docket answers: all of a thread that is not packed, and of one that has halted with at
most 16 that LIVE marks; else x0 and the first 16 that LIVE marks. -/
theorem Thread.lacks_eq_false_iff {i : BitVec 6} (h : i.toNat < 32) : t.lacks (i.setWidth 5) = false ↔
    (t.run = .retained ∧ t.arch.liveRegs.length ≤ 16 ∨ t.run ≠ .retained ∧ t.packed = false ∨ i = 0
      ∨ i.toNat ∈ t.arch.liveRegs.take 16) := by
  have hn : (i.setWidth 5).toNat = i.toNat := by rw [BitVec.toNat_setWidth, Nat.mod_eq_of_lt h]
  have h0 : (i.setWidth 5 != 0) = (i != 0) := by
    rw [Bool.eq_iff_iff, bne_iff_ne, bne_iff_ne, ne_eq, ne_eq, ← BitVec.toNat_inj, ← BitVec.toNat_inj, hn]
    rfl
  rw [Thread.lacks, Thread.keepsAll, hn, h0]
  by_cases hr : t.run = .retained
  · have hp : t.packed = false := by simp [Thread.packed, hr]
    simp [hr, hp, or_iff_not_imp_left]
  · simp [hr, or_iff_not_imp_left]

/-- A thread that neither is stopped nor has halted is not read. -/
theorem State.readItem_running {i : BitVec 6} (h : t.stopped = none) (hr : t.run ≠ .retained) : s.readItem t i = refusal 3 := by
  rw [State.readItem, if_pos (by simp [h, hr])]

section
variable {i : BitVec 6} (h : t.stopped ≠ none ∨ t.run = .retained)
include h

theorem Thread.answers_read : ¬ (t.stopped.isNone && t.run != .retained) = true := by
  simpa [or_iff_not_imp_left] using h

theorem State.readItem_register (hh : t.hollow = false) (hi : i.toNat < 32) :
    s.readItem t i = if t.lacks (i.setWidth 5) then refusal 4 else t.arch.getX (i.setWidth 5) := by
  simp only [State.readItem, if_neg (Thread.answers_read h), hh, Bool.false_and, Bool.false_eq_true, if_false, itemReg_low hi]

theorem State.readItem_hollow (hh : t.hollow = true) (h3 : i ≠ 35) (h4 : i ≠ 36) : s.readItem t i = 0 := by
  have hi : huskItem i = false := by rw [huskItem, beq_false_of_ne h3, beq_false_of_ne h4, Bool.or_self]
  rw [State.readItem, if_neg (Thread.answers_read h), if_pos (by rw [hh, hi]; rfl)]

theorem State.readItem_flta : s.readItem t 35 = s.wordOf t 3 := by
  rw [State.readItem, if_neg (Thread.answers_read h), if_neg (by simp [huskItem])]
  rfl

theorem State.readItem_idt : s.readItem t 36 = s.wordOf t 4 := by
  rw [State.readItem, if_neg (Thread.answers_read h), if_neg (by simp [huskItem])]
  rfl

end

theorem State.writeItem_register {i : BitVec 6} {v : Word} (h : t.stopped ≠ none) (hr : t.run ≠ .retained)
    (hp : t.packed = false) (hi : i.toNat < 32) :
    s.writeItem t i v = (s.upd t.id (Thread.between (fun a => a.setX (i.setWidth 5) v)), 0) := by
  have hkept : t.lacks (i.setWidth 5) = false := (Thread.lacks_eq_false_iff hi).2 (.inr (.inl ⟨hr, hp⟩))
  rw [State.writeItem, if_neg (by simpa [hr, ← Option.ne_none_iff_isSome] using h)]
  simp only [itemReg_low hi, hkept, Bool.false_eq_true, if_false]

/-! ## `igrant` and `irevoke` (R282, R283) -/

theorem State.grantItem_room {e : IEntry} (h : (s.tenant t.id.tenant).hasRoom t.id.rank = true) : s.grantItem t e =
    (s.addEntry t.id.tenant t.id.rank e, BitVec.ofNat 64 ((s.tenant t.id.tenant).table t.id.rank).length) := by
  rw [State.grantItem, if_pos h]

theorem State.grantItem_full {e : IEntry} (h : (s.tenant t.id.tenant).hasRoom t.id.rank = false) :
    s.grantItem t e = (s, refusal 7) := by
  rw [State.grantItem, if_neg (by simp [h])]

theorem State.revokeItem_past {i : Nat} (h : ((s.tenant t.id.tenant).table t.id.rank).length ≤ i) :
    s.revokeItem caller t i = (s, refusal 8) := by
  simp only [State.revokeItem, List.getElem?_eq_none h]

/-- The last entry moves to the index, and the look at the tenant's watches changes no table. -/
theorem State.revokeItem_removes {i : Nat} {l : List IEntry} {e z : IEntry} (hl : (s.tenant t.id.tenant).table t.id.rank = l)
    (he : l[i]? = some e) (hz : l.getLast? = some z) (hc : caller.rank = t.id.rank ∨ e.grantor = caller.rank) :
    ∃ u, s.revokeItem caller t i = (u, 0) ∧ (u.tenant t.id.tenant).table t.id.rank = (l.set i z).dropLast := by
  have hwritten (u : State) (h : u.indents = (s.setTenant t.id.tenant
      ((s.tenant t.id.tenant).setTable t.id.rank (l.set i z).dropLast)).indents) :
      (u.tenant t.id.tenant).table t.id.rank = (l.set i z).dropLast := by
    rw [State.table_of_indents h, State.tenant_setTenant, Tenant.table_setTable]
  simp only [State.revokeItem, hl, he, hz, if_neg (by tauto : ¬ (caller.rank ≠ t.id.rank ∧ e.grantor ≠ caller.rank))]
  refine ⟨_, rfl, hwritten _ ?_⟩
  split
  · rw [State.checkWatches_indents, State.indentWritten_indents, State.indentWritten_indents]
  · rw [State.indentWritten_indents, State.indentWritten_indents]

end

/-! ## The event at the target (R276) -/

/-- A request has left the net for its action. -/
def State.requestTaken (s : State) (n : Nat) : State := { s with net := { s.net with reqs := ldrop s.net.reqs n } }

/-- An action for a caller at its target: the new state and the result. -/
def State.acted (s : State) (caller : ThreadId) (t : Thread) : TAct → State × Word
  | .stop => s.stopItem caller t
  | .start => s.startItem t
  | .read i => (s, s.readItem t i)
  | .write i v => s.writeItem t i v
  | .grant e => s.grantItem t e
  | .revoke i => s.revokeItem caller t i

section
variable {s : State} {n : Nat} {r : TReq} {t : Thread}

theorem State.canAct_of_place (hr : s.net.reqs[n]? = some r) (hf : s.find ⟨r.caller.tenant, r.target⟩ = some t)
    (hp : ∀ x, t.place ≠ .moving x) : s.canAct n = true := by
  rw [State.canAct, hr]
  dsimp only
  rw [hf]
  dsimp only
  split
  next x hx => exact absurd hx (hp x)
  next => rfl

/-- The action falls at the target, and its result goes back to the caller. -/
theorem exec_threadStateAction (hr : s.net.reqs[n]? = some r) (hf : s.find ⟨r.caller.tenant, r.target⟩ = some t)
    (hp : ∀ x, t.place ≠ .moving x) {u : State} {w : Word}
    (ha : (s.requestTaken n).acted r.caller t r.act = (u, w)) :
    exec (.threadStateAction n) s = .next (u.sendResult r.caller r.d w (decide (r.act = .stop ∧ t.id = r.caller))) := by
  have hfind : (s.requestTaken n).find ⟨r.caller.tenant, r.target⟩ = some t := hf
  rw [State.requestTaken] at hfind
  simp only [exec, execThreadStateAction, hr, State.canAct_of_place hr hf hp, Bool.not_true, Bool.false_eq_true, if_false, hfind]
  exact congrArg (fun a : State × Word => Host.Outcome.next (a.1.sendResult r.caller r.d a.2 _)) ha

end

/-! ## The result at the caller (R276, R277) -/

/-- A caller that waits for its result takes it, and has stopped itself with it if that was what it asked for. -/
theorem Thread.takeResult_selfStop {u : Thread} (hr : u.run = .parked .result) (hs : u.stopped = none) (now : Nat)
    (halt : Bool) (d : BitVec 5) (v : Word) :
    let f := (u.selfStop now halt).takeResult now d v
    f.run = .ready ∧ f.arch = u.arch.setX d v ∧ f.stopped = if halt then some .tstop else none := by
  cases halt <;> simp [Thread.takeResult, Thread.selfStop, hr, hs, Thread.ready, Thread.between]

theorem exec_threadStateResult {s : State} {n : Nat} {v : TRes} (hv : s.net.results[n]? = some v) :
    exec (.threadStateResult n) s = .next ({ s with net := { s.net with results := ldrop s.net.results n } }.upd v.caller
      (fun t => (t.selfStop s.cyc v.halt).takeResult s.cyc v.d v.val)) := by
  simp only [exec, execThreadStateResult, hv]

end Sys2Proof.Machine

/-- Settles O49: the target is found, the action of each request answers as its item says, and the caller takes the result. -/
theorem threadStateEvents : Obligations.ThreadStateEvents := by
  unfold Obligations.ThreadStateEvents
  intro s n r t v u s1 back no k
  refine ⟨fun hreq hfind hplace => ?_, fun hv _ hr hs =>
    ⟨_, exec_threadStateResult hv, Thread.takeResult_selfStop hr hs s.cyc v.halt v.d v.val⟩⟩
  have answers {a : TAct} {x : State} {w : Word} (ha : r.act = a) (h : s1.acted r.caller t a = (x, w)) :
      exec (.threadStateAction n) s = .next (back x w) := exec_threadStateAction hreq hfind hplace (ha ▸ h)
  have refuses {a : TAct} {i : Nat} (ha : r.act = a) (h : s1.acted r.caller t a = (s1, refusal i)) :
      exec (.threadStateAction n) s = .next (back s1 (no i)) := answers ha (h.trans (by rw [refusal_eq]))
  have reads {i : BitVec 6} {w : Word} (ha : r.act = .read i) (h : s1.readItem t i = w) :
      exec (.threadStateAction n) s = .next (back s1 w) := answers ha (congrArg (s1, ·) h)
  refine ⟨fun ha hr hs hc => ?_, fun ha hr hs hc => ?_, fun ha hr hs => ?_, fun ha hr => ?_, fun ha hs => ?_,
    fun d ha hs hr => ?_, fun ha hs hr h0 => ?_, fun ha hs hr => ?_, fun i ha h hi => ⟨fun hh hk => ?_, fun hh hk => ?_⟩,
    fun i ha h hh => ⟨fun h3 h4 => ?_, fun h3 => ?_, fun h4 => ?_⟩, fun i ha hs hr => ?_, fun i w ha hs hr hi hp => ?_,
    fun e ha => ⟨fun hk => ?_, fun hk => ?_⟩, fun i ha hl => ?_, fun i e z ha he hz hc => ?_⟩
  · exact answers ha (State.stopItem_other hr hs hc)
  · exact answers ha (State.stopItem_self hr hs hc)
  · exact answers ha (State.stopItem_again hr hs)
  · exact refuses ha (State.stopItem_retained hr)
  · exact answers ha (State.startItem_stopped hs)
  · exact answers ha (State.startItem_waiting hs hr)
  · exact answers ha (State.startItem_retained hs hr h0)
  · exact refuses ha (State.startItem_ready hs hr)
  · have hl := (Thread.lacks_eq_false_iff hi).2 hk
    exact reads ha ((State.readItem_register h hh hi).trans (by rw [hl]; rfl))
  · have hl := Bool.eq_true_of_not_eq_false (mt (Thread.lacks_eq_false_iff hi).1 hk)
    exact reads ha ((State.readItem_register h hh hi).trans (by rw [hl, refusal_eq]; rfl))
  · exact reads ha (State.readItem_hollow h hh h3 h4)
  · exact reads ha (h3 ▸ State.readItem_flta h)
  · exact reads ha (h4 ▸ State.readItem_idt h)
  · exact reads ha ((State.readItem_running hs hr).trans (refusal_eq 3))
  · exact answers ha (State.writeItem_register hs hr hp hi)
  · exact ⟨_, answers ha (State.grantItem_room hk), s1.addEntry_table ..⟩
  · exact refuses ha (State.grantItem_full hk)
  · exact refuses ha (State.revokeItem_past hl)
  · obtain ⟨x, hx, htable⟩ := State.revokeItem_removes (s := s1) rfl he hz hc
    exact ⟨x, answers ha hx, htable⟩
end

section
/-! PROOFS. Thread-state and indenture requests at their callers (R275, R277, R279 to R284): the checks of a rank operand and of
a grant request in their order, and the rights over a stretch of ranks. -/

open Sys2Proof Sys2Proof.Machine

namespace Sys2Proof.Machine

/-- The top bits of a word are zero when the word, as a number, lies below them. -/
theorem highBits_ne_zero_iff (v : Word) (k n : Nat) (h : k + n = 64 := by decide) :
    v.extractLsb' k n ≠ 0 ↔ v.toNat / 2 ^ k ≠ 0 := by
  have hlt : v.toNat / 2 ^ k < 2 ^ n := Nat.div_lt_of_lt_mul (by rw [← pow_add, h]; exact v.isLt)
  rw [ne_eq, ← BitVec.toNat_inj, BitVec.extractLsb'_toNat, Nat.shiftRight_eq_div_pow, Nat.mod_eq_of_lt hlt]
  rfl

/-! ## The checks of a rank operand (R275) -/

section
variable {s : State} {d : BitVec 5} {v : Word} {right : Nat} {a : TAct}

theorem State.threadState_wide (hv : v.toNat / 2 ^ 24 ≠ 0) : s.threadState d v right a = s.answer d (refusal 6) := by
  rw [State.threadState, State.rankOperand, if_pos ((highBits_ne_zero_iff v 24 40).2 hv)]

variable (hv : v.toNat / 2 ^ 24 = 0)
include hv

theorem State.rankOperand_narrow : s.rankOperand v right =
    if (s.find ⟨s.thr.id.tenant, v.setWidth 24⟩).isNone then .error 1
    else if ((s.tenant s.thr.id.tenant).rights s.thr.id.rank (v.setWidth 24)).getLsbD right then .ok (v.setWidth 24)
    else .error 2 := if_neg (mt (highBits_ne_zero_iff v 24 40).1 (not_not_intro hv))

theorem State.threadState_noThread (hf : s.find ⟨s.thr.id.tenant, v.setWidth 24⟩ = none) :
    s.threadState d v right a = s.answer d (refusal 1) := by
  simp only [State.threadState, State.rankOperand_narrow hv, hf, Option.isNone_none, if_true]

theorem State.threadState_found (hf : s.find ⟨s.thr.id.tenant, v.setWidth 24⟩ ≠ none) : s.threadState d v right a =
    if ((s.tenant s.thr.id.tenant).rights s.thr.id.rank (v.setWidth 24)).getLsbD right then s.request1 d (v.setWidth 24) a
    else s.answer d (refusal 2) := by
  rw [State.threadState, State.rankOperand_narrow hv, if_neg (mt Option.isNone_iff_eq_none.1 hf)]
  cases ((s.tenant s.thr.id.tenant).rights s.thr.id.rank (v.setWidth 24)).getLsbD right <;> rfl

end

/-! ## `irevoke` at its caller (R283) -/

section
variable {s : State} {d : BitVec 5} {v : Word}

theorem State.revoke_bad (h : v.extractLsb' 24 8 ≠ 0 ∨ v.extractLsb' 44 20 ≠ 0) : s.revoke d v = s.answer d (refusal 5) :=
  if_pos h

theorem State.revoke_good (h8 : v.extractLsb' 24 8 = 0) (h20 : v.extractLsb' 44 20 = 0) : s.revoke d v =
    if (s.find ⟨s.thr.id.tenant, v.setWidth 24⟩).isNone then s.answer d (refusal 1)
    else s.request1 d (v.setWidth 24) (.revoke (v.extractLsb' 32 12).toNat) :=
  if_neg (not_or.2 ⟨not_not_intro h8, not_not_intro h20⟩)

end

/-! ## Rights over a stretch of ranks (R271, R282) -/

section
variable {t : Tenant} {r lo hi : BitVec 24} {need : BitVec 6}

theorem Tenant.covers_iff : t.covers r lo hi need = true ↔
    ∀ q ∈ lo :: (t.table r).flatMap (fun e => [e.lo, e.hi + 1]), lo.toNat ≤ q.toNat → q.toNat ≤ hi.toNat →
      t.rights r q &&& need = need := by
  simp only [Tenant.covers, List.all_eq_true, Bool.or_eq_true, Bool.not_eq_true', ← Bool.not_eq_true, ← imp_iff_not_or,
    Bool.and_eq_true, BitVec.ule_iff_toNat_le, and_imp, beq_iff_eq]

/-- The rights of a rank are those of the rank before it, unless an entry begins at it or ends before it. -/
theorem Tenant.rights_succ {p q : BitVec 24} (hq : q.toNat = p.toNat + 1)
    (h : q ∉ (t.table r).flatMap (fun e => [e.lo, e.hi + 1])) : t.rights r q = t.rights r p := by
  have hp : q = p + 1 := BitVec.eq_of_toNat_eq (by
    show _ = (p.toNat + 1) % 2 ^ 24
    rw [← hq, Nat.mod_eq_of_lt q.isLt])
  refine List.foldl_ext _ _ _ fun m e he => ?_
  have hlo : q.toNat ≠ e.lo.toNat := fun hc =>
    h (List.mem_flatMap.2 ⟨e, he, by simp [BitVec.eq_of_toNat_eq hc]⟩)
  have hhi : p.toNat ≠ e.hi.toNat := fun hc =>
    h (List.mem_flatMap.2 ⟨e, he, by simp [hp, BitVec.eq_of_toNat_eq hc]⟩)
  have hin : (e.lo.ule q && q.ule e.hi) = (e.lo.ule p && p.ule e.hi) := by
    rw [Bool.eq_iff_iff]
    simp only [Bool.and_eq_true, BitVec.ule_iff_toNat_le]
    omega
  simp only [hin]

/-- The ranks at which the rights can change stand for all of the stretch. -/
theorem Tenant.covers_iff_forall : t.covers r lo hi need = true ↔
    ∀ q : BitVec 24, lo.toNat ≤ q.toNat → q.toNat ≤ hi.toNat → t.rights r q &&& need = need := by
  refine ⟨fun hc => ?_, fun h => Tenant.covers_iff.2 fun q _ => h q⟩
  rw [Tenant.covers_iff] at hc
  suffices h : ∀ n (q : BitVec 24), q.toNat = lo.toNat + n → q.toNat ≤ hi.toNat → t.rights r q &&& need = need from
    fun q hq => h (q.toNat - lo.toNat) q (by omega)
  intro n
  induction n with
  | zero =>
    intro q hq hle
    exact hc q (by simp [BitVec.eq_of_toNat_eq hq]) (by omega) hle
  | succ n ih =>
    intro q hq hle
    by_cases hmem : q ∈ lo :: (t.table r).flatMap (fun e => [e.lo, e.hi + 1])
    · exact hc q hmem (by omega) hle
    · have hn : (BitVec.ofNat 24 (lo.toNat + n)).toNat = lo.toNat + n := by
        have := q.isLt
        rw [BitVec.toNat_ofNat, Nat.mod_eq_of_lt (by omega)]
      rw [Tenant.rights_succ (p := BitVec.ofNat 24 (lo.toNat + n)) (by omega) (fun hm => hmem (List.mem_cons_of_mem _ hm))]
      exact ih _ hn (by omega)

end

/-! ## `igrant` at its caller (R282) -/

section
variable {s : State} {d : BitVec 5} {w0 w1 w2 w3 : Word}

/-- A request of four doublewords that breaks its layout, or that grants nothing or over no rank. -/
def grantBad (w0 w1 w2 w3 : Word) : Prop :=
  w0.toNat / 2 ^ 24 ≠ 0 ∨ w1.toNat / 2 ^ 48 ≠ 0 ∨ w2.toNat / 2 ^ 6 ≠ 0 ∨ w3 ≠ 0
    ∨ (w1.extractLsb' 24 24).toNat < (w1.setWidth 24).toNat ∨ w2.setWidth 6 = 0

theorem grantBad_iff : grantBad w0 w1 w2 w3 ↔ (w0.extractLsb' 24 40 ≠ 0 ∨ w1.extractLsb' 48 16 ≠ 0
    ∨ w2.extractLsb' 6 58 ≠ 0 ∨ w3 ≠ 0 ∨ (w1.extractLsb' 24 24).ult (w1.setWidth 24) = true ∨ w2.setWidth 6 = 0) := by
  rw [grantBad, highBits_ne_zero_iff w0 24 40, highBits_ne_zero_iff w1 48 16, highBits_ne_zero_iff w2 6 58,
    BitVec.ult_iff_lt, BitVec.lt_def]

theorem State.grant_bad (h : grantBad w0 w1 w2 w3) : s.grant d w0 w1 w2 w3 = s.answer d (refusal 5) :=
  if_pos (grantBad_iff.1 h)

variable (h : ¬ grantBad w0 w1 w2 w3)
include h

theorem State.grant_noTable (hf : s.find ⟨s.thr.id.tenant, w0.setWidth 24⟩ = none) :
    s.grant d w0 w1 w2 w3 = s.answer d (refusal 1) := by
  rw [State.grant, if_neg (mt grantBad_iff.2 h), if_pos (Option.isNone_iff_eq_none.2 hf)]

theorem State.grant_found (hf : s.find ⟨s.thr.id.tenant, w0.setWidth 24⟩ ≠ none) : s.grant d w0 w1 w2 w3 =
    if (s.tenant s.thr.id.tenant).covers s.thr.id.rank (w1.setWidth 24) (w1.extractLsb' 24 24) (w2.setWidth 6 ||| 0x20)
    then s.request1 d (w0.setWidth 24) (.grant ⟨w1.setWidth 24, w1.extractLsb' 24 24, s.thr.id.rank, w2.setWidth 6⟩)
    else s.answer d (refusal 2) := by
  simp only [State.grant, if_neg (mt grantBad_iff.2 h), if_neg (mt Option.isNone_iff_eq_none.1 hf), Bool.not_eq_true',
    ← Bool.not_eq_true, ite_not]

end

/-- The request is read in the chunk; what comes of it follows on the commit. -/
theorem exec_igrant {s : State} {d a : BitVec 5} {va pa : Nat} (hva : (s.thr.arch.getX a).toNat % 2 ^ 57 = va) (hal : va % 32 = 0)
    (hpa : s.readAt va 32 = .ok pa) (hend : s.canEnd { Eff.none with reads := [lineOf pa], pages := [va / 4096] } = true) :
    let w (i : Nat) : Word := (s.combined [pa]).chunkN (pa + 8 * i) 8
    exec (.igrant d a) s = .next
      ((s.ended { Eff.none with reads := [lineOf pa], pages := [va / 4096] }).grant d (w 0) (w 1) (w 2) (w 3)) := by
  simp only [exec, execIgrant, effAddr_zero, hva, aligned, if_pos hal, hpa]
  exact s.enderC_canEnd _ _ hend

end Sys2Proof.Machine

/-- Settles O40: each instruction ends its chunk, and its checks, in their order, choose between an answer at the caller and a
request; rights over a stretch of ranks are checked where an entry begins or ends. -/
theorem threadStateRequests : Obligations.ThreadStateRequests := by
  unfold Obligations.ThreadStateRequests
  refine ⟨?_, ?_⟩
  · intro s d a b it v c me r wait answer ask no hend
    have hc : s.ended Eff.none = c := rfl
    have hno (k : Nat) : c.answer d (refusal k) = no k := by rw [refusal_eq]; rfl
    have hrevoke : exec (.irevoke d a) s = .next (c.revoke d v) := State.endC_then hend hc _
    refine ⟨fun p hp => ?_, State.endC_then hend hc _, fun hbad => ?_, fun h8 h20 => ?_⟩
    · have hexec : exec p.1 s = .next (c.threadState d v p.2.1 p.2.2) := by
        simp only [List.mem_cons, List.not_mem_nil, or_false] at hp
        rcases hp with rfl | rfl | rfl | rfl <;> exact State.endC_then hend hc _
      rw [hexec]
      refine ⟨fun hv => ?_, fun hv hf => ?_, fun hv hf => ?_⟩
      · rw [State.threadState_wide hv, hno]
      · rw [State.threadState_noThread hv hf, hno]
      · rw [State.threadState_found hv hf, hno]
        rfl
    · rw [hrevoke, State.revoke_bad hbad, hno]
    · rw [hrevoke, State.revoke_good h8 h20, hno]
      rfl
  · intro s d a pa va s1 w e c me g lo hi rights bad wait no hal hpa hend
    have hexec : exec (.igrant d a) s = .next (c.grant d (w 0) (w 1) (w 2) (w 3)) := exec_igrant rfl hal hpa hend
    have hno (k : Nat) : Host.Outcome.next (c.answer d (refusal k)) = no k := by rw [refusal_eq]; rfl
    rw [hexec]
    refine ⟨fun hbad => ?_, fun hgood hf => ?_, fun hgood hf => ⟨fun ⟨q, hlo, hhi, hq⟩ => ?_, fun hall => ?_⟩⟩
    · rw [State.grant_bad hbad, hno]
    · rw [State.grant_noTable hgood hf, hno]
    · rw [State.grant_found hgood hf, if_neg fun hcov => hq (Tenant.covers_iff_forall.1 hcov q hlo hhi), hno]
    · rw [State.grant_found hgood hf, if_pos (Tenant.covers_iff_forall.2 hall)]
      rfl
end

section
/-! PROOFS. The stop of a tenant (R296, R297) where a thread has halted, is retained, and still waits for an I/O load: the aborted
load makes it ready. -/

open Sys2Proof Sys2Proof.Machine

namespace Sys2Proof.Machine

/-- A stop request starts the drain of a tenant that has more to drain (R297). -/
theorem exec_stopInterfaceRequest_leaves {s : State} {h : BitVec 1} {tn : BitVec 4} (hup : s.headUp h = true)
    (hv : (s.tenant tn).valid = true) (hl : (s.tenant tn).leaving ≠ 2) (ho : ((s.leaveRun tn).tenant tn).out = false)
    (hd : (s.leaveRun tn).drained tn = false) : exec (.stopInterfaceRequest h tn) s = .next (s.leaveRun tn) := by
  simp only [exec, execStopInterfaceRequest, hv, hup, if_neg hl, ho, hd, Bool.not_true, Bool.true_or, Bool.or_self,
    Bool.false_eq_true, if_false]

/-- A root that has halted and has an I/O load under way. -/
def loadingRoot : Thread :=
  { Thread.fresh ⟨0, 0⟩ Arch.zero 0 0 with run := .retained, post := some (.ioLoad .d 1 ioBase none) }

/-- Its tenant is set up on a head that is up, and a directed wake is under way, so that the tenant does not drain at once. -/
def State.loadingRetained : State :=
  { State.reset.setTenant 0 { Tenant.reset with valid := true } with
    head0 := { State.reset.head0 with up := true, lost := false }
    net := { State.reset.net with pokes := [(⟨0, 0⟩, 0)] }
    thr := loadingRoot }

theorem State.loadingRetained_stands :
    State.loadingRetained.headUp 0 = true ∧ (State.loadingRetained.tenant 0).valid = true
    ∧ (State.loadingRetained.tenant 0).leaving ≠ 2 ∧ (State.loadingRetained.tenant 0).out = false
    ∧ (State.loadingRetained.leaveRun 0).drained 0 = false ∧ ((State.loadingRetained.leaveRun 0).tenant 0).out = false := by
  decide +kernel

/-- A stop passes a retained thread over, and the abort of its load makes it ready. -/
theorem State.loadingRetained_leaveRun :
    (State.loadingRetained.leaveRun 0).thr.id.tenant = 0 ∧ (State.loadingRetained.leaveRun 0).thr.live = true
    ∧ (State.loadingRetained.leaveRun 0).thr.stopped = none ∧ (State.loadingRetained.leaveRun 0).thr.run = .ready := by
  decide +kernel

end Sys2Proof.Machine

/-- Refutes O58: after a stop request some thread of the tenant may be neither stopped nor retained, since a retained thread that
waits for an I/O load is not stopped (R277) and becomes ready when the load is aborted (R297). The statement does not exclude
such a state. -/
theorem not_securityRequests : ¬ Obligations.SecurityRequests := by
  unfold Obligations.SecurityRequests
  rintro ⟨-, htdisp⟩
  obtain ⟨hup, hvalid, hleaving, hout, hdrained, houtAfter⟩ := State.loadingRetained_stands
  obtain ⟨-, -, -, -, -, -, -, hstop, -⟩ := htdisp State.loadingRetained 0 0 0 hup
  obtain ⟨u, hexec, -, -, -, -, hthreads⟩ := hstop hvalid hleaving hout hdrained
  rw [exec_stopInterfaceRequest_leaves hup hvalid hleaving houtAfter hdrained] at hexec
  cases hexec
  obtain ⟨htn, hlive, hstopped, hrun⟩ := State.loadingRetained_leaveRun
  rcases hthreads _ (List.mem_cons_self ..) htn hlive with h | h
  · exact h hstopped
  · rw [hrun] at h
    cases h
end

section
/-! PROOFS. The state right after reset (R25, R164, R269, R336, R341). -/

open Sys2Proof Sys2Proof.Machine

/-- Settles O1: every value of the statement is one that the reset state names, and no address is listed in its memory. -/
theorem resetState : Obligations.ResetState := by
  unfold Obligations.ResetState
  have noThread : ∀ id, State.reset.find id = none := fun id => by
    simp [State.find, State.threads, State.reset, Thread.live, Thread.void]
  have heads : ∀ h, State.reset.head h = Head.reset := fun h => by
    unfold State.head
    split <;> rfl
  exact ⟨rfl, fun _ => ⟨rfl, rfl⟩, noThread, fun _ => ⟨rfl, rfl, rfl, rfl, rfl, rfl⟩, fun _ _ => ⟨rfl, rfl⟩,
    fun _ => ⟨rfl, rfl, rfl⟩, fun h => by rw [heads h]; exact ⟨rfl, rfl⟩, rfl, rfl⟩
end

section
/-! PROOFS. A step that is no bundle: the next event of the agenda, or what the module does of itself (R316, R336, R337). -/

open Sys2Proof Sys2Proof.Machine

namespace Sys2Proof.Machine

section
variable {s : State} {i : Instr} {l : List Instr} (ha : s.agenda = i :: l) (hi : i.encodable = false)
include ha hi

/-- An event of the agenda that the module's power state admits is the step. -/
theorem State.step_admitted (hp : s.admits i = true) : step s = exec i { s with agenda := l } := by
  simp [step, State.turn, ha, hi, hp]

/-- One that it does not admit is dropped (logs 85 and 87). -/
theorem State.step_dropped (hp : s.admits i = false) : step s = .next { s with agenda := l } := by
  simp [step, State.turn, ha, hi, hp]

end

section
variable {s : State} (ha : s.agenda = [])
include ha

/-- A module that runs and makes a device event: the event, and then time passes. -/
theorem State.step_event {e : Event} (hw : s.awake = true) (hc : choose s.free (s.drawn.moves s.free) = some (.event e)) :
    step s = s.passes (e.run s.drawn) := by
  have hc' : choose s.free (({ s with free := s.free + 8 } : State).moves s.free) = some (.event e) := hc
  rw [s.step_awake hw ha, State.ownStep]
  simp only [hc', State.make]
  change (match e.run s.drawn with | .next t => _ | r => r) = s.passes (e.run s.drawn)
  generalize e.run s.drawn = o
  cases o <;> rfl

/-- Where nothing can happen, time passes (log 3). -/
theorem State.step_idle (hw : s.awake = true) (hm : s.drawn.moves s.free = []) :
    step s = .next (s.drawn.tick (max 1 (Config.stepCycles s.free))) := by
  have hm' : ({ s with free := s.free + 8 } : State).moves s.free = [] := hm
  rw [s.step_awake hw ha, State.ownStep]
  simp only [hm', choose]
  rfl

/-- A frozen or a sleeping module stands still. -/
theorem State.step_still (h : s.hub.frozen = true ∨ s.hub.d3 = true) : step s = .next s := by
  have : (s.hub.frozen || s.hub.d3) = true := by simpa using h
  simp [step, State.turn, State.runs, ha, this]

section
variable (hz : s.hub.frozen = false) (hd : s.hub.d3 = false)
include hz hd

/-- Bring-up that has not failed goes on by itself (R336). -/
theorem State.step_bringUp (hf : s.hub.failedAt = none) (hst : s.hub.stage < 6) : step s = exec (.bringUpStage true) s := by
  simp [step, State.turn, State.runs, ha, hz, hd, hf, hst, exec]

/-- Bring-up that has failed is the module's one stop (R336). -/
theorem State.step_failed (hf : s.hub.failedAt ≠ none) : step s = .fault .bringUpFailed := by
  simp [step, State.turn, State.runs, ha, hz, hd, Option.isSome_iff_ne_none.2 hf]

end

end

end Sys2Proof.Machine

/-- Settles O5: the step by the head of the agenda, and, without one, by the module's power state and what it chooses. -/
theorem stepRunsEvents : Obligations.StepRunsEvents := by
  unfold Obligations.StepRunsEvents
  intro s i l e
  exact ⟨fun ha hi => ⟨State.step_admitted ha hi, State.step_dropped ha hi⟩, fun ha => ⟨State.step_event ha, State.step_idle ha,
    State.step_still ha, State.step_bringUp ha, State.step_failed ha⟩⟩
end

section
/-! PROOFS. What a write event and the delivery of a record leave alone (R155, R226, R299): the home, the bias and the drain of
every region, the notify words of the queues and the stage of bring-up; and every wake that is under way stays so. -/

open Sys2Proof Sys2Proof.Machine

namespace Sys2Proof.Machine

/-- A row-wise change of a table that keeps the keys and a view of the rows keeps that view of what is read. -/
theorem tget_map_view {α β : Type} (g : α → β) (d : α) {f : Nat × α → Nat × α} (hk : ∀ p, (f p).1 = p.1)
    (hg : ∀ p, g (f p).2 = g p.2) (l : Tab α) (i : Nat) : g (tget d (l.map f) i) = g (tget d l i) := by
  induction l with
  | nil => rfl
  | cons p l ih =>
    have hf : f p = (p.1, (f p).2) := by rw [← hk p]
    rw [List.map_cons, hf]
    simp only [tget]
    split
    · exact hg p
    · exact ih

/-- Where a region belongs (R308): its owner, its descriptor, its bias, and the drain that will change them. -/
def Region.home (k : Region) : Option (BitVec 4) × Word × Word × Bool × Option (Option Bool × Option (Option (BitVec 4) × Word × Word)) :=
  (k.owner, k.d0, k.d1, k.hostBias, k.drain)

/-- What bring-up has set in the hub (R336). -/
def Hub.raised (h : Hub) : Nat × BitVec 8 × Nat := (h.stage, h.modNum, h.capGen)

/-- `t` has the homes of regions, the notify words and the stage of `s`, and every wake of `s`. -/
structure State.Spares (s t : State) : Prop where
  home : ∀ r, (t.region r).home = (s.region r).home
  note : ∀ q, (t.queue q).note = (s.queue q).note
  raised : t.hub.raised = s.hub.raised
  wakes : s.net.wakes <+: t.net.wakes

namespace State.Spares

theorem refl (s : State) : s.Spares s := ⟨fun _ => rfl, fun _ => rfl, rfl, List.prefix_rfl⟩

theorem trans {s t u : State} (h : s.Spares t) (k : t.Spares u) : s.Spares u :=
  ⟨fun r => (k.home r).trans (h.home r), fun q => (k.note q).trans (h.note q), k.raised.trans h.raised,
    h.wakes.trans k.wakes⟩

/-- A change of other parts of the state. -/
theorem of_eq {s t : State} (hr : t.regions = s.regions) (hq : t.queues = s.queues) (hh : t.hub.raised = s.hub.raised)
    (hn : t.net.wakes = s.net.wakes) : s.Spares t :=
  ⟨fun r => by simp only [State.region, hr], fun q => by simp only [State.queue, hq], hh, by rw [hn]⟩

theorem foldl {α : Type} {f : State → α → State} (hf : ∀ (s : State) (a : α), s.Spares (f s a)) (l : List α) :
    ∀ s : State, s.Spares (l.foldl f s) := by
  induction l with
  | nil => exact refl
  | cons a l ih => exact fun s => (hf s a).trans (ih _)

end State.Spares

/-! ## Caches and write events -/

theorem State.setRegion_spares {s : State} {r : Nat} {k : Region} (h : k.home = (s.region r).home) :
    s.Spares (s.setRegion r k) := by
  refine ⟨fun q => ?_, fun _ => rfl, rfl, List.prefix_rfl⟩
  by_cases hq : q = r
  · rw [hq, State.region_setRegion, h]
  · rw [State.region_setRegion_other s k hq]

theorem State.setCore_spares (s : State) (c : BitVec 10) (k : Core) : s.Spares (s.setCore c k) := .of_eq rfl rfl rfl rfl

theorem State.setTenant_spares (s : State) (n : BitVec 4) (t : Tenant) : s.Spares (s.setTenant n t) := .of_eq rfl rfl rfl rfl

theorem State.countAccess_spares (s : State) (d l : Nat) : s.Spares (s.countAccess d l) := State.setRegion_spares rfl

theorem State.backRegion_spares (s : State) (r : Nat) : s.Spares (s.backRegion r) := by
  unfold State.backRegion
  dsimp only
  split
  · exact .refl s
  · exact State.setRegion_spares rfl

theorem State.l2Put_spares (s : State) (d l : Nat) (b : Bool) : s.Spares (s.l2Put d l b) := by
  unfold State.l2Put
  extract_lets h k s1 v s2
  have h1 : s.Spares s1 := s.countAccess_spares d l
  split
  · exact h1
  · split
    · split
      · exact s.setCore_spares _ _
      · exact .refl s
    · split
      · exact h1.trans (s1.setCore_spares _ _)
      · have h2 : s1.Spares s2 := by
          simp only [s2]
          split
          · exact s1.countAccess_spares _ _
          · exact .refl s1
        exact (h1.trans h2).trans (s2.setCore_spares _ _)

theorem State.atHome_spares (b : Bool) (s : State) (l : Nat) : s.Spares (s.atHome b l) := by
  unfold State.atHome
  split
  · exact s.l2Put_spares _ _ _
  · exact .refl s

theorem HostQueue.publish_note (q : HostQueue) (w : Word) : (q.publish w).note = q.note := rfl

theorem State.writtenBy_spares (s : State) (src : Option ThreadId) (b : Bool) (bs : List Nat) (f : Thread → BitVec 4)
    (code : Nat) : s.Spares (s.writtenBy src b bs f code) := by
  refine ⟨fun _ => rfl, fun q => ?_, rfl, List.prefix_append _ _⟩
  exact tget_map_view HostQueue.note HostQueue.reset (fun p => by split <;> rfl) (fun p => by split <;> rfl) s.queues q.toNat

theorem State.written_spares (s : State) (src : Option ThreadId) (b : Bool) (bs : List Nat) : s.Spares (s.written src b bs) :=
  s.writtenBy_spares ..

theorem State.combineLine_spares (s : State) (src : Option ThreadId) (l : Nat) : s.Spares (s.combineLine src l) := by
  unfold State.combineLine
  extract_lets cells s1
  split
  · exact .refl s
  · exact ((State.Spares.of_eq rfl rfl rfl rfl : s.Spares s1).trans (State.atHome_spares true s1 l)).trans (State.written_spares ..)

theorem State.combineAll_spares (s : State) (src : Option ThreadId) (ls : List Nat) : s.Spares (s.combineAll src ls) :=
  .foldl (fun s l => s.combineLine_spares src l) ls s

theorem State.storeResume_spares (s : State) (c : Host.Cell) : s.Spares (s.storeResume c) := by
  unfold State.storeResume
  extract_lets va
  clear_value va
  split
  · split
    · exact .of_eq rfl rfl rfl rfl
    · exact .refl s
  · split
    · split
      · exact .of_eq rfl rfl rfl rfl
      · exact .refl s
    · exact .refl s

theorem State.putCells_spares (s : State) (src : Option ThreadId) (cs : List Host.Cell) : s.Spares (s.putCells src cs) := by
  unfold State.putCells
  extract_lets ls s1 clean s2
  have h1 : s.Spares s1 := s.combineAll_spares src ls
  exact (h1.trans (.of_eq rfl rfl rfl rfl : s1.Spares s2)).trans (.foldl State.storeResume_spares _ s2)

theorem State.settleLines_spares (s : State) (b : Bool) (ls : List Nat) : s.Spares (s.settleLines b ls) := by
  unfold State.settleLines
  extract_lets dev s1
  have h1 : s.Spares s1 := .foldl State.backRegion_spares _ s
  split
  · exact h1
  · exact h1.trans (.foldl (State.atHome_spares true) _ s1)

theorem State.writeEvent_spares (s : State) (src : Option ThreadId) (b : Bool) (cs : List Host.Cell) :
    s.Spares (s.writeEvent src b cs) :=
  ((s.putCells_spares src cs).trans (State.settleLines_spares ..)).trans (State.written_spares ..)

/-! ## Records -/

theorem State.forget_spares (s : State) (tn : BitVec 4) (c : BitVec 10) (va : Nat) : s.Spares (s.forget tn c va) := by
  unfold State.forget
  dsimp only
  split
  · exact s.setTenant_spares _ _
  · exact .refl s

theorem State.askAddr_spares (s : State) (tn : BitVec 4) (c : BitVec 10) (k : Acc) (va : Nat) :
    s.Spares (s.askAddr tn c k va) := by
  unfold State.askAddr
  split
  · unfold State.askPage
    split
    · dsimp only
      split
      · exact .of_eq rfl rfl rfl rfl
      · exact .of_eq rfl rfl rfl rfl
    · exact .refl s
  · exact .refl s

theorem State.sendMsix_spares (s : State) (h : BitVec 1) (v : BitVec 6) : s.Spares (s.sendMsix h v) := by
  unfold State.sendMsix
  dsimp only
  split
  · unfold State.setHead
    split
    · exact .of_eq rfl rfl rfl rfl
    · exact .of_eq rfl rfl rfl rfl
  · exact .of_eq rfl rfl rfl rfl

theorem State.holdRecord_spares (s : State) (who : Option ThreadId) (l : Word) (r : Record) :
    s.Spares (s.holdRecord who l r) := by
  unfold State.holdRecord
  split
  · exact .of_eq rfl rfl rfl rfl
  · exact s.setTenant_spares _ _

theorem State.report_spares (s : State) (r : Record) : s.Spares (s.report r) := by
  unfold State.report
  dsimp only
  split
  · exact .refl s
  · split
    · exact .refl s
    · split
      · exact s.setTenant_spares _ _
      · have h := s.combineLine_spares none
        split
        · exact (h _).trans (State.setTenant_spares ..)
        · exact (((h _).trans (State.setTenant_spares ..)).trans (State.writeEvent_spares ..)).trans (State.sendMsix_spares ..)

theorem State.writeRecord_spares (s : State) (l : Word) (pa : Nat) (r : Record) : s.Spares (s.writeRecord l pa r) :=
  (s.setTenant_spares _ _).trans (State.writeEvent_spares ..)

theorem State.deliver_spares (s : State) (who : Option ThreadId) (c : BitVec 10) (l : Word) (r : Record) :
    s.Spares (s.deliver who c l r) := by
  unfold State.deliver
  extract_lets s1
  have h1 : s.Spares s1 := (s.forget_spares _ _ _).trans (State.forget_spares ..)
  split
  · exact (h1.trans (.of_eq rfl rfl rfl rfl : s1.Spares (s1.stopTenant r.tn))).trans (State.report_spares ..)
  · exact (h1.trans (State.askAddr_spares ..)).trans (State.holdRecord_spares ..)
  · split
    · exact h1.trans (State.holdRecord_spares ..)
    · dsimp only
      split
      · exact (h1.trans (State.combineLine_spares ..)).trans (State.holdRecord_spares ..)
      · exact (h1.trans (State.combineLine_spares ..)).trans (State.writeRecord_spares ..)

/-! ## Watches (R231) -/

theorem State.dropWatches_spares (s : State) (t : Thread) : s.Spares (s.dropWatches t) := by
  unfold State.dropWatches
  split
  · exact .refl s
  · dsimp only
    refine State.Spares.trans ?_ (.foldl (fun s p => (s.forget_spares _ _ _).trans (State.deliver_spares ..)) _ _)
    split
    · exact .of_eq rfl rfl rfl rfl
    · exact ⟨fun _ => rfl, fun _ => rfl, rfl, List.prefix_append _ _⟩

theorem State.checkWatches_spares (s : State) (tn : BitVec 4) : s.Spares (s.checkWatches tn) :=
  .foldl State.dropWatches_spares _ s

end Sys2Proof.Machine
end

section
/-! PROOFS. Reset, bring-up, D3hot and sensors (R87, R336 to R338): the notify words of the service queues, and the stages one
by one. -/

open Sys2Proof Sys2Proof.Machine

namespace Sys2Proof.Machine

/-! ## The service queues (R322, R329) -/

theorem State.placeService_raised (s : State) (q : BitVec 6) : (s.placeService q).hub.raised = s.hub.raised := by
  unfold State.placeService
  rw [State.setQueue_hub]
  exact (s.writeEvent_spares none false _).raised

theorem State.placeService_note (s : State) (q : BitVec 6) : ((s.placeService q).queue q).note = noteAddr q := by
  unfold State.placeService
  rw [State.queue_setQueue]

theorem State.placeService_note_other (s : State) {q p : BitVec 6} (h : p ≠ q) :
    ((s.placeService q).queue p).note = (s.queue p).note := by
  unfold State.placeService
  rw [State.queue_setQueue_other _ _ h]
  exact (s.writeEvent_spares none false _).note p

/-! ## The stages of bring-up (R336) -/

section
variable {s : State} (hf : s.hub.failedAt = none)
include hf

theorem execBringUpStage_passes (hst : s.hub.stage < 6) : execBringUpStage true s = .next (s.enterStage (s.hub.stage + 1)) := by
  simp [execBringUpStage, hf, hst]

theorem execBringUpStage_fails (hst : s.hub.stage < 6) :
    execBringUpStage false s = .next { s with hub := { s.hub with failedAt := some (s.hub.stage + 1) } } := by
  simp [execBringUpStage, hf, hst]

/-- Stages at which nothing but the stage changes. -/
theorem execBringUpStage_plain {n : Nat} (hn : s.hub.stage = n) (h : n = 0 ∨ n = 1 ∨ n = 2 ∨ n = 4) :
    execBringUpStage true s = .next { s with hub := { s.hub with stage := n + 1 } } := by
  rw [execBringUpStage_passes hf (by omega), hn]
  rcases h with rfl | rfl | rfl | rfl <;> rfl

/-- Stage 6 loads the module time (R87). -/
theorem execBringUpStage_time (h : s.hub.stage = 5) : execBringUpStage true s =
    .next { s with hub := { s.hub with stage := 6, timeBase := s.hub.timeset, timeAt := s.cyc } } := by
  rw [execBringUpStage_passes hf (by omega), h]
  rfl

/-- Stage 4 gives the module its number, the service queues their notify words, and builds the capability list. -/
theorem execBringUpStage_caps (h : s.hub.stage = 3) : ∃ u, execBringUpStage true s = .next u ∧ u.hub.stage = 4
    ∧ u.hub.modNum = Config.moduleNumber ∧ u.hub.capGen = s.hub.capGen + 2 ∧ u.hub.caps.gen = u.hub.capGen
    ∧ (u.queue 0).note = noteAddr 0 ∧ (u.queue 32).note = noteAddr 32 := by
  let v : State := { s with hub := { s.hub with stage := 4, modNum := Config.moduleNumber } }
  let u := (v.placeService 0).placeService 32
  have raised : u.hub.raised = v.hub.raised := (State.placeService_raised _ 32).trans (v.placeService_raised 0)
  simp only [Hub.raised, Prod.mk.injEq] at raised
  obtain ⟨stage, modNum, capGen⟩ := raised
  refine ⟨s.enterStage 4, by rw [execBringUpStage_passes hf (by omega), h], stage, modNum, congrArg (· + 2) capGen, rfl, ?_, ?_⟩
  · change (u.queue 0).note = noteAddr 0
    exact (State.placeService_note_other _ (by decide)).trans (v.placeService_note 0)
  · exact State.placeService_note _ 32

end

/-! ## Power (R337) -/

theorem execD3hotEntry_enters {s : State} (h : s.hub.stage = 6) (ht : s.tenants.all (fun p => p.2.tdisp == .unlocked) = true) :
    execD3hotEntry s = .next { s with hub := { s.hub with d3 := true } } := by
  simp only [execD3hotEntry, h, ht, and_self, if_true]

theorem execD3hotEntry_stays {s : State} (ht : s.tenants.any (fun p => p.2.tdisp != .unlocked) = true) :
    execD3hotEntry s = .next s := by
  have h : ¬ s.tenants.all (fun p => p.2.tdisp == .unlocked) = true := by
    simpa [List.any_eq_true, List.all_eq_true] using ht
  simp only [execD3hotEntry, h, and_false, if_false, Bool.false_eq_true]

end Sys2Proof.Machine

/-- Settles O59: the stages one by one, with the notify words that a later write event leaves alone, and the rest by the events'
own equations. -/
theorem hubEvents : Obligations.HubEvents := by
  unfold Obligations.HubEvents
  intro s h i st
  refine ⟨rfl, fun hf => ⟨fun n hn h => execBringUpStage_plain hf hn h, execBringUpStage_caps hf, execBringUpStage_time hf,
    execBringUpStage_fails hf⟩, execD3hotEntry_enters, execD3hotEntry_stays, fun hd => ?_, rfl, ⟨_, rfl⟩, _, rfl⟩
  simp only [exec, execD0Return, hd, if_true]
end

section
/-! PROOFS. The events of regions (R308 to R311, R374): the end of a drain, the end of an epoch with its moves and hints, and the
end of a migration. -/

open Sys2Proof Sys2Proof.Machine

namespace Sys2Proof.Machine

/-! ## The end of a drain (R308) -/

/-- A region whose drain is over, with the bias or the home that the drain was for. -/
def Region.drained (k : Region) (bias : Option Bool) (home : Option (Option (BitVec 4) × Word × Word)) : Region :=
  match home with
  | some (o, d0, d1) =>
    { k with drain := none, hostBias := bias.getD k.hostBias, owner := o, d0 := d0, d1 := d1 }
  | none => { k with drain := none, hostBias := bias.getD k.hostBias }

/-- The wakes of the threads that are parked on the drain of a region. -/
def State.drainWakes (s : State) (r : Nat) : List Wake :=
  s.threads.filterMap fun t =>
    if t.live && t.stopped.isNone && t.run == .parked (.drain r) then some (⟨t.id, 11⟩ : Wake) else none

theorem State.mem_drainWakes {s : State} {r : Nat} {t : Thread} (ht : t ∈ s.threads) (hl : t.live = true)
    (hs : t.stopped = none) (hr : t.run = .parked (.drain r)) : (⟨t.id, 11⟩ : Wake) ∈ s.drainWakes r :=
  List.mem_filterMap.2 ⟨t, ht, by simp [hl, hs, hr]⟩

/-- The drain is over, and the wakes of those who wait for it are under way. -/
def State.drainEnds (s : State) (r : Nat) (bias : Option Bool) (home : Option (Option (BitVec 4) × Word × Word)) : State :=
  let s1 := (s.setRegion r ((s.region r).drained bias home)).backRegion r
  { s1 with net := { s1.net with wakes := s1.net.wakes ++ s.drainWakes r } }

theorem State.drainEnds_region (s : State) (r : Nat) (bias : Option Bool) (home : Option (Option (BitVec 4) × Word × Word)) :
    ((s.drainEnds r bias home).region r).home = ((s.region r).drained bias home).home :=
  ((State.backRegion_spares _ r).home r).trans (by rw [State.region_setRegion])

theorem State.recheckWaits_spares (s : State) (p : Thread → Bool) : s.Spares (s.recheckWaits p) :=
  ⟨fun _ => rfl, fun _ => rfl, rfl, List.prefix_append _ _⟩

/-- The end of a drain: the region is as the drain was to leave it, and those who wait for it are woken. The looks at the waits
and the watches of the owner's threads, which come after, leave that alone. -/
theorem execDrainComplete_ends {s : State} {r : Nat} {bias : Option Bool} {home : Option (Option (BitVec 4) × Word × Word)}
    (hc : s.canDrain r = true) (hd : (s.region r).drain = some (bias, home)) :
    ∃ u, exec (.drainComplete r) s = .next u ∧ (u.region r).home = ((s.region r).drained bias home).home
      ∧ ((s.region r).owner = none → u.mem = s.mem)
      ∧ ∀ t ∈ s.threads, t.live = true → t.stopped = none → t.run = .parked (.drain r) → (⟨t.id, 11⟩ : Wake) ∈ u.net.wakes := by
  let v := s.drainEnds r bias home
  let w := v.recheckWaits fun t => some t.id.tenant == (s.region r).owner
  let u := (s.region r).owner.toList.foldl State.checkWatches w
  have huv : v.Spares u := (v.recheckWaits_spares _).trans (.foldl State.checkWatches_spares _ w)
  refine ⟨u, ?_, (huv.home r).trans (s.drainEnds_region r bias home), fun ho => ?_, fun t ht hl hs hr => ?_⟩
  · simp only [exec, execDrainComplete, hc, hd, Bool.not_true, Bool.false_eq_true, if_false]
    cases home <;> rfl
  · simp only [u, ho, Option.toList_none, List.foldl_nil, w, State.recheckWaits_mem]
    exact (State.backRegion_mem _ r).trans rfl
  · exact huv.wakes.subset (List.mem_append_right _ (s.mem_drainWakes ht hl hs hr))

/-! ## The end of an epoch (R310) -/

/-- A table of one row reads it. -/
theorem tget_single {α : Type} (d v : α) (k : Nat) : tget d [(k, v)] k = v := by simp [tget]

theorem tget_nextEpoch (l : Tab Region) (q : Nat) :
    tget Region.reset (l.map fun p => (p.1, p.2.nextEpoch p.1)) q = (tget Region.reset l q).nextEpoch q := by
  induction l with
  | nil => simp [tget, Region.nextEpoch, Region.reset]
  | cons p l ih =>
    simp only [List.map_cons, tget]
    split
    · subst_vars; rfl
    · exact ih

/-- A look at a far region can only change where regions move. -/
theorem State.migrate_moves (s : State) (r : Nat) :
    ∃ g, s.migrate r = { s with regions := g } ∧ ∀ q, ∃ m, tget Region.reset g q = { s.region q with moving := m } := by
  have set (v : Nat) (m : Option Nat) : ∀ q, ∃ n, (s.setRegion v { s.region v with moving := m }).region q =
      { s.region q with moving := n } := fun q => by
    by_cases hq : q = v
    · exact ⟨m, by rw [hq, State.region_setRegion]⟩
    · exact ⟨(s.region q).moving, by rw [State.region_setRegion_other s _ hq]⟩
  unfold State.migrate
  extract_lets k d go
  split
  · exact ⟨s.regions, rfl, fun q => ⟨(s.region q).moving, rfl⟩⟩
  · split
    · exact ⟨_, rfl, set r (some d)⟩
    · split
      · rename_i v _
        let s1 := s.setRegion v { s.region v with moving := some 8 }
        refine ⟨(go s1).regions, rfl, fun q => ?_⟩
        obtain ⟨n, hn⟩ := set v (some 8) q
        by_cases hq : q = r
        · refine ⟨some d, ?_⟩
          rw [hq] at hn ⊢
          exact (s1.region_setRegion r _).trans (by rw [show s1.region r = _ from hn])
        · exact ⟨n, (s1.region_setRegion_other _ hq).trans hn⟩
      · exact ⟨s.regions, rfl, fun q => ⟨(s.region q).moving, rfl⟩⟩

/-- So do the looks at all of them. -/
theorem State.migrateAll_moves (l : List Nat) : ∀ s : State, ∃ g, l.foldl State.migrate s = { s with regions := g }
    ∧ ∀ q, ∃ m, tget Region.reset g q = { s.region q with moving := m } := by
  induction l with
  | nil => exact fun s => ⟨s.regions, rfl, fun q => ⟨(s.region q).moving, rfl⟩⟩
  | cons r l ih =>
    intro s
    obtain ⟨g, hg, hm⟩ := s.migrate_moves r
    obtain ⟨g', hg', hm'⟩ := ih (s.migrate r)
    refine ⟨g', by rw [List.foldl_cons, hg', hg], fun q => ?_⟩
    obtain ⟨n, hn⟩ := hm' q
    obtain ⟨m, hm⟩ := hm q
    refine ⟨n, hn.trans ?_⟩
    rw [show (s.migrate r).region q = tget Region.reset g q by rw [hg]; rfl, hm]

/-- The module as the new epoch begins, before its regions are looked at. -/
def State.epochBegun (s : State) : State :=
  { s with cyc := max s.cyc (s.hub.epochAt + Config.epochCycles)
           hub := { s.hub with epochAt := max s.cyc (s.hub.epochAt + Config.epochCycles) } }

/-- Every region is looked at for a move. -/
def State.movesDecided (s : State) : State := (s.regions.map fun p => p.1).foldl State.migrate s

/-- Every tenant is given its hints (R311). -/
def State.hintsGiven (s : State) : State :=
  (s.tenants.map fun p => BitVec.ofNat 4 p.1).foldl (fun s tn => s.hintsOf tn fun _ => true) s

/-- The counts of every region begin anew. -/
def State.countsAnew (s : State) : State := { s with regions := s.regions.map fun p => (p.1, p.2.nextEpoch p.1) }

theorem execEpochEnd_eq (s : State) : exec .epochEnd s = .next s.epochBegun.movesDecided.hintsGiven.countsAnew := rfl

theorem State.countsAnew_region (s : State) (q : Nat) : s.countsAnew.region q = (s.region q).nextEpoch q :=
  tget_nextEpoch s.regions q

theorem State.hintsGiven_noTenants {s : State} (ht : s.tenants = []) : s.hintsGiven = s := by
  simp [State.hintsGiven, ht]

/-- Without tenants there are no hints: the regions' moves are decided, which changes nothing that is counted. -/
theorem execEpochEnd_noTenants {s : State} (ht : s.tenants = []) : ∃ g, exec .epochEnd s = .next
    { s.epochBegun with regions := g }.countsAnew ∧ ∀ q, ∃ m, tget Region.reset g q = { s.region q with moving := m } := by
  obtain ⟨g, hg, hm⟩ := State.migrateAll_moves (s.regions.map fun p => p.1) s.epochBegun
  have hd : s.epochBegun.movesDecided = { s.epochBegun with regions := g } := hg
  exact ⟨g, by rw [execEpochEnd_eq, hd, State.hintsGiven_noTenants (s := { s.epochBegun with regions := g }) ht], hm⟩

/-! ### One region (R310) -/

/-- The first of the largest among numbers of which each is compared with the best so far. -/
theorem foldl_largest (g : Nat → Nat) (l : List Nat) : ∀ b, g b ≤ g (l.foldl (fun b d => if g b < g d then d else b) b)
    ∧ ∀ d ∈ l, g d ≤ g (l.foldl (fun b d => if g b < g d then d else b) b) := by
  induction l with
  | nil => exact fun b => ⟨le_rfl, by simp⟩
  | cons c l ih =>
    intro b
    obtain ⟨hb, hl⟩ := ih (if g b < g c then c else b)
    have hc : g b ≤ g (if g b < g c then c else b) ∧ g c ≤ g (if g b < g c then c else b) := by
      split <;> omega
    refine ⟨hc.1.trans hb, fun d hd => ?_⟩
    rcases List.mem_cons.1 hd with rfl | hd
    · exact hc.2.trans hb
    · exact hl d hd

/-- No die has more accesses than the one that is picked. -/
theorem le_mostOf (l : List Nat) {j : Nat} (hj : j < l.length) : l.getD j 0 ≤ l.getD (mostOf l) 0 :=
  (foldl_largest (fun d => l.getD d 0) (List.range l.length) 0).2 j (List.mem_range.2 hj)

section
variable {s : State} {r : Nat} {k : Region} (hr : s.regions = [(r, k)])
include hr

theorem State.region_single : s.region r = k := by rw [State.region, hr, tget_single]

theorem State.setRegion_single (k' : Region) : s.setRegion r k' = { s with regions := [(r, k')] } := by
  simp [State.setRegion, hr, tset]

theorem State.movesDecided_single : s.movesDecided = s.migrate r := by simp [State.movesDecided, hr]

/-- The only region moves if it is a far one with a count of 512 that may move and has room. -/
theorem State.migrate_single_moves (ht : s.tenants = []) (hp : k.pinned = false) (hf : k.tier = some 8) (hm : k.moving = none)
    (hn : 512 ≤ k.counts.sum)
    (hroom : (s.nearAfter (mostOf k.counts) + s.hub.lostFrames.count (mostOf k.counts) + 1) * 65536 ≤ Config.nearBytes) :
    s.migrate r = { s with regions := [(r, { k with moving := some (mostOf k.counts) })] } := by
  have hk := State.region_single hr
  have hstay : s.neverMoves r = false := by simp [State.neverMoves, hk, hp, ht]
  simp only [State.migrate, hk, hstay, hf, hm, Nat.not_lt.2 hn, hroom, if_true, ne_eq, not_true_eq_false, decide_false,
    Option.isSome_none, Bool.or_false, Bool.false_eq_true, if_false]
  exact State.setRegion_single hr _

/-- Any other stays. -/
theorem State.migrate_single_stays (h : k.pinned = true ∨ k.tier ≠ some 8 ∨ k.moving ≠ none ∨ k.counts.sum < 512) :
    s.migrate r = s := by
  have hk := State.region_single hr
  have hstay : (s.neverMoves r || decide (k.tier ≠ some 8) || k.moving.isSome || decide (k.counts.sum < 512)) = true := by
    rcases h with h | h | h | h
    · simp [State.neverMoves, hk, h]
    · simp [h]
    · simp [Option.isSome_iff_ne_none.2 h]
    · simp [h]
  simp only [State.migrate, hk, hstay, if_true]

end

/-! ### One hint (R311) -/

section
variable {s : State} {tn : BitVec 4} {t : Tenant} {h : Hints} (ht : s.tenant tn = t) (hh : t.hints = some h)
include ht hh

/-- A hint with room in its ring: the record, and then HPROD. -/
theorem State.hint_written {prod cons : Word} (hg : s.hostGone h.ring = false) (hprod : s.readN h.ring 8 = prod)
    (hcons : s.readN (h.ring + 8) 8 = cons) (hroom : (prod - cons).toNat < 2 ^ h.n) (dir : BitVec 2) (va n : Nat) :
    ∃ u, s.hint tn dir va n = u ∧ u.mem = ((s.writeEvent none false (cellsFrom (h.ring + 16 + 32 * (prod.toNat % 2 ^ h.n))
      (wordsBytes (hintWords dir va h.drop (t.pasid.getD 0).toNat tn n s.cyc)))).writeEvent none false
        (cellsOf h.ring 8 (prod + 1))).mem
      ∧ (u.tenant tn).hints = some { h with drop := 0 } := by
  refine ⟨_, rfl, ?_⟩
  simp only [State.hint, ht, hh, hg, hprod, hcons, Nat.not_le.2 hroom, if_false, Bool.false_eq_true, State.setTenant_mem,
    State.tenant_setTenant, and_self]

/-- The hint for the only region of a tenant, whose count has reached the threshold. -/
theorem State.hintsOf_single {v p n : Nat} (hv : t.vregions = [(v, p)]) (hb : s.blocked none (lineOf h.ring) = false)
    (hd : (s.region p).hinted = false)
    (hn : (if isDevice (p * 65536) then (s.region p).hostCount else (s.region p).counts.sum) = n) (hle : h.hintt ≤ n) :
    s.hintsOf tn (fun _ => true) = (s.setRegion p { s.region p with hinted := true }).hint tn
      (if isDevice (p * 65536) then 2 else 1) (v * 65536) n := by
  simp only [State.hintsOf, ht, hh, hb, hv, hd, hn, Nat.not_lt.2 hle, List.filter_true, List.foldl_cons, List.foldl_nil,
    if_false, Bool.false_eq_true, decide_false, Bool.or_false]

end

/-- With one tenant and one region that does not move, the end of an epoch writes the hint, if one is due. -/
theorem execEpochEnd_hints {s : State} {i : Nat} {t : Tenant} {h : Hints} {v p n : Nat} {k : Region} {prod cons : Word}
    (hi : i < 16) (hts : s.tenants = [(i, t)]) (hrs : s.regions = [(p, k)]) (hh : t.hints = some h)
    (hv : t.vregions = [(v, p)]) (hfar : k.tier ≠ some 8) (hd : k.hinted = false)
    (hn : (if isDevice (p * 65536) then k.hostCount else k.counts.sum) = n) (hle : h.hintt ≤ n)
    (hb : s.blocked none (lineOf h.ring) = false) (hg : s.hostGone h.ring = false)
    (hprod : s.epochBegun.readN h.ring 8 = prod) (hcons : s.epochBegun.readN (h.ring + 8) 8 = cons)
    (hroom : (prod - cons).toNat < 2 ^ h.n) :
    ∃ u, exec .epochEnd s = .next u ∧ u.mem = (((s.epochBegun.setRegion p { k with hinted := true }).writeEvent none false
      (cellsFrom (h.ring + 16 + 32 * (prod.toNat % 2 ^ h.n)) (wordsBytes (hintWords (if isDevice (p * 65536) then 2 else 1)
        (v * 65536) h.drop (t.pasid.getD 0).toNat (BitVec.ofNat 4 i) n s.epochBegun.cyc)))).writeEvent none false
        (cellsOf h.ring 8 (prod + 1))).mem
      ∧ (u.tenant (BitVec.ofNat 4 i)).hints = some { h with drop := 0 } := by
  let w := s.epochBegun
  have hw : w.regions = [(p, k)] := hrs
  have hk : w.region p = k := State.region_single hw
  have htn : w.tenant (BitVec.ofNat 4 i) = t := by
    rw [State.tenant, show w.tenants = [(i, t)] from hts, BitVec.toNat_ofNat, Nat.mod_eq_of_lt hi, tget_single]
  have hmoves : w.movesDecided = w := (State.movesDecided_single hw).trans (State.migrate_single_stays hw (.inr (.inl hfar)))
  obtain ⟨u, hu, hmem, hdrop⟩ := State.hint_written (s := w.setRegion p { k with hinted := true }) htn hh hg hprod hcons hroom
    (if isDevice (p * 65536) then 2 else 1) (v * 65536) n
  have hgiven : w.hintsGiven = u := by
    rw [State.hintsGiven, show w.tenants = [(i, t)] from hts, List.map_singleton, List.foldl_cons, List.foldl_nil,
      State.hintsOf_single htn hh hv hb (by rw [hk, hd]) (by rw [hk, hn]) hle, hk, hu]
  refine ⟨u.countsAnew, ?_, hmem, hdrop⟩
  rw [execEpochEnd_eq, hmoves, hgiven]

/-! ## The end of a migration (R310, R314, R374) -/

/-- The contents have moved, and with them the region's place; a row that had failed goes out of service. -/
theorem execRegionMigrationComplete_moves {s : State} {r d : Nat} (hm : (s.region r).moving = some d)
    (hc : s.canMigrate r = true) :
    (∃ u, exec (.regionMigrationComplete r) s = .next u ∧ u.mem = s.mem ∧ u.threads = s.threads
      ∧ u.region r = { s.region r with tier := some d, moving := none, retired := false })
    ∧ ((s.region r).retired = false → exec (.regionMigrationComplete r) s =
      .next (s.setRegion r { s.region r with tier := some d, moving := none, retired := false })) := by
  let v := s.setRegion r { s.region r with tier := some d, moving := none, retired := false }
  have hv : v.region r = { s.region r with tier := some d, moving := none, retired := false } := s.region_setRegion r _
  simp only [exec, execRegionMigrationComplete, hm, hc]
  refine ⟨?_, fun hr => by simp only [hr]⟩
  cases (s.region r).retired <;> cases (s.region r).tier <;> exact ⟨_, rfl, rfl, rfl, hv⟩

end Sys2Proof.Machine

/-- Settles O57: each event by what it comes to; after a drain the looks at waits and watches leave the region alone, and at the
end of an epoch only the moves, and one hint, come before the counts begin anew. -/
theorem regionEvents : Obligations.RegionEvents := by
  unfold Obligations.RegionEvents
  intro s r d b own d0 d1 k at' later
  refine ⟨fun hc => ⟨fun hd => ?_, fun hd => ?_⟩, fun ht => ⟨?_, fun hr => ?_⟩, ?_, fun hm hc => execRegionMigrationComplete_moves hm hc⟩
  · obtain ⟨u, hu, hhome, hmem, hwakes⟩ := execDrainComplete_ends hc hd
    simp only [Region.home, Region.drained, Option.getD_some, Prod.mk.injEq] at hhome
    obtain ⟨howner, -, -, hbias, hdrain⟩ := hhome
    exact ⟨u, hu, hbias, hdrain, howner, hmem, hwakes⟩
  · obtain ⟨u, hu, hhome, hmem, hwakes⟩ := execDrainComplete_ends hc hd
    simp only [Region.home, Region.drained, Prod.mk.injEq] at hhome
    obtain ⟨howner, hd0, hd1, -, hdrain⟩ := hhome
    exact ⟨u, hu, howner, hd0, hd1, hdrain, hmem, hwakes⟩
  · obtain ⟨g, hg, hcounted⟩ := execEpochEnd_noTenants ht
    refine ⟨_, hg, rfl, rfl, rfl, rfl, fun q => ?_⟩
    obtain ⟨m, hq⟩ := hcounted q
    rw [State.countsAnew_region, show ({ s.epochBegun with regions := g } : State).region q = _ from hq]
    exact ⟨rfl, rfl, rfl⟩
  · intro die room k1
    have hlater : s.epochBegun.regions = [(r, k)] := hr
    have hnone : s.epochBegun.tenants = [] := ht
    refine ⟨fun hp hf hm hn hroom => ?_, fun h => ?_, fun j hj => le_mostOf k.counts hj⟩
    · rw [execEpochEnd_eq, State.movesDecided_single hlater, State.migrate_single_moves hlater hnone hp hf hm hn hroom,
        State.hintsGiven_noTenants (by exact hnone)]
      rfl
    · rw [execEpochEnd_eq, State.movesDecided_single hlater, State.migrate_single_stays hlater h,
        State.hintsGiven_noTenants hnone, State.countsAnew, hlater]
      rfl
  · intro i t hr v p kp hi hts hrs n prod q q1 hh hv hfar hd hle hb hg hroom
    have hints := execEpochEnd_hints hi hts hrs hh hv hfar hd rfl hle hb hg rfl rfl hroom
    simp only [hintWords, Nat.mul_div_cancel v (by decide : 0 < 65536)] at hints
    exact hints
end

section
/-! PROOFS. The engines keep the canonical form of memory: the events of a loom and its daybook (R117 to R151), and those of a
porter (R210 to R216). -/

open Sys2Proof Sys2Proof.Machine

namespace Sys2Proof.Machine

/-! ## Results -/

/-- The value of a result, if it has one, satisfies `P`. -/
structure Yields {ε α : Type} (P : α → Prop) (r : Except ε α) : Prop where
  of_ok : ∀ {a}, r = .ok a → P a

@[simp] theorem yields_ok {ε α : Type} (P : α → Prop) (a : α) : Yields (ε := ε) P (.ok a) ↔ P a :=
  ⟨fun h => h.of_ok rfl, fun h => ⟨fun hb => Except.ok.inj hb ▸ h⟩⟩

@[simp] theorem yields_error {ε α : Type} (P : α → Prop) (e : ε) : Yields P (.error e) := ⟨fun h => by cases h⟩

@[simp] theorem yields_atTag {α : Type} (P : α → Prop) (tag : Word) (r : Res α) : Yields P (atTag tag r) ↔ Yields P r := by
  unfold atTag
  split <;> simp

@[simp] theorem yields_atLane {α : Type} (P : α → Prop) (i : Nat) (tag : Word) (r : Res α) :
    Yields P (atLane i tag r) ↔ Yields P r := by
  unfold atLane
  split <;> simp

@[simp] theorem yields_atArgs {α : Type} (P : α → Prop) (l : List TileArg) (r : Res α) :
    Yields P (atArgs l r) ↔ Yields P r := by
  unfold atArgs
  split
  · dsimp only
    split <;> simp
  · rfl

@[simp] theorem yields_needOf {α : Type} (P : α → Prop) (r : Res α) : Yields P (needOf r) ↔ Yields P r := by
  cases r <;> simp [needOf]

@[simp] theorem yields_map {ε α β : Type} (P : β → Prop) (f : α → β) (r : Except ε α) :
    Yields P (r.map f) ↔ Yields (fun a => P (f a)) r := by
  cases r <;> simp [Except.map]

theorem yields_ite {ε α : Type} {P : α → Prop} {c : Prop} [Decidable c] {q r : Except ε α} (hq : Yields P q) (hr : Yields P r) :
    Yields P (if c then q else r) := by
  split
  · exact hq
  · exact hr

/-- What leaves memory as it was keeps its canonical form. -/
theorem memOk_of_mem {s t : State} (e : t.mem = s.mem) (h : s.memOk) : t.memOk := (congrArg Memory.wf e).trans h

/-- The state beside what an engine has read, or beside its command. -/
abbrev FstOk {α : Type} (p : State × α) : Prop := p.1.memOk

/-! ## The daybook (R133 to R151) -/

section
variable {s : State} (h : s.memOk)
include h

theorem State.putLoom_memOk (cl : BitVec 7) (l : Loom) : (s.putLoom cl l).memOk := memOk_of_mem (State.putLoom_mem ..) h

theorem State.loomDone_memOk (cl : BitVec 7) (c : LoomCmd) : (s.loomDone cl c).memOk := memOk_of_mem (State.loomDone_mem ..) h

theorem State.loomCount_memOk (cl : BitVec 7) (b : Option Loom) : (s.loomCount cl b).memOk :=
  memOk_of_mem (State.loomCount_mem ..) h

theorem State.askFor_memOk (id : ThreadId) (c : BitVec 10) (e : Stop) : (s.askFor id c e).memOk :=
  memOk_of_mem (State.askFor_mem ..) h

theorem State.bookWrite_yields (c : LoomCmd) (va : Nat) (bs : List Byte) : Yields State.memOk (s.bookWrite c va bs) :=
  ⟨fun ht => State.bookWrite_memOk h ht⟩

theorem State.bookWord_yields (c : LoomCmd) (i : Nat) (w : Word) : Yields State.memOk (s.bookWord c i w) :=
  s.bookWrite_yields h c _ _

theorem State.engWrite_yields (id : ThreadId) (core : BitVec 10) (fab : Bool) (va n v : Nat) :
    Yields State.memOk (s.engWrite id core fab va n v) := ⟨fun ht => State.engWrite_memOk h ht⟩

theorem State.engRead_yields (id : ThreadId) (core : BitVec 10) (fab : Bool) (va n : Nat) :
    Yields FstOk (s.engRead id core fab va n) := ⟨fun ht => State.engRead_memOk h ht⟩

theorem State.bookHeader_yields (c : LoomCmd) : Yields FstOk (s.bookHeader c) := by
  unfold State.bookHeader
  split
  · exact yields_error _ _
  · rename_i hr
    exact (yields_ok _ _).2 (State.bookRead_memOk h hr)

theorem State.bookLine_yields (c : LoomCmd) (a : Nat) (need : List Nat) (buf : Tab Byte) :
    Yields FstOk (s.bookLine c a need buf) := by
  unfold State.bookLine
  split
  · exact yields_error _ _
  · exact (yields_ok _ _).2 (memOk_of_mem (State.atHome_mem ..) (s.combineAll_memOk _ _ h))

/-! ### Recording (R136 to R140) -/

theorem State.bookFull_yields (cl : BitVec 7) (c : LoomCmd) (d : Word) (n : Nat) (f : Flt) :
    Yields State.memOk (s.bookFull cl c d n f) := by
  unfold State.bookFull
  split
  · exact (yields_ok _ _).2 (s.loomRecord_memOk _ _ _ _ _ h)
  · exact yields_error _ _
  · rename_i s1 hw
    exact (yields_ok _ _).2 (s1.loomRecord_memOk _ _ _ _ _ ((s.bookWord_yields h _ _ _).of_ok hw))

/-- Recording that has read the header writes the entry, or finds that it has no place. -/
theorem State.recordNext_yields (cl : BitVec 7) (c : LoomCmd) : Yields FstOk (s.recordNext cl c) := by
  have full : ∀ {t : State}, t.memOk → ∀ d n f, Yields FstOk ((t.bookFull cl c d n f).map c.noEntry) := fun ht d n f =>
    (yields_map _ _ _).2 (State.bookFull_yields ht cl c d n f)
  have record : ∀ f n, FstOk (c.noEntry (s.loomRecord cl c f n 0)) := fun f n => s.loomRecord_memOk _ _ _ _ _ h
  unfold State.recordNext
  split
  · split
    · exact (yields_ok _ _).2 (record _ _)
    · exact (yields_ok _ _).2 (record _ _)
    · exact (yields_ok _ _).2 (record _ _)
    · exact yields_error _ _
    · exact yields_error _ _
    · rename_i hr _
      have h1 := (s.bookHeader_yields h c).of_ok hr
      split
      · exact (yields_ok _ _).2 h1
      · exact yields_ite (full h1 _ _ _) ((yields_ok _ _).2 h1)
  · split
    · split
      · exact full h _ _ _
      · exact yields_error _ _
      · rename_i hw
        exact (yields_ok _ _).2 ((s.bookWrite_yields h _ _ _).of_ok hw)
    · split
      · exact (yields_ok _ _).2 (record _ _)
      · exact yields_error _ _
      · rename_i hw
        exact (yields_ok _ _).2 ((s.bookWrite_yields h _ _ _).of_ok hw)

theorem State.loomRecords_memOk (cl : BitVec 7) (c : LoomCmd) : (s.loomRecords cl c).memOk := by
  unfold State.loomRecords
  dsimp only
  split
  · exact s.loomCount_memOk h _ _
  · split
    · exact s.askFor_memOk h _ _ _
    · rename_i s1 c1 i hr
      have h1 : s1.memOk := (s.recordNext_yields h cl c).of_ok hr
      exact State.loomCount_memOk (memOk_of_mem (State.popDone_mem ..) h1) _ _
    · rename_i s1 c1 hr
      exact s1.putLoom_memOk ((s.recordNext_yields h cl c).of_ok hr) _ _

/-! ### `trec.on`, `trec.off`, `tdrop` (R145, R146) -/

theorem State.trecRun_yields (cl : BitVec 7) (c : LoomCmd) : Yields State.memOk (s.trecRun cl c) := by
  have note : ∀ {r : Res State}, Yields State.memOk r → Yields State.memOk (s.bookNote cl c r) := fun {r} hr => by
    unfold State.bookNote
    split
    · exact (yields_ok _ _).2 (s.loomRecord_memOk _ _ _ _ _ h)
    · exact hr
  unfold State.trecRun
  refine note ?_
  split
  · exact yields_error _ _
  · rename_i s1 d hr
    have h1 : s1.memOk := (s.bookHeader_yields h c).of_ok hr
    have record : ∀ f, Yields (ε := Stop) State.memOk (.ok (s1.loomRecord cl c f 0 0)) := fun f =>
      (yields_ok _ _).2 (s1.loomRecord_memOk _ _ _ _ _ h1)
    exact yields_ite (record _) (yields_ite (yields_ite (record _) (s1.bookWord_yields h1 _ _ _)) (s1.bookWord_yields h1 _ _ _))

theorem State.tdropRun_yields (cl : BitVec 7) (c : LoomCmd) : Yields State.memOk (s.tdropRun cl c) := by
  unfold State.tdropRun
  split
  · exact yields_error _ _
  · rename_i s1 hw
    exact (yields_ok _ _).2 (s1.putLoom_memOk ((s.bookWrite_yields h _ _ _).of_ok hw) _ _)

/-! ### The sweep (R141 to R144) -/

/-- A step of the sweep, if it is one, keeps the canonical form. -/
abbrev SweepOk (r : SweepRes) : Prop := Yields (fun o => ∀ p, o = some p → FstOk p) r

omit h in
theorem sweepOk_some {r : Res (State × LoomCmd)} (hr : Yields FstOk r) : SweepOk (needOf (r.map some)) :=
  (yields_needOf _ _).2 ((yields_map _ _ _).2 ⟨fun e _ hp => Option.some.inj hp ▸ hr.of_ok e⟩)

omit h in
theorem sweepOk_none : SweepOk (.ok none) := (yields_ok _ _).2 fun _ hp => by cases hp

omit h in
theorem sweepOk_step {p : State × LoomCmd} (hp : FstOk p) : SweepOk (.ok (some p)) :=
  (yields_ok _ _).2 fun _ e => Option.some.inj e ▸ hp

theorem State.gradAdd_yields (c : LoomCmd) (gf : Fmt) (va M : Nat) (term : Nat → Val) :
    Yields FstOk (s.gradAdd c gf va M term) := by
  unfold State.gradAdd
  dsimp only
  split
  · exact yields_error _ _
  · split
    · exact yields_error _ _
    · exact yields_ite (yields_error _ _) ((yields_ok _ _).2 h)
  · split
    · exact yields_error _ _
    · rename_i hr
      exact yields_ite (yields_error _ _) ((yields_ok _ _).2 ((s.engRead_yields h _ _ _ _ _).of_ok hr))

theorem State.gradRead_yields (c : LoomCmd) (gf : Fmt) (va : Nat) : Yields FstOk (s.gradRead c gf va) := by
  unfold State.gradRead
  split
  · exact yields_error _ _
  · split
    · exact yields_error _ _
    · rename_i hr
      exact (yields_ok _ _).2 ((s.engRead_yields h _ _ _ _ _).of_ok hr)

theorem State.adjStep_yields (c : LoomCmd) (t : BitVec 3) (f : TFmt) (l : List (Nat × Nat)) (g : Nat → Nat → Val) :
    Yields FstOk (s.adjStep c t f l g) := by
  unfold State.adjStep
  dsimp only
  split
  · exact yields_error _ _
  · exact (yields_ok _ _).2 h

theorem State.jobWord_sweepOk (c : LoomCmd) (l : List GradJob) : ∀ p, SweepOk (s.jobWord c l p) := by
  induction l with
  | nil => exact fun p => sweepOk_none
  | cons g l ih =>
    intro p
    unfold State.jobWord
    split
    · exact sweepOk_some (s.gradAdd_yields h _ _ _ _ _)
    · exact ih _

theorem State.sweepProduct_sweepOk (c : LoomCmd) (wide tr : Bool) (t : BitVec 3) (e : Entry) :
    SweepOk (s.sweepProduct c wide tr t e) := by
  unfold State.sweepProduct
  split
  · exact yields_error _ _
  · exact yields_error _ _
  · split
    · exact yields_error _ _
    · exact yields_error _ _
    · exact s.jobWord_sweepOk h _ _ _

theorem State.sweepOuter_sweepOk (c : LoomCmd) (wide : Bool) (t : BitVec 3) (e : Entry) :
    SweepOk (s.sweepOuter c wide t e) := by
  unfold State.sweepOuter
  split
  · exact sweepOk_none
  · split
    · exact yields_error _ _
    · exact yields_error _ _
    · exact s.jobWord_sweepOk h _ _ _

theorem State.seedStep_sweepOk (c : LoomCmd) (t : BitVec 3) (af : TFmt) (gf : Fmt) (va : Nat) (l : List (Nat × Nat))
    (on : Nat → Nat → Bool) : SweepOk (s.seedStep c t af gf va l on) := by
  unfold State.seedStep
  split
  · exact yields_error _ _
  · rename_i s1 g hg
    have h1 : s1.memOk := (s.gradRead_yields h c gf va).of_ok hg
    dsimp only
    split
    · exact yields_error _ _
    · rename_i s2 c1 hs
      have h2 : s2.memOk := (s1.adjStep_yields h1 _ _ _ _ _).of_ok hs
      exact sweepOk_step h2

theorem State.sweepTile_sweepOk (c : LoomCmd) (t : BitVec 3) (e : Entry) (len : Nat) (g : List Byte → Nat → Nat → Val) :
    SweepOk (s.sweepTile c t e len g) := by
  unfold State.sweepTile
  split
  · exact sweepOk_none
  · split
    · exact yields_error _ _
    · exact sweepOk_some (s.adjStep_yields h _ _ _ _ _)

theorem State.sweepRed_sweepOk (c : LoomCmd) (t : BitVec 3) (e : Entry) : SweepOk (s.sweepRed c t e) := by
  unfold State.sweepRed
  dsimp only
  split
  · exact sweepOk_none
  · exact s.seedStep_sweepOk h ..

theorem State.sweepSt_sweepOk (c : LoomCmd) (t : BitVec 3) (e : Entry) : SweepOk (s.sweepSt c t e) := by
  unfold State.sweepSt
  dsimp only
  split
  · exact sweepOk_none
  · split
    · exact sweepOk_step h
    · exact s.seedStep_sweepOk h ..

/-- The step of each kind of entry. -/
theorem State.sweepEntry_sweepOk (c : LoomCmd) (wide : Bool) (e : Entry) : SweepOk (s.sweepEntry c wide e) := by
  unfold State.sweepEntry
  dsimp only
  split
  · exact s.sweepProduct_sweepOk h ..
  · exact s.sweepProduct_sweepOk h ..
  · exact s.sweepOuter_sweepOk h ..
  · exact yields_ite sweepOk_none (s.jobWord_sweepOk h ..)
  · exact s.sweepTile_sweepOk h ..
  · exact s.sweepTile_sweepOk h ..
  · exact s.sweepTile_sweepOk h ..
  · exact s.sweepTile_sweepOk h ..
  · exact s.sweepTile_sweepOk h ..
  · exact yields_ite sweepOk_none (sweepOk_step h)
  · exact s.sweepRed_sweepOk h ..
  · exact s.sweepSt_sweepOk h ..
  · exact sweepOk_none

/-! ### The events of an `unwind` (R147 to R149) -/

theorem UnwindStep.wrote_memOk (c c1 : LoomCmd) {r : Res State} (hr : Yields State.memOk r) :
    (UnwindStep.wrote s c c1 r).s.memOk := by
  cases r with
  | error e => exact h
  | ok t => exact hr.of_ok rfl

theorem State.unwindReads_memOk (c : LoomCmd) (a : Nat) (args : List TileArg) : (s.unwindReads c a args).s.memOk := by
  unfold State.unwindReads
  split
  · exact h
  · rename_i hr
    exact ((yields_atArgs _ _ _).2 (s.bookLine_yields h ..)).of_ok hr

theorem State.unwindWants_memOk (c : LoomCmd) (w : Want) : (s.unwindWants c w).s.memOk := by
  cases w with
  | stop e => exact h
  | line a args => exact s.unwindReads_memOk h c a args

theorem State.unwindChecks_memOk (cl : BitVec 7) (c : LoomCmd) (off : Nat) : (s.unwindChecks cl c off).s.memOk := by
  unfold State.unwindChecks
  split
  · exact s.unwindWants_memOk h _ _
  · split
    · exact s.unwindWants_memOk h _ _
    · exact h

theorem State.unwindBegin_memOk (cl : BitVec 7) (c : LoomCmd) : (s.unwindBegin cl c).s.memOk := by
  unfold State.unwindBegin
  split
  · split
    · exact h
    · rename_i s1 d hr
      have h1 : s1.memOk := (s.bookHeader_yields h c).of_ok hr
      split
      · exact h1
      · exact UnwindStep.wrote_memOk h1 _ _ (s1.bookWord_yields h1 ..)
  · dsimp only
    split
    · exact h
    · split
      · exact s.unwindChecks_memOk h ..
      · split
        · exact UnwindStep.wrote_memOk h _ _ (s.bookWord_yields h ..)
        · exact UnwindStep.wrote_memOk h _ _ (s.bookWord_yields h ..)

theorem State.unwindEnd_memOk (cl : BitVec 7) (c : LoomCmd) (n : Nat) : (s.unwindEnd cl c n).s.memOk := by
  unfold State.unwindEnd
  split
  · exact UnwindStep.wrote_memOk h _ _ (s.bookWord_yields h ..)
  · refine UnwindStep.wrote_memOk h _ _ ((yields_map _ _ _).2 ⟨fun {t} ht => ?_⟩)
    exact t.putLoom_memOk ((s.bookWord_yields h _ _ _).of_ok ht) _ _
  · split
    · exact h
    · rename_i s1 hw
      exact (s.engWrite_yields h _ _ _ _ _ _).of_ok hw

theorem State.unwindStep_memOk (cl : BitVec 7) (c : LoomCmd) : (s.unwindStep cl c).s.memOk := by
  unfold State.unwindStep
  split
  · exact s.unwindBegin_memOk h ..
  · exact s.unwindEnd_memOk h ..
  · split
    · exact UnwindStep.wrote_memOk h _ _ (s.bookWrite_yields h ..)
    · split
      · exact s.unwindWants_memOk h ..
      · split
        · exact s.unwindWants_memOk h ..
        · rename_i s2 c2 hs
          exact (s.sweepEntry_sweepOk h _ _ _).of_ok hs _ rfl
        · exact UnwindStep.wrote_memOk h _ _ (s.bookWord_yields h ..)

theorem State.unwindEvent_memOk (cl : BitVec 7) (c : LoomCmd) : (s.unwindEvent cl c).memOk := by
  have hr := s.unwindStep_memOk h cl c
  unfold State.unwindEvent
  dsimp only
  split
  · split
    · exact State.loomStop_memOk _ _ _ _ _ _ hr
    · exact State.loomStop_memOk _ _ _ _ _ _ hr
  · exact s.askFor_memOk h _ _ _
  · split
    · exact State.loomDone_memOk hr _ _
    · exact State.putLoom_memOk hr _ _

theorem State.orRecord_keeps (cl : BitVec 7) (c : LoomCmd) {r : Res State} (hr : Yields State.memOk r) :
    (s.orRecord cl c r).memOk := State.orRecord_memOk h fun _ e => hr.of_ok e

theorem State.unwindAbandon_memOk (cl : BitVec 7) (c : LoomCmd) : (s.unwindAbandon cl c).memOk := by
  unfold State.unwindAbandon
  extract_lets s1 s2 n
  have h1 : s1.memOk := by
    simp only [s1]
    split
    · exact h
    · split
      · exact s.orRecord_keeps h _ _ (s.bookWord_yields h ..)
      · rename_i t d _ hr
        have ht : t.memOk := (s.bookHeader_yields h c).of_ok hr
        exact t.orRecord_keeps ht _ _ (t.bookWord_yields ht ..)
      · exact s.loomRecord_memOk _ _ _ _ _ h
      · exact h
  have h2 : s2.memOk := s1.putLoom_memOk h1 _ _
  exact s2.orRecord_keeps h2 _ _ (s2.engWrite_yields h2 ..)

/-! ## The events of a loom (R117, R129, R130) -/

theorem State.loomWent_memOk (cl : BitVec 7) (c : LoomCmd) {r : Res (State × LoomCmd)} (hr : Yields FstOk r) :
    (s.loomWent cl c r).memOk := by
  unfold State.loomWent
  split
  · rename_i s1 c1
    exact s1.putLoom_memOk (hr.of_ok rfl) _ _
  · exact s.loomStop_memOk _ _ _ _ _ h
  · exact s.askFor_memOk h _ _ _

theorem State.loomEnds_memOk (cl : BitVec 7) (c : LoomCmd) {r : Res State} (hr : Yields State.memOk r) :
    (s.loomEnds cl c r).memOk := by
  unfold State.loomEnds
  split
  · rename_i s1
    exact s1.loomDone_memOk (hr.of_ok rfl) _ _
  · exact s.loomStop_memOk _ _ _ _ _ h
  · exact s.askFor_memOk h _ _ _

theorem State.pendStep_yields (c : LoomCmd) (tag : Word) (p : Nat × List Byte) : Yields FstOk (s.pendStep c tag p) := by
  unfold State.pendStep
  split
  · exact yields_error _ _
  · rename_i s1 hw
    exact (yields_ok _ _).2 (((yields_atTag _ _ _).2 (s.bookWrite_yields h ..)).of_ok hw)

theorem State.tstStep_yields (c : LoomCmd) (k : Tile) (g : TileArg) : Yields FstOk (s.tstStep c k g) := by
  unfold State.tstStep
  dsimp only
  split
  · split
    · exact yields_error _ _
    · rename_i s1 hw
      exact (yields_ok _ _).2 (((yields_atTag _ _ _).2 (s.bookWrite_yields h ..)).of_ok hw)
  · split
    · exact yields_error _ _
    · exact (yields_ok _ _).2 h

theorem State.tredStep_yields (c : LoomCmd) (k : Tile) : Yields FstOk (s.tredStep c k) := by
  unfold State.tredStep
  dsimp only
  split
  · exact yields_error _ _
  · rename_i s1 hw
    exact (yields_ok _ _).2 (((yields_atTag _ _ _).2 (s.bookWrite_yields h ..)).of_ok hw)

/-- A command that runs, by its kind. -/
theorem State.loomRun_memOk (cl : BitVec 7) (c : LoomCmd) : (s.loomRun cl c).memOk := by
  unfold State.loomRun
  extract_lets l wide arg
  clear_value arg
  split
  · refine State.loomDone_memOk ?_ _ _
    split
    · exact s.putLoom_memOk h _ _
    · exact h
  · refine State.loomDone_memOk ?_ _ _
    split
    · exact s.putLoom_memOk h _ _
    · exact h
  · exact State.loomDone_memOk (s.putLoom_memOk h _ _) _ _
  · exact s.tilesDone_memOk _ _ _ _ _ _ h
  · exact s.tilesDone_memOk _ _ _ _ _ _ h
  · exact s.tilesDone_memOk _ _ _ _ _ _ h
  · exact s.tilesDone_memOk _ _ _ _ _ _ h
  · exact s.tewDone_memOk _ _ _ _ h
  · exact s.tewDone_memOk _ _ _ _ h
  · exact s.tewDone_memOk _ _ _ _ h
  · exact s.tewDone_memOk _ _ _ _ h
  · exact s.tewDone_memOk _ _ _ _ h
  · dsimp only
    split
    · exact s.nanHalt_memOk _ _ _ h
    · split
      · exact s.loomWent_memOk h _ _ (s.tredStep_yields h ..)
      · exact s.loomDone_memOk h _ _
  · dsimp only
    split
    · exact s.loomWent_memOk h _ _ (s.pendStep_yields h ..)
    · split
      · exact s.loomWent_memOk h _ _ (s.tstStep_yields h ..)
      · exact s.loomDone_memOk h _ _
  · exact s.loomEnds_memOk h _ _ (s.engWrite_yields h ..)
  · exact s.loomEnds_memOk h _ _ (s.trecRun_yields h ..)
  · exact s.loomEnds_memOk h _ _ (s.trecRun_yields h ..)
  · exact s.loomEnds_memOk h _ _ (s.tdropRun_yields h ..)
  · exact s.unwindEvent_memOk h ..

theorem State.skipCmd_memOk (cl : BitVec 7) (c : LoomCmd) : (s.skipCmd cl c).memOk := by
  unfold State.skipCmd
  extract_lets s1
  refine s1.putLoom_memOk ?_ _ _
  simp only [s1]
  split
  · exact s.unwindAbandon_memOk h _ _
  · exact h

omit h in
theorem State.endAsk_mem (s : State) (l : Loom) (flush : Bool) : (s.endAsk l flush).mem = s.mem := by
  refine foldl_mem _ (fun s c => foldl_mem _ (fun s p => ?_) _ s) _ s
  unfold State.bookAsk
  split
  · exact State.askFor_mem ..
  · rfl

/-! ## The events of a porter (R211, R213, R215, R216) -/

theorem State.portRead_yields (c : PorterCmd) (tag : Word) (va n align : Nat) :
    Yields FstOk (s.portRead c tag va n align) := by
  unfold State.portRead
  split
  · simp
  · exact (yields_atLane _ _ _ _).2 (s.engRead_yields h ..)

theorem State.portWrite_yields (c : PorterCmd) (tag : Word) (va n align v : Nat) :
    Yields State.memOk (s.portWrite c tag va n align v) := by
  unfold State.portWrite
  split
  · simp
  · exact (yields_atLane _ _ _ _).2 (s.engWrite_yields h ..)

theorem State.portLine_yields (c : PorterCmd) (q : Nat × Word × Nat) : Yields FstOk (s.portLine c q) := by
  unfold State.portLine
  split
  · simp
  · split
    · exact yields_error _ _
    · exact (yields_ok _ _).2 (s.engBytes_memOk _ h)

theorem State.tableElem_yields (c : PorterCmd) : Yields FstOk (s.tableElem c) := by
  unfold State.tableElem
  dsimp only
  split
  · split
    · exact yields_error _ _
    · split
      · exact (yields_ok _ _).2 h
      · split
        · exact yields_error _ _
        · rename_i hr
          exact (yields_ok _ _).2 ((s.portRead_yields h _ _ _ _ _).of_ok hr)
  · split
    · exact (yields_ok _ _).2 h
    · split
      · exact yields_error _ _
      · rename_i s1 old hr
        have h1 : s1.memOk := (s.portRead_yields h _ _ _ _ _).of_ok hr
        split
        · exact yields_error _ _
        · rename_i s2 hw
          exact (yields_ok _ _).2 ((s1.portWrite_yields h1 _ _ _ _ _ _).of_ok hw)
  · split
    · exact (yields_ok _ _).2 h
    · split
      · exact yields_error _ _
      · rename_i s1 hw
        exact (yields_ok _ _).2 ((s.portWrite_yields h _ _ _ _ _ _).of_ok hw)

theorem State.portFlush_yields (c : PorterCmd) : Yields FstOk (s.portFlush c) := by
  unfold State.portFlush
  split
  · exact (yields_ok _ _).2 h
  · dsimp only
    split
    · exact yields_error _ _
    · split
      · exact yields_error _ _
      · exact (yields_ok _ _).2 (State.engPut_memOk _ _ _ (s.combineAll_memOk _ _ h))

theorem State.portMove_yields (c : PorterCmd) : Yields FstOk (s.portMove c) := by
  unfold State.portMove
  split
  · exact s.portLine_yields h _ _
  · split
    · exact yields_error _ _
    · dsimp only
      split
      · exact (yields_ok _ _).2 h
      · exact (yields_ok _ _).2 h
      · exact (yields_ok _ _).2 h
      · exact s.tableElem_yields h _

theorem PortStep.of_memOk (c : PorterCmd) {r : Res (State × PorterCmd)} (hr : Yields FstOk r) :
    (PortStep.of s c r).s.memOk := by
  cases r with
  | error e => exact h
  | ok p => exact hr.of_ok rfl

theorem State.position_memOk (c : PorterCmd) : (s.position c).s.memOk := by
  unfold State.position
  split
  · exact PortStep.of_memOk h _ (s.portFlush_yields h _)
  · split
    · split
      · exact h
      · exact PortStep.of_memOk h _ (s.portFlush_yields h _)
    · exact PortStep.of_memOk h _ (s.portMove_yields h _)

theorem State.readHeader_yields (c : PorterCmd) : Yields FstOk (s.readHeader c) := by
  unfold State.readHeader
  dsimp only
  split
  · exact yields_error _ _
  · rename_i s1 v hr
    have h1 : s1.memOk := (s.portRead_yields h _ _ _ _ _).of_ok hr
    exact yields_ite (yields_error _ _) (yields_ite (yields_error _ _) ((yields_ok _ _).2 h1))

theorem State.completion_yields (c : PorterCmd) : Yields State.memOk (s.completion c) := by
  unfold State.completion
  split
  · exact s.portWrite_yields h ..
  · split
    · exact yields_error _ _
    · rename_i s1 v hr
      exact s1.portWrite_yields ((s.portRead_yields h _ _ _ _ _).of_ok hr) ..
  · exact (yields_ok _ _).2 h

end

/-- The commands that a porter skips are done, one after another. -/
theorem State.finishSkipped_memOk (cl : BitVec 7) (n : BitVec 2) : ∀ (k : Nat) {s : State}, s.memOk →
    (s.finishSkipped cl n k).memOk := by
  intro k
  induction k with
  | zero => exact fun h => h
  | succ k ih =>
    intro s h
    unfold State.finishSkipped
    split
    · exact h
    · split
      · exact h
      · split
        · exact ih (memOk_of_mem (State.portDone_mem ..) (s.portRecord_memOk _ _ _ _ h))
        · exact s.askFor_memOk h _ _ _
        · rename_i s1 hc
          exact ih (memOk_of_mem (State.portDone_mem ..) ((s.completion_yields h _).of_ok hc))

theorem State.skipPort_memOk {s : State} (h : s.memOk) (cl : BitVec 7) (n : BitVec 2) (k : Nat) :
    (s.skipPort cl n k).memOk :=
  State.finishSkipped_memOk cl n k (memOk_of_mem (State.setCluster_mem ..) h)

end Sys2Proof.Machine
end

section
/-! PROOFS. What the module does of itself keeps the canonical form of memory: errors are contained (R312 to R315), the service of
the factor answers (R327, R328), and requests, messages and packets act (R263, R277 to R283, R334). -/

open Sys2Proof Sys2Proof.Machine

namespace Sys2Proof.Machine

section
variable {s : State} (h : s.memOk)
include h

/-! ## Fields beside memory -/

theorem State.memOk.withNet (n : Net) : ({ s with net := n } : State).memOk := h

theorem State.memOk.withHub (k : Hub) : ({ s with hub := k } : State).memOk := h

theorem State.memOk.withThr (t : Thread) : ({ s with thr := t } : State).memOk := h

/-! ## Parts that leave (R313, R314) -/

theorem State.abandonPorter_memOk (cl : BitVec 7) (n : BitVec 2) : (s.abandonPorter cl n).memOk :=
  State.skipPort_memOk (memOk_of_mem (State.setPort_mem ..) h) _ _ _

theorem State.flushOut_memOk (cl : BitVec 7) (n : Nat) (c : LoomCmd) : (State.flushOut cl n s c).memOk := by
  unfold State.flushOut
  split
  · exact State.putLoom_memOk (s.enterLate_memOk _ h) _ _
  · split
    · exact s.skipCmd_memOk h _ _
    · exact State.flushCmd_memOk _ _ _ h

theorem State.flushLoom_memOk (cl : BitVec 7) : (s.flushLoom cl).memOk :=
  State.loomCount_memOk (memOk_foldl _ (fun _ c h => State.flushOut_memOk h _ _ c) _ _ (s.putLoom_memOk h _ _)) _ _

/-- Lines that are lost, and regions that are homed afresh, are no bytes of memory. -/
theorem State.leftParts_memOk (gone : BitVec 10 → Bool) (f : Health → Health) :
    (((s.loseLines gone).rehomeAll gone).mappedOutPart f).memOk :=
  memOk_of_mem ((State.mappedOutPart_mem ..).trans ((State.rehomeAll_mem ..).trans (State.loseLines_mem ..))) h

theorem State.mapOutCluster_memOk (cl : BitVec 7) : (s.mapOutCluster cl).memOk := by
  unfold State.mapOutCluster
  split
  · exact h
  · extract_lets gone s1 s2 cluster s3 ids s4 net s5
    have h1 : s1.memOk := memOk_foldl _ (fun _ n h => State.abandonPorter_memOk h cl n) _ s h
    have h3 : s3.memOk :=
      memOk_of_mem ((State.setCluster_mem ..).trans (State.depart_mem ..)) (s1.flushLoom_memOk h1 cl)
    have h4 : s4.memOk := State.failPackets_memOk _ _ (memOk_foldl _ (fun s i h => s.loseThread_memOk 2 i h) _ s3 h3)
    exact s5.leftParts_memOk (h4.withNet net) gone _

theorem State.mapOutCore_memOk (c : BitVec 10) (lost : List ThreadId) : (s.mapOutCore c lost).memOk := by
  have lose : ∀ t : State, t.memOk → (lost.foldl (State.loseThread 1) t).memOk :=
    memOk_foldl _ (fun t i h => t.loseThread_memOk 1 i h) lost
  unfold State.mapOutCore
  split
  · exact lose s h
  · extract_lets here core s1 s2 s3
    have h2 : s2.memOk := lose s1 h
    refine State.leftParts_memOk (s := s3) ?_ _ _
    simp only [s3]
    split
    · exact memOk_foldl _ (fun _ _ h => memOk_of_mem (State.place_mem ..) h) _ s2 h2
    · exact s2.mapOutCluster_memOk h2 _

theorem State.contain_memOk (e : ErrorSite) : (s.contain e).memOk := by
  have marked : ∀ l cause, (s.markPoison l cause).memOk := fun l cause => memOk_of_mem (State.markPoison_mem ..) h
  have damaged : ∀ cl l rtile, ((s.putLoom cl l).loomDamage cl rtile).memOk := fun cl l rtile =>
    State.loomDamage_memOk _ _ _ (s.putLoom_memOk h _ _)
  cases e with
  | line a => simpa only [State.contain] using marked (lineOf a) 1
  | l2Line a => simpa only [State.contain] using marked (lineOf a) 1
  | lostCopy a => simpa only [State.contain] using marked (lineOf a) 2
  | thread id =>
    cases hf : s.find id with
    | none => simpa [State.contain, hf] using h
    | some t => simpa [State.contain, hf] using s.mapOutCore_memOk h t.core [id]
  | warp cl w => simpa only [State.contain] using damaged cl _ 0
  | weft cl => simpa only [State.contain] using damaged cl _ 0
  | tile cl t => simpa only [State.contain] using damaged cl _ (t.setWidth 64)
  | core c lost => simpa only [State.contain] using s.mapOutCore_memOk h c lost
  | cluster cl => simpa only [State.contain] using s.mapOutCluster_memOk h cl
  | porter cl n again =>
    simp only [State.contain]
    split
    · exact memOk_of_mem (State.mappedOutPart_mem ..) (s.abandonPorter_memOk h cl n)
    · exact s.porterDamage_memOk _ _ h
  | loom cl again =>
    simp only [State.contain]
    split
    · exact memOk_of_mem (State.mappedOutPart_mem ..) (s.flushLoom_memOk h cl)
    · exact s.loomDamage_memOk _ _ h
  | uncontained => simpa only [State.contain] using memOk_of_mem (State.freeze_mem ..) h

theorem State.detected_memOk (m : Mechanism) (e : ErrorSite) : (s.detected m e).memOk :=
  State.contain_memOk (memOk_of_mem (State.health_mem ..) h) e

theorem State.mapOutUnit_memOk (e : ErrorSite) : (s.mapOutUnit e).memOk := by
  unfold State.mapOutUnit
  split <;> exact s.contain_memOk h _

/-! ## The service of the factor (R327, R328) -/

/-- The state that a service function leaves. -/
abbrev ServedOk (r : Served) : Prop := r.1.memOk

omit h in
theorem servedOk_ite {c : Prop} [Decidable c] {q r : Served} (hq : ServedOk q) (hr : ServedOk r) :
    ServedOk (if c then q else r) := by
  split
  · exact hq
  · exact hr

/-- A change of a configuration that may not change now sends its tenants to ERROR (log 62). -/
theorem State.configure_memOk (tns : List (BitVec 4)) {k : State → Served} (hk : ServedOk (k s)) :
    ServedOk (s.configure tns k) := by
  unfold State.configure
  exact servedOk_ite hk (memOk_foldl _ (fun _ _ h => memOk_of_mem (State.toError_mem ..) h) _ s h)

theorem queueSetupNow_memOk (hd : BitVec 1) (o : Opers) : ServedOk (queueSetupNow hd o s) := by
  unfold queueSetupNow
  dsimp only
  split
  · exact h
  · exact s.configure_memOk h _ (servedOk_ite h (memOk_of_mem (State.setQueue_mem ..) (s.writeEvent_memOk _ _ _ h)))

theorem tenantSetupNow_memOk (o : Opers) : ServedOk (tenantSetupNow o s) :=
  s.configure_memOk h _ (servedOk_ite h h)

theorem regionSetupNow_memOk (o : Opers) : ServedOk (regionSetupNow o s) :=
  s.configure_memOk h _ (servedOk_ite h (memOk_of_mem (State.beginDrain_mem ..) h))

theorem biasFlipNow_memOk (o : Opers) : ServedOk (biasFlipNow o s) :=
  servedOk_ite h (memOk_of_mem (State.beginDrain_mem ..) h)

theorem orderingNow_memOk (o : Opers) : ServedOk (orderingNow o s) :=
  servedOk_ite h (memOk_of_mem (State.winWritten_mem ..) h)

theorem pulseNow_memOk (o : Opers) : ServedOk (pulseNow o s) := by
  unfold pulseNow
  refine servedOk_ite h (servedOk_ite h ?_)
  split
  · exact h
  · exact memOk_of_mem (State.forget_mem ..) h

theorem pinNow_memOk (o : Opers) : ServedOk (pinNow o s) := servedOk_ite h h

theorem hintsNow_memOk (hd : BitVec 1) (o : Opers) : ServedOk (hintsNow hd o s) := servedOk_ite h h

theorem peersNow_memOk (o : Opers) : ServedOk (peersNow o s) := servedOk_ite h h

theorem fabricNow_memOk (o : Opers) : ServedOk (fabricNow o s) := servedOk_ite h h

theorem scrubNow_memOk (o : Opers) : ServedOk (scrubNow o s) := h

omit h in
theorem State.returned_mem (s : State) : s.returned.mem = s.mem := by
  unfold State.returned
  split <;> rfl

theorem rebindNow_memOk (hd : BitVec 1) (o : Opers) : ServedOk (rebindNow hd o s) :=
  servedOk_ite (servedOk_ite h h) (servedOk_ite
    (servedOk_ite h (memOk_of_mem ((State.returned_mem _).trans (State.askWatches_mem ..)) h)) h)

theorem policyNow_memOk (o : Opers) : ServedOk (policyNow o s) := servedOk_ite h h

theorem powerNow_memOk (o : Opers) : ServedOk (powerNow o s) := servedOk_ite h h

theorem tenantStopNow_memOk (tn : BitVec 4) : ServedOk (tenantStopNow tn s) := servedOk_ite h h

theorem tenantStartNow_memOk (tn : BitVec 4) : ServedOk (tenantStartNow tn s) :=
  servedOk_ite h (memOk_of_mem (State.startTenant_mem ..) h)

theorem switchInNow_memOk (tn : BitVec 4) : ServedOk (switchInNow tn s) := by
  unfold switchInNow
  refine servedOk_ite h ?_
  extract_lets s1 s2
  have h2 : s2.memOk := memOk_foldl _ (fun _ _ h => memOk_of_mem (State.restoreCluster_mem ..) h) _ s1 h
  split
  · exact h2
  · exact memOk_of_mem (State.startTenant_mem ..) h2

/-- What a service function has come to, with its answer or still without one. -/
structure AnswerOk (r : Option Served × State) : Prop where
  answered : ∀ {q}, r.1 = some q → ServedOk q
  waiting : r.2.memOk

omit h in
theorem answerOk_now {q : Served} {s : State} (hq : ServedOk q) (h : s.memOk) : AnswerOk (some q, s) :=
  ⟨fun e => Option.some.inj e ▸ hq, h⟩

omit h in
theorem answerOk_none {s : State} (h : s.memOk) : AnswerOk (none, s) := ⟨fun e => (by cases e), h⟩

theorem switchOutNow_memOk (tn : BitVec 4) : AnswerOk (switchOutNow tn s) := by
  unfold switchOutNow
  extract_lets t s2 tenant s1
  split
  · exact answerOk_now h h
  · have h2 : s2.memOk := by
      simp only [s2]
      refine memOk_of_mem (State.departTenant_mem ..) ?_
      split
      · exact h
      · exact memOk_of_mem (State.stopTenant_mem ..) h
    have h1 : s1.memOk := by
      simp only [s1]
      split
      · exact h
      · exact h2
    split
    · exact answerOk_now (memOk_of_mem (State.leaveMesh_mem ..) h1) h1
    · exact answerOk_none h1

/-- Every function of the service, by its number (R327). -/
theorem State.serve_memOk (hd : BitVec 1) (func : Nat) (o : Opers) : AnswerOk (s.serve hd func o) := by
  have now : ∀ {q : Served}, ServedOk q → AnswerOk (some q, s) := fun hq => answerOk_now hq h
  unfold State.serve
  dsimp only
  split
  · exact now (queueSetupNow_memOk h ..)
  · exact now (tenantSetupNow_memOk h ..)
  · exact now (regionSetupNow_memOk h ..)
  · exact now (biasFlipNow_memOk h ..)
  · exact now (orderingNow_memOk h ..)
  · split
    · split
      · exact now (pulseNow_memOk h ..)
      · exact answerOk_none (memOk_of_mem (State.askPage_mem ..) h)
    · exact now (pulseNow_memOk h ..)
  · exact now (pinNow_memOk h ..)
  · exact now (hintsNow_memOk h ..)
  · exact now (peersNow_memOk h ..)
  · exact now (fabricNow_memOk h ..)
  · exact now (scrubNow_memOk h ..)
  · exact now (rebindNow_memOk h ..)
  · exact now (policyNow_memOk h ..)
  · exact now (powerNow_memOk h ..)
  · split
    · exact now (tenantStopNow_memOk h ..)
    · exact now (tenantStartNow_memOk h ..)
    · exact switchOutNow_memOk h _
    · exact now (switchInNow_memOk h ..)
    · exact now h
  · exact now h

theorem State.endService_memOk (q : BitVec 6) (r : List Word) (v : Word) : (s.endService q r v).memOk :=
  State.writeStatus_memOk _ _ _ _ _ _ h

/-- A service record is answered at once, or its queue waits for the drain that it has begun. -/
theorem State.serveRecord_memOk (q : BitVec 6) (r : List Word) : (s.serveRecord q r).memOk := by
  have hs := s.serve_memOk h (s.queue q).head (recFunc r) (recOpers r)
  unfold State.serveRecord
  split
  · rename_i heq
    exact (heq ▸ hs).waiting
  · rename_i s1 _ heq
    have h1 : s1.memOk := (heq ▸ hs).answered rfl
    split
    · exact h1
    · exact s1.endService_memOk h1 _ _ _
  · rename_i s1 _ heq
    exact State.endService_memOk ((heq ▸ hs).answered rfl : ServedOk (s1, false)) _ _ _

theorem State.acceptLaunch_memOk (q : BitVec 6) (r : List Word) : (s.acceptLaunch q r).memOk :=
  State.writeStatus_memOk _ _ _ _ _ _ (memOk_of_mem (State.firstEntries_mem ..) h)

/-! ## Requests of threads on threads (R277 to R283) -/

theorem State.stopItem_memOk (i : ThreadId) (t : Thread) : (s.stopItem i t).1.memOk := by
  unfold State.stopItem
  (repeat' split) <;> exact h

theorem State.startItem_memOk (t : Thread) : (s.startItem t).1.memOk := by
  unfold State.startItem
  split
  · exact memOk_of_mem (State.startThread_mem ..) h
  · split
    · exact h
    · exact h
    · split
      · exact h
      · exact s.freeRetained_memOk t h
    · exact h

theorem State.writeItem_memOk (t : Thread) (i : BitVec 6) (v : Word) : (s.writeItem t i v).1.memOk := by
  unfold State.writeItem
  dsimp only
  (repeat' split) <;> exact h

theorem State.grantItem_memOk (t : Thread) (e : IEntry) : (s.grantItem t e).1.memOk := by
  unfold State.grantItem
  dsimp only
  split
  · exact memOk_of_mem (State.addEntry_mem ..) h
  · exact h

theorem State.revokeItem_memOk (i : ThreadId) (t : Thread) (n : Nat) : (s.revokeItem i t n).1.memOk := by
  unfold State.revokeItem
  extract_lets k l l1 s1 s2
  split
  · exact h
  · split
    · exact h
    · have h2 : s2.memOk := memOk_of_mem ((State.indentWritten_mem ..).trans (State.indentWritten_mem ..)) h
      split
      · exact s2.checkWatches_memOk _ h2
      · exact h2

/-! ## Packets from other modules (R334) -/

omit h in
theorem State.passFar_mem (s : State) (n : Nat) (p : FarPacket) (bad : FarFaults) : (s.passFar n p bad).mem = s.mem := by
  unfold State.passFar
  dsimp only
  split <;> rfl

theorem State.farNext_memOk (n : Nat) : (s.farNext n).memOk := by
  have passed : ∀ {t : State} p bad, t.memOk → (t.passFar n p bad).memOk := fun p bad ht =>
    memOk_of_mem (State.passFar_mem ..) ht
  unfold State.farNext
  split
  · exact h
  · split
    · exact h
    · split
      · exact passed _ _ h
      · split
        · dsimp only
          split
          · exact State.writeEvent_memOk _ _ _ _ (passed _ _ h)
          · exact State.performQueued_memOk _ _ _ _ _ _ _ _ (passed _ _ h)
        · exact memOk_of_mem (State.askPage_mem ..) h
        · exact passed _ _ (memOk_of_mem (State.forget_mem ..) h)
        · exact passed _ _ (memOk_of_mem (State.forget_mem ..) h)
        · exact h

/-! ## Pages (R290, R291) -/

theorem State.pageAgain_memOk (tn : BitVec 4) (v : Nat) : (s.pageAgain tn v).memOk :=
  memOk_of_mem (State.askWatches_mem ..) h

omit h in
theorem State.farAcked_mem (s : State) (id : ThreadId) : (s.farAcked id).mem = s.mem := by
  unfold State.farAcked
  split <;> rfl

/-! ## Placing (R235, R241) -/

theorem State.refusedReturn_memOk (t : Thread) : (s.refusedReturn t).memOk := by
  unfold State.refusedReturn
  split
  · exact s.makeRoom_memOk _ _ h
  · exact h

omit h in
theorem State.reserveOne_mem (tn : BitVec 4) (lid : Nat) (a : State × Bool) (n : Nat) :
    (State.reserveOne tn lid a n).1.mem = a.1.mem := by
  unfold State.reserveOne
  split
  · rfl
  · split
    · rfl
    · split <;> rfl

omit h in
theorem State.reserveAll_mem (s : State) (tn : BitVec 4) (lid : Nat) : (s.reserveAll tn lid).1.mem = s.mem := by
  unfold State.reserveAll
  split
  · rfl
  · rename_i l _
    have each : ∀ (ns : List Nat) (a : State × Bool), (ns.foldl (State.reserveOne tn lid) a).1.mem = a.1.mem := by
      intro ns
      induction ns with
      | nil => exact fun a => rfl
      | cons n ns ih => exact fun a => (ih _).trans (State.reserveOne_mem ..)
    exact each _ _

omit h in
theorem State.withReserved_mem (s : State) (tn : BitVec 4) (l : Launch) : (s.withReserved tn l).mem = s.mem := by
  unfold State.withReserved
  split
  · exact State.reserveAll_mem ..
  · rfl

end

/-! ## The crier (R263) -/

theorem State.crierAdvance_memOk (tn : BitVec 4) (k : DKind) (cl : BitVec 7) : ∀ (fuel : Nat) {s : State}, s.memOk →
    (s.crierAdvance tn k cl fuel).memOk := by
  intro fuel
  induction fuel with
  | zero => exact fun h => h
  | succ n ih =>
    intro s h
    unfold State.crierAdvance
    split
    · exact h
    · extract_lets p m s1 s2
      split
      · exact h
      · split
        · exact s.crierFinish_memOk _ _ _ h
        · split
          · refine ih (s := s2) ?_
            simp only [s2]
            split
            · exact memOk_of_mem (State.crierSend_mem ..) h
            · exact h
          · exact h

end Sys2Proof.Machine
end

section
/-! PROOFS. Every bundle keeps the canonical form of memory (R29 to R34, R79, R152 to R163). -/

open Sys2Proof Sys2Proof.Machine

namespace Sys2Proof.Machine

/-! ## Outcomes -/

/-- The state that an outcome goes on with, if it does, has its memory in canonical form. -/
structure NextOk (o : Out) : Prop where
  of_next : ∀ {t}, o = .next t → t.memOk

@[simp] theorem nextOk_next (s : State) : NextOk (.next s) ↔ s.memOk :=
  ⟨fun h => h.of_next rfl, fun h => ⟨fun e => Host.Outcome.next.inj e ▸ h⟩⟩

@[simp] theorem nextOk_fault (f : Fault) : NextOk (.fault f) := ⟨fun e => by cases e⟩

theorem nextOk_ite {c : Prop} [Decidable c] {q r : Out} (hq : NextOk q) (hr : NextOk r) : NextOk (if c then q else r) := by
  split
  · exact hq
  · exact hr

theorem memOk_ite {c : Prop} [Decidable c] {s t : State} (hs : s.memOk) (ht : t.memOk) : (if c then s else t).memOk := by
  split
  · exact hs
  · exact ht

section
variable {s : State} (h : s.memOk)
include h

theorem State.memOk.next : NextOk (.next s) := (nextOk_next s).2 h

theorem State.runC_nextOk {r : Res State} (hr : Yields State.memOk r) : NextOk (s.runC r) :=
  ⟨fun he => State.runC_memOk h (fun _ hu => hr.of_ok hu) he⟩

theorem State.enderC_nextOk {r : Res State} (hr : Yields State.memOk r) : NextOk (s.enderC r) :=
  ⟨fun he => State.enderC_memOk h (fun _ hu => hr.of_ok hu) he⟩

theorem State.endC_nextOk {e : Eff} {k : State → State} (hk : ∀ u, u.memOk → (k u).memOk) : NextOk (s.endC e k) :=
  ⟨fun he => State.endC_memOk h hk he⟩

theorem State.checked_nextOk {c : Res Unit} {o : Out} (ho : NextOk o) : NextOk (s.checked c o) :=
  ⟨fun he => State.checked_memOk h (fun _ hu => ho.of_next hu) he⟩

theorem State.runSlot_nextOk (k : Arch → ASlot) (f : Nat → Res Arch) : NextOk (s.runSlot k f) :=
  ⟨fun he => State.runSlot_memOk h he⟩

theorem State.endChunk_yields {e : Eff} {k : State → State} (hk : ∀ u, u.memOk → (k u).memOk) :
    Yields State.memOk (s.endChunk e k) := ⟨fun he => State.endChunk_memOk h hk he⟩

theorem State.retire_yields (e : Eff) : Yields State.memOk (s.retire e) :=
  ⟨fun he => memOk_of_mem (State.retire_mem he) h⟩

theorem State.retireLoad_yields (e : Eff) : Yields State.memOk (s.retireLoad e) := by
  unfold State.retireLoad
  split
  · exact yields_error _ _
  · rename_i hr
    exact (yields_ok _ _).2 (memOk_of_mem ((State.allocD_mem ..).trans (State.retire_mem hr)) h)

theorem State.loadReg_yields (d : BitVec 5) (va pa n : Nat) (g : Word → Word) : Yields State.memOk (s.loadReg d va pa n g) := by
  unfold State.loadReg
  split
  · exact yields_error _ _
  · exact State.retireLoad_yields h _

theorem State.vecLoad_yields (w : Nat) (d : BitVec 5) (l : List (Nat × Nat)) : Yields State.memOk (s.vecLoad w d l) := by
  unfold State.vecLoad
  split
  · exact yields_error _ _
  · exact State.retireLoad_yields h _

theorem State.vecStore_yields (w : Nat) (d : BitVec 5) (l : List (Nat × Nat)) : Yields State.memOk (s.vecStore w d l) := by
  unfold State.vecStore
  split
  · exact yields_error _ _
  · exact State.retire_yields h _

theorem State.closeChunk_yields (e : Eff) : Yields State.memOk (s.closeChunk e) := by
  unfold State.closeChunk
  split
  · exact yields_error _ _
  · rename_i s1 hr
    have h1 : s1.memOk := memOk_of_mem (State.retire_mem hr) h
    split
    · exact (yields_ok _ _).2 (memOk_of_mem (State.squashConflict_mem _) (h1.withThr _))
    · exact ⟨fun hc => State.commit_memOk h1 hc⟩

omit h in
theorem State.overLink_yields (pa : Nat) {r : Res State} (hr : Yields State.memOk r) : Yields State.memOk (s.overLink pa r) :=
  yields_ite hr (yields_error _ _)

/-! ## The shared forms of C-slot instructions -/

theorem State.regsC_nextOk (u : Arch → Arch) : NextOk (s.regsC u) := State.runC_nextOk h (State.retire_yields h _)

theorem State.branch_nextOk (c : Bool) (off : Imm 15) : NextOk (s.branch c off) :=
  State.runC_nextOk h (State.retire_yields h _)

theorem State.vecC_nextOk {r : Res State} (hr : Yields State.memOk r) : NextOk (s.vecC r) := by
  refine State.runC_nextOk h ?_
  split
  · exact yields_error _ _
  · exact hr

theorem State.drayC_nextOk (r : Res Elem) : NextOk (s.drayC r) := by
  refine State.runC_nextOk h ?_
  split
  · exact yields_error _ _
  · exact State.retire_yields h _

theorem State.loomC_nextOk (op : LoomOp) (a b : BitVec 5) (draws : Nat) : NextOk (s.loomC op a b draws) := by
  unfold State.loomC
  dsimp only
  split
  · exact nextOk_ite (State.runC_nextOk h (yields_error _ _)) (State.enderC_nextOk h (yields_error _ _))
  · refine State.enderC_nextOk h ?_
    split
    · exact yields_error _ _
    · exact State.endChunk_yields h fun u hu => memOk_of_mem (State.pushLoom_mem ..) hu

theorem State.porterC_nextOk (k : PortKind) (d a : BitVec 5) (n : BitVec 2) : NextOk (s.porterC k d a n) := by
  refine State.enderC_nextOk h ?_
  split
  · exact yields_error _ _
  · dsimp only
    split
    · exact yields_error _ _
    · exact yields_ite (yields_error _ _) (State.endChunk_yields h fun u hu => memOk_of_mem (State.pushPorter_mem ..) hu)

theorem State.atomicC_nextOk (a : BitVec 5) (z : AmoSize) (result : Bool) {k : Nat → Nat → State → State}
    (hk : ∀ va pa u, u.memOk → (k va pa u).memOk) : NextOk (s.atomicC a z result k) := by
  refine State.enderC_nextOk h ?_
  split
  · exact yields_error _ _
  · exact yields_ite (yields_error _ _) (State.endChunk_yields h (hk _ _))

theorem State.queueWait_nextOk (q : BitVec 3) (prod : Bool) : NextOk (s.queueWait q prod) := by
  refine State.enderC_nextOk h (yields_ite (yields_error _ _) (yields_ite (yields_error _ _) (yields_ite ?_ ?_)))
  · split
    · exact yields_error _ _
    · exact yields_ite (yields_error _ _) (State.endChunk_yields h fun u hu => memOk_of_mem (State.ask_mem ..) hu)
  · exact State.endChunk_yields h fun u hu => u.stampCheck_memOk _ _ _ hu

theorem State.queueAdvance_nextOk (q : BitVec 3) (role : QRole) (val : QHandle → Word) : NextOk (s.queueAdvance q role val) := by
  refine State.enderC_nextOk h (yields_ite (yields_error _ _) ?_)
  split
  · exact yields_error _ _
  · exact yields_ite (yields_error _ _) (State.endChunk_yields h fun u hu => memOk_of_mem (State.ask_mem ..) (hu.withThr _))

end

end Sys2Proof.Machine
end

section
/-! PROOFS. Every instruction of a bundle keeps the canonical form of memory (R82 to R134, R165 to R216, R250 to R283). -/

open Sys2Proof Sys2Proof.Machine

namespace Sys2Proof.Machine

section
variable {s : State} (h : s.memOk)
include h

/-! ## The A slot (R30) -/

theorem State.runA_nextOk (f : Nat → Res Arch) : NextOk (s.runA f) := State.runSlot_nextOk h _ _

theorem State.runV_nextOk (f : Nat → Res Arch) : NextOk (s.runV f) := State.runSlot_nextOk h _ _

theorem State.writeA_nextOk (d : BitVec 5) (v : Word) : NextOk (s.writeA d v) := State.runA_nextOk h _

theorem State.binA_nextOk (d a b : BitVec 5) (f : Word → Word → Word) : NextOk (s.binA d a b f) := State.writeA_nextOk h d _

theorem State.roundA_nextOk (f : Fmt) (rm : RmField) (d : BitVec 5) (wr : Nat → Word) (g : Mode → Val) :
    NextOk (s.roundA f rm d wr g) := State.runA_nextOk h _

theorem State.fpA_nextOk (ty : FpTy) (rm : RmField) (d : BitVec 5) (g : Mode → Val) : NextOk (s.fpA ty rm d g) :=
  State.roundA_nextOk h ..

theorem State.vecA_nextOk (hs : List (BitVec 5)) (f : Arch → Res Arch) : NextOk (s.vecA hs f) := State.runV_nextOk h _

theorem State.wordV_nextOk (hs : List (BitVec 5)) (b : Nat) (d : BitVec 5) (lanes : List Nat) (base : BitVec 16384)
    (g : Nat → Word) : NextOk (s.wordV hs b d lanes base g) := State.vecA_nextOk h hs _

theorem State.roundV_nextOk (hs : List (BitVec 5)) (f : Fmt) (b : Nat) (inf : Bool) (d : BitVec 5) (lanes : List Nat)
    (base : BitVec 16384) (g : Mode → Nat → Val) : NextOk (s.roundV hs f b inf d lanes base g) := by
  unfold State.roundV
  exact State.vecA_nextOk h hs _

theorem State.pickV_nextOk (ty : VTy) (big : Bool) (d a b : BitVec 5) (h1 h2 : Bool) (k : BitVec 3) :
    NextOk (s.pickV ty big d a b h1 h2 k) := by
  unfold State.pickV
  exact State.vecA_nextOk h _ _

theorem State.special_nextOk (g : VTy → FpTy → Word → Word) (ty : VTy) (d a : BitVec 5) (h1 : Bool) (k : BitVec 3) :
    NextOk (s.special g ty d a h1 k) := by
  unfold State.special
  exact State.vecA_nextOk h _ _

theorem State.maskA_nextOk (f : Arch → Arch) : NextOk (s.maskA f) := State.runV_nextOk h _

theorem State.elemV_nextOk (ty : VTy) (d : BitVec 5) (k : BitVec 3) (hs : List (BitVec 5)) (fp : Mode → Nat → Val)
    (int : Nat → Word) : NextOk (s.elemV ty d k hs fp int) :=
  nextOk_ite (State.roundV_nextOk h ..) (State.wordV_nextOk h ..)

/-- An instruction of the A slot computes a result or a fault and touches no memory. -/
theorem execA_nextOk {i : Instr} (hA : i.isA = true) : NextOk (exec i s) := by
  cases i with
  | add d a b | sub d a b | and d a b | or d a b | xor d a b | shl d a b | shr d a b | sar d a b | slt d a b | sltu d a b
  | min d a b | max d a b | minu d a b | maxu d a b | sel d a b c | mul d a b | mulh d a b | mulhu d a b | div d a b
  | divu d a b | rem d a b | remu d a b | padd d a b | fsgn ty d a b => simp only [exec]; exact State.binA_nextOk h ..
  | clz d a | ctz d a | popc d a | bswap d a | ext d a pos lm | addi d a imm | andi d a imm | ori d a imm | xori d a imm
  | shli d a sh | shri d a sh | sari d a sh | slti d a imm | sltiu d a imm | pclr d a | ptag d a fmt blk | fmin ty d a b
  | fmax ty d a b | feq ty d a b | flt ty d a b | fle ty d a b | fcls ty d a => exact State.writeA_nextOk h ..
  | pidx d a b | pfmt d a => exact State.runA_nextOk h _
  | fadd ty rm d a b | fsub ty rm d a b | fmul ty rm d a b | fdiv ty rm d a b | fsqrt ty rm d a | fma ty rm d a b c
  | fnma ty rm d a b c => simp only [exec]; exact State.fpA_nextOk h ..
  | fcvt dst src rm d a => simp only [exec]; exact State.roundA_nextOk h ..
  | vadd ty d a b h1 h2 k | vsub ty d a b h1 h2 k | vmul ty d a b h1 h2 k | vfma ty d a b h1 h2 k | vfnma ty d a b h1 h2 k
  | vdiv ty d a b h1 h2 k | vsqrt ty d a h1 k => exact State.elemV_nextOk h ..
  | vand ty d a b h1 h2 k | vor ty d a b h1 h2 k | vxor ty d a b h1 h2 k | vshl ty d a b h1 h2 k | vshr ty d a b h1 h2 k
  | vsar ty d a b h1 h2 k | vsel ty d a b h1 h2 k | vperm ty d a b h1 h2 k | vslideUp ty d a b h1 k | vslideDn ty d a b h1 k
  | vbcast ty d a k | vmv ty d a h1 k | vid ty d k => simp only [exec]; exact State.wordV_nextOk h ..
  | vcvt dst src d a h1 k | vpack f ty inf d a h1 k =>
    simp only [exec, execVcvt, execVpack]; exact State.roundV_nextOk h ..
  | vmin ty d a b h1 h2 k | vmax ty d a b h1 h2 k => exact State.pickV_nextOk h ..
  | vcmp c ty d a b h1 h2 k | vext ty d a b h1 | vins ty d a b | vunpk f ty d a h1 k | vred op ty d a h1 k
  | vscan ty d a h1 k =>
    simp only [exec, execVcmp, execVext, execVins, execVunpk, execVred, execVscan]; exact State.vecA_nextOk h _ _
  | vrcp ty d a h1 k | vrsq ty d a h1 k | vexp2 ty d a h1 k | vlog2 ty d a h1 k | vtanh ty d a h1 k =>
    exact State.special_nextOk h ..
  | vmand d a b | vmor d a b | vmxor d a b | vmnot d a | vmpop d a | vmfirst d a =>
    simp only [exec]; exact State.maskA_nextOk h _
  | _ => cases hA

/-! ## The C slot: chunks and threads (R82 to R84, R154 to R163, R252 to R283) -/

theorem State.endC_nextOk_of_mem {e : Eff} {k : State → State} (hk : ∀ u, (k u).mem = u.mem) : NextOk (s.endC e k) :=
  State.endC_nextOk h fun u hu => memOk_of_mem (hk u) hu

theorem State.endChunk_yields_of_mem {e : Eff} {k : State → State} (hk : ∀ u, (k u).mem = u.mem) :
    Yields State.memOk (s.endChunk e k) := State.endChunk_yields h fun u hu => memOk_of_mem (hk u) hu

theorem execJalr_nextOk (d a : BitVec 5) (off : Imm 14) : NextOk (execJalr d a off s) :=
  State.checked_nextOk h (State.runC_nextOk h (State.retire_yields h _))

theorem execSmay_nextOk : NextOk (execSmay s) := by
  refine State.endC_nextOk_of_mem h fun u => ?_
  dsimp only
  split
  · rfl
  · split <;> rfl

theorem execPwait_nextOk : NextOk (execPwait s) := by
  refine State.endC_nextOk_of_mem h fun u => ?_
  split <;> rfl

theorem execSpawn_nextOk (d a b : BitVec 5) : NextOk (execSpawn d a b s) := by
  refine State.enderC_nextOk h ?_
  split
  · exact yields_error _ _
  · exact State.endChunk_yields h fun u hu => u.spawnNow_memOk _ _ _ hu

theorem execLaunch_nextOk (d a : BitVec 5) : NextOk (execLaunch d a s) := by
  refine State.enderC_nextOk h ?_
  split
  · exact yields_error _ _
  · split
    · exact yields_error _ _
    · exact yields_error _ _
    · exact State.endChunk_yields h fun u hu => u.submit_memOk _ _ hu

theorem execIgrant_nextOk (d a : BitVec 5) : NextOk (execIgrant d a s) := by
  refine State.enderC_nextOk h ?_
  split
  · exact yields_error _ _
  · split
    · exact yields_error _ _
    · exact State.endChunk_yields_of_mem h (State.grant_mem d _ _ _ _)

theorem execWatch_nextOk (c : WatchCond) (n : BitVec 2) (a b : BitVec 5) : NextOk (execWatch c n a b s) := by
  refine State.enderC_nextOk h ?_
  split
  · exact yields_error _ _
  · split
    · exact yields_error _ _
    · exact yields_ite (yields_error _ _) (State.endChunk_yields_of_mem h fun _ => rfl)

theorem execBar_nextOk (d a b : BitVec 5) : NextOk (execBar d a b s) := by
  refine State.enderC_nextOk h ?_
  split
  · exact yields_error _ _
  · exact yields_ite (yields_error _ _) (State.endChunk_yields_of_mem h (State.ask_mem _))

theorem execXabort_nextOk (n : BitVec 4) : NextOk (execXabort n s) :=
  State.runC_nextOk h (yields_ite (yields_error _ _) (State.closeChunk_yields h _))

/-! ## The C slot: memory (R85 to R87, R165 to R196) -/

theorem execLd_nextOk (z : LoadSize) (d a : BitVec 5) (off : Imm 12) : NextOk (execLd z d a off s) := by
  refine State.runC_nextOk h ?_
  split
  · exact yields_error _ _
  · split
    · exact yields_error _ _
    · exact yields_ite (State.endChunk_yields_of_mem h (State.ioLoad_mem _ _ _))
        (yields_ite (State.overLink_yields _ (State.endChunk_yields_of_mem h (State.fabLoad_mem _ _ _ _ _)))
          (State.loadReg_yields h ..))

theorem execSt_nextOk (z : Size) (d a : BitVec 5) (off : Imm 12) : NextOk (execSt z d a off s) := by
  refine State.runC_nextOk h ?_
  split
  · exact yields_error _ _
  · split
    · exact yields_error _ _
    · exact yields_ite (State.endChunk_yields_of_mem h (State.ioStore_mem _ _))
        (yields_ite (State.overLink_yields _ (State.endChunk_yields_of_mem h (State.fabStore_mem _ _ _ _)))
          (yields_ite (yields_error _ _) (State.retire_yields h _)))

theorem execPrfL1_nextOk (a : BitVec 5) (off : Imm 12) : NextOk (execPrfL1 a off s) := by
  refine State.regsC_nextOk ?_ _
  split
  · exact memOk_of_mem (State.allocD_mem ..) h
  · exact h

theorem execPrfL2_nextOk (a : BitVec 5) (off : Imm 12) : NextOk (execPrfL2 a off s) := by
  refine State.regsC_nextOk ?_ _
  split
  · exact memOk_of_mem (State.l2Own_mem ..) h
  · exact h

theorem execZline_nextOk (a : BitVec 5) (off : Imm 12) : NextOk (execZline a off s) := by
  refine State.runC_nextOk h ?_
  split
  · exact yields_error _ _
  · exact State.retire_yields h _

theorem execVldt_nextOk (d a b : BitVec 5) (k : BitVec 3) (off : BitVec 32) : NextOk (execVldt d a b k off s) := by
  refine State.runC_nextOk h ?_
  split
  · exact yields_error _ _
  · split
    · exact yields_error _ _
    · exact State.retireLoad_yields h _

theorem execVstt_nextOk (d a b : BitVec 5) (k : BitVec 3) (off : BitVec 32) : NextOk (execVstt d a b k off s) := by
  refine State.runC_nextOk h ?_
  split
  · exact yields_error _ _
  · dsimp only
    split
    · exact yields_error _ _
    · exact State.retire_yields h _

theorem execCrange_nextOk (f : RangeFmt) (d a b : BitVec 5) : NextOk (execCrange f d a b s) := by
  refine State.enderC_nextOk h ?_
  split
  · exact yields_error _ _
  · split
    · exact yields_error _ _
    · split
      · exact yields_error _ _
      · exact State.endChunk_yields h fun u hu => State.crangeEvent_memOk _ _ _ _ _ u hu

theorem execRadd_nextOk (f : RangeFmt) (a b : BitVec 5) : NextOk (execRadd f a b s) := by
  refine State.runC_nextOk h ?_
  split
  · exact yields_error _ _
  · split
    · exact yields_error _ _
    · refine yields_ite (yields_error _ _) ?_
      split
      · exact yields_error _ _
      · exact State.retire_yields h _

theorem execAmo_nextOk (op : AmoOp) (z : AmoSize) (d a b : BitVec 5) : NextOk (execAmo op z d a b s) := by
  unfold execAmo
  refine State.atomicC_nextOk h a z true (fun va pa u hu => ?_)
  exact memOk_of_mem ((State.sendAtomic_mem ..).trans (State.ask_mem ..)) hu

theorem execCas_nextOk (z : AmoSize) (d a b : BitVec 5) : NextOk (execCas z d a b s) := by
  unfold execCas
  refine State.atomicC_nextOk h a z true (fun va pa u hu => ?_)
  exact memOk_of_mem ((State.sendAtomic_mem ..).trans (State.ask_mem ..)) hu

theorem execAmop_nextOk (op : AmoOp) (z : AmoSize) (a b : BitVec 5) : NextOk (execAmop op z a b s) := by
  unfold execAmop
  refine State.atomicC_nextOk h a z false (fun va pa u hu => ?_)
  exact memOk_of_mem (State.postAmop_mem ..) hu

/-! ## The C slot: queues (R205 to R209) -/

theorem execQbind_nextOk (q : BitVec 3) (a : BitVec 5) : NextOk (execQbind q a s) := by
  refine State.enderC_nextOk h ?_
  split
  · exact yields_error _ _
  · refine yields_ite (yields_error _ _) (yields_ite (State.endChunk_yields_of_mem h fun _ => rfl) ?_)
    split
    · exact yields_error _ _
    · exact State.endChunk_yields h fun u hu => State.bindEvent_memOk _ _ _ _ u hu

theorem execQld_nextOk (d : BitVec 5) (q : BitVec 3) (i : BitVec 6) : NextOk (execQld d q i s) := by
  refine State.runC_nextOk h ?_
  split
  · exact yields_error _ _
  · split
    · exact yields_error _ _
    · exact State.loadReg_yields h ..

theorem execQst_nextOk (d : BitVec 5) (q : BitVec 3) (i : BitVec 6) : NextOk (execQst d q i s) := by
  refine State.runC_nextOk h ?_
  split
  · exact yields_error _ _
  · split
    · exact yields_error _ _
    · exact State.retire_yields h _

/-- An instruction of the C slot writes memory where its chunk commits, or in the event that follows. -/
theorem execC_nextOk {i : Instr} (hC : (i.encodable && !i.isA) = true) : NextOk (exec i s) := by
  cases i with
  | nop | movi d imm | movhi d imm | srd d i | time d | qstat d q => simp only [exec]; exact State.regsC_nextOk h _
  | swr a i => exact State.checked_nextOk h (State.regsC_nextOk h _)
  | bEq a b off | bNe a b off | bLt a b off | bGe a b off | bLtu a b off | bGeu a b off => exact State.branch_nextOk h _ _
  | jal d off => exact State.runC_nextOk h (State.retire_yields h _)
  | jalr d a off => exact execJalr_nextOk h d a off
  | ld z d a off => exact execLd_nextOk h z d a off
  | st z d a off => exact execSt_nextOk h z d a off
  | prfL1 a off => exact execPrfL1_nextOk h a off
  | prfL2 a off => exact execPrfL2_nextOk h a off
  | zline a off => exact execZline_nextOk h a off
  | vld z d a b k off | vldx z d a b k off => simp only [exec]; exact State.vecC_nextOk h (State.vecLoad_yields h _ _ _)
  | vst z d a b k off | vstx z d a b k off => simp only [exec]; exact State.vecC_nextOk h (State.vecStore_yields h _ _ _)
  | vldt d a b k off => exact execVldt_nextOk h d a b k off
  | vstt d a b k off => exact execVstt_nextOk h d a b k off
  | amo op z d a b => exact execAmo_nextOk h op z d a b
  | cas z d a b => exact execCas_nextOk h z d a b
  | amop op z a b => exact execAmop_nextOk h op z a b
  | crange f d a b => exact execCrange_nextOk h f d a b
  | radd f a b => exact execRadd_nextOk h f a b
  | rst z a b | ramo op z a b => exact State.drayC_nextOk h _
  | dflush => exact State.enderC_nextOk h (State.endChunk_yields_of_mem h fun _ => State.departFor_mem ..)
  | chunk => exact State.enderC_nextOk h (State.endChunk_yields_of_mem h fun _ => rfl)
  | fenceD | fenceA =>
    exact State.enderC_nextOk h (State.endChunk_yields_of_mem h fun _ => (State.park_mem ..).trans (State.departFor_mem ..))
  | fenceE => exact State.enderC_nextOk h (State.endChunk_yields_of_mem h fun _ => State.park_mem ..)
  | xbegin => exact State.enderC_nextOk h (State.endChunk_yields_of_mem h fun _ => rfl)
  | xend d => exact State.runC_nextOk h (State.closeChunk_yields h _)
  | xabort n => exact execXabort_nextOk h n
  | qbind q a => exact execQbind_nextOk h q a
  | qwaitF q | qwaitE q => exact State.queueWait_nextOk h _ _
  | qadvH q | qadvT q => simp only [exec]; exact State.queueAdvance_nextOk h _ _ _
  | qld d q i => exact execQld_nextOk h d q i
  | qst d q i => exact execQst_nextOk h d q i
  | pcopy d a n | pcopyt d a n | pgath d a n | pscat d a n | pscadd d a n | pfill d a n =>
    simp only [exec]; exact State.porterC_nextOk h _ _ _ _
  | twarp w a b | tzero t | tlda a b | tmul t w | tmult t w | touter t a b | tewBias t a | tewScale t a | tewRelu t
  | tewGelu t | tewSilu t | tewClamp t a b | tred t a | tst t a b | tsync a | trecOn | trecOff | unwind a | tdrop =>
    simp only [exec]; exact State.loomC_nextOk h _ _ _ _
  | watch c n a b => exact execWatch_nextOk h c n a b
  | unwatch n | yield | live a => exact State.endC_nextOk_of_mem h fun _ => rfl
  | wait d a => exact State.endC_nextOk_of_mem h fun _ => State.waitNow_mem ..
  | halt | haltRetain => exact State.endC_nextOk h fun u hu => u.endThread_memOk _ _ hu
  | brk n => exact State.endC_nextOk h fun u hu => State.breakpoint_memOk _ _ u hu
  | spawn d a b => exact execSpawn_nextOk h d a b
  | pwait => exact execPwait_nextOk h
  | smay => exact execSmay_nextOk h
  | bar d a b => exact execBar_nextOk h d a b
  | dmem d a => exact State.endC_nextOk_of_mem h (State.member_mem _ _)
  | dbar d a => exact State.endC_nextOk_of_mem h (State.dbarNow_mem _ _)
  | vclaim d a => exact State.endC_nextOk_of_mem h (State.claim_mem _ _)
  | vrel => exact State.endC_nextOk_of_mem h fun _ => State.releaseGroups_mem ..
  | vreneg d a => exact State.endC_nextOk_of_mem h (State.reneg_mem _ _)
  | xchg d a b => exact State.endC_nextOk_of_mem h (State.exchange_mem _ _ _)
  | launch d a => exact execLaunch_nextOk h d a
  | tstop d a | tstart d a | trds d a item | twrs d a b item =>
    exact State.endC_nextOk_of_mem h (State.threadState_mem _ _ _ _)
  | igrant d a => exact execIgrant_nextOk h d a
  | irevoke d a => exact State.endC_nextOk_of_mem h (State.revoke_mem _ _)
  | iquery d a => exact State.endC_nextOk_of_mem h fun _ => State.answer_mem ..
  | _ => cases hC

end
end Sys2Proof.Machine
end

section
/-! PROOFS. The events of chunks, drays, queues, waits, threads and groups keep the canonical form of memory. -/

open Sys2Proof Sys2Proof.Machine

namespace Sys2Proof.Machine

section
variable {s : State} (h : s.memOk)
include h

/-- An event that leaves memory as it was. -/
theorem State.memOk.next_of_mem {t : State} (e : t.mem = s.mem) : NextOk (.next t) := (memOk_of_mem e h).next

/-! ## Chunks and regions (R155 to R163) -/

theorem execChunkCommit_nextOk (id : ThreadId) : NextOk (execChunkCommit id s) := by
  have hf : (s.focus id).memOk := memOk_of_mem (State.focus_mem ..) h
  unfold execChunkCommit
  dsimp only
  refine nextOk_ite h.next ?_
  split
  · rename_i hc
    exact (State.commit_memOk hf hc).next
  · exact ((s.focus id).stopFor_memOk _ hf).next

theorem execHeldChunk_nextOk : NextOk (execHeldChunk s) := by
  unfold execHeldChunk
  split
  · exact nextOk_ite (h.withThr _).next h.next
  · exact h.next

theorem execLeaseAcquire_nextOk : NextOk (execLeaseAcquire s) := by
  unfold execLeaseAcquire
  split
  · exact nextOk_ite (h.withThr _).next h.next
  · exact h.next

theorem execLeaseExpiry_nextOk : NextOk (execLeaseExpiry s) := by
  unfold execLeaseExpiry
  split
  · split
    · exact nextOk_ite (h.next_of_mem rfl) h.next
    · exact h.next
  · exact h.next

theorem execFallThrough_nextOk : NextOk (execFallThrough s) := by
  unfold execFallThrough
  refine nextOk_ite h.next ?_
  split
  · exact h.next
  · exact (s.stopFor_memOk _ h).next
  · exact (s.raise_memOk _ h).next
  · exact (h.withThr _).next

theorem execFenceRelease_nextOk (id : ThreadId) : NextOk (execFenceRelease id s) :=
  nextOk_ite (h.next_of_mem (State.upd_mem ..)) h.next

/-! ## Drays and atomics (R167 to R176, R191 to R193) -/

theorem execDrayAgeExpiry_nextOk (cl : BitVec 7) (n : Nat) : NextOk (execDrayAgeExpiry cl n s) := by
  unfold execDrayAgeExpiry
  split
  · exact h.next
  · exact h.next_of_mem ((State.shutDrays_mem ..).trans (State.depart_mem ..))

theorem execDrayPacketApply_nextOk (n : Nat) : NextOk (execDrayPacketApply n s) := by
  unfold execDrayPacketApply
  split
  · exact h.next
  · refine nextOk_ite h.next ?_
    split
    · exact h.next_of_mem rfl
    · refine nextOk_ite (h.next_of_mem (State.dropPacket_mem ..)) ?_
      split
      · exact (s.packetDone_memOk _ _ h).next
      · split
        · exact (s.passElem_memOk _ _ h).next
        · split
          · exact (State.writeEvent_memOk _ _ _ _ (s.passElem_memOk _ _ h)).next
          · exact (s.performQueued_memOk _ _ _ _ _ _ _ h).next

theorem execDrayAcknowledgement_nextOk (w : Answered) : NextOk (execDrayAcknowledgement w s) := by
  unfold execDrayAcknowledgement
  split
  · exact (h.withNet _).next
  · split
    · exact h.next
    · exact nextOk_ite h.next (memOk_foldl _ (fun t i ht => t.rankRecord_memOk _ i ht) _ _ (h.withNet _)).next

theorem execAmoPerform_nextOk (id : ThreadId) : NextOk (execAmoPerform id s) := by
  have hp : (s.posted id).memOk := memOk_of_mem (State.posted_mem ..) h
  unfold execAmoPerform
  refine nextOk_ite h.next ?_
  split
  · exact h.next
  · refine nextOk_ite (h.next_of_mem (State.upd_mem ..)) ?_
    dsimp only
    split
    · exact (State.faultAfter_memOk _ _ _ _ _ hp).next
    · exact (State.rmw_memOk _ _ _ _ _ hp).next_of_mem (State.upd_mem ..)

theorem execAmopPerform_nextOk (w : Answered) : NextOk (execAmopPerform w s) := by
  unfold execAmopPerform
  split
  · split
    · exact h.next
    · refine nextOk_ite h.next ?_
      dsimp only
      split
      · exact (h.withNet _).next
      · exact (State.drayRecord_memOk _ _ _ _ _ _ _ _ _ (h.withNet _)).next
  · split
    · exact h.next
    · refine nextOk_ite h.next (nextOk_ite ((h.withNet _).next_of_mem (State.sendAtomic_mem ..)) ?_)
      split
      · exact (State.drayRecord_memOk _ _ _ _ _ _ _ _ _ (h.withNet _)).next
      · exact (s.performQueued_memOk _ _ _ _ _ _ _ h).next

theorem execPartialEviction_nextOk (core : BitVec 10) (line : Nat) : NextOk (execPartialEviction core line s) :=
  h.next_of_mem rfl

/-! ## Queues (R205 to R208) -/

theorem execQueueReservation_nextOk (id : ThreadId) : NextOk (execQueueReservation id s) := by
  have hp : (s.posted id).memOk := memOk_of_mem (State.posted_mem ..) h
  unfold execQueueReservation
  split
  · exact h.next
  · split
    · exact h.next
    · dsimp only
      split
      · exact (State.homeRecord_memOk _ _ _ _ hp).next
      · exact (s.askFor_memOk h _ _ _).next
      · refine nextOk_ite h.next ?_
        split
        · exact (State.homeRecord_memOk _ _ _ _ hp).next
        · exact (State.stampCheck_memOk _ _ _ _
            (memOk_of_mem (State.upd_mem ..) (State.rmw_memOk _ _ _ _ _ hp))).next

theorem execStampWrite_nextOk (id : ThreadId) : NextOk (execStampWrite id s) := by
  have hp : (s.posted id).memOk := memOk_of_mem (State.posted_mem ..) h
  unfold execStampWrite
  split
  · exact h.next
  · refine nextOk_ite h.next ?_
    dsimp only
    split
    · exact (State.homeRecord_memOk _ _ _ _ hp).next
    · exact (State.writeEvent_memOk _ _ _ _ hp).next

/-! ## Watches and waits (R227 to R231, R252 to R258) -/

theorem execWatchArmEvent_nextOk (id : ThreadId) : NextOk (execWatchArmEvent id s) := by
  unfold execWatchArmEvent
  split
  · exact h.next
  · exact (State.memOk.withNet (memOk_of_mem (State.upd_mem ..) (s.combineLine_memOk _ _ h)) _).next

theorem execWakeDelivery_nextOk (n : Nat) : NextOk (execWakeDelivery n s) := by
  unfold execWakeDelivery
  split
  · exact h.next
  · refine nextOk_ite h.next ?_
    dsimp only
    split
    · exact (memOk_ite (h.withNet _) (State.wakeUp_memOk _ _ _ (h.withNet _))).next
    · exact (h.withNet _).next

theorem execWaitTimeout_nextOk (id : ThreadId) : NextOk (execWaitTimeout id s) := by
  unfold execWaitTimeout
  split
  · exact h.next
  · exact h.next_of_mem rfl

theorem execHostWatchRecheck_nextOk (id : ThreadId) (n : BitVec 2) : NextOk (execHostWatchRecheck id n s) := by
  unfold execHostWatchRecheck
  split
  · exact h.next
  · exact State.memOk.next (memOk_ite (memOk_of_mem (State.poke_mem ..) h) h)

theorem execStarvationLimit_nextOk (core : BitVec 10) : NextOk (execStarvationLimit core s) := by
  unfold execStarvationLimit
  split
  · exact h.next
  · exact h.next_of_mem (State.focus_mem ..)

/-! ## Barriers and domains (R259 to R263) -/

theorem execBarArrival_nextOk (id : ThreadId) : NextOk (execBarArrival id s) := by
  have hp : (s.posted id).memOk := memOk_of_mem (State.posted_mem ..) h
  have written : ∀ l b cs f, ((((s.posted id).combineLine (some id) l).writeEvent (some id) b cs).upd id f).memOk :=
    fun l b cs f => memOk_of_mem (State.upd_mem ..) (State.writeEvent_memOk _ _ _ _ (State.combineLine_memOk _ _ _ hp))
  unfold execBarArrival
  split
  · exact h.next
  · refine nextOk_ite h.next ?_
    dsimp only
    split
    · exact (State.homeRecord_memOk _ _ _ _ hp).next
    · exact nextOk_ite (written _ _ _ _).next (written _ _ _ _).next

theorem execBarTimeout_nextOk (id : ThreadId) : NextOk (execBarTimeout id s) := by
  unfold execBarTimeout
  split
  · exact h.next
  · refine nextOk_ite h.next ?_
    extract_lets s1 w count
    have h1 : s1.memOk := State.combineLine_memOk _ _ _ (memOk_of_mem (State.reach_mem ..) h)
    split
    · exact (memOk_ite (memOk_of_mem (State.upd_mem ..) h1) (s1.faultAfter_memOk _ _ _ _ h1)).next
    · refine nextOk_ite (h1.next_of_mem (State.upd_mem ..)) ?_
      exact (memOk_ite h1 (s1.writeEvent_memOk _ _ _ h1)).next_of_mem (State.upd_mem ..)

theorem execDbarArrival_nextOk (id : ThreadId) : NextOk (execDbarArrival id s) := by
  unfold execDbarArrival
  split
  · exact h.next
  · dsimp only
    split
    · exact h.next_of_mem (State.posted_mem ..)
    · exact h.next_of_mem ((State.upd_mem ..).trans ((State.updDomain_mem ..).trans
        ((State.departMembers_mem ..).trans (State.posted_mem ..))))

theorem execWireRaise_nextOk (id : ThreadId) : NextOk (execWireRaise id s) := h.next_of_mem (State.setTenant_mem ..)

theorem execWireComplete_nextOk (tn : BitVec 4) (n : Nat) : NextOk (execWireComplete tn n s) := by
  unfold execWireComplete
  split
  · exact h.next
  · exact nextOk_ite h.next (State.releaseMembers_memOk _ _ _ _ _ _ (memOk_of_mem (State.updDomain_mem ..) h)).next

theorem execCrierBegin_nextOk (tn : BitVec 4) (n : Nat) (cl : BitVec 7) : NextOk (execCrierBegin tn n cl s) := by
  unfold execCrierBegin
  split
  · exact h.next
  · refine nextOk_ite h.next ?_
    extract_lets e pos s1 s2
    have h1 : s1.memOk := memOk_of_mem (State.updDomain_mem ..) h
    exact (State.crierAdvance_memOk _ _ _ _ (memOk_ite (memOk_of_mem (State.crierSend_mem ..) h1) h1)).next

theorem execCrierMessage_nextOk (n : Nat) : NextOk (execCrierMessage n s) := by
  unfold execCrierMessage
  split
  · exact h.next
  · refine nextOk_ite h.next ?_
    dsimp only
    split
    · exact (h.withNet _).next
    · exact nextOk_ite (h.withNet _).next
        (State.crierAdvance_memOk _ _ _ _ (memOk_of_mem (State.updDomain_mem ..) (h.withNet _))).next

theorem execCrierAbort_nextOk (n : Nat) : NextOk (execCrierAbort n s) := by
  unfold execCrierAbort
  split
  · exact h.next
  · exact nextOk_ite h.next (memOk_ite (State.crierBreak_memOk _ _ _ _ (h.withNet _)) (h.withNet _)).next

theorem execDbarTimeout_nextOk (id : ThreadId) : NextOk (execDbarTimeout id s) := by
  unfold execDbarTimeout
  split
  · exact h.next
  · dsimp only
    split
    · exact h.next_of_mem rfl
    · have h3 : ∀ c tn k f g, (((s.reach c).updDomain tn k f).upd id g).memOk := fun c tn k f g =>
        memOk_of_mem ((State.upd_mem ..).trans (State.updDomain_mem ..)) h
      exact (memOk_ite (State.crierBreak_memOk _ _ _ _ (h3 ..)) (h3 ..)).next

/-! ## Requests of threads on threads (R275 to R283) -/

theorem execThreadStateAction_nextOk (n : Nat) : NextOk (execThreadStateAction n s) := by
  unfold execThreadStateAction
  split
  · exact h.next
  · rename_i r _
    refine nextOk_ite h.next ?_
    extract_lets net s1
    have h1 : s1.memOk := h.withNet _
    split
    · exact h1.next_of_mem (State.sendResult_mem ..)
    · refine (memOk_of_mem (State.sendResult_mem ..) ?_).next
      cases r.act with
      | stop => exact s1.stopItem_memOk h1 _ _
      | start => exact s1.startItem_memOk h1 _
      | read i => exact h1
      | write i v => exact s1.writeItem_memOk h1 _ _ _
      | grant e => exact s1.grantItem_memOk h1 _ _
      | revoke i => exact s1.revokeItem_memOk h1 _ _ _

theorem execThreadStateResult_nextOk (n : Nat) : NextOk (execThreadStateResult n s) := by
  unfold execThreadStateResult
  split
  · exact h.next
  · exact h.next_of_mem rfl

/-! ## Packing, moving and placing (R234 to R238, R243, R364) -/

theorem execPackComplete_nextOk (id : ThreadId) : NextOk (execPackComplete id s) := by
  unfold execPackComplete
  split
  · exact h.next
  · exact (memOk_ite (s.pack_memOk _ _ h) h).next

theorem execDocketResume_nextOk (id : ThreadId) : NextOk (execDocketResume id s) := by
  unfold execDocketResume
  split
  · exact h.next
  · refine nextOk_ite h.next ?_
    split
    · exact h.next
    · exact (s.refusedReturn_memOk h _).next_of_mem (State.place_mem ..)

theorem execWeighmasterSample_nextOk (moves : List MoveCmd) : NextOk (execWeighmasterSample moves s) :=
  (memOk_foldl _ (fun t m ht => t.startMove_memOk m ht) _ _ (State.memOk.withHub (memOk_of_mem (State.reach_mem ..) h) _)).next

theorem execMoveComplete_nextOk (id : ThreadId) : NextOk (execMoveComplete id s) := by
  have placed : ∀ f, NextOk (.next (s.place id f)) := fun f => h.next_of_mem (State.place_mem ..)
  unfold execMoveComplete
  split
  · exact h.next
  · split
    · refine nextOk_ite (placed _) ?_
      split
      · exact placed _
      · exact placed _
    · exact h.next

end

end Sys2Proof.Machine
end

section
/-! PROOFS. The events of launches, looms, porters and detectors keep the canonical form of memory. -/

open Sys2Proof Sys2Proof.Machine

namespace Sys2Proof.Machine

section
variable {s : State} (h : s.memOk)
include h

/-! ## Launches and crews (R239 to R243, R323 to R327) -/

theorem execNotifyWrite_nextOk (q : BitVec 6) : NextOk (execNotifyWrite q s) := by
  unfold execNotifyWrite
  refine nextOk_ite h.next ?_
  dsimp only
  split
  · exact h.next
  · exact h.next_of_mem (State.setQueue_mem ..)

theorem execLaunchRecordRead_nextOk (q : BitVec 6) : NextOk (execLaunchRecordRead q s) := by
  unfold execLaunchRecordRead
  dsimp only
  split
  · exact nextOk_ite h.next ((s.combineAll_memOk _ _ h).next_of_mem (State.setQueue_mem ..))
  · exact h.next

theorem execLaunchValidated_nextOk (q : BitVec 6) : NextOk (execLaunchValidated q s) := by
  unfold execLaunchValidated
  dsimp only
  split
  · refine nextOk_ite (h.next_of_mem (State.statusAsk_mem ..)) (nextOk_ite (h.next_of_mem (State.askAddr_mem ..))
      (nextOk_ite (s.serveRecord_memOk h _ _).next (nextOk_ite (State.acceptLaunch_memOk ?_ _ _).next
        (State.endService_memOk (memOk_ite (memOk_of_mem (State.forget_mem ..) ?_) ?_) _ _ _).next)))
    all_goals exact memOk_of_mem (State.setQueue_mem ..) h
  · exact nextOk_ite h.next (nextOk_ite (h.next_of_mem (State.statusAsk_mem ..)) (s.endService_memOk h _ _ _).next)
  · exact h.next

theorem execCrewPlacement_nextOk : NextOk (execCrewPlacement s) := by
  unfold execCrewPlacement
  split
  · exact h.next
  · rename_i tn l _
    have hu : (s.withReserved tn l).memOk := memOk_of_mem (State.withReserved_mem ..) h
    dsimp only
    split
    · exact hu.next
    · exact (State.memOk.withNet (memOk_of_mem (State.updLaunch_mem ..) hu) _).next

theorem execCrewStart_nextOk (n : Nat) : NextOk (execCrewStart n s) := by
  unfold execCrewStart
  refine nextOk_ite h.next ?_
  split
  · exact h.next
  · split
    · exact h.next
    · exact h.next_of_mem (foldl_mem _ (fun t u => State.rankWritten_mem ..) _ _)

theorem execSmayObserved_nextOk (n : Nat) : NextOk (execSmayObserved n s) := by
  unfold execSmayObserved
  split
  · exact h.next
  · exact h.next_of_mem (State.updLaunch_mem ..)

theorem execLaunchComplete_nextOk (tn : BitVec 4) (lid : Nat) : NextOk (execLaunchComplete tn lid s) := by
  unfold execLaunchComplete
  refine nextOk_ite h.next ?_
  split
  · exact h.next
  · exact nextOk_ite (h.next_of_mem (State.statusAsk_mem ..))
      (State.writeStatus_memOk _ _ _ _ _ _ (State.memOk.withNet (memOk_of_mem (State.updLaunch_mem ..) h) _)).next

theorem execPwaitRelease_nextOk (n : Nat) : NextOk (execPwaitRelease n s) := by
  unfold execPwaitRelease
  split
  · exact h.next
  · exact (h.withNet _).next

/-! ## Looms (R112 to R134) -/

theorem execLoomCommandArrival_nextOk (cl : BitVec 7) : NextOk (execLoomCommandArrival cl s) := by
  unfold execLoomCommandArrival
  dsimp only
  split
  · exact (s.putLoom_memOk h _ _).next
  · exact h.next

theorem execLoomCommandStart_nextOk (cl : BitVec 7) : NextOk (execLoomCommandStart cl s) := by
  unfold execLoomCommandStart
  refine nextOk_ite h.next ?_
  split
  · exact h.next
  · split
    · exact (s.loomStop_memOk _ _ _ _ _ h).next
    · exact (State.putLoom_memOk (memOk_ite (h.withHub _) h) _ _).next

theorem execLoomCommandComplete_nextOk (cl : BitVec 7) (seq : Nat) : NextOk (execLoomCommandComplete cl seq s) := by
  unfold execLoomCommandComplete
  dsimp only
  split
  · exact h.next
  · rename_i c _
    refine nextOk_ite h.next ?_
    split
    · split
      · refine (s.loomWent_memOk h cl c ?_).next
        have line : ∀ a need, Yields FstOk (atArgs (c.readArgs (isWide cl)) (s.bookLine c a need c.buf)) := fun a need =>
          (yields_atArgs _ _ _).2 (s.bookLine_yields h c a need c.buf)
        split
        · exact yields_error _ _
        · rename_i hr
          exact (yields_ok _ _).2 ((line _ _).of_ok hr)
      · exact (s.loomRun_memOk h _ _).next
    · exact (memOk_ite (s.loomRecords_memOk h _ _) h).next
    · exact h.next

theorem execLoomReleaseComplete_nextOk (cl : BitVec 7) : NextOk (execLoomReleaseComplete cl s) :=
  nextOk_ite (h.next_of_mem ((State.wakeLoom_mem ..).trans (State.setLoom_mem ..))) h.next

theorem execLresRetry_nextOk (cl : BitVec 7) : NextOk (execLresRetry cl s) :=
  nextOk_ite (h.next_of_mem (State.loomRetry_mem ..)) h.next

theorem execLresRetryNoNan_nextOk (cl : BitVec 7) : NextOk (execLresRetryNoNan cl s) :=
  nextOk_ite (h.next_of_mem (State.loomRetry_mem ..)) h.next

theorem execLresSkip_nextOk (cl : BitVec 7) : NextOk (execLresSkip cl s) := by
  have resumed : (s.putLoom cl (s.cluster cl).loom.resumed).memOk := s.putLoom_memOk h _ _
  unfold execLresSkip
  refine nextOk_ite h.next (nextOk_ite (h.next_of_mem (State.endAsk_mem ..)) ?_)
  split
  · exact (State.loomCount_memOk (State.skipCmd_memOk resumed _ _) _ _).next
  · exact (State.loomCount_memOk resumed _ _).next

theorem execLresFlush_nextOk (cl : BitVec 7) : NextOk (execLresFlush cl s) := by
  unfold execLresFlush
  refine nextOk_ite h.next (nextOk_ite (h.next_of_mem (State.endAsk_mem ..)) ?_)
  exact (State.loomCount_memOk (memOk_foldl _ (fun t c ht => memOk_ite (t.skipCmd_memOk ht _ _) (t.flushCmd_memOk _ _ ht)) _ _
    (s.putLoom_memOk h _ _)) _ _).next

theorem execGovernorWindow_nextOk (withheld : List (BitVec 7 × Nat)) : NextOk (execGovernorWindow withheld s) :=
  h.next_of_mem (foldl_mem _ (fun _ _ => State.setLoom_mem ..) _ _)

/-! ## Porters (R210 to R216) -/

theorem execPorterCommandStart_nextOk (cl : BitVec 7) (n : BitVec 2) : NextOk (execPorterCommandStart cl n s) := by
  unfold execPorterCommandStart
  extract_lets p
  split
  · exact h.next
  · rename_i c rest _
    refine nextOk_ite h.next ?_
    extract_lets r
    have h1 : r.s.memOk := by
      simp only [r]
      split
      · exact h
      · exact h
      · exact h
      · exact PortStep.of_memOk h _ (s.readHeader_yields h c)
    split
    · exact (State.portStop_memOk _ _ _ _ _ h1).next
    · exact (State.askFor_memOk h1 _ _ _).next
    · exact h1.next_of_mem (State.setPort_mem ..)

theorem execPorterCommandComplete_nextOk (cl : BitVec 7) (n : BitVec 2) : NextOk (execPorterCommandComplete cl n s) := by
  unfold execPorterCommandComplete
  split
  · exact h.next
  · rename_i c _ _
    have h1 : (s.position c).s.memOk := s.position_memOk h c
    refine nextOk_ite h.next (nextOk_ite ?_ ?_)
    · dsimp only
      split
      · exact (State.portStop_memOk _ _ _ _ _ h1).next
      · exact h1.next_of_mem ((State.askFor_mem ..).trans (State.putPort_mem ..))
      · exact h1.next_of_mem (State.putPort_mem ..)
    · split
      · exact (memOk_ite (memOk_of_mem (State.portDone_mem ..) (s.portRecord_memOk _ _ _ _ h))
          (s.portStop_memOk _ _ _ _ h)).next
      · exact (s.askFor_memOk h _ _ _).next
      · rename_i hc
        exact ((s.completion_yields h c).of_ok hc).next_of_mem (State.portDone_mem ..)

theorem execPresContinue_nextOk (cl : BitVec 7) (n : BitVec 2) : NextOk (execPresContinue cl n s) :=
  nextOk_ite (h.next_of_mem (State.portResume_mem ..)) h.next

theorem execPresAbandon_nextOk (cl : BitVec 7) (n : BitVec 2) : NextOk (execPresAbandon cl n s) :=
  nextOk_ite (State.skipPort_memOk (memOk_of_mem (State.portResume_mem ..) h) _ _ _).next h.next

theorem execPresAbandonAll_nextOk (cl : BitVec 7) (n : BitVec 2) : NextOk (execPresAbandonAll cl n s) :=
  nextOk_ite (State.skipPort_memOk (memOk_of_mem (State.portResume_mem ..) h) _ _ _).next h.next

/-! ## Detectors and held records (R246, R247, R299 to R302) -/

theorem execPulsePeriodExpiry_nextOk (tn : BitVec 4) : NextOk (execPulsePeriodExpiry tn s) := by
  unfold execPulsePeriodExpiry
  dsimp only
  split
  · have delivered : ∀ c who core l r k, (((s.reach c).setTenant tn k).deliver who core l r).memOk := fun c who core l r k =>
      State.deliver_memOk _ _ _ _ _ (memOk_of_mem ((State.setTenant_mem ..).trans (State.reach_mem ..)) h)
    exact (memOk_ite (State.report_memOk _ _ (memOk_of_mem (State.stopTenant_mem ..) (delivered ..))) (delivered ..)).next
  · exact h.next

theorem execPendingRecordDelivery_nextOk (tn : BitVec 4) (n : Nat) : NextOk (execPendingRecordDelivery tn n s) := by
  unfold execPendingRecordDelivery
  split
  · exact nextOk_ite (h.next_of_mem (State.askAddr_mem ..)) (nextOk_ite
      (State.deliver_memOk _ _ _ _ _ (memOk_of_mem (State.takeHeld_mem ..) h)).next h.next)
  · split
    · exact h.next
    · exact nextOk_ite (State.report_memOk _ _ (memOk_of_mem (State.setTenant_mem ..) h)).next h.next

theorem execDeadlockDetect_nextOk (tn : BitVec 4) : NextOk (execDeadlockDetect tn s) :=
  nextOk_ite h.next (State.detector_memOk _ _ _ _ _ _ _ _ (memOk_of_mem (State.setTenant_mem ..) h)).next

end

end Sys2Proof.Machine
end

section
/-! PROOFS. What comes from outside keeps the canonical form of memory: errors and links, regions, hosts, translations, peers,
sessions and the service of the factor. -/

open Sys2Proof Sys2Proof.Machine

namespace Sys2Proof.Machine

section
variable {s : State} (h : s.memOk)
include h

theorem State.memOk.next_ite {c : Prop} [Decidable c] {t : State} (ht : t.memOk) : NextOk (.next (if c then t else s)) :=
  (memOk_ite ht h).next

/-- An event that leaves memory as it was, where it happens at all. -/
theorem State.memOk.next_ite_of_mem {c : Prop} [Decidable c] {t : State} (e : t.mem = s.mem) :
    NextOk (.next (if c then t else s)) := h.next_ite (memOk_of_mem e h)

/-! ## Errors, spare rows and links (R312 to R315, R332, R335) -/

theorem execPatrolScrub_nextOk (found : Option ErrorSite) : NextOk (execPatrolScrub found s) := by
  unfold execPatrolScrub
  split
  · exact (memOk_ite h (s.detected_memOk h _ _)).next
  · exact h.next

theorem execParityReplay_nextOk (unit : ErrorSite) (failed : Bool) : NextOk (execParityReplay unit failed s) :=
  h.next_ite (State.mapOutUnit_memOk (memOk_of_mem (State.health_mem ..) h) _)

theorem execDramRowRemap_nextOk (r : Nat) : NextOk (execDramRowRemap r s) :=
  nextOk_ite (h.next_of_mem ((State.setRegion_mem ..).trans (State.mappedOutPart_mem ..)))
    (h.next_of_mem (State.mappedOutPart_mem ..))

theorem execFlitReplay_nextOk (link : LinkId) (failed : Bool) : NextOk (execFlitReplay link failed s) := by
  unfold execFlitReplay
  refine nextOk_ite h.next ?_
  extract_lets s1
  have h1 : s1.memOk := memOk_of_mem (State.health_mem ..) h
  split
  · exact h1.next_ite_of_mem (State.setLink_mem ..)
  · exact h1.next_of_mem (State.setRecovery_mem ..)

theorem execLinkRecovery_nextOk (link : LinkId) (failed : Bool) : NextOk (execLinkRecovery link failed s) := by
  unfold execLinkRecovery
  split
  · exact nextOk_ite h.next (nextOk_ite (h.next_of_mem ((State.rebuildCaps_mem ..).trans (State.setLink_mem ..)))
      (h.next_of_mem (State.setLink_mem ..)))
  · exact (memOk_ite h (memOk_of_mem (State.setRecovery_mem ..) h)).next

theorem execLaneFailure_nextOk (link : BitVec 4) (lane : BitVec 3) : NextOk (execLaneFailure link lane s) :=
  nextOk_ite h.next (memOk_ite (memOk_of_mem ((State.rebuildCaps_mem ..).trans (State.setLink_mem ..)) h)
    (memOk_of_mem (State.setLink_mem ..) h)).next

theorem execLinkUp_nextOk (link : BitVec 4) : NextOk (execLinkUp link s) :=
  nextOk_ite h.next (h.next_of_mem ((State.rebuildCaps_mem ..).trans (State.setLink_mem ..)))

/-! ## Regions (R308 to R311, R374) -/

theorem execDrainComplete_nextOk (r : Nat) : NextOk (execDrainComplete r s) := by
  unfold execDrainComplete
  refine nextOk_ite h.next ?_
  dsimp only
  split
  · exact h.next
  · refine (memOk_foldl _ (fun t tn ht => t.checkWatches_memOk tn ht) _ _ ?_).next
    refine memOk_of_mem (State.recheckWaits_mem ..) (State.memOk.withNet ?_ _)
    exact memOk_of_mem ((State.backRegion_mem ..).trans (State.setRegion_mem ..)) h

theorem execEpochEnd_nextOk : NextOk (execEpochEnd s) := by
  unfold execEpochEnd
  extract_lets s0 hub s1 s2 s3
  have h2 : s2.memOk := memOk_of_mem (foldl_mem _ (fun t r => State.migrate_mem ..) _ _) h
  have h3 : s3.memOk := memOk_foldl _ (fun t tn ht => t.hintsOf_memOk tn _ ht) _ _ h2
  exact h3.next_of_mem rfl

theorem execRegionMigrationComplete_nextOk (r : Nat) : NextOk (execRegionMigrationComplete r s) := by
  unfold execRegionMigrationComplete
  dsimp only
  split
  · split
    · exact h.next_of_mem (State.rebuildCaps_mem ..)
    · exact h.next_of_mem (State.setRegion_mem ..)
  · exact h.next

/-! ## Hosts (R286 to R297, R306, R322) -/

theorem execHostCxlMemAccess_nextOk (hd : BitVec 1) (acc : HostAccess) : NextOk (execHostCxlMemAccess hd acc s) :=
  h.next_ite (s.arrive_memOk _ h)

theorem execHostLineInvalidate_nextOk (hd : BitVec 1) (acc : HostAccess) : NextOk (execHostLineInvalidate hd acc s) :=
  h.next_ite (s.arrive_memOk _ h)

theorem execDoorbell_nextOk (hd : BitVec 1) (q : BitVec 6) (v : BitVec 32) : NextOk (execDoorbell hd q v s) :=
  h.next_ite (s.arrive_memOk _ h)

theorem execSvring_nextOk (hd : BitVec 1) (v : Word) : NextOk (execSvring hd v s) :=
  nextOk_ite h.next (h.next_of_mem ((State.setQueue_mem ..).trans (State.setHead_mem ..)))

theorem execSvrep_nextOk (hd : BitVec 1) (v : Word) : NextOk (execSvrep hd v s) :=
  nextOk_ite h.next (h.next_of_mem ((State.setQueue_mem ..).trans (State.setHead_mem ..)))

theorem execTimeset_nextOk (hd : BitVec 1) (v : Word) : NextOk (execTimeset hd v s) := h.next_ite (h.withHub _)

theorem execRegisterWrite_nextOk (hd : BitVec 1) (off : BitVec 24) (acc : BarAccess) : NextOk (execRegisterWrite hd off acc s) := by
  refine (memOk_ite h ?_).next
  split
  · exact memOk_of_mem (State.barWrite_mem ..) h
  · exact memOk_of_mem (State.barWrite_mem ..) h
  · exact memOk_of_mem (State.send_mem ..) h

theorem execHostLinkDownTimeout_nextOk (hd : BitVec 1) : NextOk (execHostLinkDownTimeout hd s) :=
  nextOk_ite h.next (h.next_of_mem ((State.loseHost_mem ..).trans (State.reach_mem ..)))

theorem execAdoptionWord_nextOk (hd : BitVec 1) (v : BitVec 32) : NextOk (execAdoptionWord hd v s) :=
  h.next_ite_of_mem (State.loseHost_mem ..)

theorem execHostLinkDown_nextOk (hd : BitVec 1) : NextOk (execHostLinkDown hd s) :=
  h.next_ite_of_mem ((State.rebuildCaps_mem ..).trans (State.setHead_mem ..))

theorem execHostLinkUp_nextOk (hd : BitVec 1) (standby : Bool) : NextOk (execHostLinkUp hd standby s) :=
  (memOk_ite h (memOk_of_mem ((State.rebuildCaps_mem ..).trans ((State.returned_mem _).trans (State.setHead_mem ..))) h)).next

/-! ## Translations, peers and packets (R290 to R292, R329 to R334) -/

theorem execAtsCompletion_nextOk (tn : BitVec 4) (core : BitVec 10) (page : PageSpan) : NextOk (execAtsCompletion tn core page s) := by
  unfold execAtsCompletion
  refine nextOk_ite h.next ?_
  extract_lets s1 t s2
  have h1 : s1.memOk := memOk_of_mem ((State.hostAnswers_mem ..).trans (State.askedDone_mem ..)) h
  have h2 : s2.memOk := by
    simp only [s2]
    split
    · exact memOk_of_mem (State.fillTlb_mem ..) h1
    · exact memOk_of_mem (State.setTenant_mem ..) h1
  exact (State.checkWatches_memOk _ _ (memOk_of_mem (State.recheckWaits_mem ..) h2)).next

theorem execPriResponse_nextOk (id : ThreadId) (ok : Bool) : NextOk (execPriResponse id ok s) := by
  have again : ∀ {t : State} v p, t.memOk → ((t.pageAgain id.tenant v).recheckWaits p).memOk := fun v p ht =>
    memOk_of_mem (State.recheckWaits_mem ..) (State.pageAgain_memOk ht _ v)
  unfold execPriResponse
  dsimp only
  split
  · exact nextOk_ite ((again _ _ h).next_of_mem (State.upd_mem ..))
      (State.faultAfter_memOk _ _ _ _ _ (memOk_of_mem (State.upd_mem ..) h)).next
  · split
    · exact h.next
    · exact nextOk_ite (again _ _ (memOk_of_mem (State.setTenant_mem ..) h)).next
        (h.next_of_mem ((State.setTenant_mem ..).trans (State.setTenant_mem ..)))

theorem execAtsInvalidationRequest_nextOk (tn : BitVec 4) (va size : Nat) : NextOk (execAtsInvalidationRequest tn va size s) := by
  unfold execAtsInvalidationRequest
  exact h.next_of_mem ((State.recheckWaits_mem ..).trans (State.askWatches_mem ..))

theorem execPeerWrite_nextOk (tn : BitVec 4) (off : Nat) (bytes : List Byte) (bad : Bool) :
    NextOk (execPeerWrite tn off bytes bad s) := by
  unfold execPeerWrite
  split
  · exact h.next_of_mem (State.peerRefused_mem ..)
  · exact (s.enterLate_memOk _ h).next

theorem execPeerRead_nextOk (tn : BitVec 4) (off len : Nat) : NextOk (execPeerRead tn off len s) := by
  unfold execPeerRead
  split
  · exact h.next_of_mem (State.peerRefused_mem ..)
  · exact (s.enterLate_memOk _ h).next

theorem execIoCompletion_nextOk (id : ThreadId) (ans : FarAnswer) (data : Word) : NextOk (execIoCompletion id ans data s) := by
  unfold execIoCompletion
  split
  · exact h.next_of_mem (State.finishPost_mem ..)
  · exact (s.farDone_memOk _ _ _ _ _ _ h).next
  · exact (s.farDone_memOk _ _ _ _ _ _ h).next
  · refine nextOk_ite h.next ?_
    split
    · exact (s.farDone_memOk _ _ _ _ _ _ h).next
    · exact h.next
  · exact nextOk_ite h.next (s.farDone_memOk _ _ _ _ _ _ h).next
  · exact h.next
  · exact h.next_of_mem (State.farAcked_mem ..)

theorem execIoCompletionTimeout_nextOk (id : ThreadId) : NextOk (execIoCompletionTimeout id s) := by
  unfold execIoCompletionTimeout
  split
  · exact h.next_of_mem ((State.finishPost_mem ..).trans (State.reach_mem ..))
  · exact h.next

theorem execFabricRemoteAccess_nextOk (acc : FabricAccess) : NextOk (execFabricRemoteAccess acc s) := by
  unfold execFabricRemoteAccess
  refine nextOk_ite h.next ?_
  split
  · exact (memOk_ite (memOk_of_mem (State.send_mem ..) h) (s.enterLate_memOk _ h)).next
  · exact (h.withNet _).next
  · exact h.next

/-! ## Sessions and interfaces (R293 to R297, R319) -/

omit h in
theorem State.manage_mem (s : State) (hd : BitVec 1) (bs : List Byte) : (s.manage hd bs).mem = s.mem := State.send_mem ..

theorem execIdeIntegrityFailure_nextOk (hd : BitVec 1) (tn : Option (BitVec 4)) : NextOk (execIdeIntegrityFailure hd tn s) := by
  unfold execIdeIntegrityFailure
  split
  · exact h.next_of_mem (State.fail_mem ..)
  · exact h.next_of_mem ((foldl_mem _ (fun t n => State.fail_mem ..) _ _).trans (State.setHead_mem ..))

theorem execSessionExpiry_nextOk (hd : BitVec 1) : NextOk (execSessionExpiry hd s) := by
  unfold execSessionExpiry
  split
  · exact h.next_of_mem ((State.sessionOver_mem ..).trans (State.reach_mem ..))
  · exact h.next

theorem execLockInterfaceRequest_nextOk (hd : BitVec 1) (tn : BitVec 4) : NextOk (execLockInterfaceRequest hd tn s) :=
  nextOk_ite (h.next_of_mem ((State.reply_mem ..).trans (State.setTenant_mem ..))) (h.next_of_mem (State.turnDown_mem ..))

theorem execStartInterfaceRequest_nextOk (hd : BitVec 1) (tn : BitVec 4) (nonce : Nat) :
    NextOk (execStartInterfaceRequest hd tn nonce s) :=
  nextOk_ite (h.next_of_mem ((State.reply_mem ..).trans (State.setTenant_mem ..))) (h.next_of_mem (State.turnDown_mem ..))

theorem execStopInterfaceRequest_nextOk (hd : BitVec 1) (tn : BitVec 4) : NextOk (execStopInterfaceRequest hd tn s) := by
  unfold execStopInterfaceRequest
  refine nextOk_ite h.next ?_
  extract_lets s1
  have h1 : s1.memOk := memOk_ite h (memOk_of_mem (State.leaveRun_mem ..) h)
  exact nextOk_ite (State.memOk.next_of_mem (s1.scrub_memOk tn h1) (State.reply_mem ..)) h1.next

/-! ## The hub (R336 to R338) -/

theorem execBringUpStage_nextOk (ok : Bool) : NextOk (execBringUpStage ok s) :=
  nextOk_ite h.next (nextOk_ite (s.enterStage_memOk _ h).next (h.withHub _).next)

theorem execPldmRequest_nextOk (hd : BitVec 1) (sensor : Sensor) : NextOk (execPldmRequest hd sensor s) :=
  h.next_of_mem (State.manage_mem ..)

/-! ## The service of the factor (R327, R328) -/

theorem State.serviceEvent_nextOk {r : State → Served} (hr : ServedOk (r s)) : NextOk (s.serviceEvent r) := h.next_ite hr

theorem State.servicePart_nextOk {r : State → Option Served × State} (hr : AnswerOk (r s)) : NextOk (s.servicePart r) := by
  refine State.serviceEvent_nextOk h ?_
  split
  · rename_i heq
    exact hr.answered (congrArg Prod.fst heq)
  · rename_i heq
    exact (congrArg Prod.snd heq ▸ hr.waiting : State.memOk _)

end

end Sys2Proof.Machine
end

section
/-! PROOFS. Every step keeps the canonical form of memory. -/

open Sys2Proof Sys2Proof.Machine

namespace Sys2Proof.Machine

section
variable {s : State} (h : s.memOk)
include h

/-! ## Events -/

omit h in
/-- A reset leaves memory without an entry. -/
theorem execReset_nextOk (s : State) : NextOk (execReset s) := (nextOk_next _).2 rfl

/-- A device event writes memory through the rules of memory, or leaves it as it was. -/
theorem execEvent_nextOk {i : Instr} (he : (!i.encodable) = true) : NextOk (exec i s) := by
  cases i with
  | chunkCommit id => exact execChunkCommit_nextOk h id
  | heldChunk => exact execHeldChunk_nextOk h
  | leaseAcquire => exact execLeaseAcquire_nextOk h
  | leaseExpiry => exact execLeaseExpiry_nextOk h
  | fallThrough => exact execFallThrough_nextOk h
  | drayAgeExpiry cl n => exact execDrayAgeExpiry_nextOk h cl n
  | drayPacketApply n => exact execDrayPacketApply_nextOk h n
  | drayAcknowledgement w => exact execDrayAcknowledgement_nextOk h w
  | amoPerform id => exact execAmoPerform_nextOk h id
  | amopPerform w => exact execAmopPerform_nextOk h w
  | partialEviction core line => exact execPartialEviction_nextOk h core line
  | hostCxlMemAccess hd acc => exact execHostCxlMemAccess_nextOk h hd acc
  | hostLineInvalidate hd acc => exact execHostLineInvalidate_nextOk h hd acc
  | fenceRelease id => exact execFenceRelease_nextOk h id
  | watchArmEvent id => exact execWatchArmEvent_nextOk h id
  | wakeDelivery n => exact execWakeDelivery_nextOk h n
  | hostWatchRecheck id n => exact execHostWatchRecheck_nextOk h id n
  | waitTimeout id => exact execWaitTimeout_nextOk h id
  | starvationLimit core => exact execStarvationLimit_nextOk h core
  | packComplete id => exact execPackComplete_nextOk h id
  | docketResume id => exact execDocketResume_nextOk h id
  | weighmasterSample moves => exact execWeighmasterSample_nextOk h moves
  | moveComplete id => exact execMoveComplete_nextOk h id
  | notifyWrite q => exact execNotifyWrite_nextOk h q
  | launchRecordRead q => exact execLaunchRecordRead_nextOk h q
  | launchValidated q => exact execLaunchValidated_nextOk h q
  | crewPlacement => exact execCrewPlacement_nextOk h
  | crewStart n => exact execCrewStart_nextOk h n
  | smayObserved n => exact execSmayObserved_nextOk h n
  | launchComplete tn lid => exact execLaunchComplete_nextOk h tn lid
  | pwaitRelease n => exact execPwaitRelease_nextOk h n
  | barArrival id => exact execBarArrival_nextOk h id
  | barTimeout id => exact execBarTimeout_nextOk h id
  | dbarArrival id => exact execDbarArrival_nextOk h id
  | wireRaise id => exact execWireRaise_nextOk h id
  | wireComplete tn n => exact execWireComplete_nextOk h tn n
  | crierBegin tn n cl => exact execCrierBegin_nextOk h tn n cl
  | crierMessage n => exact execCrierMessage_nextOk h n
  | crierAbort n => exact execCrierAbort_nextOk h n
  | dbarTimeout id => exact execDbarTimeout_nextOk h id
  | deadlockDetect tn => exact execDeadlockDetect_nextOk h tn
  | pulsePeriodExpiry tn => exact execPulsePeriodExpiry_nextOk h tn
  | threadStateAction n => exact execThreadStateAction_nextOk h n
  | threadStateResult n => exact execThreadStateResult_nextOk h n
  | loomCommandArrival cl => exact execLoomCommandArrival_nextOk h cl
  | loomCommandStart cl => exact execLoomCommandStart_nextOk h cl
  | loomCommandComplete cl seq => exact execLoomCommandComplete_nextOk h cl seq
  | loomRelease cl => exact h.next_of_mem (State.releaseLoom_mem ..)
  | loomReleaseComplete cl => exact execLoomReleaseComplete_nextOk h cl
  | lresRetry cl => exact execLresRetry_nextOk h cl
  | lresSkip cl => exact execLresSkip_nextOk h cl
  | lresFlush cl => exact execLresFlush_nextOk h cl
  | lresRetryNoNan cl => exact execLresRetryNoNan_nextOk h cl
  | governorWindow withheld => exact execGovernorWindow_nextOk h withheld
  | porterCommandStart cl n => exact execPorterCommandStart_nextOk h cl n
  | porterCommandComplete cl n => exact execPorterCommandComplete_nextOk h cl n
  | presContinue cl n => exact execPresContinue_nextOk h cl n
  | presAbandon cl n => exact execPresAbandon_nextOk h cl n
  | presAbandonAll cl n => exact execPresAbandonAll_nextOk h cl n
  | queueReservation id => exact execQueueReservation_nextOk h id
  | stampWrite id => exact execStampWrite_nextOk h id
  | pendingRecordDelivery tn n => exact execPendingRecordDelivery_nextOk h tn n
  | correctedError mech a => exact h.next_of_mem (State.health_mem ..)
  | uncorrectableError e | logicFault e => exact (s.detected_memOk h _ _).next
  | dramRowRemap r => exact execDramRowRemap_nextOk h r
  | patrolScrub found => exact execPatrolScrub_nextOk h found
  | parityReplay unit failed => exact execParityReplay_nextOk h unit failed
  | flitReplay link failed => exact execFlitReplay_nextOk h link failed
  | linkRecovery link failed => exact execLinkRecovery_nextOk h link failed
  | laneFailure link lane => exact execLaneFailure_nextOk h link lane
  | linkUp link => exact execLinkUp_nextOk h link
  | drainComplete r => exact execDrainComplete_nextOk h r
  | epochEnd => exact execEpochEnd_nextOk h
  | regionMigrationComplete r => exact execRegionMigrationComplete_nextOk h r
  | freezeWord hd v => exact h.next_ite_of_mem (State.freeze_mem ..)
  | hostLinkDownTimeout hd => exact execHostLinkDownTimeout_nextOk h hd
  | adoptionWord hd v => exact execAdoptionWord_nextOk h hd v
  | hostLinkDown hd => exact execHostLinkDown_nextOk h hd
  | hostLinkUp hd standby => exact execHostLinkUp_nextOk h hd standby
  | atsCompletion tn core page => exact execAtsCompletion_nextOk h tn core page
  | priResponse id ok => exact execPriResponse_nextOk h id ok
  | atsInvalidationRequest tn va size => exact execAtsInvalidationRequest_nextOk h tn va size
  | peerWrite tn off bytes bad => exact execPeerWrite_nextOk h tn off bytes bad
  | peerRead tn off len => exact execPeerRead_nextOk h tn off len
  | ioCompletion id ans data => exact execIoCompletion_nextOk h id ans data
  | ioCompletionTimeout id => exact execIoCompletionTimeout_nextOk h id
  | fabricRemoteAccess acc => exact execFabricRemoteAccess_nextOk h acc
  | spdmSessionStart hd | heartbeat hd => exact h.next_ite_of_mem (State.setHead_mem ..)
  | keyUpdate hd ok => exact (memOk_ite h (memOk_of_mem (State.sessionOver_mem ..) h)).next
  | endSession hd => exact h.next_of_mem (State.sessionOver_mem ..)
  | getMeasurements hd => exact h.next_of_mem (State.manage_mem ..)
  | ideKm hd tn => exact h.next_ite_of_mem (State.setTenant_mem ..)
  | ideIntegrityFailure hd tn => exact execIdeIntegrityFailure_nextOk h hd tn
  | sessionExpiry hd => exact execSessionExpiry_nextOk h hd
  | getTdispVersion hd tn | getTdispCapabilities hd tn | getDeviceInterfaceReport hd tn | getDeviceInterfaceState hd tn =>
    exact h.next_of_mem (State.reply_mem ..)
  | lockInterfaceRequest hd tn => exact execLockInterfaceRequest_nextOk h hd tn
  | startInterfaceRequest hd tn nonce => exact execStartInterfaceRequest_nextOk h hd tn nonce
  | stopInterfaceRequest hd tn => exact execStopInterfaceRequest_nextOk h hd tn
  | doorbell hd q v => exact execDoorbell_nextOk h hd q v
  | svring hd v => exact execSvring_nextOk h hd v
  | svrep hd v => exact execSvrep_nextOk h hd v
  | timeset hd v => exact execTimeset_nextOk h hd v
  | registerWrite hd off acc => exact execRegisterWrite_nextOk h hd off acc
  | reset => exact execReset_nextOk s
  | bringUpStage ok => exact execBringUpStage_nextOk h ok
  | d3hotEntry | d0Return => exact h.next_ite (h.withHub _)
  | pldmRequest hd sensor => exact execPldmRequest_nextOk h hd sensor
  | queueSetup hd o => exact State.serviceEvent_nextOk h (queueSetupNow_memOk h hd o)
  | tenantSetup hd o => exact State.serviceEvent_nextOk h (tenantSetupNow_memOk h o)
  | regionSetup hd o => exact State.serviceEvent_nextOk h (regionSetupNow_memOk h o)
  | biasFlip hd o => exact State.serviceEvent_nextOk h (biasFlipNow_memOk h o)
  | orderingSetup hd o => exact State.serviceEvent_nextOk h (orderingNow_memOk h o)
  | pulseSetup hd o => exact State.servicePart_nextOk (r := fun s => s.serve hd 6 o) h (s.serve_memOk h hd 6 o)
  | pin hd o => exact State.serviceEvent_nextOk h (pinNow_memOk h o)
  | hintsSetup hd o => exact State.serviceEvent_nextOk h (hintsNow_memOk h hd o)
  | peersSetup hd o => exact State.serviceEvent_nextOk h (peersNow_memOk h o)
  | fabricSetup hd o => exact State.serviceEvent_nextOk h (fabricNow_memOk h o)
  | scrubControl hd o => exact State.serviceEvent_nextOk h (scrubNow_memOk h o)
  | rebind hd o => exact State.serviceEvent_nextOk h (rebindNow_memOk h hd o)
  | issuePolicy hd o => exact State.serviceEvent_nextOk h (policyNow_memOk h o)
  | powerLimit hd o => exact State.serviceEvent_nextOk h (powerNow_memOk h o)
  | tenantStop hd o => exact State.serviceEvent_nextOk h (tenantStopNow_memOk h _)
  | tenantStart hd o => exact State.serviceEvent_nextOk h (tenantStartNow_memOk h _)
  | switchOut hd o => exact State.servicePart_nextOk h (switchOutNow_memOk h _)
  | switchIn hd o => exact State.serviceEvent_nextOk h (switchInNow_memOk h _)
  | _ => cases he

/-- Every instruction and every device event. -/
theorem exec_nextOk (i : Instr) : NextOk (exec i s) := by
  cases he : i.encodable with
  | false => exact execEvent_nextOk h (by rw [he]; rfl)
  | true =>
    cases hA : i.isA with
    | false => exact execC_nextOk h (by rw [he, hA]; rfl)
    | true => exact execA_nextOk h hA

/-- The events that the module performs of itself. -/
theorem Event.run_nextOk (e : Event) : NextOk (e.run s) := by
  cases e with
  | loomTurn cl => exact h.next_of_mem (State.callLoom_mem ..)
  | watchDegrade id n => exact h.next_of_mem (State.degradeWatch_mem ..)
  | docketReturn id => exact (s.returnDocket_memOk _ h).next
  | heldPoke n => exact h.next_of_mem (State.heldPoke_mem ..)
  | inbound n => exact (s.serveNext_memOk _ h).next
  | late n => exact (s.lateAgain_memOk _ h).next
  | farNext n => exact (s.farNext_memOk h _).next
  | invalDone n => exact h.next_of_mem (State.invalDone_mem ..)
  | capStep => exact h.next_of_mem (State.capStep_mem ..)
  | handoverStep => exact (s.handoverStep_memOk h).next
  | chunkCommit => exact execChunkCommit_nextOk h s.thr.id
  | heldChunk => exact execHeldChunk_nextOk h
  | leaseAcquire => exact execLeaseAcquire_nextOk h
  | leaseExpiry => exact execLeaseExpiry_nextOk h
  | fallThrough => exact execFallThrough_nextOk h
  | drayAgeExpiry cl n => exact execDrayAgeExpiry_nextOk h cl n
  | drayPacketApply n => exact execDrayPacketApply_nextOk h n
  | drayAcknowledgement n => exact execDrayAcknowledgement_nextOk h (.here n)
  | amoPerform t => exact execAmoPerform_nextOk h t
  | amopPerform n => exact execAmopPerform_nextOk h (.here n)
  | partialEviction core line => exact execPartialEviction_nextOk h core line
  | fenceRelease t => exact execFenceRelease_nextOk h t
  | watchArmEvent t => exact execWatchArmEvent_nextOk h t
  | wakeDelivery n => exact execWakeDelivery_nextOk h n
  | hostWatchRecheck t n => exact execHostWatchRecheck_nextOk h t n
  | waitTimeout t => exact execWaitTimeout_nextOk h t
  | packComplete t => exact execPackComplete_nextOk h t
  | docketResume t => exact execDocketResume_nextOk h t
  | weighmasterSample moves => exact execWeighmasterSample_nextOk h moves
  | moveComplete t => exact execMoveComplete_nextOk h t
  | notifyWrite q => exact execNotifyWrite_nextOk h q
  | launchRecordRead q => exact execLaunchRecordRead_nextOk h q
  | launchValidated q => exact execLaunchValidated_nextOk h q
  | crewPlacement => exact execCrewPlacement_nextOk h
  | crewStart n => exact execCrewStart_nextOk h n
  | smayObserved n => exact execSmayObserved_nextOk h n
  | launchComplete tn lid => exact execLaunchComplete_nextOk h tn lid
  | pwaitRelease n => exact execPwaitRelease_nextOk h n
  | barArrival t => exact execBarArrival_nextOk h t
  | barTimeout t => exact execBarTimeout_nextOk h t
  | dbarArrival t => exact execDbarArrival_nextOk h t
  | wireRaise t => exact execWireRaise_nextOk h t
  | wireComplete tn n => exact execWireComplete_nextOk h tn n
  | crierBegin tn n cl => exact execCrierBegin_nextOk h tn n cl
  | crierMessage n => exact execCrierMessage_nextOk h n
  | crierAbort n => exact execCrierAbort_nextOk h n
  | dbarTimeout t => exact execDbarTimeout_nextOk h t
  | deadlockDetect tn => exact execDeadlockDetect_nextOk h tn
  | pulsePeriodExpiry tn => exact execPulsePeriodExpiry_nextOk h tn
  | threadStateAction n => exact execThreadStateAction_nextOk h n
  | threadStateResult n => exact execThreadStateResult_nextOk h n
  | loomCommandArrival cl => exact execLoomCommandArrival_nextOk h cl
  | loomCommandStart cl => exact execLoomCommandStart_nextOk h cl
  | loomCommandComplete cl seq => exact execLoomCommandComplete_nextOk h cl seq
  | loomRelease cl => exact h.next_of_mem (State.releaseLoom_mem ..)
  | loomReleaseComplete cl => exact execLoomReleaseComplete_nextOk h cl
  | lresRetry cl => exact execLresRetry_nextOk h cl
  | lresSkip cl => exact execLresSkip_nextOk h cl
  | lresFlush cl => exact execLresFlush_nextOk h cl
  | lresRetryNoNan cl => exact execLresRetryNoNan_nextOk h cl
  | governorWindow withheld => exact execGovernorWindow_nextOk h withheld
  | porterCommandStart cl n => exact execPorterCommandStart_nextOk h cl n
  | porterCommandComplete cl n => exact execPorterCommandComplete_nextOk h cl n
  | presContinue cl n => exact execPresContinue_nextOk h cl n
  | presAbandon cl n => exact execPresAbandon_nextOk h cl n
  | presAbandonAll cl n => exact execPresAbandonAll_nextOk h cl n
  | queueReservation t => exact execQueueReservation_nextOk h t
  | stampWrite t => exact execStampWrite_nextOk h t
  | pendingRecordDelivery tn n => exact execPendingRecordDelivery_nextOk h tn n
  | drainComplete region => exact execDrainComplete_nextOk h region
  | epochEnd => exact execEpochEnd_nextOk h
  | regionMigrationComplete region => exact execRegionMigrationComplete_nextOk h region
  | hostLinkDownTimeout head => exact execHostLinkDownTimeout_nextOk h head
  | ioCompletionTimeout t => exact execIoCompletionTimeout_nextOk h t
  | sessionExpiry head => exact execSessionExpiry_nextOk h head
  | stopInterfaceRequest head tn => exact execStopInterfaceRequest_nextOk h head tn
  | switchOut head o => exact State.servicePart_nextOk h (switchOutNow_memOk h _)

/-! ## Bundles -/

theorem State.runPair_nextOk (c a : Instr) (bad : Option BadBundle) : NextOk (s.runPair c a bad) := by
  have ha : NextOk (exec a (s.withA (.awaiting (s.cDraws c)))) := exec_nextOk (memOk_of_mem (State.withA_mem ..) h) a
  unfold State.runPair
  split
  · rename_i s1 he
    have h1 : s1.memOk := ha.of_next he
    split
    · exact exec_nextOk (memOk_of_mem (State.orBad_mem ..) h1) c
    · exact exec_nextOk h1 c
  · exact ha

theorem State.runBundle_nextOk (b : Bundle) : NextOk (s.runBundle b) := by
  have alone : ∀ c a, NextOk (exec c (s.withA a)) := fun c a => exec_nextOk (memOk_of_mem (State.withA_mem ..) h) c
  cases b with
  | lone c => exact alone c _
  | pair c a => exact s.runPair_nextOk h c a _
  | late c a bad =>
    cases a with
    | none => exact alone c _
    | some a => exact nextOk_ite (s.runPair_nextOk h c a _) (alone c _)

theorem State.issueBundle_nextOk : NextOk s.issueBundle := by
  unfold State.issueBundle
  split
  · exact (s.stopFor_memOk _ h).next
  · rename_i pa _
    have h1 : (s.fetched pa).memOk := memOk_of_mem (State.fetched_mem ..) h
    dsimp only
    split
    · exact (State.raise_memOk _ _ h1).next
    · exact State.runBundle_nextOk h1 _

/-! ## Steps -/

theorem State.make_nextOk (f : Nat) (m : Move) : NextOk (s.make f m) := by
  have focused : ∀ id, (s.focus id).memOk := fun id => memOk_of_mem (State.focus_mem ..) h
  cases m with
  | event e => exact Event.run_nextOk h e
  | act id =>
    simp only [State.make]
    split
    · exact Event.run_nextOk (focused id) _
    · exact (focused id).next
  | issue id =>
    have issued := State.issueBundle_nextOk ((focused id).withThr { (s.focus id).thr with balk := none })
    simp only [State.make]
    split
    · rename_i hs
      exact (issued.of_next hs).next_of_mem (State.tried_mem ..)
    · exact issued

theorem State.ownStep_nextOk : NextOk s.ownStep := by
  have h1 : ({ s with free := s.free + 8 } : State).memOk := h
  unfold State.ownStep
  dsimp only
  split
  · exact h1.next_of_mem (State.tick_mem ..)
  · rename_i m _
    have made := State.make_nextOk h1 s.free m
    split
    · rename_i hs
      exact (made.of_next hs).next_of_mem (State.tick_mem ..)
    · exact made

theorem State.runs_nextOk : NextOk s.runs :=
  nextOk_ite h.next (nextOk_ite (nextOk_fault _) (nextOk_ite (execBringUpStage_nextOk h true) (s.ownStep_nextOk h)))

theorem State.turn_nextOk : NextOk s.turn := by
  unfold State.turn
  split
  · exact s.runs_nextOk h
  · rename_i i l _
    have h1 : ({ s with agenda := l } : State).memOk := h
    exact nextOk_ite (State.runs_nextOk h1) (nextOk_ite (exec_nextOk h1 i) h1.next)

end

end Sys2Proof.Machine

/-- Settles O6: memory changes only by writes, combining and scrubbing, each of which keeps its canonical form. -/
theorem stepKeepsMemory : Obligations.StepKeepsMemory := by
  unfold Obligations.StepKeepsMemory
  exact fun s t h ht => (State.turn_nextOk h).of_next ht
end
